-- ==== Sys2Proof/Word.lean ====
section
/-!
DEFINITION. The words of the machine and their plainest arithmetic: bit fields of numbers, lanes, bytes.
-/
namespace Sys2Proof

/-- A byte of a vault or of global memory. -/
abbrev Byte := BitVec 8
/-- A 32-bit word: bundles are made of these (R9). -/
abbrev Word32 := BitVec 32
/-- A g register, a slot word, a control register. -/
abbrev Word64 := BitVec 64
/-- A vector register, a vector port or a queue entry. -/
abbrev Vec := BitVec 1024
/-- The 4,096 bytes of a tile register. -/
abbrev TileBits := BitVec 32768
/-- Six guard bits of a slot word (R39). -/
abbrev Guard := BitVec 6

/-- The field `hi:lo` of `x`, as a number (R8). -/
def fieldOf (x hi lo : Nat) : Nat := x / 2 ^ lo % 2 ^ (hi + 1 - lo)

/-- Bit `i` of `x`. -/
def bitOf (x i : Nat) : Bool := x / 2 ^ i % 2 == 1

/-- `x`, taken modulo `2^w`, as a signed number. -/
def signedOf (w x : Nat) : Int :=
  let u := x % 2 ^ w
  if 2 * u < 2 ^ w then (u : Int) else (u : Int) - (2 ^ w : Nat)

/-- The `w`-bit two's-complement pattern of `v`. -/
def wrapTo (w : Nat) (v : Int) : Nat := (v % ((2 ^ w : Nat) : Int)).toNat

/-- Lane `i` of width `s` of the number `x`. -/
def laneOf (s x i : Nat) : Nat := x / 2 ^ (s * i) % 2 ^ s

/-- The number whose lane `i` of width `s` is entry `i` of the list. -/
def ofLanes (s : Nat) : List Nat → Nat
  | [] => 0
  | x :: xs => x % 2 ^ s + 2 ^ s * ofLanes s xs

/-- The first `n` lanes of width `s` of `x`, lane 0 first. -/
def lanesOf (s n x : Nat) : List Nat := (List.range n).map (laneOf s x)

/-- The number of the little-endian bytes of the list (R9). -/
def leNat : List Byte → Nat
  | [] => 0
  | b :: bs => b.toNat + 256 * leNat bs

/-- The `n` little-endian bytes of `x` (R9). -/
def leBytes : Nat → Nat → List Byte
  | 0, _ => []
  | n + 1, x => BitVec.ofNat 8 x :: leBytes n (x / 256)

/-- `⌈a / b⌉`. -/
def ceilDiv (a b : Nat) : Nat := (a + b - 1) / b

end Sys2Proof
end

