-- ==== Sys2Proof/Syntax.lean ====
section
/-!
DEFINITION. The abstract syntax: one constructor for each row of spec/opcode_table.json. Slot words carry their
encoded fields; M words carry their bus `m` and W words their slot `w`. The rows without a word are the steps that
come about outside a bundle; they carry the parties and the outside data they act with.
-/
namespace Sys2Proof

/-- What a scrubber finds at a line (R379). -/
inductive ScrubResult where
  | clean
  | corrected
  | uncorrectable
  deriving DecidableEq, Repr

/-- A received Yelvin packet (R358): the header fields that carry information, the payload, and the CE mark of its IP header. -/
structure Packet where
  conn : Nat
  seq : Word32
  ackSeq : Word32
  flg : BitVec 4
  addr : Nat
  tag : Word32
  len : Nat
  payload : List Byte
  ver : Nat
  ce : Bool
  deriving DecidableEq, Repr

/-- The configuration block that firmware applies at start and MR2 measures (R387, R294, R377), with the resources
it lays out in HBM (R336, R330, R392). -/
structure FirmwareConfig where
  /-- Dispatch core and the ASIDs it may name (R206, R294). -/
  dispatch : List (Nat × List Nat)
  /-- QCTL values, die * 64 + queue (R296). -/
  qctl : List (Nat × Word64)
  /-- The data-error policy of each tenant, 1 ends the task (R377). -/
  policy : List (Nat × Bool)
  defaultPolicy : Bool
  /-- ASID, level-0 table base, tensor-directory base, directory entries (R336, R337). -/
  asids : List (Nat × Nat × Nat × Nat)
  /-- Allocate-on-touch regions: ASID, first VA, bytes (R345). -/
  touch : List (Nat × Nat × Nat)
  /-- Free HBM frames of 64 KiB that the tier manager allocates from (R201). -/
  frames : List Nat
  /-- Trellis roots: I/O die, tree number, VA of the root node, ASID (R330). -/
  roots : List (Nat × Nat × Nat × Nat)
  /-- Free trellis nodes: I/O die and VA (R200). -/
  nodes : List (Nat × Nat)
  /-- Context save area of each queue: die * 64 + queue, physical address (R305). -/
  saveAreas : List (Nat × Nat)
  /-- Frames that hold page tables, tile tables or trellis nodes, which host writes never change (R347). -/
  guarded : List Nat
  /-- Provenance ring and checkpoint area in HBM (R392). -/
  provBase : Nat
  ckptBase : Nat
  /-- The participant list of each tenant's system group: tenant, and the package of each participant in turn; a number from 512 on
  names this package (R363). -/
  groups : List (Nat × List Nat)
  /-- Limit of a system collective in milliseconds (R364). -/
  collLimit : Nat
  /-- Dispatch programs that firmware starts: core, address space, code object and kernel (R294). -/
  programs : List (Nat × Nat × List Byte × Nat)
  /-- Intervals of the vault, the memory and the KV scrubber, in ms (R379). -/
  intervals : List Nat
  deriving DecidableEq, Repr

/-- The instructions and steps of the machine. -/
inductive Instr where
  /-- IDLE (R31). -/
  | idle (f : BitVec 2) (c : BitVec 6)
  /-- BR (R95). -/
  | br (t : BitVec 2)
  /-- BRP (R95). -/
  | brp (t : BitVec 2) (i : BitVec 1) (p : BitVec 4)
  /-- BRV (R95, R96). -/
  | brv (t : BitVec 2) (i : BitVec 1) (q : BitVec 3) (l : BitVec 3)
  /-- PREP (R94). -/
  | prep (t : BitVec 2) (k : BitVec 1) (p : BitVec 5) (l : BitVec 5)
  /-- PREPI (R94). -/
  | prepi (t : BitVec 2) (k : BitVec 1) (p : BitVec 13) (l : BitVec 10)
  /-- CALL (R97). -/
  | call (t : BitVec 2)
  /-- RET (R98). -/
  | ret (k : BitVec 1)
  /-- LOOP_IMM (R100). -/
  | loopImm (c : BitVec 13) (l : BitVec 12)
  /-- LOOP_REG (R100). -/
  | loopReg (s : BitVec 5) (l : BitVec 12)
  /-- LOOPM_IMM (R103). -/
  | loopmImm (s : BitVec 4) (c : BitVec 9) (l : BitVec 12)
  /-- LOOPM_REG (R103). -/
  | loopmReg (s : BitVec 4) (g : BitVec 5) (l : BitVec 12)
  /-- EXITL (R104). -/
  | exitl (t : BitVec 2) (v : BitVec 3)
  /-- EXITL_COND (R104). -/
  | exitlCond (t : BitVec 2) (i : BitVec 1) (p : BitVec 4) (v : BitVec 3)
  /-- SETSTR_IMM (R102). -/
  | setstrImm (b : BitVec 3) (s : BitVec 22)
  /-- SETSTR_REG (R102). -/
  | setstrReg (b : BitVec 3) (g : BitVec 5)
  /-- END (R105). -/
  | endTask
  /-- ENDH (R105). -/
  | endHold (m : BitVec 5)
  /-- BARC (R106). -/
  | barc
  /-- TRAP (R107). -/
  | trap (c : BitVec 16)
  /-- BRK (R107). -/
  | brk (c : BitVec 16)
  /-- CCRR (R108). -/
  | ccrr (d : BitVec 5) (c : BitVec 4)
  /-- CCRW (R108). -/
  | ccrw (s : BitVec 5) (c : BitVec 4)
  /-- WAITE (R109). -/
  | waite (r : BitVec 8) (e : BitVec 1) (d : BitVec 5) (t : BitVec 5)
  /-- ADAPT (R110). -/
  | adapt (h : BitVec 10)
  /-- MOVE (R112). -/
  | move (m : BitVec 2) (d : BitVec 9) (s : BitVec 9) (g : BitVec 6)
  /-- MOVE_IMMEDIATE (R112). -/
  | moveImmediate (m : BitVec 2) (d : BitVec 9) (i : BitVec 15) (g : BitVec 6)
  /-- LONG_IMMEDIATE (R42). -/
  | longImmediate (m : BitVec 2) (i : BitVec 30)
  /-- ADD (R118). -/
  | add (m : BitVec 2) (u : BitVec 1) (t : BitVec 1) (s : BitVec 9) (g : BitVec 6)
  /-- SUB (R118). -/
  | sub (m : BitVec 2) (u : BitVec 1) (t : BitVec 1) (s : BitVec 9) (g : BitVec 6)
  /-- MUL (R118). -/
  | mul (m : BitVec 2) (u : BitVec 1) (t : BitVec 1) (s : BitVec 9) (g : BitVec 6)
  /-- MULH (R118). -/
  | mulh (m : BitVec 2) (u : BitVec 1) (t : BitVec 1) (s : BitVec 9) (g : BitVec 6)
  /-- MULHU (R118). -/
  | mulhu (m : BitVec 2) (u : BitVec 1) (t : BitVec 1) (s : BitVec 9) (g : BitVec 6)
  /-- AND (R118). -/
  | and (m : BitVec 2) (u : BitVec 1) (t : BitVec 1) (s : BitVec 9) (g : BitVec 6)
  /-- OR (R118). -/
  | or (m : BitVec 2) (u : BitVec 1) (t : BitVec 1) (s : BitVec 9) (g : BitVec 6)
  /-- XOR (R118). -/
  | xor (m : BitVec 2) (u : BitVec 1) (t : BitVec 1) (s : BitVec 9) (g : BitVec 6)
  /-- ANDN (R118). -/
  | andn (m : BitVec 2) (u : BitVec 1) (t : BitVec 1) (s : BitVec 9) (g : BitVec 6)
  /-- SHL (R118). -/
  | shl (m : BitVec 2) (u : BitVec 1) (t : BitVec 1) (s : BitVec 9) (g : BitVec 6)
  /-- SHR (R118). -/
  | shr (m : BitVec 2) (u : BitVec 1) (t : BitVec 1) (s : BitVec 9) (g : BitVec 6)
  /-- SAR (R118). -/
  | sar (m : BitVec 2) (u : BitVec 1) (t : BitVec 1) (s : BitVec 9) (g : BitVec 6)
  /-- ROTL (R118). -/
  | rotl (m : BitVec 2) (u : BitVec 1) (t : BitVec 1) (s : BitVec 9) (g : BitVec 6)
  /-- MIN (R118). -/
  | min (m : BitVec 2) (u : BitVec 1) (t : BitVec 1) (s : BitVec 9) (g : BitVec 6)
  /-- MAX (R118). -/
  | max (m : BitVec 2) (u : BitVec 1) (t : BitVec 1) (s : BitVec 9) (g : BitVec 6)
  /-- MINU (R118). -/
  | minu (m : BitVec 2) (u : BitVec 1) (t : BitVec 1) (s : BitVec 9) (g : BitVec 6)
  /-- MAXU (R118). -/
  | maxu (m : BitVec 2) (u : BitVec 1) (t : BitVec 1) (s : BitVec 9) (g : BitVec 6)
  /-- CLZ (R118). -/
  | clz (m : BitVec 2) (u : BitVec 1) (t : BitVec 1) (s : BitVec 9) (g : BitVec 6)
  /-- POPC (R118). -/
  | popc (m : BitVec 2) (u : BitVec 1) (t : BitVec 1) (s : BitVec 9) (g : BitVec 6)
  /-- SEL (R118). -/
  | sel (m : BitVec 2) (u : BitVec 1) (t : BitVec 1) (s : BitVec 9) (g : BitVec 6)
  /-- CEQ (R118). -/
  | ceq (m : BitVec 2) (u : BitVec 1) (t : BitVec 1) (s : BitVec 9) (g : BitVec 6)
  /-- CNE (R118). -/
  | cne (m : BitVec 2) (u : BitVec 1) (t : BitVec 1) (s : BitVec 9) (g : BitVec 6)
  /-- CLT (R118). -/
  | clt (m : BitVec 2) (u : BitVec 1) (t : BitVec 1) (s : BitVec 9) (g : BitVec 6)
  /-- CLE (R118). -/
  | cle (m : BitVec 2) (u : BitVec 1) (t : BitVec 1) (s : BitVec 9) (g : BitVec 6)
  /-- CLTU (R118). -/
  | cltu (m : BitVec 2) (u : BitVec 1) (t : BitVec 1) (s : BitVec 9) (g : BitVec 6)
  /-- CLEU (R118). -/
  | cleu (m : BitVec 2) (u : BitVec 1) (t : BitVec 1) (s : BitVec 9) (g : BitVec 6)
  /-- DIVU (R118). -/
  | divu (m : BitVec 2) (u : BitVec 1) (t : BitVec 1) (s : BitVec 9) (g : BitVec 6)
  /-- REMU (R118). -/
  | remu (m : BitVec 2) (u : BitVec 1) (t : BitVec 1) (s : BitVec 9) (g : BitVec 6)
  /-- MADD (R118). -/
  | madd (m : BitVec 2) (u : BitVec 1) (t : BitVec 1) (s : BitVec 9) (g : BitVec 6)
  /-- BFX (R118). -/
  | bfx (m : BitVec 2) (u : BitVec 1) (t : BitVec 1) (s : BitVec 9) (g : BitVec 6)
  /-- BFI (R118). -/
  | bfi (m : BitVec 2) (u : BitVec 1) (t : BitVec 1) (s : BitVec 9) (g : BitVec 6)
  /-- VADD (R128). -/
  | vadd (m : BitVec 2) (u : BitVec 1) (t : BitVec 3) (w : BitVec 2) (s : BitVec 9) (g : BitVec 6)
  /-- VSUB (R128). -/
  | vsub (m : BitVec 2) (u : BitVec 1) (t : BitVec 3) (w : BitVec 2) (s : BitVec 9) (g : BitVec 6)
  /-- VMUL (R128). -/
  | vmul (m : BitVec 2) (u : BitVec 1) (t : BitVec 3) (w : BitVec 2) (s : BitVec 9) (g : BitVec 6)
  /-- VFMA (R128). -/
  | vfma (m : BitVec 2) (u : BitVec 1) (t : BitVec 3) (w : BitVec 2) (s : BitVec 9) (g : BitVec 6)
  /-- VFMS (R128). -/
  | vfms (m : BitVec 2) (u : BitVec 1) (t : BitVec 3) (w : BitVec 2) (s : BitVec 9) (g : BitVec 6)
  /-- VMIN (R128). -/
  | vmin (m : BitVec 2) (u : BitVec 1) (t : BitVec 3) (w : BitVec 2) (s : BitVec 9) (g : BitVec 6)
  /-- VMAX (R128). -/
  | vmax (m : BitVec 2) (u : BitVec 1) (t : BitVec 3) (w : BitVec 2) (s : BitVec 9) (g : BitVec 6)
  /-- VABS (R128). -/
  | vabs (m : BitVec 2) (u : BitVec 1) (t : BitVec 3) (w : BitVec 2) (s : BitVec 9) (g : BitVec 6)
  /-- VNEG (R128). -/
  | vneg (m : BitVec 2) (u : BitVec 1) (t : BitVec 3) (w : BitVec 2) (s : BitVec 9) (g : BitVec 6)
  /-- VCEQ (R130). -/
  | vceq (m : BitVec 2) (u : BitVec 1) (t : BitVec 3) (w : BitVec 2) (s : BitVec 9) (g : BitVec 6)
  /-- VCNE (R130). -/
  | vcne (m : BitVec 2) (u : BitVec 1) (t : BitVec 3) (w : BitVec 2) (s : BitVec 9) (g : BitVec 6)
  /-- VCLT (R130). -/
  | vclt (m : BitVec 2) (u : BitVec 1) (t : BitVec 3) (w : BitVec 2) (s : BitVec 9) (g : BitVec 6)
  /-- VCLE (R130). -/
  | vcle (m : BitVec 2) (u : BitVec 1) (t : BitVec 3) (w : BitVec 2) (s : BitVec 9) (g : BitVec 6)
  /-- VCUN (R130). -/
  | vcun (m : BitVec 2) (u : BitVec 1) (t : BitVec 3) (w : BitVec 2) (s : BitVec 9) (g : BitVec 6)
  /-- VSEL (R131). -/
  | vsel (m : BitVec 2) (u : BitVec 1) (t : BitVec 3) (w : BitVec 2) (s : BitVec 9) (g : BitVec 6)
  /-- VAND (R128). -/
  | vand (m : BitVec 2) (u : BitVec 1) (t : BitVec 3) (w : BitVec 2) (s : BitVec 9) (g : BitVec 6)
  /-- VOR (R128). -/
  | vor (m : BitVec 2) (u : BitVec 1) (t : BitVec 3) (w : BitVec 2) (s : BitVec 9) (g : BitVec 6)
  /-- VXOR (R128). -/
  | vxor (m : BitVec 2) (u : BitVec 1) (t : BitVec 3) (w : BitVec 2) (s : BitVec 9) (g : BitVec 6)
  /-- VSHL (R128). -/
  | vshl (m : BitVec 2) (u : BitVec 1) (t : BitVec 3) (w : BitVec 2) (s : BitVec 9) (g : BitVec 6)
  /-- VSHR (R128). -/
  | vshr (m : BitVec 2) (u : BitVec 1) (t : BitVec 3) (w : BitVec 2) (s : BitVec 9) (g : BitVec 6)
  /-- VSAR (R128). -/
  | vsar (m : BitVec 2) (u : BitVec 1) (t : BitVec 3) (w : BitVec 2) (s : BitVec 9) (g : BitVec 6)
  /-- VCVT (R133). -/
  | vcvt (m : BitVec 2) (u : BitVec 1) (t : BitVec 3) (w : BitVec 2) (s : BitVec 9) (g : BitVec 6)
  /-- VQNT (R134). -/
  | vqnt (m : BitVec 2) (u : BitVec 1) (t : BitVec 3) (w : BitVec 2) (s : BitVec 9) (g : BitVec 6)
  /-- VDQNT (R134). -/
  | vdqnt (m : BitVec 2) (u : BitVec 1) (t : BitVec 3) (w : BitVec 2) (s : BitVec 9) (g : BitVec 6)
  /-- VREDADD (R136). -/
  | vredadd (m : BitVec 2) (u : BitVec 1) (t : BitVec 3) (w : BitVec 2) (s : BitVec 9) (g : BitVec 6)
  /-- VREDMAX (R136). -/
  | vredmax (m : BitVec 2) (u : BitVec 1) (t : BitVec 3) (w : BitVec 2) (s : BitVec 9) (g : BitVec 6)
  /-- VREDMIN (R136). -/
  | vredmin (m : BitVec 2) (u : BitVec 1) (t : BitVec 3) (w : BitVec 2) (s : BitVec 9) (g : BitVec 6)
  /-- VBCAST (R137). -/
  | vbcast (m : BitVec 2) (u : BitVec 1) (t : BitVec 3) (w : BitVec 2) (s : BitVec 9) (g : BitVec 6)
  /-- VPERM (R137). -/
  | vperm (m : BitVec 2) (u : BitVec 1) (t : BitVec 3) (w : BitVec 2) (s : BitVec 9) (g : BitVec 6)
  /-- VSCAN (R136). -/
  | vscan (m : BitVec 2) (u : BitVec 1) (t : BitVec 3) (w : BitVec 2) (s : BitVec 9) (g : BitVec 6)
  /-- VIOTA (R137). -/
  | viota (m : BitVec 2) (u : BitVec 1) (t : BitVec 3) (w : BitVec 2) (s : BitVec 9) (g : BitVec 6)
  /-- VCOMP (R137). -/
  | vcomp (m : BitVec 2) (u : BitVec 1) (t : BitVec 3) (w : BitVec 2) (s : BitVec 9) (g : BitVec 6)
  /-- VSHIFT (R137). -/
  | vshift (m : BitVec 2) (u : BitVec 1) (t : BitVec 3) (w : BitVec 2) (s : BitVec 9) (g : BitVec 6)
  /-- VPACK (R137). -/
  | vpack (m : BitVec 2) (u : BitVec 1) (t : BitVec 3) (w : BitVec 2) (s : BitVec 9) (g : BitVec 6)
  /-- VUNPK (R137). -/
  | vunpk (m : BitVec 2) (u : BitVec 1) (t : BitVec 3) (w : BitVec 2) (s : BitVec 9) (g : BitVec 6)
  /-- VCLAMP (R135). -/
  | vclamp (m : BitVec 2) (u : BitVec 1) (t : BitVec 3) (w : BitVec 2) (s : BitVec 9) (g : BitVec 6)
  /-- VROUND (R135). -/
  | vround (m : BitVec 2) (u : BitVec 1) (t : BitVec 3) (w : BitVec 2) (s : BitVec 9) (g : BitVec 6)
  /-- EXP2 (R121). -/
  | exp2 (m : BitVec 2) (w : BitVec 2) (s : BitVec 9) (g : BitVec 6)
  /-- LOG2 (R122). -/
  | log2 (m : BitVec 2) (w : BitVec 2) (s : BitVec 9) (g : BitVec 6)
  /-- RCP (R122). -/
  | rcp (m : BitVec 2) (w : BitVec 2) (s : BitVec 9) (g : BitVec 6)
  /-- RSQRT (R122). -/
  | rsqrt (m : BitVec 2) (w : BitVec 2) (s : BitVec 9) (g : BitVec 6)
  /-- SQRT (R122). -/
  | sqrt (m : BitVec 2) (w : BitVec 2) (s : BitVec 9) (g : BitVec 6)
  /-- TANH (R122). -/
  | tanh (m : BitVec 2) (w : BitVec 2) (s : BitVec 9) (g : BitVec 6)
  /-- WMAC (R140). -/
  | wmac (w : BitVec 1) (a : BitVec 6) (s : BitVec 6) (i : BitVec 8) (l : BitVec 3)
  /-- WMACY (R140). -/
  | wmacy (w : BitVec 1) (a : BitVec 6) (s : BitVec 4) (i : BitVec 8) (l : BitVec 3)
  /-- WADD (R140). -/
  | wadd (w : BitVec 1) (a : BitVec 6) (s : BitVec 6) (l : BitVec 3)
  /-- WSUB (R140). -/
  | wsub (w : BitVec 1) (a : BitVec 6) (s : BitVec 6) (l : BitVec 3)
  /-- WADDY (R140). -/
  | waddy (w : BitVec 1) (a : BitVec 6) (s : BitVec 4) (l : BitVec 3)
  /-- WSUBY (R140). -/
  | wsuby (w : BitVec 1) (a : BitVec 6) (s : BitVec 4) (l : BitVec 3)
  /-- YMAC (R140). -/
  | ymac (w : BitVec 1) (a : BitVec 4) (s : BitVec 6) (i : BitVec 8) (l : BitVec 3)
  /-- YADD (R140). -/
  | yadd (w : BitVec 1) (a : BitVec 4) (s : BitVec 6) (l : BitVec 3)
  /-- YSUB (R140). -/
  | ysub (w : BitVec 1) (a : BitVec 4) (s : BitVec 6) (l : BitVec 3)
  /-- YCLR (R141). -/
  | yclr (w : BitVec 1) (a : BitVec 4) (l : BitVec 3)
  /-- WCLR (R141). -/
  | wclr (w : BitVec 1) (a : BitVec 6) (l : BitVec 3)
  /-- WFLUSH (R143). -/
  | wflush (w : BitVec 1) (a : BitVec 6) (d : BitVec 5) (l : BitVec 3)
  /-- WCPY (R141). -/
  | wcpy (w : BitVec 1) (a : BitVec 6) (s : BitVec 6) (l : BitVec 3)
  /-- MMA (R148). -/
  | mma (f : BitVec 2) (c : BitVec 2) (a : BitVec 4) (b : BitVec 4) (g : BitVec 6)
  /-- MMAL (R148, R149). -/
  | mmal (f : BitVec 2) (c : BitVec 2) (a : BitVec 4) (g : BitVec 6)
  /-- MMALS (R150). -/
  | mmals (f : BitVec 2) (c : BitVec 2) (a : BitVec 4) (g : BitVec 6)
  /-- MMAT (R148). -/
  | mmat (f : BitVec 2) (c : BitVec 2) (a : BitVec 4) (b : BitVec 4) (g : BitVec 6)
  /-- MFLUSH (R152). -/
  | mflush (f : BitVec 2) (c : BitVec 2) (bb : BitVec 3) (md : BitVec 1) (mk : BitVec 2) (pitch : BitVec 12) (cl : BitVec 1) (off : BitVec 16) (g : BitVec 6)
  /-- MCLR (R147). -/
  | mclr (c : BitVec 2) (g : BitVec 6)
  /-- MFMT (R154). -/
  | mfmt (f : BitVec 2) (tw : BitVec 1) (v : BitVec 8) (g : BitVec 6)
  /-- MDRAIN (R154). -/
  | mdrain (g : BitVec 6)
  /-- TZERO (R156). -/
  | tzero (d : BitVec 4) (g : BitVec 6)
  /-- TTRN (R156). -/
  | ttrn (d : BitVec 4) (a : BitVec 4) (qf : BitVec 1) (g : BitVec 6)
  /-- TOPK (R157). -/
  | topk (d : BitVec 4) (a : BitVec 4) (k : BitVec 6) (n : BitVec 7) (rows : BitVec 5) (mk : BitVec 1) (g : BitVec 6)
  /-- ROWMAX (R158). -/
  | rowmax (d : BitVec 4) (a : BitVec 4) (n : BitVec 7) (rows : BitVec 5) (mk : BitVec 1) (g : BitVec 6)
  /-- TQNT (R159). -/
  | tqnt (d : BitVec 4) (bb : BitVec 3) (qf : BitVec 1) (bs : BitVec 3) (soff : BitVec 15) (off : BitVec 16) (g : BitVec 6)
  /-- MASKLD (R155). -/
  | maskld (a : BitVec 4) (g : BitVec 6)
  /-- LD (R166). -/
  | ld (o : BitVec 3) (g : BitVec 6) (bb : BitVec 3) (sz : BitVec 2) (sx : BitVec 1) (d : BitVec 5) (off : BitVec 32)
  /-- ST (R166). -/
  | st (o : BitVec 3) (g : BitVec 6) (bb : BitVec 3) (sz : BitVec 2) (s : BitVec 5) (off : BitVec 32)
  /-- VLD (R166). -/
  | vld (o : BitVec 3) (g : BitVec 6) (bb : BitVec 3) (d : BitVec 5) (off : BitVec 32)
  /-- VST (R166). -/
  | vst (o : BitVec 3) (g : BitVec 6) (bb : BitVec 3) (s : BitVec 5) (off : BitVec 32)
  /-- TLDL (R167). -/
  | tldl (o : BitVec 3) (g : BitVec 6) (bb : BitVec 3) (d : BitVec 4) (off : BitVec 32)
  /-- TSTL (R167). -/
  | tstl (o : BitVec 3) (g : BitVec 6) (bb : BitVec 3) (s : BitVec 4) (off : BitVec 32)
  /-- XLD (R168). -/
  | xld (o : BitVec 3) (g : BitVec 6) (bb : BitVec 3) (d : BitVec 6) (off : BitVec 32)
  /-- XSC (R168). -/
  | xsc (o : BitVec 3) (g : BitVec 6) (bb : BitVec 3) (off : BitVec 32)
  /-- AMOL (R169). -/
  | amol (o : BitVec 3) (g : BitVec 6) (bb : BitVec 3) (sz : BitVec 1) (aop : BitVec 3) (s : BitVec 5) (d : BitVec 5) (off : BitVec 32)
  /-- ACQB (R170). -/
  | acqb (g : BitVec 6) (m : BitVec 5)
  /-- RELB (R170). -/
  | relb (g : BitVec 6) (m : BitVec 5)
  /-- TDL (R171). -/
  | tdl (o : BitVec 3) (g : BitVec 6) (bb : BitVec 3) (d : BitVec 5) (off : BitVec 32)
  /-- VLDS (R166). -/
  | vlds (o : BitVec 3) (g : BitVec 6) (bb : BitVec 3) (es : BitVec 2) (d : BitVec 5) (s : BitVec 5) (off : BitVec 32)
  /-- LDC (R172). -/
  | ldc (o : BitVec 3) (g : BitVec 6) (bb : BitVec 3) (sz : BitVec 2) (sx : BitVec 1) (d : BitVec 5) (off : BitVec 32)
  /-- STC (R172). -/
  | stc (o : BitVec 3) (g : BitVec 6) (bb : BitVec 3) (sz : BitVec 2) (s : BitVec 5) (off : BitVec 32)
  /-- VLDC (R172). -/
  | vldc (o : BitVec 3) (g : BitVec 6) (bb : BitVec 3) (d : BitVec 5) (off : BitVec 32)
  /-- VSTC (R172). -/
  | vstc (o : BitVec 3) (g : BitVec 6) (bb : BitVec 3) (s : BitVec 5) (off : BitVec 32)
  /-- TLDC (R172). -/
  | tldc (o : BitVec 3) (g : BitVec 6) (bb : BitVec 3) (d : BitVec 4) (off : BitVec 32)
  /-- TLDM (R174). -/
  | tldm (o : BitVec 3) (g : BitVec 6) (bb : BitVec 3) (d : BitVec 4) (m : BitVec 5) (off : BitVec 32)
  /-- ARM (R174). -/
  | arm (g : BitVec 6) (d : BitVec 4)
  /-- AMOC (R169). -/
  | amoc (o : BitVec 3) (g : BitVec 6) (bb : BitVec 3) (sz : BitVec 1) (aop : BitVec 3) (s : BitVec 5) (d : BitVec 5) (off : BitVec 32)
  /-- MARK (R173). -/
  | mark (g : BitVec 6)
  /-- TLD (R186). -/
  | tld (o : BitVec 3) (g : BitVec 6) (td : BitVec 5) (d : BitVec 4) (ba : BitVec 3) (bb : BitVec 3) (off : BitVec 32)
  /-- TLD_RING (R187). -/
  | tldRing (o : BitVec 3) (g : BitVec 6) (td : BitVec 5) (h : BitVec 3) (ba : BitVec 3) (bb : BitVec 3) (off : BitVec 32)
  /-- TST (R186). -/
  | tst (o : BitVec 3) (g : BitVec 6) (td : BitVec 5) (s : BitVec 4) (ba : BitVec 3) (bb : BitVec 3) (off : BitVec 32)
  /-- TLDX (R190). -/
  | tldx (o : BitVec 3) (g : BitVec 6) (xt : BitVec 3) (bb : BitVec 3) (ln : BitVec 3) (off : BitVec 32)
  /-- TSTX (R190). -/
  | tstx (o : BitVec 3) (g : BitVec 6) (xt : BitVec 3) (bb : BitVec 3) (ln : BitVec 3) (off : BitVec 32)
  /-- XLATE (R189). -/
  | xlate (g : BitVec 6) (xt : BitVec 3) (v : BitVec 5) (acc : BitVec 2)
  /-- CPY (R197). -/
  | cpy (o : BitVec 3) (g : BitVec 6) (bb : BitVec 3) (kc : BitVec 4) (km : BitVec 4) (kr : BitVec 1) (blk : BitVec 32)
  /-- GATH (R198). -/
  | gath (g : BitVec 6) (b : BitVec 5) (es : BitVec 2) (n : BitVec 6)
  /-- KAPP (R199). -/
  | kapp (o : BitVec 3) (g : BitVec 6) (bb : BitVec 3) (kc : BitVec 4) (km : BitVec 4) (kr : BitVec 1) (blk : BitVec 32)
  /-- PMATCH (R200). -/
  | pmatch (o : BitVec 3) (g : BitVec 6) (bb : BitVec 3) (kc : BitVec 4) (km : BitVec 4) (kr : BitVec 1) (blk : BitVec 32)
  /-- PINS (R200). -/
  | pins (o : BitVec 3) (g : BitVec 6) (bb : BitVec 3) (kc : BitVec 4) (km : BitVec 4) (kr : BitVec 1) (blk : BitVec 32)
  /-- PREL (R200). -/
  | prel (o : BitVec 3) (g : BitVec 6) (bb : BitVec 3) (kc : BitVec 4) (km : BitVec 4) (kr : BitVec 1) (blk : BitVec 32)
  /-- BLEND (R203). -/
  | blend (o : BitVec 3) (g : BitVec 6) (bb : BitVec 3) (kc : BitVec 4) (km : BitVec 4) (kr : BitVec 1) (blk : BitVec 32)
  /-- COLL (R204). -/
  | coll (o : BitVec 3) (g : BitVec 6) (bb : BitVec 3) (kc : BitVec 4) (km : BitVec 4) (kr : BitVec 1) (blk : BitVec 32)
  /-- ASN (R205). -/
  | asn (o : BitVec 3) (g : BitVec 6) (bb : BitVec 3) (kc : BitVec 4) (km : BitVec 4) (kr : BitVec 1) (blk : BitVec 32)
  /-- LAUNCH (R206). -/
  | launch (o : BitVec 3) (g : BitVec 6) (bb : BitVec 3) (kc : BitVec 4) (km : BitVec 4) (kr : BitVec 1) (blk : BitVec 32)
  /-- WAITM (R196). -/
  | waitm (o : BitVec 3) (g : BitVec 6) (d : BitVec 5) (a : BitVec 5) (t : BitVec 5)
  /-- AMOG (R191). -/
  | amog (o : BitVec 3) (g : BitVec 6) (xt : BitVec 3) (sz : BitVec 1) (aop : BitVec 3) (s : BitVec 5) (d : BitVec 5) (off : BitVec 32)
  /-- FENCE (R195). -/
  | fence (g : BitVec 6)
  /-- ICINV (R207). -/
  | icinv (g : BitVec 6) (a : BitVec 5) (l : BitVec 5) (kc : BitVec 4)
  /-- DGST_ABSORB (R208). -/
  | dgstAbsorb (g : BitVec 6) (f : BitVec 3) (r : BitVec 5)
  /-- DGST_EMIT (R208, R391). -/
  | dgstEmit (g : BitVec 6) (bb : BitVec 3) (kc : BitVec 4) (off : BitVec 32)
  /-- DGST_RESET (R208). -/
  | dgstReset (g : BitVec 6)
  /-- DECANT (R201). -/
  | decant (o : BitVec 3) (g : BitVec 6) (bb : BitVec 3) (kc : BitVec 4) (km : BitVec 4) (kr : BitVec 1) (blk : BitVec 32)
  /-- CWAIT (R194). -/
  | cwait (o : BitVec 3) (g : BitVec 6) (kc : BitVec 4) (v : BitVec 5)
  /-- SLD (R176). -/
  | sld (g : BitVec 6) (b : BitVec 3) (n : BitVec 8) (o : BitVec 10)
  /-- SLDL (R176). -/
  | sldl (g : BitVec 6) (w : BitVec 5)
  /-- IXP (R177). -/
  | ixp (g : BitVec 6) (v : BitVec 5) (h : BitVec 1)
  /-- NEXT (R178). -/
  | nextChunk (g : BitVec 6)
  /-- RNGK (R179). -/
  | rngk (g : BitVec 6) (k : BitVec 5) (c : BitVec 5)
  /-- RWAIT (R181). -/
  | rwait (g : BitVec 6) (h : BitVec 3) (n : BitVec 8)
  /-- RADV (R181). -/
  | radv (g : BitVec 6) (h : BitVec 3) (n : BitVec 8)
  /-- RPUB (R181). -/
  | rpub (g : BitVec 6) (h : BitVec 3) (n : BitVec 8)
  /-- RCFG (R180). -/
  | rcfg (g : BitVec 6) (h : BitVec 3) (s : BitVec 5)
  /-- MMA_DELIVERY (R147). -/
  | mmaDelivery (core : Nat)
  /-- MFLUSH_DELIVERY (R152). -/
  | mflushDelivery (core : Nat)
  /-- C_QUEUE_PERFORM (R172). -/
  | cQueuePerform (core : Nat) (store : Bool)
  /-- MULTICAST_DELIVERY (R174). -/
  | multicastDelivery (core : Nat) (d : BitVec 4)
  /-- TRANSFER_ARRIVAL (R186). -/
  | transferArrival (core ix : Nat)
  /-- GATHER_PUSH (R198). -/
  | gatherPush (core : Nat)
  /-- ENGINE_COMMAND_COMPLETION (R192). -/
  | engineCommandCompletion (core ix : Nat)
  /-- RING_SLOT_FILL (R234). -/
  | ringSlotFill (core ix : Nat)
  /-- UNIT_RESULT_DELIVERY (R115). -/
  | unitResultDelivery (core : Nat)
  /-- SCALE_PUSH (R176). -/
  | scalePush (core : Nat)
  /-- NEXT_RESULT (R178). -/
  | nextResult (core : Nat)
  /-- STALL_END (R87). -/
  | stallEnd (core : Nat)
  /-- BARRIER_PASS (R106). -/
  | barrierPass (core : Nat)
  /-- BOUNDARY_FAULT (R90). -/
  | boundaryFault (core : Nat)
  /-- PREOVR (R252). -/
  | preovr (core : Nat)
  /-- FAULT_SERVICE_RESUME (R345). -/
  | faultServiceResume (core : Nat) (tier : BitVec 2)
  /-- TASK_DRAIN_END (R105). -/
  | taskDrainEnd (core : Nat)
  /-- LAUNCH_ACCEPT (R296). -/
  | launchAccept (core ix : Nat)
  /-- SCHEDULER_CYCLE (R298). -/
  | schedulerCycle (die : Nat)
  /-- FIRMWARE_PREEMPT_REQUEST (R304). -/
  | firmwarePreemptRequest (task : Nat)
  /-- PREEMPTION_SAVE (R305). -/
  | preemptionSave (task : Nat)
  /-- TASK_RESUME (R305). -/
  | taskResume (task : Nat)
  /-- DONE_WRITE (R206). -/
  | doneWrite (group : Nat)
  /-- WRITE_BUFFER_DRAIN (R394). -/
  | writeBufferDrain (die ix : Nat)
  /-- TIER_MOVE (R335). -/
  | tierMove (asid tid tile : Nat) (tier : BitVec 2) (p : Bool)
  /-- GROUP_EVICTION (R332). -/
  | groupEviction (iod root node : Nat) (remove : Bool)
  /-- LOAD (R311). -/
  | load (seq : Word64)
  /-- UNLOAD (R354). -/
  | unload (seq : Word64)
  /-- SWAPCODE (R317). -/
  | swapcode (seq : Word64)
  /-- SEAL (R318). -/
  | seal (seq : Word64)
  /-- ADAPTER_INSTALL (R323). -/
  | adapterInstall (seq : Word64)
  /-- TRANSLATION_INVALIDATION (R342). -/
  | translationInvalidation (seq : Word64)
  /-- ABETTE_COMPILE (R321). -/
  | abetteCompile (seq : Word64)
  /-- ATTESTATION_QUOTE (R389). -/
  | attestationQuote (seq : Word64)
  /-- EVQ_CTL_WRITE (R356). -/
  | evqCtlWrite (n : Nat) (v : Byte)
  /-- REGISTER_WRITE (R10). -/
  | registerWrite (off : Nat) (v : Word64)
  /-- HOST_BAR2_WRITE (R347). -/
  | hostBar2Write (addr : Nat) (data : List Byte)
  /-- HOST_BAR2_READ (R347). -/
  | hostBar2Read (addr len : Nat)
  /-- HOST_SNOOP (R348). -/
  | hostSnoop (iod line : Nat) (data : List Byte)
  /-- HOST_ARCHIVE_WRITE (R392). -/
  | hostArchiveWrite (seq : Word64)
  /-- HOST_READ_ERROR (R349). -/
  | hostReadError (core ix : Nat)
  /-- HOST_READ_TIMEOUT (R349). -/
  | hostReadTimeout (core ix : Nat)
  /-- LINK_DOWN (R349). -/
  | linkDown (kind unit : Nat)
  /-- FUNCTION_LEVEL_RESET (R351). -/
  | functionLevelReset
  /-- CONVENTIONAL_RESET (R385). -/
  | conventionalReset (cellar : Bool)
  /-- ROUTER_ADVERT_TIMEOUT (R385). -/
  | routerAdvertTimeout
  /-- BOOT_RETRY_TIMEOUT (R385). -/
  | bootRetryTimeout
  /-- MSG (R361). -/
  | msg (p : Packet)
  /-- WRITE (R360). -/
  | write (p : Packet)
  /-- READ (R361). -/
  | read (p : Packet)
  /-- RDRESP (R361). -/
  | rdresp (p : Packet)
  /-- ACK (R359). -/
  | ack (p : Packet)
  /-- COLL_PACKET (R361). -/
  | collPacket (p : Packet)
  /-- RETRANSMIT_TIMEOUT (R359). -/
  | retransmitTimeout (conn : Nat)
  /-- COLLECTIVE_TIMEOUT (R364). -/
  | collectiveTimeout (tag : Word32)
  /-- FAR_REGION_WITHDRAWN (R357). -/
  | farRegionWithdrawn (base size : Nat)
  /-- POWER_WINDOW (R2). -/
  | powerWindow (mean : Nat) (temp : Int)
  /-- THERMAL_SUPPLY_EVENT (R384). -/
  | thermalSupplyEvent (kind : Nat) (temp : Int)
  /-- VAULT_SCRUB (R379). -/
  | vaultScrub (core line : Nat) (r : ScrubResult)
  /-- MEMORY_SCRUB (R379). -/
  | memoryScrub (addr : Nat) (r : ScrubResult)
  /-- KV_SCRUB (R379). -/
  | kvScrub (asid tid tile : Nat)
  /-- SCRUB_REPAIR (R380). -/
  | scrubRepair (asid tid tile : Nat)
  /-- CHECKER_DETECTION (R378). -/
  | checkerDetection (core : Nat)
  /-- SPARE_SUBSTITUTION (R381). -/
  | spareSubstitution (kind unit : Nat)
  /-- RESOURCE_RETIREMENT (R382). -/
  | resourceRetirement (kind unit : Nat)
  /-- PROVENANCE_CHECKPOINT (R392). -/
  | provenanceCheckpoint
  /-- ENGINE_FAULT_RESOLUTION (R193). -/
  | engineFaultResolution (core ix : Nat) (tier : BitVec 2)
  /-- DEBUG_AGENT_RESUME (R107). -/
  | debugAgentResume (core : Nat)
  /-- BADCMD (R353). -/
  | badcmd (seq : Word64)
  /-- MINIMUM_VERSION_RAISE (R386). -/
  | minimumVersionRaise (svn : Word32) (request : List Byte)
  /-- LINK_UP (R384). -/
  | linkUp (kind unit : Nat)
  /-- CONNECTION_OPEN (R359). -/
  | connectionOpen (conn peer : Nat)
  /-- PER_HOP_REPLAY (R359). -/
  | perHopReplay (port : Nat)
  /-- LLDP_ANNOUNCEMENT (R359). -/
  | lldpAnnouncement (port : Nat) (announced : Bool)
  /-- FLIT_CRC_REPLAY (R374). -/
  | flitCrcReplay (lane : Nat)
  /-- MSI_X_HOLDOFF_EXPIRY (R355). -/
  | msiXHoldoffExpiry (source : Nat)
  /-- ROUTER_ADVERTISEMENT (R385). -/
  | routerAdvertisement (addr : BitVec 128)
  /-- DHCPV6_REPLY (R385). -/
  | dhcpv6Reply (addr : BitVec 128) (url : Option (List Byte))
  /-- BOOT_URL_WRITE (R385). -/
  | bootUrlWrite (url : List Byte)
  /-- BOOT_URL_WINDOW_EXPIRY (R385). -/
  | bootUrlWindowExpiry
  /-- IMAGE_FETCH_COMPLETE (R386). -/
  | imageFetchComplete (image : List Byte) (cfg : FirmwareConfig)
  deriving DecidableEq, Repr

end Sys2Proof
end

