-- ==== Sys2Proof/WellFormed.lean ====
section
/-!
DEFINITION. Which instruction words are legal in themselves (R38 to R47, R94, R95, R100, R103, R104, R108, R145,
R154, R157, R158, R164, R165, R185, R189, R190, R192, R208). What depends on the machine's state is checked at issue.
-/
namespace Sys2Proof

/-- A guard with its enable bit clear is all zero (R39). -/
def guardOk (g : Guard) : Bool := 32 ≤ g.toNat || g == 0

/-- Operand specifiers that may be a source (R43). -/
def srcOk (s : BitVec 9) : Bool :=
  let n := s.toNat
  n ≤ 0x5B || n == 0x62 || n == 0x66 || n == 0x6A || n == 0x6E || n == 0x72 || (0x80 ≤ n && n ≤ 0x89) || 0x100 ≤ n

/-- Operand specifiers that may be a destination (R43). -/
def dstOk (d : BitVec 9) : Bool :=
  let n := d.toNat
  n ≤ 0x5B || n == 0x60 || n == 0x61 || n == 0x64 || n == 0x65 || n == 0x68 || n == 0x69 || n == 0x6C || n == 0x6D ||
    n == 0x70

/-- f32, f16 and bf16 (R44). -/
def isFloat (t : BitVec 3) : Bool := t.toNat ≤ 2

/-- i32, i16, i8 and ui8 (R44). -/
def isInt (t : BitVec 3) : Bool := 3 ≤ t.toNat && t.toNat ≤ 6

/-- Plain or acquire (R164, R185). -/
def ordLoad (o : BitVec 3) : Bool := o == 0 || o == 1

/-- Plain or release (R164, R185). -/
def ordStore (o : BitVec 3) : Bool := o == 0 || o == 2

/-- Any of the four qualifiers (R164, R185). -/
def ordAny (o : BitVec 3) : Bool := o.toNat ≤ 3

/-- A format value that a format register may hold (R70); `tw` = 1 is WFMT. -/
def formatOk (tw : BitVec 1) (v : BitVec 8) : Bool :=
  v.toNat < 16 && (tw == 0 || v.toNat % 4 ≤ 1)

/-- The absorb forms of DGST and the register bits that each form uses (R208). -/
def absorbOk (f : BitVec 3) (r : BitVec 5) : Bool :=
  f == 0 || f == 1 || (f == 2 && r.toNat ≤ 7) || ((f == 3 || f == 4) && r == 0)

/-- The instruction word is legal in itself; a step without a word names parties that exist (R1). -/
def Instr.wf : Instr → Bool
  | .idle _ _ => true
  | .br _ => true
  | .brp _ _ _ => true
  | .brv _ _ _ l => decide (3 ≤ l.toNat)
  | .prep _ k _ l => (k == 1 || l == 0)
  | .prepi _ k _ l => (k == 1 || l == 0)
  | .call _ => true
  | .ret _ => true
  | .loopImm _ l => l != 0
  | .loopReg _ l => l != 0
  | .loopmImm s _ l => s != 0 && l != 0
  | .loopmReg s _ l => s != 0 && l != 0
  | .exitl _ v => v != 0 && v != 7
  | .exitlCond _ _ _ v => v != 0 && v != 7
  | .setstrImm _ _ => true
  | .setstrReg _ _ => true
  | .endTask => true
  | .endHold _ => true
  | .barc => true
  | .trap _ => true
  | .brk _ => true
  | .ccrr _ c => decide (c.toNat ≤ 9)
  | .ccrw _ c => decide (c.toNat ≤ 9)
  | .waite _ _ _ _ => true
  | .adapt _ => true
  | .move _ d s g => guardOk g && dstOk d && srcOk s
  | .moveImmediate _ d _ g => guardOk g && dstOk d
  | .longImmediate _ _ => true
  | .add _ _ _ s g => guardOk g && srcOk s
  | .sub _ _ _ s g => guardOk g && srcOk s
  | .mul _ _ _ s g => guardOk g && srcOk s
  | .mulh _ _ _ s g => guardOk g && srcOk s
  | .mulhu _ _ _ s g => guardOk g && srcOk s
  | .and _ _ _ s g => guardOk g && srcOk s
  | .or _ _ _ s g => guardOk g && srcOk s
  | .xor _ _ _ s g => guardOk g && srcOk s
  | .andn _ _ _ s g => guardOk g && srcOk s
  | .shl _ _ _ s g => guardOk g && srcOk s
  | .shr _ _ _ s g => guardOk g && srcOk s
  | .sar _ _ _ s g => guardOk g && srcOk s
  | .rotl _ _ _ s g => guardOk g && srcOk s
  | .min _ _ _ s g => guardOk g && srcOk s
  | .max _ _ _ s g => guardOk g && srcOk s
  | .minu _ _ _ s g => guardOk g && srcOk s
  | .maxu _ _ _ s g => guardOk g && srcOk s
  | .clz _ _ _ s g => guardOk g && srcOk s
  | .popc _ _ _ s g => guardOk g && srcOk s
  | .sel _ _ _ s g => guardOk g && srcOk s
  | .ceq _ _ _ s g => guardOk g && srcOk s
  | .cne _ _ _ s g => guardOk g && srcOk s
  | .clt _ _ _ s g => guardOk g && srcOk s
  | .cle _ _ _ s g => guardOk g && srcOk s
  | .cltu _ _ _ s g => guardOk g && srcOk s
  | .cleu _ _ _ s g => guardOk g && srcOk s
  | .divu _ _ _ s g => guardOk g && srcOk s
  | .remu _ _ _ s g => guardOk g && srcOk s
  | .madd _ _ _ s g => guardOk g && srcOk s
  | .bfx _ _ _ s g => guardOk g && srcOk s
  | .bfi _ _ _ s g => guardOk g && srcOk s
  | .vadd _ _ t w s g => guardOk g && srcOk s && w != 3 && t != 7
  | .vsub _ _ t w s g => guardOk g && srcOk s && w != 3 && t != 7
  | .vmul _ _ t w s g => guardOk g && srcOk s && w != 3 && t != 7
  | .vfma _ _ t w s g => guardOk g && srcOk s && w != 3 && t != 7
  | .vfms _ _ t w s g => guardOk g && srcOk s && w != 3 && t != 7
  | .vmin _ _ t w s g => guardOk g && srcOk s && w != 3 && t != 7
  | .vmax _ _ t w s g => guardOk g && srcOk s && w != 3 && t != 7
  | .vabs _ _ t w s g => guardOk g && srcOk s && w != 3 && t != 7
  | .vneg _ _ t w s g => guardOk g && srcOk s && w != 3 && t != 7
  | .vceq _ _ t w s g => guardOk g && srcOk s && w != 3 && t != 7
  | .vcne _ _ t w s g => guardOk g && srcOk s && w != 3 && t != 7
  | .vclt _ _ t w s g => guardOk g && srcOk s && w != 3 && t != 7
  | .vcle _ _ t w s g => guardOk g && srcOk s && w != 3 && t != 7
  | .vcun _ _ t w s g => guardOk g && srcOk s && w != 3 && isFloat t
  | .vsel _ _ t w s g => guardOk g && srcOk s && w != 3 && t != 7
  | .vand _ _ t w s g => guardOk g && srcOk s && w != 3 && t != 7
  | .vor _ _ t w s g => guardOk g && srcOk s && w != 3 && t != 7
  | .vxor _ _ t w s g => guardOk g && srcOk s && w != 3 && t != 7
  | .vshl _ _ t w s g => guardOk g && srcOk s && w != 3 && isInt t
  | .vshr _ _ t w s g => guardOk g && srcOk s && w != 3 && isInt t
  | .vsar _ _ t w s g => guardOk g && srcOk s && w != 3 && (t == 3 || t == 4 || t == 5)
  | .vcvt _ _ t w s g => guardOk g && srcOk s && w != 3 && t != 7
  | .vqnt _ _ t w s g => guardOk g && srcOk s && w != 3 && isFloat t
  | .vdqnt _ _ t w s g => guardOk g && srcOk s && w != 3 && isFloat t
  | .vredadd _ _ t w s g => guardOk g && srcOk s && w != 3 && t != 7
  | .vredmax _ _ t w s g => guardOk g && srcOk s && w != 3 && t != 7
  | .vredmin _ _ t w s g => guardOk g && srcOk s && w != 3 && t != 7
  | .vbcast _ _ t w s g => guardOk g && srcOk s && w != 3 && t != 7
  | .vperm _ _ t w s g => guardOk g && srcOk s && w != 3 && t != 7
  | .vscan _ _ t w s g => guardOk g && srcOk s && w != 3 && t != 7
  | .viota _ _ t w s g => guardOk g && srcOk s && w != 3 && t != 7
  | .vcomp _ _ t w s g => guardOk g && srcOk s && w != 3 && t != 7
  | .vshift _ _ t w s g => guardOk g && srcOk s && w != 3 && t != 7
  | .vpack _ _ t w s g => guardOk g && srcOk s && w != 3 && (t == 3 || t == 4)
  | .vunpk _ _ t w s g => guardOk g && srcOk s && w != 3 && (t == 4 || t == 5 || t == 6)
  | .vclamp _ _ t w s g => guardOk g && srcOk s && w != 3 && t != 7
  | .vround _ _ t w s g => guardOk g && srcOk s && w != 3 && isFloat t
  | .exp2 _ w s g => guardOk g && srcOk s && w != 3
  | .log2 _ w s g => guardOk g && srcOk s && w != 3
  | .rcp _ w s g => guardOk g && srcOk s && w != 3
  | .rsqrt _ w s g => guardOk g && srcOk s && w != 3
  | .sqrt _ w s g => guardOk g && srcOk s && w != 3
  | .tanh _ w s g => guardOk g && srcOk s && w != 3
  | .wmac _ _ _ _ _ => true
  | .wmacy _ _ _ _ _ => true
  | .wadd _ _ _ _ => true
  | .wsub _ _ _ _ => true
  | .waddy _ _ _ _ => true
  | .wsuby _ _ _ _ => true
  | .ymac _ _ _ _ _ => true
  | .yadd _ _ _ _ => true
  | .ysub _ _ _ _ => true
  | .yclr _ _ _ => true
  | .wclr _ _ _ => true
  | .wflush _ _ _ _ => true
  | .wcpy _ _ _ _ => true
  | .mma _ _ _ _ g => guardOk g
  | .mmal _ _ _ g => guardOk g
  | .mmals _ _ a g => guardOk g && a.toNat % 2 == 0
  | .mmat _ _ _ _ g => guardOk g
  | .mflush _ _ _ _ mk _ _ _ g => guardOk g && mk != 3
  | .mclr _ g => guardOk g
  | .mfmt f tw v g => guardOk g && (tw == 0 || f == 0) && formatOk tw v
  | .mdrain g => guardOk g
  | .tzero _ g => guardOk g
  | .ttrn _ _ _ g => guardOk g
  | .topk _ _ k n rows _ g => guardOk g && decide (1 ≤ k.toNat) && decide (k.toNat ≤ 32) && decide (1 ≤ n.toNat) && decide (n.toNat ≤ 64) && decide (1 ≤ rows.toNat) && decide (rows.toNat ≤ 16)
  | .rowmax _ _ n rows _ g => guardOk g && decide (1 ≤ n.toNat) && decide (n.toNat ≤ 64) && decide (1 ≤ rows.toNat) && decide (rows.toNat ≤ 16)
  | .tqnt _ _ _ _ _ _ g => guardOk g
  | .maskld _ g => guardOk g
  | .ld o g _ sz sx _ _ => guardOk g && ordLoad o && (sx == 0 || sz != 3)
  | .st o g _ _ _ _ => guardOk g && ordStore o
  | .vld o g _ _ _ => guardOk g && ordLoad o
  | .vst o g _ _ _ => guardOk g && ordStore o
  | .tldl o g _ _ _ => guardOk g && ordLoad o
  | .tstl o g _ _ _ => guardOk g && ordStore o
  | .xld o g _ _ _ => guardOk g && ordLoad o
  | .xsc o g _ _ => guardOk g && ordLoad o
  | .amol o g _ _ aop _ _ _ => guardOk g && ordAny o && aop != 7
  | .acqb g _ => guardOk g
  | .relb g _ => guardOk g
  | .tdl o g _ _ _ => guardOk g && ordLoad o
  | .vlds o g _ _ _ _ _ => guardOk g && ordLoad o
  | .ldc o g _ sz sx _ _ => guardOk g && ordLoad o && (sx == 0 || sz != 3)
  | .stc o g _ _ _ _ => guardOk g && ordStore o
  | .vldc o g _ _ _ => guardOk g && ordLoad o
  | .vstc o g _ _ _ => guardOk g && ordStore o
  | .tldc o g _ _ _ => guardOk g && ordLoad o
  | .tldm o g _ _ _ _ => guardOk g && ordLoad o
  | .arm g _ => guardOk g
  | .amoc o g _ _ aop _ _ _ => guardOk g && ordAny o && aop != 7
  | .mark g => guardOk g
  | .tld o g _ _ _ _ _ => guardOk g && ordLoad o
  | .tldRing o g _ _ _ _ _ => guardOk g && ordLoad o
  | .tst o g _ _ _ _ _ => guardOk g && ordStore o
  | .tldx o g _ _ ln _ => guardOk g && ordLoad o && ln != 7
  | .tstx o g _ _ ln _ => guardOk g && ordStore o && ln != 7
  | .xlate g _ _ acc => guardOk g && acc != 3
  | .cpy o g _ _ km kr _ => guardOk g && ordStore o && (kr == 1 || km == 0)
  | .gath g _ _ _ => guardOk g
  | .kapp o g _ _ km kr _ => guardOk g && ordStore o && (kr == 1 || km == 0)
  | .pmatch o g _ _ km kr _ => guardOk g && ordStore o && (kr == 1 || km == 0)
  | .pins o g _ _ km kr _ => guardOk g && ordStore o && (kr == 1 || km == 0)
  | .prel o g _ _ km kr _ => guardOk g && ordStore o && (kr == 1 || km == 0)
  | .blend o g _ _ km kr _ => guardOk g && ordStore o && (kr == 1 || km == 0)
  | .coll o g _ _ km kr _ => guardOk g && ordStore o && (kr == 1 || km == 0)
  | .asn o g _ _ km kr _ => guardOk g && ordStore o && (kr == 1 || km == 0)
  | .launch o g _ _ km kr _ => guardOk g && ordStore o && (kr == 1 || km == 0)
  | .waitm o g _ _ _ => guardOk g && ordLoad o
  | .amog o g _ _ aop _ _ _ => guardOk g && ordAny o && aop != 7
  | .fence g => guardOk g
  | .icinv g _ _ _ => guardOk g
  | .dgstAbsorb g f r => guardOk g && absorbOk f r
  | .dgstEmit g _ _ _ => guardOk g
  | .dgstReset g => guardOk g
  | .decant o g _ _ km kr _ => guardOk g && ordStore o && (kr == 1 || km == 0)
  | .cwait o g _ _ => guardOk g && ordLoad o
  | .sld g _ _ _ => guardOk g
  | .sldl g w => guardOk g && decide (w.toNat ≤ 7)
  | .ixp g _ _ => guardOk g
  | .nextChunk g => guardOk g
  | .rngk g _ _ => guardOk g
  | .rwait g _ _ => guardOk g
  | .radv g _ _ => guardOk g
  | .rpub g _ _ => guardOk g
  | .rcfg g _ _ => guardOk g
  | .mmaDelivery core => decide (core < 512)
  | .mflushDelivery core => decide (core < 512)
  | .cQueuePerform core _ => decide (core < 512)
  | .multicastDelivery core _ => decide (core < 512)
  | .transferArrival core _ => decide (core < 512)
  | .gatherPush core => decide (core < 512)
  | .engineCommandCompletion core _ => decide (core < 512)
  | .ringSlotFill core _ => decide (core < 512)
  | .unitResultDelivery core => decide (core < 512)
  | .scalePush core => decide (core < 512)
  | .nextResult core => decide (core < 512)
  | .stallEnd core => decide (core < 512)
  | .barrierPass core => decide (core < 512)
  | .boundaryFault core => decide (core < 512)
  | .preovr core => decide (core < 512)
  | .faultServiceResume core _ => decide (core < 512)
  | .taskDrainEnd core => decide (core < 512)
  | .launchAccept core _ => decide (core < 512)
  | .schedulerCycle die => decide (die < 4)
  | .firmwarePreemptRequest _ => true
  | .preemptionSave _ => true
  | .taskResume _ => true
  | .doneWrite _ => true
  | .writeBufferDrain die _ => decide (die < 4)
  | .tierMove _ _ _ _ _ => true
  | .groupEviction iod _ _ _ => decide (iod < 2)
  | .load _ => true
  | .unload _ => true
  | .swapcode _ => true
  | .seal _ => true
  | .adapterInstall _ => true
  | .translationInvalidation _ => true
  | .abetteCompile _ => true
  | .attestationQuote _ => true
  | .evqCtlWrite n _ => decide (n ≤ 15)
  | .registerWrite _ _ => true
  | .hostBar2Write _ _ => true
  | .hostBar2Read _ _ => true
  | .hostSnoop iod _ _ => decide (iod < 2)
  | .hostArchiveWrite _ => true
  | .hostReadError core _ => decide (core < 512)
  | .hostReadTimeout core _ => decide (core < 512)
  | .linkDown _ _ => true
  | .functionLevelReset => true
  | .conventionalReset _ => true
  | .routerAdvertTimeout => true
  | .bootRetryTimeout => true
  | .msg _ => true
  | .write _ => true
  | .read _ => true
  | .rdresp _ => true
  | .ack _ => true
  | .collPacket _ => true
  | .retransmitTimeout _ => true
  | .collectiveTimeout _ => true
  | .farRegionWithdrawn _ _ => true
  | .powerWindow _ _ => true
  | .thermalSupplyEvent _ _ => true
  | .vaultScrub core _ _ => decide (core < 512)
  | .memoryScrub _ _ => true
  | .kvScrub _ _ _ => true
  | .scrubRepair _ _ _ => true
  | .checkerDetection core => decide (core < 512)
  | .spareSubstitution _ _ => true
  | .resourceRetirement _ _ => true
  | .provenanceCheckpoint => true
  | .engineFaultResolution core _ _ => decide (core < 512)
  | .debugAgentResume core => decide (core < 512)
  | .badcmd _ => true
  | .minimumVersionRaise _ _ => true
  | .linkUp _ _ => true
  | .connectionOpen _ _ => true
  | .perHopReplay _ => true
  | .lldpAnnouncement _ _ => true
  | .flitCrcReplay _ => true
  | .msiXHoldoffExpiry _ => true
  | .routerAdvertisement _ => true
  | .dhcpv6Reply _ _ => true
  | .bootUrlWrite _ => true
  | .bootUrlWindowExpiry => true
  | .imageFetchComplete _ _ => true

end Sys2Proof
end

