-- ==== Sys2Proof/Decode.lean ====
section
/-!
DEFINITION. Decoding: the frames and fields of every slot word (R38 to R47 and the encoding tables of the
instruction chapters), the shape of a bundle (R28 to R31), and the encoder written from the same tables.
-/
namespace Sys2Proof

/-- Why a word is no instruction. Each of these is ILLOP at issue (R12, R38). -/
inductive Reject where
  /-- An opcode, unit or form that the opcode map leaves unassigned (R44, R47). -/
  | unassigned
  /-- A bit that the instruction leaves unused is not zero (R38). -/
  | reserved
  /-- A field holds a value that its instruction does not allow (R39, R40, R43, R44). -/
  | field
  /-- There is no such slot, or the bytes end before the bundle does. -/
  | shape
  deriving DecidableEq, Repr

/-- The slot index an instruction's word belongs to (R28); none for an idle bundle and for steps without a word. -/
def slotOf : Instr → Option Nat
  | .idle _ _ => none
  | .br _ => some 0
  | .brp _ _ _ => some 0
  | .brv _ _ _ _ => some 0
  | .prep _ _ _ _ => some 0
  | .prepi _ _ _ _ => some 0
  | .call _ => some 0
  | .ret _ => some 0
  | .loopImm _ _ => some 0
  | .loopReg _ _ => some 0
  | .loopmImm _ _ _ => some 0
  | .loopmReg _ _ _ => some 0
  | .exitl _ _ => some 0
  | .exitlCond _ _ _ _ => some 0
  | .setstrImm _ _ => some 0
  | .setstrReg _ _ => some 0
  | .endTask => some 0
  | .endHold _ => some 0
  | .barc => some 0
  | .trap _ => some 0
  | .brk _ => some 0
  | .ccrr _ _ => some 0
  | .ccrw _ _ => some 0
  | .waite _ _ _ _ => some 0
  | .adapt _ => some 0
  | .move m _ _ _ => some (1 + m.toNat)
  | .moveImmediate m _ _ _ => some (1 + m.toNat)
  | .longImmediate m _ => some (1 + m.toNat)
  | .add m _ _ _ _ => some (1 + m.toNat)
  | .sub m _ _ _ _ => some (1 + m.toNat)
  | .mul m _ _ _ _ => some (1 + m.toNat)
  | .mulh m _ _ _ _ => some (1 + m.toNat)
  | .mulhu m _ _ _ _ => some (1 + m.toNat)
  | .and m _ _ _ _ => some (1 + m.toNat)
  | .or m _ _ _ _ => some (1 + m.toNat)
  | .xor m _ _ _ _ => some (1 + m.toNat)
  | .andn m _ _ _ _ => some (1 + m.toNat)
  | .shl m _ _ _ _ => some (1 + m.toNat)
  | .shr m _ _ _ _ => some (1 + m.toNat)
  | .sar m _ _ _ _ => some (1 + m.toNat)
  | .rotl m _ _ _ _ => some (1 + m.toNat)
  | .min m _ _ _ _ => some (1 + m.toNat)
  | .max m _ _ _ _ => some (1 + m.toNat)
  | .minu m _ _ _ _ => some (1 + m.toNat)
  | .maxu m _ _ _ _ => some (1 + m.toNat)
  | .clz m _ _ _ _ => some (1 + m.toNat)
  | .popc m _ _ _ _ => some (1 + m.toNat)
  | .sel m _ _ _ _ => some (1 + m.toNat)
  | .ceq m _ _ _ _ => some (1 + m.toNat)
  | .cne m _ _ _ _ => some (1 + m.toNat)
  | .clt m _ _ _ _ => some (1 + m.toNat)
  | .cle m _ _ _ _ => some (1 + m.toNat)
  | .cltu m _ _ _ _ => some (1 + m.toNat)
  | .cleu m _ _ _ _ => some (1 + m.toNat)
  | .divu m _ _ _ _ => some (1 + m.toNat)
  | .remu m _ _ _ _ => some (1 + m.toNat)
  | .madd m _ _ _ _ => some (1 + m.toNat)
  | .bfx m _ _ _ _ => some (1 + m.toNat)
  | .bfi m _ _ _ _ => some (1 + m.toNat)
  | .vadd m _ _ _ _ _ => some (1 + m.toNat)
  | .vsub m _ _ _ _ _ => some (1 + m.toNat)
  | .vmul m _ _ _ _ _ => some (1 + m.toNat)
  | .vfma m _ _ _ _ _ => some (1 + m.toNat)
  | .vfms m _ _ _ _ _ => some (1 + m.toNat)
  | .vmin m _ _ _ _ _ => some (1 + m.toNat)
  | .vmax m _ _ _ _ _ => some (1 + m.toNat)
  | .vabs m _ _ _ _ _ => some (1 + m.toNat)
  | .vneg m _ _ _ _ _ => some (1 + m.toNat)
  | .vceq m _ _ _ _ _ => some (1 + m.toNat)
  | .vcne m _ _ _ _ _ => some (1 + m.toNat)
  | .vclt m _ _ _ _ _ => some (1 + m.toNat)
  | .vcle m _ _ _ _ _ => some (1 + m.toNat)
  | .vcun m _ _ _ _ _ => some (1 + m.toNat)
  | .vsel m _ _ _ _ _ => some (1 + m.toNat)
  | .vand m _ _ _ _ _ => some (1 + m.toNat)
  | .vor m _ _ _ _ _ => some (1 + m.toNat)
  | .vxor m _ _ _ _ _ => some (1 + m.toNat)
  | .vshl m _ _ _ _ _ => some (1 + m.toNat)
  | .vshr m _ _ _ _ _ => some (1 + m.toNat)
  | .vsar m _ _ _ _ _ => some (1 + m.toNat)
  | .vcvt m _ _ _ _ _ => some (1 + m.toNat)
  | .vqnt m _ _ _ _ _ => some (1 + m.toNat)
  | .vdqnt m _ _ _ _ _ => some (1 + m.toNat)
  | .vredadd m _ _ _ _ _ => some (1 + m.toNat)
  | .vredmax m _ _ _ _ _ => some (1 + m.toNat)
  | .vredmin m _ _ _ _ _ => some (1 + m.toNat)
  | .vbcast m _ _ _ _ _ => some (1 + m.toNat)
  | .vperm m _ _ _ _ _ => some (1 + m.toNat)
  | .vscan m _ _ _ _ _ => some (1 + m.toNat)
  | .viota m _ _ _ _ _ => some (1 + m.toNat)
  | .vcomp m _ _ _ _ _ => some (1 + m.toNat)
  | .vshift m _ _ _ _ _ => some (1 + m.toNat)
  | .vpack m _ _ _ _ _ => some (1 + m.toNat)
  | .vunpk m _ _ _ _ _ => some (1 + m.toNat)
  | .vclamp m _ _ _ _ _ => some (1 + m.toNat)
  | .vround m _ _ _ _ _ => some (1 + m.toNat)
  | .exp2 m _ _ _ => some (1 + m.toNat)
  | .log2 m _ _ _ => some (1 + m.toNat)
  | .rcp m _ _ _ => some (1 + m.toNat)
  | .rsqrt m _ _ _ => some (1 + m.toNat)
  | .sqrt m _ _ _ => some (1 + m.toNat)
  | .tanh m _ _ _ => some (1 + m.toNat)
  | .wmac w _ _ _ _ => some (5 + w.toNat)
  | .wmacy w _ _ _ _ => some (5 + w.toNat)
  | .wadd w _ _ _ => some (5 + w.toNat)
  | .wsub w _ _ _ => some (5 + w.toNat)
  | .waddy w _ _ _ => some (5 + w.toNat)
  | .wsuby w _ _ _ => some (5 + w.toNat)
  | .ymac w _ _ _ _ => some (5 + w.toNat)
  | .yadd w _ _ _ => some (5 + w.toNat)
  | .ysub w _ _ _ => some (5 + w.toNat)
  | .yclr w _ _ => some (5 + w.toNat)
  | .wclr w _ _ => some (5 + w.toNat)
  | .wflush w _ _ _ => some (5 + w.toNat)
  | .wcpy w _ _ _ => some (5 + w.toNat)
  | .mma _ _ _ _ _ => some 7
  | .mmal _ _ _ _ => some 7
  | .mmals _ _ _ _ => some 7
  | .mmat _ _ _ _ _ => some 7
  | .mflush _ _ _ _ _ _ _ _ _ => some 7
  | .mclr _ _ => some 7
  | .mfmt _ _ _ _ => some 7
  | .mdrain _ => some 7
  | .tzero _ _ => some 7
  | .ttrn _ _ _ _ => some 7
  | .topk _ _ _ _ _ _ _ => some 7
  | .rowmax _ _ _ _ _ _ => some 7
  | .tqnt _ _ _ _ _ _ _ => some 7
  | .maskld _ _ => some 7
  | .ld _ _ _ _ _ _ _ => some 8
  | .st _ _ _ _ _ _ => some 8
  | .vld _ _ _ _ _ => some 8
  | .vst _ _ _ _ _ => some 8
  | .tldl _ _ _ _ _ => some 8
  | .tstl _ _ _ _ _ => some 8
  | .xld _ _ _ _ _ => some 8
  | .xsc _ _ _ _ => some 8
  | .amol _ _ _ _ _ _ _ _ => some 8
  | .acqb _ _ => some 8
  | .relb _ _ => some 8
  | .tdl _ _ _ _ _ => some 8
  | .vlds _ _ _ _ _ _ _ => some 8
  | .ldc _ _ _ _ _ _ _ => some 9
  | .stc _ _ _ _ _ _ => some 9
  | .vldc _ _ _ _ _ => some 9
  | .vstc _ _ _ _ _ => some 9
  | .tldc _ _ _ _ _ => some 9
  | .tldm _ _ _ _ _ _ => some 9
  | .arm _ _ => some 9
  | .amoc _ _ _ _ _ _ _ _ => some 9
  | .mark _ => some 9
  | .tld _ _ _ _ _ _ _ => some 10
  | .tldRing _ _ _ _ _ _ _ => some 10
  | .tst _ _ _ _ _ _ _ => some 10
  | .tldx _ _ _ _ _ _ => some 10
  | .tstx _ _ _ _ _ _ => some 10
  | .xlate _ _ _ _ => some 10
  | .cpy _ _ _ _ _ _ _ => some 10
  | .gath _ _ _ _ => some 10
  | .kapp _ _ _ _ _ _ _ => some 10
  | .pmatch _ _ _ _ _ _ _ => some 10
  | .pins _ _ _ _ _ _ _ => some 10
  | .prel _ _ _ _ _ _ _ => some 10
  | .blend _ _ _ _ _ _ _ => some 10
  | .coll _ _ _ _ _ _ _ => some 10
  | .asn _ _ _ _ _ _ _ => some 10
  | .launch _ _ _ _ _ _ _ => some 10
  | .waitm _ _ _ _ _ => some 10
  | .amog _ _ _ _ _ _ _ _ => some 10
  | .fence _ => some 10
  | .icinv _ _ _ _ => some 10
  | .dgstAbsorb _ _ _ => some 10
  | .dgstEmit _ _ _ _ => some 10
  | .dgstReset _ => some 10
  | .decant _ _ _ _ _ _ _ => some 10
  | .cwait _ _ _ _ => some 10
  | .sld _ _ _ _ => some 11
  | .sldl _ _ => some 11
  | .ixp _ _ _ => some 11
  | .nextChunk _ => some 11
  | .rngk _ _ _ => some 11
  | .rwait _ _ _ => some 11
  | .radv _ _ _ => some 11
  | .rpub _ _ _ => some 11
  | .rcfg _ _ _ => some 11
  | .mmaDelivery _ => none
  | .mflushDelivery _ => none
  | .cQueuePerform _ _ => none
  | .multicastDelivery _ _ => none
  | .transferArrival _ _ => none
  | .gatherPush _ => none
  | .engineCommandCompletion _ _ => none
  | .ringSlotFill _ _ => none
  | .unitResultDelivery _ => none
  | .scalePush _ => none
  | .nextResult _ => none
  | .stallEnd _ => none
  | .barrierPass _ => none
  | .boundaryFault _ => none
  | .preovr _ => none
  | .faultServiceResume _ _ => none
  | .taskDrainEnd _ => none
  | .launchAccept _ _ => none
  | .schedulerCycle _ => none
  | .firmwarePreemptRequest _ => none
  | .preemptionSave _ => none
  | .taskResume _ => none
  | .doneWrite _ => none
  | .writeBufferDrain _ _ => none
  | .tierMove _ _ _ _ _ => none
  | .groupEviction _ _ _ _ => none
  | .load _ => none
  | .unload _ => none
  | .swapcode _ => none
  | .seal _ => none
  | .adapterInstall _ => none
  | .translationInvalidation _ => none
  | .abetteCompile _ => none
  | .attestationQuote _ => none
  | .evqCtlWrite _ _ => none
  | .registerWrite _ _ => none
  | .hostBar2Write _ _ => none
  | .hostBar2Read _ _ => none
  | .hostSnoop _ _ _ => none
  | .hostArchiveWrite _ => none
  | .hostReadError _ _ => none
  | .hostReadTimeout _ _ => none
  | .linkDown _ _ => none
  | .functionLevelReset => none
  | .conventionalReset _ => none
  | .routerAdvertTimeout => none
  | .bootRetryTimeout => none
  | .msg _ => none
  | .write _ => none
  | .read _ => none
  | .rdresp _ => none
  | .ack _ => none
  | .collPacket _ => none
  | .retransmitTimeout _ => none
  | .collectiveTimeout _ => none
  | .farRegionWithdrawn _ _ => none
  | .powerWindow _ _ => none
  | .thermalSupplyEvent _ _ => none
  | .vaultScrub _ _ _ => none
  | .memoryScrub _ _ => none
  | .kvScrub _ _ _ => none
  | .scrubRepair _ _ _ => none
  | .checkerDetection _ => none
  | .spareSubstitution _ _ => none
  | .resourceRetirement _ _ => none
  | .provenanceCheckpoint => none
  | .engineFaultResolution _ _ _ => none
  | .debugAgentResume _ => none
  | .badcmd _ => none
  | .minimumVersionRaise _ _ => none
  | .linkUp _ _ => none
  | .connectionOpen _ _ => none
  | .perHopReplay _ => none
  | .lldpAnnouncement _ _ => none
  | .flitCrcReplay _ => none
  | .msiXHoldoffExpiry _ => none
  | .routerAdvertisement _ => none
  | .dhcpv6Reply _ _ => none
  | .bootUrlWrite _ => none
  | .bootUrlWindowExpiry => none
  | .imageFetchComplete _ _ => none

/-- A field's bits at position `lo`. -/
def place {n : Nat} (x : BitVec n) (lo : Nat) : Nat := x.toNat * 2 ^ lo

/-- The fixed bits of a row with its fields put in. -/
def pack (base : Nat) : List Nat → Nat
  | [] => base
  | x :: xs => x + pack base xs

/-- The instruction's word as a number, bit 0 the least significant; 0 for a step without a word. -/
def encodeNat : Instr → Nat
  | .idle f c => pack 0 [place f 30, place c 24]
  | .br t => pack 0x4000000 [place t 24]
  | .brp t i p => pack 0x8000000 [place t 24, place i 23, place p 19]
  | .brv t i q l => pack 0xc000000 [place t 24, place i 23, place q 20, place l 17]
  | .prep t k p l => pack 0x10000000 [place t 24, place k 23, place p 18, place l 13]
  | .prepi t k p l => pack 0x14000000 [place t 24, place k 23, place p 10, place l 0]
  | .call t => pack 0x18000000 [place t 24]
  | .ret k => pack 0x1c000000 [place k 25]
  | .loopImm c l => pack 0x20000000 [place c 12, place l 0]
  | .loopReg s l => pack 0x22000000 [place s 12, place l 0]
  | .loopmImm s c l => pack 0x24000000 [place s 21, place c 12, place l 0]
  | .loopmReg s g l => pack 0x26000000 [place s 21, place g 12, place l 0]
  | .exitl t v => pack 0x28000000 [place t 24, place v 15]
  | .exitlCond t i p v => pack 0x28800000 [place t 24, place i 22, place p 18, place v 15]
  | .setstrImm b s => pack 0x2c000000 [place b 23, place s 0]
  | .setstrReg b g => pack 0x2c400000 [place b 23, place g 0]
  | .endTask => pack 0x30000000 []
  | .endHold m => pack 0x34000000 [place m 21]
  | .barc => pack 0x38000000 []
  | .trap c => pack 0x3c000000 [place c 0]
  | .brk c => pack 0x40000000 [place c 0]
  | .ccrr d c => pack 0x44000000 [place d 21, place c 17]
  | .ccrw s c => pack 0x48000000 [place s 21, place c 17]
  | .waite r e d t => pack 0x4c000000 [place r 18, place e 17, place d 12, place t 7]
  | .adapt h => pack 0x50000000 [place h 16]
  | .move _ d s g => pack 0x0 [place d 21, place s 12, place g 0]
  | .moveImmediate _ d i g => pack 0x80000000 [place d 21, place i 6, place g 0]
  | .longImmediate _ i => pack 0xc0000000 [place i 0]
  | .add _ u t s g => pack 0x40100000 [place u 27, place t 17, place s 6, place g 0]
  | .sub _ u t s g => pack 0x40200000 [place u 27, place t 17, place s 6, place g 0]
  | .mul _ u t s g => pack 0x40300000 [place u 27, place t 17, place s 6, place g 0]
  | .mulh _ u t s g => pack 0x40400000 [place u 27, place t 17, place s 6, place g 0]
  | .mulhu _ u t s g => pack 0x40500000 [place u 27, place t 17, place s 6, place g 0]
  | .and _ u t s g => pack 0x40600000 [place u 27, place t 17, place s 6, place g 0]
  | .or _ u t s g => pack 0x40700000 [place u 27, place t 17, place s 6, place g 0]
  | .xor _ u t s g => pack 0x40800000 [place u 27, place t 17, place s 6, place g 0]
  | .andn _ u t s g => pack 0x40900000 [place u 27, place t 17, place s 6, place g 0]
  | .shl _ u t s g => pack 0x40a00000 [place u 27, place t 17, place s 6, place g 0]
  | .shr _ u t s g => pack 0x40b00000 [place u 27, place t 17, place s 6, place g 0]
  | .sar _ u t s g => pack 0x40c00000 [place u 27, place t 17, place s 6, place g 0]
  | .rotl _ u t s g => pack 0x40d00000 [place u 27, place t 17, place s 6, place g 0]
  | .min _ u t s g => pack 0x40e00000 [place u 27, place t 17, place s 6, place g 0]
  | .max _ u t s g => pack 0x40f00000 [place u 27, place t 17, place s 6, place g 0]
  | .minu _ u t s g => pack 0x41000000 [place u 27, place t 17, place s 6, place g 0]
  | .maxu _ u t s g => pack 0x41100000 [place u 27, place t 17, place s 6, place g 0]
  | .clz _ u t s g => pack 0x41200000 [place u 27, place t 17, place s 6, place g 0]
  | .popc _ u t s g => pack 0x41300000 [place u 27, place t 17, place s 6, place g 0]
  | .sel _ u t s g => pack 0x41400000 [place u 27, place t 17, place s 6, place g 0]
  | .ceq _ u t s g => pack 0x41500000 [place u 27, place t 17, place s 6, place g 0]
  | .cne _ u t s g => pack 0x41600000 [place u 27, place t 17, place s 6, place g 0]
  | .clt _ u t s g => pack 0x41700000 [place u 27, place t 17, place s 6, place g 0]
  | .cle _ u t s g => pack 0x41800000 [place u 27, place t 17, place s 6, place g 0]
  | .cltu _ u t s g => pack 0x41900000 [place u 27, place t 17, place s 6, place g 0]
  | .cleu _ u t s g => pack 0x41a00000 [place u 27, place t 17, place s 6, place g 0]
  | .divu _ u t s g => pack 0x41b00000 [place u 27, place t 17, place s 6, place g 0]
  | .remu _ u t s g => pack 0x41c00000 [place u 27, place t 17, place s 6, place g 0]
  | .madd _ u t s g => pack 0x41d00000 [place u 27, place t 17, place s 6, place g 0]
  | .bfx _ u t s g => pack 0x41e00000 [place u 27, place t 17, place s 6, place g 0]
  | .bfi _ u t s g => pack 0x41f00000 [place u 27, place t 17, place s 6, place g 0]
  | .vadd _ u t w s g => pack 0x50100000 [place u 27, place t 17, place w 15, place s 6, place g 0]
  | .vsub _ u t w s g => pack 0x50200000 [place u 27, place t 17, place w 15, place s 6, place g 0]
  | .vmul _ u t w s g => pack 0x50300000 [place u 27, place t 17, place w 15, place s 6, place g 0]
  | .vfma _ u t w s g => pack 0x50400000 [place u 27, place t 17, place w 15, place s 6, place g 0]
  | .vfms _ u t w s g => pack 0x50500000 [place u 27, place t 17, place w 15, place s 6, place g 0]
  | .vmin _ u t w s g => pack 0x50600000 [place u 27, place t 17, place w 15, place s 6, place g 0]
  | .vmax _ u t w s g => pack 0x50700000 [place u 27, place t 17, place w 15, place s 6, place g 0]
  | .vabs _ u t w s g => pack 0x50800000 [place u 27, place t 17, place w 15, place s 6, place g 0]
  | .vneg _ u t w s g => pack 0x50900000 [place u 27, place t 17, place w 15, place s 6, place g 0]
  | .vceq _ u t w s g => pack 0x50a00000 [place u 27, place t 17, place w 15, place s 6, place g 0]
  | .vcne _ u t w s g => pack 0x50b00000 [place u 27, place t 17, place w 15, place s 6, place g 0]
  | .vclt _ u t w s g => pack 0x50c00000 [place u 27, place t 17, place w 15, place s 6, place g 0]
  | .vcle _ u t w s g => pack 0x50d00000 [place u 27, place t 17, place w 15, place s 6, place g 0]
  | .vcun _ u t w s g => pack 0x50e00000 [place u 27, place t 17, place w 15, place s 6, place g 0]
  | .vsel _ u t w s g => pack 0x50f00000 [place u 27, place t 17, place w 15, place s 6, place g 0]
  | .vand _ u t w s g => pack 0x51000000 [place u 27, place t 17, place w 15, place s 6, place g 0]
  | .vor _ u t w s g => pack 0x51100000 [place u 27, place t 17, place w 15, place s 6, place g 0]
  | .vxor _ u t w s g => pack 0x51200000 [place u 27, place t 17, place w 15, place s 6, place g 0]
  | .vshl _ u t w s g => pack 0x51300000 [place u 27, place t 17, place w 15, place s 6, place g 0]
  | .vshr _ u t w s g => pack 0x51400000 [place u 27, place t 17, place w 15, place s 6, place g 0]
  | .vsar _ u t w s g => pack 0x51500000 [place u 27, place t 17, place w 15, place s 6, place g 0]
  | .vcvt _ u t w s g => pack 0x51600000 [place u 27, place t 17, place w 15, place s 6, place g 0]
  | .vqnt _ u t w s g => pack 0x51700000 [place u 27, place t 17, place w 15, place s 6, place g 0]
  | .vdqnt _ u t w s g => pack 0x51800000 [place u 27, place t 17, place w 15, place s 6, place g 0]
  | .vredadd _ u t w s g => pack 0x51900000 [place u 27, place t 17, place w 15, place s 6, place g 0]
  | .vredmax _ u t w s g => pack 0x51a00000 [place u 27, place t 17, place w 15, place s 6, place g 0]
  | .vredmin _ u t w s g => pack 0x51b00000 [place u 27, place t 17, place w 15, place s 6, place g 0]
  | .vbcast _ u t w s g => pack 0x51c00000 [place u 27, place t 17, place w 15, place s 6, place g 0]
  | .vperm _ u t w s g => pack 0x51d00000 [place u 27, place t 17, place w 15, place s 6, place g 0]
  | .vscan _ u t w s g => pack 0x51e00000 [place u 27, place t 17, place w 15, place s 6, place g 0]
  | .viota _ u t w s g => pack 0x51f00000 [place u 27, place t 17, place w 15, place s 6, place g 0]
  | .vcomp _ u t w s g => pack 0x52000000 [place u 27, place t 17, place w 15, place s 6, place g 0]
  | .vshift _ u t w s g => pack 0x52100000 [place u 27, place t 17, place w 15, place s 6, place g 0]
  | .vpack _ u t w s g => pack 0x52200000 [place u 27, place t 17, place w 15, place s 6, place g 0]
  | .vunpk _ u t w s g => pack 0x52300000 [place u 27, place t 17, place w 15, place s 6, place g 0]
  | .vclamp _ u t w s g => pack 0x52400000 [place u 27, place t 17, place w 15, place s 6, place g 0]
  | .vround _ u t w s g => pack 0x52500000 [place u 27, place t 17, place w 15, place s 6, place g 0]
  | .exp2 _ w s g => pack 0x60100000 [place w 15, place s 6, place g 0]
  | .log2 _ w s g => pack 0x60200000 [place w 15, place s 6, place g 0]
  | .rcp _ w s g => pack 0x60300000 [place w 15, place s 6, place g 0]
  | .rsqrt _ w s g => pack 0x60400000 [place w 15, place s 6, place g 0]
  | .sqrt _ w s g => pack 0x60500000 [place w 15, place s 6, place g 0]
  | .tanh _ w s g => pack 0x60600000 [place w 15, place s 6, place g 0]
  | .wmac _ a s i l => pack 0x8000000 [place a 21, place s 15, place i 7, place l 4]
  | .wmacy _ a s i l => pack 0x10000000 [place a 21, place s 15, place i 7, place l 4]
  | .wadd _ a s l => pack 0x18000000 [place a 21, place s 15, place l 4]
  | .wsub _ a s l => pack 0x20000000 [place a 21, place s 15, place l 4]
  | .waddy _ a s l => pack 0x28000000 [place a 21, place s 15, place l 4]
  | .wsuby _ a s l => pack 0x30000000 [place a 21, place s 15, place l 4]
  | .ymac _ a s i l => pack 0x38000000 [place a 21, place s 15, place i 7, place l 4]
  | .yadd _ a s l => pack 0x40000000 [place a 21, place s 15, place l 4]
  | .ysub _ a s l => pack 0x48000000 [place a 21, place s 15, place l 4]
  | .yclr _ a l => pack 0x50000000 [place a 21, place l 4]
  | .wclr _ a l => pack 0x58000000 [place a 21, place l 4]
  | .wflush _ a d l => pack 0x60000000 [place a 21, place d 15, place l 4]
  | .wcpy _ a s l => pack 0x68000000 [place a 21, place s 15, place l 4]
  | .mma f c a b g => pack 0x400000000000000 [place f 56, place c 52, place a 48, place b 44, place g 38]
  | .mmal f c a g => pack 0x800000000000000 [place f 56, place c 52, place a 48, place g 38]
  | .mmals f c a g => pack 0xc00000000000000 [place f 56, place c 52, place a 48, place g 38]
  | .mmat f c a b g => pack 0x1000000000000000 [place f 56, place c 52, place a 48, place b 44, place g 38]
  | .mflush f c bb md mk pitch cl off g => pack 0x1400000000000000 [place f 56, place c 48, place bb 35, place md 34, place mk 32, place pitch 20, place cl 19, place off 0, place g 38]
  | .mclr c g => pack 0x1800000000000000 [place c 52, place g 38]
  | .mfmt f tw v g => pack 0x1c00000000000000 [place f 56, place tw 37, place v 0, place g 38]
  | .mdrain g => pack 0x2000000000000000 [place g 38]
  | .tzero d g => pack 0x2400000000000000 [place d 52, place g 38]
  | .ttrn d a qf g => pack 0x2800000000000000 [place d 52, place a 48, place qf 37, place g 38]
  | .topk d a k n rows mk g => pack 0x2c00000000000000 [place d 52, place a 48, place k 32, place n 25, place rows 20, place mk 19, place g 38]
  | .rowmax d a n rows mk g => pack 0x3000000000000000 [place d 52, place a 48, place n 25, place rows 20, place mk 19, place g 38]
  | .tqnt d bb qf bs soff off g => pack 0x3400000000000000 [place d 52, place bb 35, place qf 34, place bs 31, place soff 16, place off 0, place g 38]
  | .maskld a g => pack 0x3800000000000000 [place a 48, place g 38]
  | .ld o g bb sz sx d off => pack 0x400000000000000 [place o 55, place g 49, place bb 46, place sz 44, place sx 43, place d 38, place off 0]
  | .st o g bb sz s off => pack 0x800000000000000 [place o 55, place g 49, place bb 46, place sz 44, place s 38, place off 0]
  | .vld o g bb d off => pack 0xc00000000000000 [place o 55, place g 49, place bb 46, place d 38, place off 0]
  | .vst o g bb s off => pack 0x1000000000000000 [place o 55, place g 49, place bb 46, place s 38, place off 0]
  | .tldl o g bb d off => pack 0x1400000000000000 [place o 55, place g 49, place bb 46, place d 40, place off 0]
  | .tstl o g bb s off => pack 0x1800000000000000 [place o 55, place g 49, place bb 46, place s 40, place off 0]
  | .xld o g bb d off => pack 0x1c00000000000000 [place o 55, place g 49, place bb 46, place d 40, place off 0]
  | .xsc o g bb off => pack 0x2000000000000000 [place o 55, place g 49, place bb 46, place off 0]
  | .amol o g bb sz aop s d off => pack 0x2400000000000000 [place o 55, place g 49, place bb 46, place sz 45, place aop 42, place s 37, place d 32, place off 0]
  | .acqb g m => pack 0x2800000000000000 [place g 49, place m 44]
  | .relb g m => pack 0x2c00000000000000 [place g 49, place m 44]
  | .tdl o g bb d off => pack 0x3000000000000000 [place o 55, place g 49, place bb 46, place d 41, place off 0]
  | .vlds o g bb es d s off => pack 0x3400000000000000 [place o 55, place g 49, place bb 46, place es 44, place d 38, place s 33, place off 0]
  | .ldc o g bb sz sx d off => pack 0x400000000000000 [place o 55, place g 49, place bb 46, place sz 44, place sx 43, place d 38, place off 0]
  | .stc o g bb sz s off => pack 0x800000000000000 [place o 55, place g 49, place bb 46, place sz 44, place s 38, place off 0]
  | .vldc o g bb d off => pack 0xc00000000000000 [place o 55, place g 49, place bb 46, place d 38, place off 0]
  | .vstc o g bb s off => pack 0x1000000000000000 [place o 55, place g 49, place bb 46, place s 38, place off 0]
  | .tldc o g bb d off => pack 0x1400000000000000 [place o 55, place g 49, place bb 46, place d 40, place off 0]
  | .tldm o g bb d m off => pack 0x1800000000000000 [place o 55, place g 49, place bb 46, place d 42, place m 37, place off 0]
  | .arm g d => pack 0x1c00000000000000 [place g 49, place d 45]
  | .amoc o g bb sz aop s d off => pack 0x2000000000000000 [place o 55, place g 49, place bb 46, place sz 45, place aop 42, place s 37, place d 32, place off 0]
  | .mark g => pack 0x2400000000000000 [place g 49]
  | .tld o g td d ba bb off => pack 0x400000000000000 [place o 55, place g 49, place td 44, place d 39, place ba 36, place bb 33, place off 0]
  | .tldRing o g td h ba bb off => pack 0x400080000000000 [place o 55, place g 49, place td 44, place h 39, place ba 36, place bb 33, place off 0]
  | .tst o g td s ba bb off => pack 0x800000000000000 [place o 55, place g 49, place td 44, place s 39, place ba 36, place bb 33, place off 0]
  | .tldx o g xt bb ln off => pack 0xc00000000000000 [place o 55, place g 49, place xt 46, place bb 43, place ln 40, place off 0]
  | .tstx o g xt bb ln off => pack 0x1000000000000000 [place o 55, place g 49, place xt 46, place bb 43, place ln 40, place off 0]
  | .xlate g xt v acc => pack 0x1400000000000000 [place g 49, place xt 46, place v 41, place acc 39]
  | .cpy o g bb kc km kr blk => pack 0x1800000000000000 [place o 55, place g 49, place bb 46, place kc 42, place km 38, place kr 37, place blk 0]
  | .gath g b es n => pack 0x1c00000000000000 [place g 49, place b 44, place es 42, place n 36]
  | .kapp o g bb kc km kr blk => pack 0x2000000000000000 [place o 55, place g 49, place bb 46, place kc 42, place km 38, place kr 37, place blk 0]
  | .pmatch o g bb kc km kr blk => pack 0x2400000000000000 [place o 55, place g 49, place bb 46, place kc 42, place km 38, place kr 37, place blk 0]
  | .pins o g bb kc km kr blk => pack 0x2800000000000000 [place o 55, place g 49, place bb 46, place kc 42, place km 38, place kr 37, place blk 0]
  | .prel o g bb kc km kr blk => pack 0x2c00000000000000 [place o 55, place g 49, place bb 46, place kc 42, place km 38, place kr 37, place blk 0]
  | .blend o g bb kc km kr blk => pack 0x3000000000000000 [place o 55, place g 49, place bb 46, place kc 42, place km 38, place kr 37, place blk 0]
  | .coll o g bb kc km kr blk => pack 0x3400000000000000 [place o 55, place g 49, place bb 46, place kc 42, place km 38, place kr 37, place blk 0]
  | .asn o g bb kc km kr blk => pack 0x3800000000000000 [place o 55, place g 49, place bb 46, place kc 42, place km 38, place kr 37, place blk 0]
  | .launch o g bb kc km kr blk => pack 0x3c00000000000000 [place o 55, place g 49, place bb 46, place kc 42, place km 38, place kr 37, place blk 0]
  | .waitm o g d a t => pack 0x4000000000000000 [place o 55, place g 49, place d 44, place a 39, place t 34]
  | .amog o g xt sz aop s d off => pack 0x4400000000000000 [place o 55, place g 49, place xt 46, place sz 45, place aop 42, place s 37, place d 32, place off 0]
  | .fence g => pack 0x4800000000000000 [place g 49]
  | .icinv g a l kc => pack 0x4c00000000000000 [place g 49, place a 44, place l 39, place kc 35]
  | .dgstAbsorb g f r => pack 0x5000000000000000 [place g 49, place f 46, place r 41]
  | .dgstEmit g bb kc off => pack 0x5001400000000000 [place g 49, place bb 38, place kc 34, place off 0]
  | .dgstReset g => pack 0x5001800000000000 [place g 49]
  | .decant o g bb kc km kr blk => pack 0x5400000000000000 [place o 55, place g 49, place bb 46, place kc 42, place km 38, place kr 37, place blk 0]
  | .cwait o g kc v => pack 0x5800000000000000 [place o 55, place g 49, place kc 45, place v 40]
  | .sld g b n o => pack 0x8000000 [place g 21, place b 18, place n 10, place o 0]
  | .sldl g w => pack 0x10000000 [place g 21, place w 16]
  | .ixp g v h => pack 0x18000000 [place g 21, place v 16, place h 15]
  | .nextChunk g => pack 0x20000000 [place g 21]
  | .rngk g k c => pack 0x28000000 [place g 21, place k 16, place c 11]
  | .rwait g h n => pack 0x30000000 [place g 21, place h 18, place n 10]
  | .radv g h n => pack 0x38000000 [place g 21, place h 18, place n 10]
  | .rpub g h n => pack 0x40000000 [place g 21, place h 18, place n 10]
  | .rcfg g h s => pack 0x48000000 [place g 21, place h 18, place s 13]
  | .mmaDelivery _ => 0
  | .mflushDelivery _ => 0
  | .cQueuePerform _ _ => 0
  | .multicastDelivery _ _ => 0
  | .transferArrival _ _ => 0
  | .gatherPush _ => 0
  | .engineCommandCompletion _ _ => 0
  | .ringSlotFill _ _ => 0
  | .unitResultDelivery _ => 0
  | .scalePush _ => 0
  | .nextResult _ => 0
  | .stallEnd _ => 0
  | .barrierPass _ => 0
  | .boundaryFault _ => 0
  | .preovr _ => 0
  | .faultServiceResume _ _ => 0
  | .taskDrainEnd _ => 0
  | .launchAccept _ _ => 0
  | .schedulerCycle _ => 0
  | .firmwarePreemptRequest _ => 0
  | .preemptionSave _ => 0
  | .taskResume _ => 0
  | .doneWrite _ => 0
  | .writeBufferDrain _ _ => 0
  | .tierMove _ _ _ _ _ => 0
  | .groupEviction _ _ _ _ => 0
  | .load _ => 0
  | .unload _ => 0
  | .swapcode _ => 0
  | .seal _ => 0
  | .adapterInstall _ => 0
  | .translationInvalidation _ => 0
  | .abetteCompile _ => 0
  | .attestationQuote _ => 0
  | .evqCtlWrite _ _ => 0
  | .registerWrite _ _ => 0
  | .hostBar2Write _ _ => 0
  | .hostBar2Read _ _ => 0
  | .hostSnoop _ _ _ => 0
  | .hostArchiveWrite _ => 0
  | .hostReadError _ _ => 0
  | .hostReadTimeout _ _ => 0
  | .linkDown _ _ => 0
  | .functionLevelReset => 0
  | .conventionalReset _ => 0
  | .routerAdvertTimeout => 0
  | .bootRetryTimeout => 0
  | .msg _ => 0
  | .write _ => 0
  | .read _ => 0
  | .rdresp _ => 0
  | .ack _ => 0
  | .collPacket _ => 0
  | .retransmitTimeout _ => 0
  | .collectiveTimeout _ => 0
  | .farRegionWithdrawn _ _ => 0
  | .powerWindow _ _ => 0
  | .thermalSupplyEvent _ _ => 0
  | .vaultScrub _ _ _ => 0
  | .memoryScrub _ _ => 0
  | .kvScrub _ _ _ => 0
  | .scrubRepair _ _ _ => 0
  | .checkerDetection _ => 0
  | .spareSubstitution _ _ => 0
  | .resourceRetirement _ _ => 0
  | .provenanceCheckpoint => 0
  | .engineFaultResolution _ _ _ => 0
  | .debugAgentResume _ => 0
  | .badcmd _ => 0
  | .minimumVersionRaise _ _ => 0
  | .linkUp _ _ => 0
  | .connectionOpen _ _ => 0
  | .perHopReplay _ => 0
  | .lldpAnnouncement _ _ => 0
  | .flitCrcReplay _ => 0
  | .msiXHoldoffExpiry _ => 0
  | .routerAdvertisement _ => 0
  | .dhcpv6Reply _ _ => 0
  | .bootUrlWrite _ => 0
  | .bootUrlWindowExpiry => 0
  | .imageFetchComplete _ _ => 0

/-- The bits of an instruction's word that its fields take; fewer means a more specific row. -/
def freeBits : Instr → Nat
  | .idle _ _ => 8
  | .br _ => 2
  | .brp _ _ _ => 7
  | .brv _ _ _ _ => 9
  | .prep _ _ _ _ => 13
  | .prepi _ _ _ _ => 26
  | .call _ => 2
  | .ret _ => 1
  | .loopImm _ _ => 25
  | .loopReg _ _ => 17
  | .loopmImm _ _ _ => 25
  | .loopmReg _ _ _ => 21
  | .exitl _ _ => 5
  | .exitlCond _ _ _ _ => 10
  | .setstrImm _ _ => 25
  | .setstrReg _ _ => 8
  | .endTask => 0
  | .endHold _ => 5
  | .barc => 0
  | .trap _ => 16
  | .brk _ => 16
  | .ccrr _ _ => 9
  | .ccrw _ _ => 9
  | .waite _ _ _ _ => 19
  | .adapt _ => 10
  | .move _ _ _ _ => 24
  | .moveImmediate _ _ _ _ => 30
  | .longImmediate _ _ => 30
  | .add _ _ _ _ _ => 17
  | .sub _ _ _ _ _ => 17
  | .mul _ _ _ _ _ => 17
  | .mulh _ _ _ _ _ => 17
  | .mulhu _ _ _ _ _ => 17
  | .and _ _ _ _ _ => 17
  | .or _ _ _ _ _ => 17
  | .xor _ _ _ _ _ => 17
  | .andn _ _ _ _ _ => 17
  | .shl _ _ _ _ _ => 17
  | .shr _ _ _ _ _ => 17
  | .sar _ _ _ _ _ => 17
  | .rotl _ _ _ _ _ => 17
  | .min _ _ _ _ _ => 17
  | .max _ _ _ _ _ => 17
  | .minu _ _ _ _ _ => 17
  | .maxu _ _ _ _ _ => 17
  | .clz _ _ _ _ _ => 17
  | .popc _ _ _ _ _ => 17
  | .sel _ _ _ _ _ => 17
  | .ceq _ _ _ _ _ => 17
  | .cne _ _ _ _ _ => 17
  | .clt _ _ _ _ _ => 17
  | .cle _ _ _ _ _ => 17
  | .cltu _ _ _ _ _ => 17
  | .cleu _ _ _ _ _ => 17
  | .divu _ _ _ _ _ => 17
  | .remu _ _ _ _ _ => 17
  | .madd _ _ _ _ _ => 17
  | .bfx _ _ _ _ _ => 17
  | .bfi _ _ _ _ _ => 17
  | .vadd _ _ _ _ _ _ => 21
  | .vsub _ _ _ _ _ _ => 21
  | .vmul _ _ _ _ _ _ => 21
  | .vfma _ _ _ _ _ _ => 21
  | .vfms _ _ _ _ _ _ => 21
  | .vmin _ _ _ _ _ _ => 21
  | .vmax _ _ _ _ _ _ => 21
  | .vabs _ _ _ _ _ _ => 21
  | .vneg _ _ _ _ _ _ => 21
  | .vceq _ _ _ _ _ _ => 21
  | .vcne _ _ _ _ _ _ => 21
  | .vclt _ _ _ _ _ _ => 21
  | .vcle _ _ _ _ _ _ => 21
  | .vcun _ _ _ _ _ _ => 21
  | .vsel _ _ _ _ _ _ => 21
  | .vand _ _ _ _ _ _ => 21
  | .vor _ _ _ _ _ _ => 21
  | .vxor _ _ _ _ _ _ => 21
  | .vshl _ _ _ _ _ _ => 21
  | .vshr _ _ _ _ _ _ => 21
  | .vsar _ _ _ _ _ _ => 21
  | .vcvt _ _ _ _ _ _ => 21
  | .vqnt _ _ _ _ _ _ => 21
  | .vdqnt _ _ _ _ _ _ => 21
  | .vredadd _ _ _ _ _ _ => 21
  | .vredmax _ _ _ _ _ _ => 21
  | .vredmin _ _ _ _ _ _ => 21
  | .vbcast _ _ _ _ _ _ => 21
  | .vperm _ _ _ _ _ _ => 21
  | .vscan _ _ _ _ _ _ => 21
  | .viota _ _ _ _ _ _ => 21
  | .vcomp _ _ _ _ _ _ => 21
  | .vshift _ _ _ _ _ _ => 21
  | .vpack _ _ _ _ _ _ => 21
  | .vunpk _ _ _ _ _ _ => 21
  | .vclamp _ _ _ _ _ _ => 21
  | .vround _ _ _ _ _ _ => 21
  | .exp2 _ _ _ _ => 17
  | .log2 _ _ _ _ => 17
  | .rcp _ _ _ _ => 17
  | .rsqrt _ _ _ _ => 17
  | .sqrt _ _ _ _ => 17
  | .tanh _ _ _ _ => 17
  | .wmac _ _ _ _ _ => 23
  | .wmacy _ _ _ _ _ => 21
  | .wadd _ _ _ _ => 15
  | .wsub _ _ _ _ => 15
  | .waddy _ _ _ _ => 13
  | .wsuby _ _ _ _ => 13
  | .ymac _ _ _ _ _ => 21
  | .yadd _ _ _ _ => 13
  | .ysub _ _ _ _ => 13
  | .yclr _ _ _ => 7
  | .wclr _ _ _ => 9
  | .wflush _ _ _ _ => 14
  | .wcpy _ _ _ _ => 15
  | .mma _ _ _ _ _ => 18
  | .mmal _ _ _ _ => 14
  | .mmals _ _ _ _ => 14
  | .mmat _ _ _ _ _ => 18
  | .mflush _ _ _ _ _ _ _ _ _ => 45
  | .mclr _ _ => 8
  | .mfmt _ _ _ _ => 17
  | .mdrain _ => 6
  | .tzero _ _ => 10
  | .ttrn _ _ _ _ => 15
  | .topk _ _ _ _ _ _ _ => 33
  | .rowmax _ _ _ _ _ _ => 27
  | .tqnt _ _ _ _ _ _ _ => 48
  | .maskld _ _ => 10
  | .ld _ _ _ _ _ _ _ => 52
  | .st _ _ _ _ _ _ => 51
  | .vld _ _ _ _ _ => 49
  | .vst _ _ _ _ _ => 49
  | .tldl _ _ _ _ _ => 48
  | .tstl _ _ _ _ _ => 48
  | .xld _ _ _ _ _ => 50
  | .xsc _ _ _ _ => 44
  | .amol _ _ _ _ _ _ _ _ => 58
  | .acqb _ _ => 11
  | .relb _ _ => 11
  | .tdl _ _ _ _ _ => 49
  | .vlds _ _ _ _ _ _ _ => 56
  | .ldc _ _ _ _ _ _ _ => 52
  | .stc _ _ _ _ _ _ => 51
  | .vldc _ _ _ _ _ => 49
  | .vstc _ _ _ _ _ => 49
  | .tldc _ _ _ _ _ => 48
  | .tldm _ _ _ _ _ _ => 53
  | .arm _ _ => 10
  | .amoc _ _ _ _ _ _ _ _ => 58
  | .mark _ => 6
  | .tld _ _ _ _ _ _ _ => 56
  | .tldRing _ _ _ _ _ _ _ => 55
  | .tst _ _ _ _ _ _ _ => 56
  | .tldx _ _ _ _ _ _ => 50
  | .tstx _ _ _ _ _ _ => 50
  | .xlate _ _ _ _ => 16
  | .cpy _ _ _ _ _ _ _ => 53
  | .gath _ _ _ _ => 19
  | .kapp _ _ _ _ _ _ _ => 53
  | .pmatch _ _ _ _ _ _ _ => 53
  | .pins _ _ _ _ _ _ _ => 53
  | .prel _ _ _ _ _ _ _ => 53
  | .blend _ _ _ _ _ _ _ => 53
  | .coll _ _ _ _ _ _ _ => 53
  | .asn _ _ _ _ _ _ _ => 53
  | .launch _ _ _ _ _ _ _ => 53
  | .waitm _ _ _ _ _ => 24
  | .amog _ _ _ _ _ _ _ _ => 58
  | .fence _ => 6
  | .icinv _ _ _ _ => 20
  | .dgstAbsorb _ _ _ => 14
  | .dgstEmit _ _ _ _ => 45
  | .dgstReset _ => 6
  | .decant _ _ _ _ _ _ _ => 53
  | .cwait _ _ _ _ => 18
  | .sld _ _ _ _ => 27
  | .sldl _ _ => 11
  | .ixp _ _ _ => 12
  | .nextChunk _ => 6
  | .rngk _ _ _ => 16
  | .rwait _ _ _ => 17
  | .radv _ _ _ => 17
  | .rpub _ _ _ => 17
  | .rcfg _ _ _ => 14
  | .mmaDelivery _ => 64
  | .mflushDelivery _ => 64
  | .cQueuePerform _ _ => 64
  | .multicastDelivery _ _ => 64
  | .transferArrival _ _ => 64
  | .gatherPush _ => 64
  | .engineCommandCompletion _ _ => 64
  | .ringSlotFill _ _ => 64
  | .unitResultDelivery _ => 64
  | .scalePush _ => 64
  | .nextResult _ => 64
  | .stallEnd _ => 64
  | .barrierPass _ => 64
  | .boundaryFault _ => 64
  | .preovr _ => 64
  | .faultServiceResume _ _ => 64
  | .taskDrainEnd _ => 64
  | .launchAccept _ _ => 64
  | .schedulerCycle _ => 64
  | .firmwarePreemptRequest _ => 64
  | .preemptionSave _ => 64
  | .taskResume _ => 64
  | .doneWrite _ => 64
  | .writeBufferDrain _ _ => 64
  | .tierMove _ _ _ _ _ => 64
  | .groupEviction _ _ _ _ => 64
  | .load _ => 64
  | .unload _ => 64
  | .swapcode _ => 64
  | .seal _ => 64
  | .adapterInstall _ => 64
  | .translationInvalidation _ => 64
  | .abetteCompile _ => 64
  | .attestationQuote _ => 64
  | .evqCtlWrite _ _ => 64
  | .registerWrite _ _ => 64
  | .hostBar2Write _ _ => 64
  | .hostBar2Read _ _ => 64
  | .hostSnoop _ _ _ => 64
  | .hostArchiveWrite _ => 64
  | .hostReadError _ _ => 64
  | .hostReadTimeout _ _ => 64
  | .linkDown _ _ => 64
  | .functionLevelReset => 64
  | .conventionalReset _ => 64
  | .routerAdvertTimeout => 64
  | .bootRetryTimeout => 64
  | .msg _ => 64
  | .write _ => 64
  | .read _ => 64
  | .rdresp _ => 64
  | .ack _ => 64
  | .collPacket _ => 64
  | .retransmitTimeout _ => 64
  | .collectiveTimeout _ => 64
  | .farRegionWithdrawn _ _ => 64
  | .powerWindow _ _ => 64
  | .thermalSupplyEvent _ _ => 64
  | .vaultScrub _ _ _ => 64
  | .memoryScrub _ _ => 64
  | .kvScrub _ _ _ => 64
  | .scrubRepair _ _ _ => 64
  | .checkerDetection _ => 64
  | .spareSubstitution _ _ => 64
  | .resourceRetirement _ _ => 64
  | .provenanceCheckpoint => 64
  | .engineFaultResolution _ _ _ => 64
  | .debugAgentResume _ => 64
  | .badcmd _ => 64
  | .minimumVersionRaise _ _ => 64
  | .linkUp _ _ => 64
  | .connectionOpen _ _ => 64
  | .perHopReplay _ => 64
  | .lldpAnnouncement _ _ => 64
  | .flitCrcReplay _ => 64
  | .msiXHoldoffExpiry _ => 64
  | .routerAdvertisement _ => 64
  | .dhcpv6Reply _ _ => 64
  | .bootUrlWrite _ => 64
  | .bootUrlWindowExpiry => 64
  | .imageFetchComplete _ _ => 64

/-- The one bits that the opcode fields of an instruction's row fix. -/
def fixedOnes : Instr → Nat
  | .idle _ _ => 0
  | .br _ => 1
  | .brp _ _ _ => 1
  | .brv _ _ _ _ => 2
  | .prep _ _ _ _ => 1
  | .prepi _ _ _ _ => 2
  | .call _ => 2
  | .ret _ => 3
  | .loopImm _ _ => 1
  | .loopReg _ _ => 2
  | .loopmImm _ _ _ => 2
  | .loopmReg _ _ _ => 3
  | .exitl _ _ => 2
  | .exitlCond _ _ _ _ => 3
  | .setstrImm _ _ => 3
  | .setstrReg _ _ => 4
  | .endTask => 2
  | .endHold _ => 3
  | .barc => 3
  | .trap _ => 4
  | .brk _ => 1
  | .ccrr _ _ => 2
  | .ccrw _ _ => 2
  | .waite _ _ _ _ => 3
  | .adapt _ => 2
  | .move _ _ _ _ => 0
  | .moveImmediate _ _ _ _ => 1
  | .longImmediate _ _ => 2
  | .add _ _ _ _ _ => 2
  | .sub _ _ _ _ _ => 2
  | .mul _ _ _ _ _ => 3
  | .mulh _ _ _ _ _ => 2
  | .mulhu _ _ _ _ _ => 3
  | .and _ _ _ _ _ => 3
  | .or _ _ _ _ _ => 4
  | .xor _ _ _ _ _ => 2
  | .andn _ _ _ _ _ => 3
  | .shl _ _ _ _ _ => 3
  | .shr _ _ _ _ _ => 4
  | .sar _ _ _ _ _ => 3
  | .rotl _ _ _ _ _ => 4
  | .min _ _ _ _ _ => 4
  | .max _ _ _ _ _ => 5
  | .minu _ _ _ _ _ => 2
  | .maxu _ _ _ _ _ => 3
  | .clz _ _ _ _ _ => 3
  | .popc _ _ _ _ _ => 4
  | .sel _ _ _ _ _ => 3
  | .ceq _ _ _ _ _ => 4
  | .cne _ _ _ _ _ => 4
  | .clt _ _ _ _ _ => 5
  | .cle _ _ _ _ _ => 3
  | .cltu _ _ _ _ _ => 4
  | .cleu _ _ _ _ _ => 4
  | .divu _ _ _ _ _ => 5
  | .remu _ _ _ _ _ => 4
  | .madd _ _ _ _ _ => 5
  | .bfx _ _ _ _ _ => 5
  | .bfi _ _ _ _ _ => 6
  | .vadd _ _ _ _ _ _ => 3
  | .vsub _ _ _ _ _ _ => 3
  | .vmul _ _ _ _ _ _ => 4
  | .vfma _ _ _ _ _ _ => 3
  | .vfms _ _ _ _ _ _ => 4
  | .vmin _ _ _ _ _ _ => 4
  | .vmax _ _ _ _ _ _ => 5
  | .vabs _ _ _ _ _ _ => 3
  | .vneg _ _ _ _ _ _ => 4
  | .vceq _ _ _ _ _ _ => 4
  | .vcne _ _ _ _ _ _ => 5
  | .vclt _ _ _ _ _ _ => 4
  | .vcle _ _ _ _ _ _ => 5
  | .vcun _ _ _ _ _ _ => 5
  | .vsel _ _ _ _ _ _ => 6
  | .vand _ _ _ _ _ _ => 3
  | .vor _ _ _ _ _ _ => 4
  | .vxor _ _ _ _ _ _ => 4
  | .vshl _ _ _ _ _ _ => 5
  | .vshr _ _ _ _ _ _ => 4
  | .vsar _ _ _ _ _ _ => 5
  | .vcvt _ _ _ _ _ _ => 5
  | .vqnt _ _ _ _ _ _ => 6
  | .vdqnt _ _ _ _ _ _ => 4
  | .vredadd _ _ _ _ _ _ => 5
  | .vredmax _ _ _ _ _ _ => 5
  | .vredmin _ _ _ _ _ _ => 6
  | .vbcast _ _ _ _ _ _ => 5
  | .vperm _ _ _ _ _ _ => 6
  | .vscan _ _ _ _ _ _ => 6
  | .viota _ _ _ _ _ _ => 7
  | .vcomp _ _ _ _ _ _ => 3
  | .vshift _ _ _ _ _ _ => 4
  | .vpack _ _ _ _ _ _ => 4
  | .vunpk _ _ _ _ _ _ => 5
  | .vclamp _ _ _ _ _ _ => 4
  | .vround _ _ _ _ _ _ => 5
  | .exp2 _ _ _ _ => 3
  | .log2 _ _ _ _ => 3
  | .rcp _ _ _ _ => 4
  | .rsqrt _ _ _ _ => 3
  | .sqrt _ _ _ _ => 4
  | .tanh _ _ _ _ => 4
  | .wmac _ _ _ _ _ => 1
  | .wmacy _ _ _ _ _ => 1
  | .wadd _ _ _ _ => 2
  | .wsub _ _ _ _ => 1
  | .waddy _ _ _ _ => 2
  | .wsuby _ _ _ _ => 2
  | .ymac _ _ _ _ _ => 3
  | .yadd _ _ _ _ => 1
  | .ysub _ _ _ _ => 2
  | .yclr _ _ _ => 2
  | .wclr _ _ _ => 3
  | .wflush _ _ _ _ => 2
  | .wcpy _ _ _ _ => 3
  | .mma _ _ _ _ _ => 1
  | .mmal _ _ _ _ => 1
  | .mmals _ _ _ _ => 2
  | .mmat _ _ _ _ _ => 1
  | .mflush _ _ _ _ _ _ _ _ _ => 2
  | .mclr _ _ => 2
  | .mfmt _ _ _ _ => 3
  | .mdrain _ => 1
  | .tzero _ _ => 2
  | .ttrn _ _ _ _ => 2
  | .topk _ _ _ _ _ _ _ => 3
  | .rowmax _ _ _ _ _ _ => 2
  | .tqnt _ _ _ _ _ _ _ => 3
  | .maskld _ _ => 3
  | .ld _ _ _ _ _ _ _ => 1
  | .st _ _ _ _ _ _ => 1
  | .vld _ _ _ _ _ => 2
  | .vst _ _ _ _ _ => 1
  | .tldl _ _ _ _ _ => 2
  | .tstl _ _ _ _ _ => 2
  | .xld _ _ _ _ _ => 3
  | .xsc _ _ _ _ => 1
  | .amol _ _ _ _ _ _ _ _ => 2
  | .acqb _ _ => 2
  | .relb _ _ => 3
  | .tdl _ _ _ _ _ => 2
  | .vlds _ _ _ _ _ _ _ => 3
  | .ldc _ _ _ _ _ _ _ => 1
  | .stc _ _ _ _ _ _ => 1
  | .vldc _ _ _ _ _ => 2
  | .vstc _ _ _ _ _ => 1
  | .tldc _ _ _ _ _ => 2
  | .tldm _ _ _ _ _ _ => 2
  | .arm _ _ => 3
  | .amoc _ _ _ _ _ _ _ _ => 1
  | .mark _ => 2
  | .tld _ _ _ _ _ _ _ => 1
  | .tldRing _ _ _ _ _ _ _ => 2
  | .tst _ _ _ _ _ _ _ => 1
  | .tldx _ _ _ _ _ _ => 2
  | .tstx _ _ _ _ _ _ => 1
  | .xlate _ _ _ _ => 2
  | .cpy _ _ _ _ _ _ _ => 2
  | .gath _ _ _ _ => 3
  | .kapp _ _ _ _ _ _ _ => 1
  | .pmatch _ _ _ _ _ _ _ => 2
  | .pins _ _ _ _ _ _ _ => 2
  | .prel _ _ _ _ _ _ _ => 3
  | .blend _ _ _ _ _ _ _ => 2
  | .coll _ _ _ _ _ _ _ => 3
  | .asn _ _ _ _ _ _ _ => 3
  | .launch _ _ _ _ _ _ _ => 4
  | .waitm _ _ _ _ _ => 1
  | .amog _ _ _ _ _ _ _ _ => 2
  | .fence _ => 2
  | .icinv _ _ _ _ => 3
  | .dgstAbsorb _ _ _ => 2
  | .dgstEmit _ _ _ _ => 4
  | .dgstReset _ => 4
  | .decant _ _ _ _ _ _ _ => 3
  | .cwait _ _ _ _ => 3
  | .sld _ _ _ _ => 1
  | .sldl _ _ => 1
  | .ixp _ _ _ => 2
  | .nextChunk _ => 1
  | .rngk _ _ _ => 2
  | .rwait _ _ _ => 2
  | .radv _ _ _ => 3
  | .rpub _ _ _ => 1
  | .rcfg _ _ _ => 2
  | .mmaDelivery _ => 0
  | .mflushDelivery _ => 0
  | .cQueuePerform _ _ => 0
  | .multicastDelivery _ _ => 0
  | .transferArrival _ _ => 0
  | .gatherPush _ => 0
  | .engineCommandCompletion _ _ => 0
  | .ringSlotFill _ _ => 0
  | .unitResultDelivery _ => 0
  | .scalePush _ => 0
  | .nextResult _ => 0
  | .stallEnd _ => 0
  | .barrierPass _ => 0
  | .boundaryFault _ => 0
  | .preovr _ => 0
  | .faultServiceResume _ _ => 0
  | .taskDrainEnd _ => 0
  | .launchAccept _ _ => 0
  | .schedulerCycle _ => 0
  | .firmwarePreemptRequest _ => 0
  | .preemptionSave _ => 0
  | .taskResume _ => 0
  | .doneWrite _ => 0
  | .writeBufferDrain _ _ => 0
  | .tierMove _ _ _ _ _ => 0
  | .groupEviction _ _ _ _ => 0
  | .load _ => 0
  | .unload _ => 0
  | .swapcode _ => 0
  | .seal _ => 0
  | .adapterInstall _ => 0
  | .translationInvalidation _ => 0
  | .abetteCompile _ => 0
  | .attestationQuote _ => 0
  | .evqCtlWrite _ _ => 0
  | .registerWrite _ _ => 0
  | .hostBar2Write _ _ => 0
  | .hostBar2Read _ _ => 0
  | .hostSnoop _ _ _ => 0
  | .hostArchiveWrite _ => 0
  | .hostReadError _ _ => 0
  | .hostReadTimeout _ _ => 0
  | .linkDown _ _ => 0
  | .functionLevelReset => 0
  | .conventionalReset _ => 0
  | .routerAdvertTimeout => 0
  | .bootRetryTimeout => 0
  | .msg _ => 0
  | .write _ => 0
  | .read _ => 0
  | .rdresp _ => 0
  | .ack _ => 0
  | .collPacket _ => 0
  | .retransmitTimeout _ => 0
  | .collectiveTimeout _ => 0
  | .farRegionWithdrawn _ _ => 0
  | .powerWindow _ _ => 0
  | .thermalSupplyEvent _ _ => 0
  | .vaultScrub _ _ _ => 0
  | .memoryScrub _ _ => 0
  | .kvScrub _ _ _ => 0
  | .scrubRepair _ _ _ => 0
  | .checkerDetection _ => 0
  | .spareSubstitution _ _ => 0
  | .resourceRetirement _ _ => 0
  | .provenanceCheckpoint => 0
  | .engineFaultResolution _ _ _ => 0
  | .debugAgentResume _ => 0
  | .badcmd _ => 0
  | .minimumVersionRaise _ _ => 0
  | .linkUp _ _ => 0
  | .connectionOpen _ _ => 0
  | .perHopReplay _ => 0
  | .lldpAnnouncement _ _ => 0
  | .flitCrcReplay _ => 0
  | .msiXHoldoffExpiry _ => 0
  | .routerAdvertisement _ => 0
  | .dhcpv6Reply _ _ => 0
  | .bootUrlWrite _ => 0
  | .bootUrlWindowExpiry => 0
  | .imageFetchComplete _ _ => 0

/-- A field of a word as a bit vector. -/
def bits (n w lo : Nat) : BitVec n := BitVec.ofNat n (w / 2 ^ lo)

/-- The instruction that the opcode of a B word names (R47). -/
def candidateB (w : Nat) : Option Instr :=
  match fieldOf w 31 26 with
  | 1 => some (.br (bits 2 w 24))
  | 2 => some (.brp (bits 2 w 24) (bits 1 w 23) (bits 4 w 19))
  | 3 => some (.brv (bits 2 w 24) (bits 1 w 23) (bits 3 w 20) (bits 3 w 17))
  | 4 => some (.prep (bits 2 w 24) (bits 1 w 23) (bits 5 w 18) (bits 5 w 13))
  | 5 => some (.prepi (bits 2 w 24) (bits 1 w 23) (bits 13 w 10) (bits 10 w 0))
  | 6 => some (.call (bits 2 w 24))
  | 7 => some (.ret (bits 1 w 25))
  | 8 => if bitOf w 25 then some (.loopReg (bits 5 w 12) (bits 12 w 0)) else some (.loopImm (bits 13 w 12) (bits 12 w 0))
  | 9 => if bitOf w 25 then some (.loopmReg (bits 4 w 21) (bits 5 w 12) (bits 12 w 0)) else some (.loopmImm (bits 4 w 21) (bits 9 w 12) (bits 12 w 0))
  | 10 => if bitOf w 23 then some (.exitlCond (bits 2 w 24) (bits 1 w 22) (bits 4 w 18) (bits 3 w 15)) else some (.exitl (bits 2 w 24) (bits 3 w 15))
  | 11 => if bitOf w 22 then some (.setstrReg (bits 3 w 23) (bits 5 w 0)) else some (.setstrImm (bits 3 w 23) (bits 22 w 0))
  | 12 => some (.endTask)
  | 13 => some (.endHold (bits 5 w 21))
  | 14 => some (.barc)
  | 15 => some (.trap (bits 16 w 0))
  | 16 => some (.brk (bits 16 w 0))
  | 17 => some (.ccrr (bits 5 w 21) (bits 4 w 17))
  | 18 => some (.ccrw (bits 5 w 21) (bits 4 w 17))
  | 19 => some (.waite (bits 8 w 18) (bits 1 w 17) (bits 5 w 12) (bits 5 w 7))
  | 20 => some (.adapt (bits 10 w 16))
  | _ => none

/-- The instruction that the opcode of a X word names (R47). -/
def candidateX (w : Nat) : Option Instr :=
  match fieldOf w 63 58 with
  | 1 => some (.mma (bits 2 w 56) (bits 2 w 52) (bits 4 w 48) (bits 4 w 44) (bits 6 w 38))
  | 2 => some (.mmal (bits 2 w 56) (bits 2 w 52) (bits 4 w 48) (bits 6 w 38))
  | 3 => some (.mmals (bits 2 w 56) (bits 2 w 52) (bits 4 w 48) (bits 6 w 38))
  | 4 => some (.mmat (bits 2 w 56) (bits 2 w 52) (bits 4 w 48) (bits 4 w 44) (bits 6 w 38))
  | 5 => some (.mflush (bits 2 w 56) (bits 2 w 48) (bits 3 w 35) (bits 1 w 34) (bits 2 w 32) (bits 12 w 20) (bits 1 w 19) (bits 16 w 0) (bits 6 w 38))
  | 6 => some (.mclr (bits 2 w 52) (bits 6 w 38))
  | 7 => some (.mfmt (bits 2 w 56) (bits 1 w 37) (bits 8 w 0) (bits 6 w 38))
  | 8 => some (.mdrain (bits 6 w 38))
  | 9 => some (.tzero (bits 4 w 52) (bits 6 w 38))
  | 10 => some (.ttrn (bits 4 w 52) (bits 4 w 48) (bits 1 w 37) (bits 6 w 38))
  | 11 => some (.topk (bits 4 w 52) (bits 4 w 48) (bits 6 w 32) (bits 7 w 25) (bits 5 w 20) (bits 1 w 19) (bits 6 w 38))
  | 12 => some (.rowmax (bits 4 w 52) (bits 4 w 48) (bits 7 w 25) (bits 5 w 20) (bits 1 w 19) (bits 6 w 38))
  | 13 => some (.tqnt (bits 4 w 52) (bits 3 w 35) (bits 1 w 34) (bits 3 w 31) (bits 15 w 16) (bits 16 w 0) (bits 6 w 38))
  | 14 => some (.maskld (bits 4 w 48) (bits 6 w 38))
  | _ => none

/-- The instruction that the opcode of a L word names (R47). -/
def candidateL (w : Nat) : Option Instr :=
  match fieldOf w 63 58 with
  | 1 => some (.ld (bits 3 w 55) (bits 6 w 49) (bits 3 w 46) (bits 2 w 44) (bits 1 w 43) (bits 5 w 38) (bits 32 w 0))
  | 2 => some (.st (bits 3 w 55) (bits 6 w 49) (bits 3 w 46) (bits 2 w 44) (bits 5 w 38) (bits 32 w 0))
  | 3 => some (.vld (bits 3 w 55) (bits 6 w 49) (bits 3 w 46) (bits 5 w 38) (bits 32 w 0))
  | 4 => some (.vst (bits 3 w 55) (bits 6 w 49) (bits 3 w 46) (bits 5 w 38) (bits 32 w 0))
  | 5 => some (.tldl (bits 3 w 55) (bits 6 w 49) (bits 3 w 46) (bits 4 w 40) (bits 32 w 0))
  | 6 => some (.tstl (bits 3 w 55) (bits 6 w 49) (bits 3 w 46) (bits 4 w 40) (bits 32 w 0))
  | 7 => some (.xld (bits 3 w 55) (bits 6 w 49) (bits 3 w 46) (bits 6 w 40) (bits 32 w 0))
  | 8 => some (.xsc (bits 3 w 55) (bits 6 w 49) (bits 3 w 46) (bits 32 w 0))
  | 9 => some (.amol (bits 3 w 55) (bits 6 w 49) (bits 3 w 46) (bits 1 w 45) (bits 3 w 42) (bits 5 w 37) (bits 5 w 32) (bits 32 w 0))
  | 10 => some (.acqb (bits 6 w 49) (bits 5 w 44))
  | 11 => some (.relb (bits 6 w 49) (bits 5 w 44))
  | 12 => some (.tdl (bits 3 w 55) (bits 6 w 49) (bits 3 w 46) (bits 5 w 41) (bits 32 w 0))
  | 13 => some (.vlds (bits 3 w 55) (bits 6 w 49) (bits 3 w 46) (bits 2 w 44) (bits 5 w 38) (bits 5 w 33) (bits 32 w 0))
  | _ => none

/-- The instruction that the opcode of a C word names (R47). -/
def candidateC (w : Nat) : Option Instr :=
  match fieldOf w 63 58 with
  | 1 => some (.ldc (bits 3 w 55) (bits 6 w 49) (bits 3 w 46) (bits 2 w 44) (bits 1 w 43) (bits 5 w 38) (bits 32 w 0))
  | 2 => some (.stc (bits 3 w 55) (bits 6 w 49) (bits 3 w 46) (bits 2 w 44) (bits 5 w 38) (bits 32 w 0))
  | 3 => some (.vldc (bits 3 w 55) (bits 6 w 49) (bits 3 w 46) (bits 5 w 38) (bits 32 w 0))
  | 4 => some (.vstc (bits 3 w 55) (bits 6 w 49) (bits 3 w 46) (bits 5 w 38) (bits 32 w 0))
  | 5 => some (.tldc (bits 3 w 55) (bits 6 w 49) (bits 3 w 46) (bits 4 w 40) (bits 32 w 0))
  | 6 => some (.tldm (bits 3 w 55) (bits 6 w 49) (bits 3 w 46) (bits 4 w 42) (bits 5 w 37) (bits 32 w 0))
  | 7 => some (.arm (bits 6 w 49) (bits 4 w 45))
  | 8 => some (.amoc (bits 3 w 55) (bits 6 w 49) (bits 3 w 46) (bits 1 w 45) (bits 3 w 42) (bits 5 w 37) (bits 5 w 32) (bits 32 w 0))
  | 9 => some (.mark (bits 6 w 49))
  | _ => none

/-- The instruction that the opcode of a G word names (R47). -/
def candidateG (w : Nat) : Option Instr :=
  match fieldOf w 63 58 with
  | 1 => if bitOf w 43 then some (.tldRing (bits 3 w 55) (bits 6 w 49) (bits 5 w 44) (bits 3 w 39) (bits 3 w 36) (bits 3 w 33) (bits 32 w 0)) else some (.tld (bits 3 w 55) (bits 6 w 49) (bits 5 w 44) (bits 4 w 39) (bits 3 w 36) (bits 3 w 33) (bits 32 w 0))
  | 2 => some (.tst (bits 3 w 55) (bits 6 w 49) (bits 5 w 44) (bits 4 w 39) (bits 3 w 36) (bits 3 w 33) (bits 32 w 0))
  | 3 => some (.tldx (bits 3 w 55) (bits 6 w 49) (bits 3 w 46) (bits 3 w 43) (bits 3 w 40) (bits 32 w 0))
  | 4 => some (.tstx (bits 3 w 55) (bits 6 w 49) (bits 3 w 46) (bits 3 w 43) (bits 3 w 40) (bits 32 w 0))
  | 5 => some (.xlate (bits 6 w 49) (bits 3 w 46) (bits 5 w 41) (bits 2 w 39))
  | 6 => some (.cpy (bits 3 w 55) (bits 6 w 49) (bits 3 w 46) (bits 4 w 42) (bits 4 w 38) (bits 1 w 37) (bits 32 w 0))
  | 7 => some (.gath (bits 6 w 49) (bits 5 w 44) (bits 2 w 42) (bits 6 w 36))
  | 8 => some (.kapp (bits 3 w 55) (bits 6 w 49) (bits 3 w 46) (bits 4 w 42) (bits 4 w 38) (bits 1 w 37) (bits 32 w 0))
  | 9 => some (.pmatch (bits 3 w 55) (bits 6 w 49) (bits 3 w 46) (bits 4 w 42) (bits 4 w 38) (bits 1 w 37) (bits 32 w 0))
  | 10 => some (.pins (bits 3 w 55) (bits 6 w 49) (bits 3 w 46) (bits 4 w 42) (bits 4 w 38) (bits 1 w 37) (bits 32 w 0))
  | 11 => some (.prel (bits 3 w 55) (bits 6 w 49) (bits 3 w 46) (bits 4 w 42) (bits 4 w 38) (bits 1 w 37) (bits 32 w 0))
  | 12 => some (.blend (bits 3 w 55) (bits 6 w 49) (bits 3 w 46) (bits 4 w 42) (bits 4 w 38) (bits 1 w 37) (bits 32 w 0))
  | 13 => some (.coll (bits 3 w 55) (bits 6 w 49) (bits 3 w 46) (bits 4 w 42) (bits 4 w 38) (bits 1 w 37) (bits 32 w 0))
  | 14 => some (.asn (bits 3 w 55) (bits 6 w 49) (bits 3 w 46) (bits 4 w 42) (bits 4 w 38) (bits 1 w 37) (bits 32 w 0))
  | 15 => some (.launch (bits 3 w 55) (bits 6 w 49) (bits 3 w 46) (bits 4 w 42) (bits 4 w 38) (bits 1 w 37) (bits 32 w 0))
  | 16 => some (.waitm (bits 3 w 55) (bits 6 w 49) (bits 5 w 44) (bits 5 w 39) (bits 5 w 34))
  | 17 => some (.amog (bits 3 w 55) (bits 6 w 49) (bits 3 w 46) (bits 1 w 45) (bits 3 w 42) (bits 5 w 37) (bits 5 w 32) (bits 32 w 0))
  | 18 => some (.fence (bits 6 w 49))
  | 19 => some (.icinv (bits 6 w 49) (bits 5 w 44) (bits 5 w 39) (bits 4 w 35))
  | 20 =>
    if fieldOf w 48 46 = 5 then some (.dgstEmit (bits 6 w 49) (bits 3 w 38) (bits 4 w 34) (bits 32 w 0))
    else if fieldOf w 48 46 = 6 then some (.dgstReset (bits 6 w 49))
    else some (.dgstAbsorb (bits 6 w 49) (bits 3 w 46) (bits 5 w 41))
  | 21 => some (.decant (bits 3 w 55) (bits 6 w 49) (bits 3 w 46) (bits 4 w 42) (bits 4 w 38) (bits 1 w 37) (bits 32 w 0))
  | 22 => some (.cwait (bits 3 w 55) (bits 6 w 49) (bits 4 w 45) (bits 5 w 40))
  | _ => none

/-- The instruction that the opcode of a Q word names (R47). -/
def candidateQ (w : Nat) : Option Instr :=
  match fieldOf w 31 27 with
  | 1 => some (.sld (bits 6 w 21) (bits 3 w 18) (bits 8 w 10) (bits 10 w 0))
  | 2 => some (.sldl (bits 6 w 21) (bits 5 w 16))
  | 3 => some (.ixp (bits 6 w 21) (bits 5 w 16) (bits 1 w 15))
  | 4 => some (.nextChunk (bits 6 w 21))
  | 5 => some (.rngk (bits 6 w 21) (bits 5 w 16) (bits 5 w 11))
  | 6 => some (.rwait (bits 6 w 21) (bits 3 w 18) (bits 8 w 10))
  | 7 => some (.radv (bits 6 w 21) (bits 3 w 18) (bits 8 w 10))
  | 8 => some (.rpub (bits 6 w 21) (bits 3 w 18) (bits 8 w 10))
  | 9 => some (.rcfg (bits 6 w 21) (bits 3 w 18) (bits 5 w 13))
  | _ => none

/-- The instruction that the opcode of a W word names (R47). -/
def candidateW (v : BitVec 1) (w : Nat) : Option Instr :=
  match fieldOf w 31 27 with
  | 1 => some (.wmac v (bits 6 w 21) (bits 6 w 15) (bits 8 w 7) (bits 3 w 4))
  | 2 => some (.wmacy v (bits 6 w 21) (bits 4 w 15) (bits 8 w 7) (bits 3 w 4))
  | 3 => some (.wadd v (bits 6 w 21) (bits 6 w 15) (bits 3 w 4))
  | 4 => some (.wsub v (bits 6 w 21) (bits 6 w 15) (bits 3 w 4))
  | 5 => some (.waddy v (bits 6 w 21) (bits 4 w 15) (bits 3 w 4))
  | 6 => some (.wsuby v (bits 6 w 21) (bits 4 w 15) (bits 3 w 4))
  | 7 => some (.ymac v (bits 4 w 21) (bits 6 w 15) (bits 8 w 7) (bits 3 w 4))
  | 8 => some (.yadd v (bits 4 w 21) (bits 6 w 15) (bits 3 w 4))
  | 9 => some (.ysub v (bits 4 w 21) (bits 6 w 15) (bits 3 w 4))
  | 10 => some (.yclr v (bits 4 w 21) (bits 3 w 4))
  | 11 => some (.wclr v (bits 6 w 21) (bits 3 w 4))
  | 12 => some (.wflush v (bits 6 w 21) (bits 5 w 15) (bits 3 w 4))
  | 13 => some (.wcpy v (bits 6 w 21) (bits 6 w 15) (bits 3 w 4))
  | _ => none

/-- The integer operation that a trigger of ia or ib names (R47). -/
def candidateInt (m : BitVec 2) (w : Nat) : Option Instr :=
  match fieldOf w 26 20 with
  | 1 => some (.add m (bits 1 w 27) (bits 1 w 17) (bits 9 w 6) (bits 6 w 0))
  | 2 => some (.sub m (bits 1 w 27) (bits 1 w 17) (bits 9 w 6) (bits 6 w 0))
  | 3 => some (.mul m (bits 1 w 27) (bits 1 w 17) (bits 9 w 6) (bits 6 w 0))
  | 4 => some (.mulh m (bits 1 w 27) (bits 1 w 17) (bits 9 w 6) (bits 6 w 0))
  | 5 => some (.mulhu m (bits 1 w 27) (bits 1 w 17) (bits 9 w 6) (bits 6 w 0))
  | 6 => some (.and m (bits 1 w 27) (bits 1 w 17) (bits 9 w 6) (bits 6 w 0))
  | 7 => some (.or m (bits 1 w 27) (bits 1 w 17) (bits 9 w 6) (bits 6 w 0))
  | 8 => some (.xor m (bits 1 w 27) (bits 1 w 17) (bits 9 w 6) (bits 6 w 0))
  | 9 => some (.andn m (bits 1 w 27) (bits 1 w 17) (bits 9 w 6) (bits 6 w 0))
  | 10 => some (.shl m (bits 1 w 27) (bits 1 w 17) (bits 9 w 6) (bits 6 w 0))
  | 11 => some (.shr m (bits 1 w 27) (bits 1 w 17) (bits 9 w 6) (bits 6 w 0))
  | 12 => some (.sar m (bits 1 w 27) (bits 1 w 17) (bits 9 w 6) (bits 6 w 0))
  | 13 => some (.rotl m (bits 1 w 27) (bits 1 w 17) (bits 9 w 6) (bits 6 w 0))
  | 14 => some (.min m (bits 1 w 27) (bits 1 w 17) (bits 9 w 6) (bits 6 w 0))
  | 15 => some (.max m (bits 1 w 27) (bits 1 w 17) (bits 9 w 6) (bits 6 w 0))
  | 16 => some (.minu m (bits 1 w 27) (bits 1 w 17) (bits 9 w 6) (bits 6 w 0))
  | 17 => some (.maxu m (bits 1 w 27) (bits 1 w 17) (bits 9 w 6) (bits 6 w 0))
  | 18 => some (.clz m (bits 1 w 27) (bits 1 w 17) (bits 9 w 6) (bits 6 w 0))
  | 19 => some (.popc m (bits 1 w 27) (bits 1 w 17) (bits 9 w 6) (bits 6 w 0))
  | 20 => some (.sel m (bits 1 w 27) (bits 1 w 17) (bits 9 w 6) (bits 6 w 0))
  | 21 => some (.ceq m (bits 1 w 27) (bits 1 w 17) (bits 9 w 6) (bits 6 w 0))
  | 22 => some (.cne m (bits 1 w 27) (bits 1 w 17) (bits 9 w 6) (bits 6 w 0))
  | 23 => some (.clt m (bits 1 w 27) (bits 1 w 17) (bits 9 w 6) (bits 6 w 0))
  | 24 => some (.cle m (bits 1 w 27) (bits 1 w 17) (bits 9 w 6) (bits 6 w 0))
  | 25 => some (.cltu m (bits 1 w 27) (bits 1 w 17) (bits 9 w 6) (bits 6 w 0))
  | 26 => some (.cleu m (bits 1 w 27) (bits 1 w 17) (bits 9 w 6) (bits 6 w 0))
  | 27 => some (.divu m (bits 1 w 27) (bits 1 w 17) (bits 9 w 6) (bits 6 w 0))
  | 28 => some (.remu m (bits 1 w 27) (bits 1 w 17) (bits 9 w 6) (bits 6 w 0))
  | 29 => some (.madd m (bits 1 w 27) (bits 1 w 17) (bits 9 w 6) (bits 6 w 0))
  | 30 => some (.bfx m (bits 1 w 27) (bits 1 w 17) (bits 9 w 6) (bits 6 w 0))
  | 31 => some (.bfi m (bits 1 w 27) (bits 1 w 17) (bits 9 w 6) (bits 6 w 0))
  | _ => none

/-- The vector operation that a trigger of va or vb names (R47). -/
def candidateVec (m : BitVec 2) (w : Nat) : Option Instr :=
  match fieldOf w 26 20 with
  | 1 => some (.vadd m (bits 1 w 27) (bits 3 w 17) (bits 2 w 15) (bits 9 w 6) (bits 6 w 0))
  | 2 => some (.vsub m (bits 1 w 27) (bits 3 w 17) (bits 2 w 15) (bits 9 w 6) (bits 6 w 0))
  | 3 => some (.vmul m (bits 1 w 27) (bits 3 w 17) (bits 2 w 15) (bits 9 w 6) (bits 6 w 0))
  | 4 => some (.vfma m (bits 1 w 27) (bits 3 w 17) (bits 2 w 15) (bits 9 w 6) (bits 6 w 0))
  | 5 => some (.vfms m (bits 1 w 27) (bits 3 w 17) (bits 2 w 15) (bits 9 w 6) (bits 6 w 0))
  | 6 => some (.vmin m (bits 1 w 27) (bits 3 w 17) (bits 2 w 15) (bits 9 w 6) (bits 6 w 0))
  | 7 => some (.vmax m (bits 1 w 27) (bits 3 w 17) (bits 2 w 15) (bits 9 w 6) (bits 6 w 0))
  | 8 => some (.vabs m (bits 1 w 27) (bits 3 w 17) (bits 2 w 15) (bits 9 w 6) (bits 6 w 0))
  | 9 => some (.vneg m (bits 1 w 27) (bits 3 w 17) (bits 2 w 15) (bits 9 w 6) (bits 6 w 0))
  | 10 => some (.vceq m (bits 1 w 27) (bits 3 w 17) (bits 2 w 15) (bits 9 w 6) (bits 6 w 0))
  | 11 => some (.vcne m (bits 1 w 27) (bits 3 w 17) (bits 2 w 15) (bits 9 w 6) (bits 6 w 0))
  | 12 => some (.vclt m (bits 1 w 27) (bits 3 w 17) (bits 2 w 15) (bits 9 w 6) (bits 6 w 0))
  | 13 => some (.vcle m (bits 1 w 27) (bits 3 w 17) (bits 2 w 15) (bits 9 w 6) (bits 6 w 0))
  | 14 => some (.vcun m (bits 1 w 27) (bits 3 w 17) (bits 2 w 15) (bits 9 w 6) (bits 6 w 0))
  | 15 => some (.vsel m (bits 1 w 27) (bits 3 w 17) (bits 2 w 15) (bits 9 w 6) (bits 6 w 0))
  | 16 => some (.vand m (bits 1 w 27) (bits 3 w 17) (bits 2 w 15) (bits 9 w 6) (bits 6 w 0))
  | 17 => some (.vor m (bits 1 w 27) (bits 3 w 17) (bits 2 w 15) (bits 9 w 6) (bits 6 w 0))
  | 18 => some (.vxor m (bits 1 w 27) (bits 3 w 17) (bits 2 w 15) (bits 9 w 6) (bits 6 w 0))
  | 19 => some (.vshl m (bits 1 w 27) (bits 3 w 17) (bits 2 w 15) (bits 9 w 6) (bits 6 w 0))
  | 20 => some (.vshr m (bits 1 w 27) (bits 3 w 17) (bits 2 w 15) (bits 9 w 6) (bits 6 w 0))
  | 21 => some (.vsar m (bits 1 w 27) (bits 3 w 17) (bits 2 w 15) (bits 9 w 6) (bits 6 w 0))
  | 22 => some (.vcvt m (bits 1 w 27) (bits 3 w 17) (bits 2 w 15) (bits 9 w 6) (bits 6 w 0))
  | 23 => some (.vqnt m (bits 1 w 27) (bits 3 w 17) (bits 2 w 15) (bits 9 w 6) (bits 6 w 0))
  | 24 => some (.vdqnt m (bits 1 w 27) (bits 3 w 17) (bits 2 w 15) (bits 9 w 6) (bits 6 w 0))
  | 25 => some (.vredadd m (bits 1 w 27) (bits 3 w 17) (bits 2 w 15) (bits 9 w 6) (bits 6 w 0))
  | 26 => some (.vredmax m (bits 1 w 27) (bits 3 w 17) (bits 2 w 15) (bits 9 w 6) (bits 6 w 0))
  | 27 => some (.vredmin m (bits 1 w 27) (bits 3 w 17) (bits 2 w 15) (bits 9 w 6) (bits 6 w 0))
  | 28 => some (.vbcast m (bits 1 w 27) (bits 3 w 17) (bits 2 w 15) (bits 9 w 6) (bits 6 w 0))
  | 29 => some (.vperm m (bits 1 w 27) (bits 3 w 17) (bits 2 w 15) (bits 9 w 6) (bits 6 w 0))
  | 30 => some (.vscan m (bits 1 w 27) (bits 3 w 17) (bits 2 w 15) (bits 9 w 6) (bits 6 w 0))
  | 31 => some (.viota m (bits 1 w 27) (bits 3 w 17) (bits 2 w 15) (bits 9 w 6) (bits 6 w 0))
  | 32 => some (.vcomp m (bits 1 w 27) (bits 3 w 17) (bits 2 w 15) (bits 9 w 6) (bits 6 w 0))
  | 33 => some (.vshift m (bits 1 w 27) (bits 3 w 17) (bits 2 w 15) (bits 9 w 6) (bits 6 w 0))
  | 34 => some (.vpack m (bits 1 w 27) (bits 3 w 17) (bits 2 w 15) (bits 9 w 6) (bits 6 w 0))
  | 35 => some (.vunpk m (bits 1 w 27) (bits 3 w 17) (bits 2 w 15) (bits 9 w 6) (bits 6 w 0))
  | 36 => some (.vclamp m (bits 1 w 27) (bits 3 w 17) (bits 2 w 15) (bits 9 w 6) (bits 6 w 0))
  | 37 => some (.vround m (bits 1 w 27) (bits 3 w 17) (bits 2 w 15) (bits 9 w 6) (bits 6 w 0))
  | _ => none

/-- The special function that a trigger of sf names (R47). -/
def candidateSf (m : BitVec 2) (w : Nat) : Option Instr :=
  match fieldOf w 26 20 with
  | 1 => some (.exp2 m (bits 2 w 15) (bits 9 w 6) (bits 6 w 0))
  | 2 => some (.log2 m (bits 2 w 15) (bits 9 w 6) (bits 6 w 0))
  | 3 => some (.rcp m (bits 2 w 15) (bits 9 w 6) (bits 6 w 0))
  | 4 => some (.rsqrt m (bits 2 w 15) (bits 9 w 6) (bits 6 w 0))
  | 5 => some (.sqrt m (bits 2 w 15) (bits 9 w 6) (bits 6 w 0))
  | 6 => some (.tanh m (bits 2 w 15) (bits 9 w 6) (bits 6 w 0))
  | _ => none

/-- The instruction that the form, unit and operation of an M word name (R41, R44, R47). -/
def candidateM (m : BitVec 2) (w : Nat) : Option Instr :=
  match fieldOf w 31 30 with
  | 0 => some (.move m (bits 9 w 21) (bits 9 w 12) (bits 6 w 0))
  | 1 =>
    match fieldOf w 29 27 with
    | 0 => candidateInt m w
    | 1 => candidateInt m w
    | 2 => candidateVec m w
    | 3 => candidateVec m w
    | 4 => candidateSf m w
    | _ => none
  | 2 => some (.moveImmediate m (bits 9 w 21) (bits 15 w 6) (bits 6 w 0))
  | _ => some (.longImmediate m (bits 30 w 0))

/-- The candidate of a word in slot `n` (R28, R47). -/
def candidate (n w : Nat) : Option Instr :=
  match n with
  | 0 => candidateB w
  | 1 => candidateM 0 w
  | 2 => candidateM 1 w
  | 3 => candidateM 2 w
  | 4 => candidateM 3 w
  | 5 => candidateW 0 w
  | 6 => candidateW 1 w
  | 7 => candidateX w
  | 8 => candidateL w
  | 9 => candidateC w
  | 10 => candidateG w
  | 11 => candidateQ w
  | _ => none

/-- The instruction of word `w` in slot `n`, or why there is none. -/
def decodeSlot (n w : Nat) : Except Reject Instr :=
  if 12 ≤ n then .error .shape
  else
    match candidate n w with
    | none => .error .unassigned
    | some i => if encodeNat i ≠ w then .error .reserved else if i.wf then .ok i else .error .field

/-- The bits of a slot's word (R28). -/
def slotWidth (n : Nat) : Nat := if 7 ≤ n ∧ n ≤ 10 then 64 else 32

/-- The 32-bit words of an instruction, low half first (R9): an idle bundle is its header. -/
def encode (i : Instr) : List Word32 :=
  match slotOf i with
  | some n =>
    if slotWidth n = 64 then [BitVec.ofNat 32 (encodeNat i), BitVec.ofNat 32 (encodeNat i / 2 ^ 32)]
    else [BitVec.ofNat 32 (encodeNat i)]
  | none =>
    match i with
    | .idle _ _ => [BitVec.ofNat 32 (encodeNat i)]
    | _ => []

/-- An idle header: P and D clear (R31). -/
def headerIdle (h : Nat) : Bool := h % 2 ^ 24 == 0

/-- The idle bundle of a header (R31). -/
def decodeIdle (h : Nat) : Instr := .idle (bits 2 h 30) (bits 6 h 24)

/-- Whether an increment word follows the header (R28). -/
def hasIncrement (h : Nat) : Bool := !headerIdle h && fieldOf h 29 27 != 0

/-- The 32-bit words a slot's own word takes in the bundle (R28). -/
def slotWords (h n : Nat) : Nat := if bitOf h n then slotWidth n / 32 else 0

/-- The length of a bundle in 32-bit words, from its header (R28). -/
def bundleLength (h : Nat) : Nat :=
  1 + (if hasIncrement h then 1 else 0) + ((List.range 12).map (slotWords h)).sum

/-- A bundle as it lies in memory: the header, the increment word, and the new word of each slot that has its P bit
set, with the word's position in the bundle. -/
structure RawBundle where
  header : Nat
  inc : Nat
  words : List (Nat × Nat × Nat)
  length : Nat
  deriving DecidableEq, Repr

/-- The 32-bit words of a byte string (R9). -/
def wordsOf : List Byte → List Nat
  | a :: b :: c :: d :: r => leNat [a, b, c, d] :: wordsOf r
  | _ => []

/-- The new words of the slots `ns`, read from the bundle's words at position `pos`. -/
def takeWords (h : Nat) (ws : List Nat) : Nat → List Nat → List (Nat × Nat × Nat)
  | _, [] => []
  | pos, n :: ns =>
    if bitOf h n then
      if slotWidth n = 64 then (n, ws.getD pos 0 + 2 ^ 32 * ws.getD (pos + 1) 0, pos) :: takeWords h ws (pos + 2) ns
      else (n, ws.getD pos 0, pos) :: takeWords h ws (pos + 1) ns
    else takeWords h ws pos ns

/-- The bundle at the front of a byte string (R28, R31). -/
def decodeBundle (bs : List Byte) : Except Reject RawBundle :=
  match wordsOf bs with
  | [] => .error .shape
  | h :: ws =>
    if ws.length + 1 < bundleLength h then .error .shape
    else
      let first := if hasIncrement h then 2 else 1
      .ok { header := h
            inc := if hasIncrement h then ws.getD 0 0 else 0
            words := takeWords h (h :: ws) first (List.range 12)
            length := bundleLength h }

/-- The more specific of two readings of one word: the one whose row fixes more one bits, or else leaves fewer bits
free. -/
def moreSpecific (a b : Option Instr) : Option Instr :=
  match a, b with
  | some i, some j =>
    if fixedOnes i < fixedOnes j || (fixedOnes i == fixedOnes j && decide (freeBits j < freeBits i)) then some j else some i
  | some i, none => some i
  | none, j => j

/-- The reading of word `w` in slot `n`, if there is one. -/
def readSlot (n w : Nat) : Option Instr :=
  match decodeSlot n w with
  | .ok i => some i
  | .error _ => none

/-- The reading of a word that is alone: a word's slot is not in its bits, so among the slots in which it is an
instruction the most specific row is taken (log entry 12). -/
def decodeTableWord (nbits w : Nat) : Option Instr :=
  if nbits ≤ 32 then
    let idle := if headerIdle w && w < 2 ^ 32 then some (decodeIdle w) else none
    [0, 1, 5, 11].foldl (fun best n => moreSpecific best (readSlot n w)) idle
  else [7, 8, 9, 10].foldl (fun best n => moreSpecific best (readSlot n w)) none

end Sys2Proof
end

