-- ==== Sys2Proof/Machine/Digest.lean ====
section
/-!
DEFINITION. SHAKE256 (R208, R313, R387, R390, R391), CRC-32C (R325) and the random-bits generator (R179).
-/
namespace Sys2Proof.Machine

/-- `x` rotated left by `n` within 64 bits. -/
def rot64 (x n : Nat) : Nat := (x * 2 ^ (n % 64) + x / 2 ^ (64 - n % 64)) % 2 ^ 64

/-! ### SHAKE256

The state of Keccak-f[1600] is one number of 1,600 bits: lane `x` of plane `y` has the 64 bits from `320 y + 64 x` on. The permutation
and the padding are those of FIPS 202, which the spec names without repeating. PRESUMED, log entry 15. -/

/-- The five planes of a state. -/
def planesOf (a : Nat) : List Nat := lanesOf 320 5 a

/-- A plane with lane `x + n` in the place of lane `x`. -/
def lanesOn (p n : Nat) : Nat := (p / 2 ^ (64 * n) + p * 2 ^ (64 * (5 - n))) % 2 ^ 320

/-- The parities of the columns joined to every plane (theta). -/
def mixColumns (a : Nat) : Nat :=
  let p := (planesOf a).foldl (· ^^^ ·) 0
  let d := lanesOn p 4 ^^^ ofLanes 64 ((lanesOf 64 5 (lanesOn p 1)).map (rot64 · 1))
  ofLanes 320 ((planesOf a).map (· ^^^ d))

/-- The walk of `n` lanes from lane `x` of plane `y`, its `t`-th step first: the lane, the place it moves to and its rotation. -/
def laneWalk : Nat → Nat → Nat → Nat → List (Nat × Nat × Nat)
  | 0, _, _, _ => []
  | n + 1, t, x, y =>
    let y' := (2 * x + 3 * y) % 5
    (x + 5 * y, y + 5 * y', (t + 1) * (t + 2) / 2) :: laneWalk n (t + 1) y y'

/-- Lanes rotated and moved along the walk, which leaves lane 0 where it is (rho and pi). -/
def moveLanes (a : Nat) : Nat :=
  (laneWalk 24 0 1 0).foldl (fun b m => b + rot64 (laneOf 64 a m.1) m.2.2 * 2 ^ (64 * m.2.1)) (a % 2 ^ 64)

/-- Each lane changed by the two behind it in its plane (chi). -/
def mixRows (a : Nat) : Nat :=
  ofLanes 320 ((planesOf a).map fun p => p ^^^ ((2 ^ 320 - 1 - lanesOn p 1) &&& lanesOn p 2))

/-- The next state of the shift register that makes the round constants. -/
def constStep (r : Nat) : Nat := if 128 ≤ r then 2 * r ^^^ 0x171 else 2 * r

/-- A round's constant, of seven bits from the register, and the register behind them. -/
def roundConst (r : Nat) : Nat × Nat :=
  (List.range 7).foldl (fun k j => (k.1 + k.2 % 2 * 2 ^ (2 ^ j - 1), constStep k.2)) (0, r)

/-- One round on a state and the register of the constants. -/
def permRound (s : Nat × Nat) : Nat × Nat :=
  let k := roundConst s.2
  (mixRows (moveLanes (mixColumns s.1)) ^^^ k.1, k.2)

/-- The permutation: 24 rounds. -/
def permute (a : Nat) : Nat := ((List.range 24).foldl (fun s _ => permRound s) (a, 1)).1

/-- A message absorbed into a state: `n` whole blocks of 136 bytes, then what is left, with the suffix of SHAKE and the last bit of
the padding. -/
def absorb : Nat → List Byte → Nat → Nat
  | 0, l, a => permute (a ^^^ leNat l ^^^ (0x1F * 2 ^ (8 * l.length)) ^^^ 2 ^ 1087)
  | n + 1, l, a => absorb n (l.drop 136) (permute (a ^^^ leNat (l.take 136)))

/-- The first `n` bytes of SHAKE256 of a message, for `n` up to 136. -/
def shake256 (m : List Byte) (n : Nat) : List Byte := (leBytes 136 (absorb (m.length / 136) m 0)).take n

/-- The 32-byte digest. -/
def digest256 (m : List Byte) : BitVec 256 := BitVec.ofNat 256 (leNat (shake256 m 32))

/-- One byte into a CRC-32C, bit by bit (R325). -/
def crcByte (c : Nat) (b : Byte) : Nat :=
  (List.range 8).foldl (fun x _ => if x % 2 = 1 then (x / 2) ^^^ 0x82F63B78 else x / 2) (c ^^^ b.toNat)

/-- CRC-32C of a byte string (R325). -/
def crc32c (m : List Byte) : Nat := m.foldl crcByte 0xFFFFFFFF ^^^ 0xFFFFFFFF

/-- One 64-bit word of the generator (R179). -/
def randWord (key n : Nat) : Nat :=
  let z := (key + (n + 1) * 0x9E3779B97F4A7C15) % 2 ^ 64
  let z := ((z ^^^ z / 2 ^ 30) * 0xBF58476D1CE4E5B9) % 2 ^ 64
  let z := ((z ^^^ z / 2 ^ 27) * 0x94D049BB133111EB) % 2 ^ 64
  z ^^^ z / 2 ^ 31

/-- RandBlock (R179). -/
def randBlock (key i : Nat) : Nat := ofLanes 64 ((List.range 16).map fun j => randWord key (16 * i + j))

end Sys2Proof.Machine
end

