-- ==== Sys2Proof/Machine/Flags.lean ====
section
/-!
DEFINITION. The sticky flags of ccr.fpflags (R57), as numbers that are joined bit by bit.
-/
namespace Sys2Proof.Machine

/-- Inexact. -/
def flagNX : Nat := 1
/-- Underflow: tiny and inexact (R54). -/
def flagUF : Nat := 2
/-- Overflow. -/
def flagOF : Nat := 4
/-- Division of a finite non-zero value by zero. -/
def flagDZ : Nat := 8
/-- Invalid operation. -/
def flagNV : Nat := 16
/-- An integer or quantising operation saturated. -/
def flagSAT : Nat := 32
/-- An infinite scale met a zero (R68). -/
def flagSZI : Nat := 64
/-- A final normalisation met l = 0 (R202). -/
def flagEMPTYROW : Nat := 128

/-- The flags of both (R57: an operation sets flags and never clears one). -/
def joinFlags (a b : Nat) : Nat := a ||| b

/-- A flag if a condition holds. -/
def flagIf (c : Bool) (f : Nat) : Nat := if c then f else 0

/-- The flags of a list of lane results. -/
def joinAll (l : List (Nat × Nat)) : Nat := l.foldl (fun f r => joinFlags f r.2) 0

/-- The bits of ccr.fpflags that software may write (R57). -/
def fpflagsMask : Nat := 255

end Sys2Proof.Machine
end

