-- ==== Sys2Proof/Machine/Fp.lean ====
section
/-!
DEFINITION. The IEEE formats and their rounding (R53 to R56), the floating operations of the vector and
special-function units (R75, R121 to R123, R128, R129), and the house exponential (R73, R74). Values are exact
rationals until the one rounding at the end. A result is a pair: the bits and the flags raised.
-/
namespace Sys2Proof.Machine

/-- A binary format: exponent bits and fraction bits. -/
structure Fmt where
  eb : Nat
  fb : Nat
  deriving DecidableEq, Repr

/-- IEEE binary32 (R53). -/
def f32 : Fmt := ⟨8, 23⟩
/-- IEEE binary16 (R53). -/
def f16 : Fmt := ⟨5, 10⟩
/-- bf16 (R53). -/
def bf16 : Fmt := ⟨8, 7⟩

/-- Width in bits. -/
def Fmt.width (f : Fmt) : Nat := 1 + f.eb + f.fb
/-- Exponent bias. -/
def Fmt.bias (f : Fmt) : Nat := 2 ^ (f.eb - 1) - 1
/-- The largest exponent field: infinities and NaNs. -/
def Fmt.emax (f : Fmt) : Nat := 2 ^ f.eb - 1
/-- The sign bit as a number. -/
def Fmt.sign (f : Fmt) (neg : Bool) : Nat := if neg then 2 ^ (f.eb + f.fb) else 0
/-- Positive infinity. -/
def Fmt.infBits (f : Fmt) : Nat := f.emax * 2 ^ f.fb
/-- The canonical NaN (R53). -/
def Fmt.nan (f : Fmt) : Nat := f.infBits + 2 ^ (f.fb - 1)
/-- The largest finite value (R53). -/
def Fmt.maxFinite (f : Fmt) : Nat := f.infBits - 1
/-- The exponent of the last place of subnormals: their value is `m * 2^qmin`. -/
def Fmt.qmin (f : Fmt) : Int := 1 - (f.bias : Int) - (f.fb : Int)

/-- What a bit pattern means: a finite value is `(-1)^neg * m * 2^e`. -/
inductive FpVal where
  | nan (signalling : Bool)
  | inf (neg : Bool)
  | fin (neg : Bool) (m : Nat) (e : Int)
  deriving DecidableEq, Repr

/-- The value of a pattern of format `f`. -/
def Fmt.val (f : Fmt) (x : Nat) : FpVal :=
  let frac := x % 2 ^ f.fb
  let ex := x / 2 ^ f.fb % 2 ^ f.eb
  let neg := bitOf x (f.eb + f.fb)
  if ex = f.emax then
    if frac = 0 then .inf neg else .nan (frac < 2 ^ (f.fb - 1))
  else if ex = 0 then .fin neg frac f.qmin
  else .fin neg (2 ^ f.fb + frac) (f.qmin + (ex : Int) - 1)

/-- A NaN. -/
def FpVal.isNan : FpVal → Bool
  | .nan _ => true
  | _ => false

/-- A signalling NaN. -/
def FpVal.isSig : FpVal → Bool
  | .nan s => s
  | _ => false

/-- A zero. -/
def FpVal.isZero : FpVal → Bool
  | .fin _ m _ => m == 0
  | _ => false

/-- The sign. -/
def FpVal.neg : FpVal → Bool
  | .fin n _ _ => n
  | .inf n => n
  | .nan _ => false

/-- The rounding modes that instructions encode (R56). -/
inductive RMode where
  | even | zero | floor
  deriving DecidableEq, Repr

/-- The mode of a two-bit code (R132). -/
def RMode.ofCode (c : Nat) : RMode := if c = 0 then .even else if c = 1 then .zero else .floor

/-- Whether a value of sign `neg` that lies above the whole number `q` by `r / d` is rounded up in magnitude. -/
def roundsUp (mode : RMode) (neg : Bool) (q r d : Nat) : Bool :=
  match mode with
  | .even => 2 * r > d || (2 * r == d && q % 2 == 1)
  | .zero => false
  | .floor => neg && r != 0

/-- `n / d * 2^e` as a whole number and remainder: quotient, remainder, divisor. -/
def scaleDiv (n d : Nat) (e : Int) : Nat × Nat × Nat :=
  let num := if 0 ≤ e then n * 2 ^ e.toNat else n
  let den := if 0 ≤ e then d else d * 2 ^ (-e).toNat
  (num / den, num % den, den)

/-- `⌊log2 (n / d)⌋` for positive `n` and `d`. -/
def floorLog (n d : Nat) : Int :=
  let g : Int := (Nat.log2 n : Int) - (Nat.log2 d : Int)
  let big := if 0 ≤ g then decide (d * 2 ^ g.toNat ≤ n) else decide (d ≤ n * 2 ^ (-g).toNat)
  if big then g else g - 1

/-- Overflow in a rounding mode (R54, R133): the pattern that is delivered. -/
def overflowBits (f : Fmt) (mode : RMode) (neg : Bool) : Nat :=
  match mode with
  | .even => f.sign neg + f.infBits
  | .zero => f.sign neg + f.maxFinite
  | .floor => if neg then f.sign true + f.infBits else f.maxFinite

/-- The exact value `(-1)^neg * n / d * 2^e` rounded once to format `f` (R54, R56). A zero keeps the sign given. -/
def roundRat (f : Fmt) (mode : RMode) (neg : Bool) (n d : Nat) (e : Int) : Nat × Nat :=
  if n = 0 then (f.sign neg, 0)
  else
    let lg := floorLog n d + e
    let q0 : Int := max (lg - f.fb) f.qmin
    let (q, r, den) := scaleDiv n d (e - q0)
    let m := if roundsUp mode neg q r den then q + 1 else q
    let inexact := r != 0
    let bits := if q0 = f.qmin then m else (q0 - f.qmin).toNat * 2 ^ f.fb + m
    if f.infBits ≤ bits then (overflowBits f mode neg, flagOF ||| flagNX)
    else
      let (uq, ur, ud) := scaleDiv n d (e - (lg - f.fb))
      let um := if roundsUp mode neg uq ur ud then uq + 1 else uq
      let tiny := lg < f.qmin + f.fb - 1 || (lg == f.qmin + f.fb - 1 && um < 2 ^ (f.fb + 1))
      (f.sign neg + bits, flagIf inexact flagNX ||| flagIf (inexact && tiny) flagUF)

/-- The exact sum of two finite values as one finite value; an exact zero of unlike signs is +0. -/
def addExact (an : Bool) (am : Nat) (ae : Int) (bn : Bool) (bm : Nat) (be : Int) : Bool × Nat × Int :=
  let e := min ae be
  let x : Int := (am * 2 ^ (ae - e).toNat : Nat)
  let y : Int := (bm * 2 ^ (be - e).toNat : Nat)
  let s := (if an then -x else x) + (if bn then -y else y)
  if s = 0 then (an && bn, 0, e) else (decide (s < 0), s.natAbs, e)

/-- NV for a signalling operand (R55). -/
def sigFlag (l : List FpVal) : Nat := flagIf (l.any FpVal.isSig) flagNV

/-- The NaN result of an operation with these operands. -/
def nanResult (f : Fmt) (l : List FpVal) : Nat × Nat := (f.nan, sigFlag l)

/-- Addition (R54, R55). -/
def fadd (f : Fmt) (x y : Nat) : Nat × Nat :=
  match f.val x, f.val y with
  | .fin an am ae, .fin bn bm be =>
    let (n, m, e) := addExact an am ae bn bm be
    roundRat f .even n m 1 e
  | .inf a, .inf b => if a = b then (f.sign a + f.infBits, 0) else (f.nan, flagNV)
  | .inf a, .fin _ _ _ => (f.sign a + f.infBits, 0)
  | .fin _ _ _, .inf b => (f.sign b + f.infBits, 0)
  | a, b => nanResult f [a, b]

/-- The pattern with its sign turned over. -/
def flipSign (f : Fmt) (x : Nat) : Nat :=
  if bitOf x (f.eb + f.fb) then x - 2 ^ (f.eb + f.fb) else x + 2 ^ (f.eb + f.fb)

/-- Subtraction. -/
def fsub (f : Fmt) (x y : Nat) : Nat × Nat := fadd f x (flipSign f y)

/-- Multiplication. -/
def fmul (f : Fmt) (x y : Nat) : Nat × Nat :=
  match f.val x, f.val y with
  | .fin an am ae, .fin bn bm be => roundRat f .even (an != bn) (am * bm) 1 (ae + be)
  | .inf a, .inf b => (f.sign (a != b) + f.infBits, 0)
  | .inf a, .fin b m _ => if m = 0 then (f.nan, flagNV) else (f.sign (a != b) + f.infBits, 0)
  | .fin a m _, .inf b => if m = 0 then (f.nan, flagNV) else (f.sign (a != b) + f.infBits, 0)
  | a, b => nanResult f [a, b]

/-- `x · y + z` with one rounding (R54). 0 · ∞ sets NV even beside a quiet NaN (R128). -/
def ffma (f : Fmt) (x y z : Nat) : Nat × Nat :=
  let a := f.val x
  let b := f.val y
  let c := f.val z
  let zeroInf := (a.isZero && b == .inf b.neg) || (b.isZero && a == .inf a.neg)
  if zeroInf then (f.nan, flagNV)
  else
    match a, b, c with
    | .fin an am ae, .fin bn bm be, .fin cn cm ce =>
      let (n, m, e) := addExact (an != bn) (am * bm) (ae + be) cn cm ce
      roundRat f .even n m 1 e
    | .fin _ _ _, .fin _ _ _, .inf cn => (f.sign cn + f.infBits, 0)
    | .nan s, b, c => nanResult f [.nan s, b, c]
    | a, .nan s, c => nanResult f [a, .nan s, c]
    | a, b, .nan s => nanResult f [a, b, .nan s]
    | a, b, .inf cn => if (a.neg != b.neg) = cn then (f.sign cn + f.infBits, 0) else (f.nan, flagNV)
    | a, b, .fin _ _ _ => (f.sign (a.neg != b.neg) + f.infBits, 0)

/-- `x · y − z` with one rounding. -/
def ffms (f : Fmt) (x y z : Nat) : Nat × Nat := ffma f x y (if (f.val z).isNan then z else flipSign f z)

/-- The exact quotient rounded once; used by the normalisation of a blend (R202). -/
def fdiv (f : Fmt) (x y : Nat) : Nat × Nat :=
  match f.val x, f.val y with
  | .fin an am ae, .fin bn bm be =>
    if bm = 0 then
      if am = 0 then (f.nan, flagNV) else (f.sign (an != bn) + f.infBits, flagDZ)
    else roundRat f .even (an != bn) am bm (ae - be)
  | .inf _, .inf _ => (f.nan, flagNV)
  | .inf a, .fin b _ _ => (f.sign (a != b) + f.infBits, 0)
  | .fin a _ _, .inf b => (f.sign (a != b), 0)
  | a, b => nanResult f [a, b]

/-- `a < b` for values that are no NaN; +0 and −0 are equal (R55). -/
def FpVal.lt : FpVal → FpVal → Bool
  | .nan _, _ => false
  | _, .nan _ => false
  | .inf a, .inf b => a && !b
  | .inf a, .fin _ _ _ => a
  | .fin _ _ _, .inf b => !b
  | .fin an am ae, .fin bn bm be =>
    let e := min ae be
    let x : Int := (am * 2 ^ (ae - e).toNat : Nat)
    let y : Int := (bm * 2 ^ (be - e).toNat : Nat)
    decide ((if an then -x else x) < (if bn then -y else y))

/-- `a = b` for values that are no NaN. -/
def FpVal.eqv (a b : FpVal) : Bool := !a.isNan && !b.isNan && !a.lt b && !b.lt a

/-- Order with −0 below +0 (R129). -/
def FpVal.below (a b : FpVal) : Bool := a.lt b || (a.isZero && b.isZero && a.neg && !b.neg)

/-- The minimum of R129. -/
def fmin (f : Fmt) (x y : Nat) : Nat × Nat :=
  let a := f.val x
  let b := f.val y
  let fl := sigFlag [a, b]
  if a.isNan && b.isNan then (f.nan, fl)
  else if a.isNan then (y, fl)
  else if b.isNan then (x, fl)
  else if b.below a then (y, fl) else (x, fl)

/-- The maximum of R129. -/
def fmax (f : Fmt) (x y : Nat) : Nat × Nat :=
  let a := f.val x
  let b := f.val y
  let fl := sigFlag [a, b]
  if a.isNan && b.isNan then (f.nan, fl)
  else if a.isNan then (y, fl)
  else if b.isNan then (x, fl)
  else if a.below b then (y, fl) else (x, fl)

/-- Absolute value: the sign of a non-NaN is cleared without a flag (R128). -/
def fabs (f : Fmt) (x : Nat) : Nat × Nat :=
  let a := f.val x
  if a.isNan then nanResult f [a] else (x % 2 ^ (f.eb + f.fb), 0)

/-- Negation (R128). -/
def fneg (f : Fmt) (x : Nat) : Nat × Nat :=
  let a := f.val x
  if a.isNan then nanResult f [a] else (flipSign f x, 0)

/-- A whole number as the nearest value of a format in a mode (R56); one out of range overflows as the mode has it. DESIGN CHOICE, log
entry 108. -/
def ofInt (f : Fmt) (mode : RMode) (v : Int) : Nat × Nat := roundRat f mode (v < 0) v.natAbs 1 0

/-- A finite value rounded to a whole number, with whether that was inexact (R56). -/
def toInt (mode : RMode) (neg : Bool) (n d : Nat) (e : Int) : Int × Bool :=
  let (q, r, den) := scaleDiv n d e
  let m := if roundsUp mode neg q r den then q + 1 else q
  (if neg then -(m : Int) else (m : Int), r != 0)

/-- A value to an integer in `lo..hi` (R56): saturation and NaN set NV, and any inexact conversion sets NX. -/
def cvtToInt (f : Fmt) (mode : RMode) (lo hi : Int) (x : Nat) : Int × Nat :=
  match f.val x with
  | .nan _ => (0, flagNV)
  | .inf n => (if n then lo else hi, flagNV)
  | .fin n m e =>
    let (v, inexact) := toInt mode n m 1 e
    if v < lo then (lo, flagNV) else if hi < v then (hi, flagNV) else (v, flagIf inexact flagNX)

/-- A value of one format in another (R56, R133). -/
def cvtFmt (src dst : Fmt) (mode : RMode) (x : Nat) : Nat × Nat :=
  match src.val x with
  | .nan s => nanResult dst [.nan s]
  | .inf n => (dst.sign n + dst.infBits, 0)
  | .fin n m e => if src = dst then (x, 0) else roundRat dst mode n m 1 e

/-- A value rounded to an integral value of its own format (R135). -/
def roundIntegral (f : Fmt) (mode : RMode) (x : Nat) : Nat × Nat :=
  match f.val x with
  | .nan s => nanResult f [.nan s]
  | .inf _ => (x, 0)
  | .fin n m e =>
    let (v, inexact) := toInt mode n m 1 e
    ((roundRat f .even n v.natAbs 1 0).1, flagIf inexact flagNX)

/-- One level of the balanced tree (R75). -/
def treeLevel (f : Fmt) : List Nat → List Nat × Nat
  | x :: y :: r =>
    let (s, fl) := fadd f x y
    let (rest, fl') := treeLevel f r
    (s :: rest, joinFlags fl fl')
  | [x] => ([x], 0)
  | [] => ([], 0)

/-- TreeSum (R75): `k` levels sum `2^k` lanes. -/
def treeSum (f : Fmt) : Nat → List Nat → Nat × Nat
  | 0, xs => (xs.headD 0, 0)
  | k + 1, xs =>
    let (ys, fl) := treeLevel f xs
    let (s, fl') := treeSum f k ys
    (s, joinFlags fl fl')

/-- `⌊√n⌋` by bisection on the bits from `k - 1` down, above a root `r`. -/
def sqrtBits (n : Nat) : Nat → Nat → Nat
  | 0, r => r
  | k + 1, r => if (r + 2 ^ k) * (r + 2 ^ k) ≤ n then sqrtBits n k (r + 2 ^ k) else sqrtBits n k r

/-- `⌊√n⌋`. -/
def isqrt (n : Nat) : Nat := sqrtBits n (Nat.log2 n / 2 + 1) 0

/-- T[i] of R74: the f32 nearest to 2^(i/256), from the exact root ⌊2^(24 + i/256)⌋ of eight nested square roots. -/
def expT (i : Nat) : Nat :=
  let root := (List.range 8).foldl (fun n _ => isqrt n) (2 ^ (24 * 256 + i))
  0x3F800000 + ((root + 1) / 2 - 2 ^ 23)

/-- C of R74. -/
def expC : Nat := 0x3F317218

/-- LdexpNE32 of R73. -/
def ldexp32 (y : Nat) (n : Int) : Nat × Nat :=
  match f32.val y with
  | .fin s m e => roundRat f32 .even s m 1 (e + n)
  | _ => (y, 0)

/-- Exp2H (R73). -/
def exp2H (x : Nat) : Nat × Nat :=
  match f32.val x with
  | .nan s => nanResult f32 [.nan s]
  | .inf n => if n then (0, 0) else (f32.infBits, 0)
  | .fin s m e =>
    if (f32.val x).lt (.fin true 150 0) then (0, 0)
    else if !(f32.val x).lt (.fin false 128 0) then (f32.infBits, flagOF ||| flagNX)
    else
      let n := (toInt .floor s m 1 e).1
      let (fs, fm, fe) := addExact s m e (decide (0 < n)) n.natAbs 0
      let i := (toInt .floor fs fm 1 (fe + 8)).1.toNat
      let (gs, gm, ge) := addExact fs fm fe true i (-8)
      let g := match f32.val expC with
        | .fin _ cm ce => (roundRat f32 .even gs (gm * cm) 1 (ge + ce)).1
        | _ => 0
      let t := expT i
      ldexp32 (ffma f32 t g t).1 n

/-- Both bounds of an exact value rounded; they agree unless a rounding boundary lies between them, and then the lower
one is taken. The bounds used below are far closer than any result comes to a boundary (log entry 14). -/
def roundBounds (neg : Bool) (lo hi : Nat) (d : Nat) (e : Int) : Nat × Nat :=
  let a := roundRat f32 .even neg lo d e
  let b := roundRat f32 .even neg hi d e
  if a.1 = b.1 then (a.1, joinFlags b.2 (joinFlags a.2 flagNX)) else (a.1, joinFlags a.2 flagNX)

/-- Fraction bits kept in the fixed-point computations of log2 and tanh. -/
def fixBits : Nat := 256

/-- Bits of log2 of `x / 2^fixBits` in [1, 2), most significant first, squares rounded down (`up` = false) or up. -/
def logBits (up : Bool) : Nat → Nat → Nat → Nat
  | 0, _, acc => acc
  | k + 1, x, acc =>
    let s := if up then ceilDiv (x * x) (2 ^ fixBits) else x * x / 2 ^ fixBits
    if 2 ^ (fixBits + 1) ≤ s then logBits up k (if up then ceilDiv s 2 else s / 2) (2 * acc + 1)
    else logBits up k s (2 * acc)

/-- log2 (R122, R123). -/
def fpLog2 (x : Nat) : Nat × Nat :=
  match f32.val x with
  | .nan s => nanResult f32 [.nan s]
  | .inf n => if n then (f32.nan, flagNV) else (f32.infBits, 0)
  | .fin n m e =>
    if m = 0 then (f32.sign true + f32.infBits, flagDZ)
    else if n then (f32.nan, flagNV)
    else
      let k : Int := (Nat.log2 m : Int) + e
      if m = 2 ^ Nat.log2 m then ofInt f32 .even k
      else
        let y := m * 2 ^ fixBits / 2 ^ Nat.log2 m
        let lo : Int := k * 2 ^ 120 + (logBits false 120 y 0 : Nat)
        let hi : Int := k * 2 ^ 120 + (logBits true 120 y 0 : Nat) + 1
        if 0 ≤ lo then roundBounds false lo.toNat hi.toNat 1 (-120)
        else roundBounds true hi.natAbs lo.natAbs 1 (-120)

/-- Reciprocal (R122, R123). -/
def fpRcp (x : Nat) : Nat × Nat :=
  match f32.val x with
  | .nan s => nanResult f32 [.nan s]
  | .inf n => (f32.sign n, 0)
  | .fin n m e => if m = 0 then (f32.sign n + f32.infBits, flagDZ) else roundRat f32 .even n 1 m (-e)

/-- Square root of `m * 2^e` to 64 more bits than f32 holds: a whole number `r`, its exponent, and whether more
follows. -/
def sqrtFix (m : Nat) (e : Int) : Nat × Int × Bool :=
  let m' := if e % 2 = 0 then m * 2 ^ 128 else m * 2 ^ 129
  let e' := if e % 2 = 0 then e - 128 else e - 129
  let r := isqrt m'
  (r, e' / 2, r * r != m')

/-- Square root (R122, R123). The last bit stands for what follows, so that the one rounding is exact. -/
def fpSqrt (x : Nat) : Nat × Nat :=
  match f32.val x with
  | .nan s => nanResult f32 [.nan s]
  | .inf n => if n then (f32.nan, flagNV) else (f32.infBits, 0)
  | .fin n m e =>
    if m = 0 then (x, 0)
    else if n then (f32.nan, flagNV)
    else
      let (r, q, more) := sqrtFix m e
      roundRat f32 .even false (2 * r + (if more then 1 else 0)) 1 (q - 1)

/-- Reciprocal square root (R122, R123): √(1 / (m · 2^e)) with a last bit for what follows. -/
def fpRsqrt (x : Nat) : Nat × Nat :=
  match f32.val x with
  | .nan s => nanResult f32 [.nan s]
  | .inf n => if n then (f32.nan, flagNV) else (0, 0)
  | .fin n m e =>
    if m = 0 then (f32.sign n + f32.infBits, flagDZ)
    else if n then (f32.nan, flagNV)
    else
      let k : Int := if e % 2 = 0 then 256 else 257
      let num := 2 ^ k.toNat
      let r := isqrt (num / m)
      let more := r * r * m != num
      roundRat f32 .even false (2 * r + (if more then 1 else 0)) 1 ((-e - k) / 2 - 1)

/-- The first `k` terms of the series of exp(−z) for a small fixed-point `z`, from term `i` with value `t`. -/
def expTerms (z : Nat) : Nat → Nat → Int → Int → Int
  | 0, _, _, acc => acc
  | k + 1, i, t, acc =>
    let t' := -(t * z / 2 ^ fixBits) / (i : Int)
    expTerms z k (i + 1) t' (acc + t')

/-- exp(−y) for a fixed-point `y` below 2^6, within 2^-190: the series at y / 2^40, squared forty times. -/
def expNeg (y : Nat) : Nat :=
  let z := y / 2 ^ 40
  let s := (expTerms z 10 1 (2 ^ fixBits) (2 ^ fixBits)).toNat
  (List.range 40).foldl (fun v _ => v * v / 2 ^ fixBits) s

/-- tanh (R122, R123). Above 16 it rounds to 1; below 2^-12 the exact value lies between t − t³/3 and t. -/
def fpTanh (x : Nat) : Nat × Nat :=
  match f32.val x with
  | .nan s => nanResult f32 [.nan s]
  | .inf n => (f32.sign n + 0x3F800000, 0)
  | .fin n m e =>
    if m = 0 then (x, 0)
    else if !(FpVal.fin false m e).lt (.fin false 16 0) then (f32.sign n + 0x3F800000, flagNX)
    else if (FpVal.fin false m e).lt (.fin false 1 (-12)) then
      roundBounds n (m * 2 ^ 80 - m * 2 ^ 55) (m * 2 ^ 80 - 1) 1 (e - 80)
    else
      let y := (scaleDiv (2 * m) 1 (e + fixBits)).1
      let v := expNeg y
      let lo := 2 ^ fixBits - (v + 2 ^ 80)
      let hi := 2 ^ fixBits - (v - 2 ^ 80)
      let a := roundRat f32 .even n lo (2 ^ fixBits + v + 2 ^ 80) 0
      let b := roundRat f32 .even n hi (2 ^ fixBits + (v - 2 ^ 80)) 0
      if a.1 = b.1 then (a.1, joinFlags b.2 (joinFlags a.2 flagNX)) else (a.1, joinFlags a.2 flagNX)

end Sys2Proof.Machine
end

