-- ==== Sys2Proof/Machine/Residue.lean ====
section
/-!
DEFINITION. Residue elements, their entry and exit (R61 to R66), scales (R59) and the exit scaling (R68, R69).
-/
namespace Sys2Proof.Machine

/-- Channel moduli and check modulus (R61). -/
def mod1 : Nat := 8191
def mod2 : Nat := 8192
def mod3 : Nat := 8193
def modK : Nat := 4097
/-- M (R61). -/
def modM : Nat := 549755805696
/-- The largest bound an accumulator may have, M/2 − 1 (R66). -/
def boundMax : Nat := 274877902847

/-- A residue element (R61). -/
structure Residue where
  ck : Nat
  ch3 : Nat
  ch2 : Nat
  ch1 : Nat
  deriving DecidableEq, Repr

/-- ResidueOf (R62). -/
def residueOf (v : Int) (m : Nat) : Nat := (v % (m : Int)).toNat

/-- Entry conversion (R62). -/
def res (v : Int) : Residue := ⟨residueOf v modK, residueOf v mod3, residueOf v mod2, residueOf v mod1⟩

/-- RAdd (R63). -/
def rAdd (p q : Residue) : Residue :=
  ⟨(p.ck + q.ck) % modK, (p.ch3 + q.ch3) % mod3, (p.ch2 + q.ch2) % mod2, (p.ch1 + q.ch1) % mod1⟩

/-- RMul (R63). -/
def rMul (p q : Residue) : Residue :=
  ⟨(p.ck * q.ck) % modK, (p.ch3 * q.ch3) % mod3, (p.ch2 * q.ch2) % mod2, (p.ch1 * q.ch1) % mod1⟩

/-- One channel of RSub. -/
def subMod (a b m : Nat) : Nat := residueOf ((a : Int) - (b : Int)) m

/-- RSub (R63). -/
def rSub (p q : Residue) : Residue :=
  ⟨subMod p.ck q.ck modK, subMod p.ch3 q.ch3 mod3, subMod p.ch2 q.ch2 mod2, subMod p.ch1 q.ch1 mod1⟩

/-- The 53 bits of an element (R61). -/
def Residue.pack (r : Residue) : Nat :=
  r.ck % 2 ^ 13 * 2 ^ 40 + r.ch3 % 2 ^ 14 * 2 ^ 26 + r.ch2 % 2 ^ 13 * 2 ^ 13 + r.ch1 % 2 ^ 13

/-- The element of 53 bits (R61). -/
def Residue.unpack (x : Nat) : Residue := ⟨fieldOf x 52 40, fieldOf x 39 26, fieldOf x 25 13, fieldOf x 12 0⟩

/-- Element `i` of a register of elements. -/
def elemAt (x i : Nat) : Residue := Residue.unpack (laneOf 53 x i)

/-- A register of elements from its elements. -/
def ofElems (l : List Residue) : Nat := ofLanes 53 (l.map Residue.pack)

/-- FromResidues (R64). -/
def fromResidues (ch1 ch2 ch3 : Nat) : Int :=
  let u := (ch1 * 274911461376 + ch2 * 549688696833 + ch3 * 274911453184) % modM
  if modM / 2 ≤ u then (u : Int) - (modM : Int) else (u : Int)

/-- The value of an element. -/
def Residue.val (r : Residue) : Int := fromResidues r.ch1 r.ch2 r.ch3

/-- The check of R65: true where there is no mismatch. -/
def Residue.ok (r : Residue) : Bool :=
  r.ck == residueOf r.val modK && r.ch1 < mod1 && r.ch3 < mod3 && r.ck < modK

/-- An element that passes both tests of an exit conversion: its check, and its register's bound `b` (R65, R66, R375). -/
def Residue.passes (r : Residue) (b : Nat) : Bool := r.ok && decide (r.val.natAbs ≤ b)

/-- The exponent of a scale word (R59); bit 15 is ignored. -/
def scaleExp (s : Nat) : Nat := fieldOf s 14 7

/-- IsZeroScale (R60). -/
def isZeroScale (s : Nat) : Bool := scaleExp s == 0

/-- IsInfScale (R60). -/
def isInfScale (s : Nat) : Bool := scaleExp s == 255

/-- ScaleValue (R59) as `m · 2^e`. -/
def scaleMant (s : Nat) : Nat := 128 + fieldOf s 6 0
/-- Its exponent. -/
def scaleShift (s : Nat) : Int := (scaleExp s : Int) - 134

/-- The E8M7 word that an E8 page scale widens to (R60). -/
def widenE8 (e : Nat) : Nat := e % 256 * 128

/-- The exit type of a format register (R70). -/
def outFmt (fmt : Nat) : Fmt := if fieldOf fmt 4 3 = 0 then f32 else bf16

/-- Overflowed (R68). -/
def overflowed (f : Fmt) (ovf neg : Bool) : Nat × Nat :=
  (f.sign neg + (if ovf then f.infBits else f.maxFinite), flagOF ||| flagNX)

/-- ScaleExit (R68). -/
def scaleExit (v : Int) (s1 s2 : Nat) (f : Fmt) (ovf : Bool) : Nat × Nat :=
  if v = 0 || isZeroScale s1 || isZeroScale s2 then (0, flagIf (isInfScale s1 || isInfScale s2) flagSZI)
  else if isInfScale s1 || isInfScale s2 then overflowed f ovf (v < 0)
  else
    let (y, fl) := roundRat f .even (v < 0) (v.natAbs * scaleMant s1 * scaleMant s2) 1 (scaleShift s1 + scaleShift s2)
    if f.val y = .inf (v < 0) then overflowed f ovf (v < 0) else (y, fl)

/-- The add mode of MFLUSH (R69): `d` is the destination element in the output format. -/
def addExit (v : Int) (s1 s2 d : Nat) (f : Fmt) (ovf : Bool) : Nat × Nat :=
  let (t, fl) := scaleExit v s1 s2 f32 ovf
  if (f.val d).isNan then (f.nan, joinFlags fl flagNV)
  else
    let (wide, _) := cvtFmt f f32 .even d
    match f32.val t, f32.val wide with
    | .fin an am ae, .fin bn bm be =>
      let (n, m, e) := addExact an am ae bn bm be
      let (y, g) := roundRat f .even n m 1 e
      if f.val y = .inf n then ((overflowed f ovf n).1, joinFlags fl (overflowed f ovf n).2) else (y, joinFlags fl g)
    | .inf a, .inf b => if a = b then (f.sign a + f.infBits, fl) else (f.nan, joinFlags fl flagNV)
    | .inf a, _ => (f.sign a + f.infBits, fl)
    | _, .inf b => (f.sign b + f.infBits, fl)
    | _, _ => (f.nan, joinFlags fl flagNV)

/-- Operand formats of a pair (R70): is A Q4, is B Q4. -/
def pairA4 (pair : Nat) : Bool := 2 ≤ pair
/-- Is B Q4. -/
def pairB4 (pair : Nat) : Bool := pair % 2 == 1

/-- What an MMA form adds to the bound of its accumulator (R66). -/
def mmaBound (pair : Nat) : Nat := if pair = 0 then 1048576 else if pair = 3 then 4096 else 65536

/-- The elements of a tile (R51, R144): Q8 bytes, or Q4 nibbles. -/
def tileElems (q4 : Bool) (t : Nat) : List Int :=
  if q4 then (lanesOf 4 4096 t).map (signedOf 4) else (lanesOf 8 4096 t).map (signedOf 8)

/-- The rows of 64 of a list of elements. -/
def rowsOf : Nat → List Int → List (List Int)
  | 0, _ => []
  | n + 1, l => l.take 64 :: rowsOf n (l.drop 64)

/-- The columns of rows of `n`. -/
def columns : Nat → List (List Int) → List (List Int)
  | 0, _ => []
  | n + 1, rs => rs.map (·.headD 0) :: columns n (rs.map (·.drop 1))

/-- Σ of the products of two lists. -/
def dot : List Int → List Int → Int
  | a :: as, b :: bs => a * b + dot as bs
  | _, _ => 0

/-- An element of an accumulator with a sum of products added: every channel takes the sum modulo its own modulus,
which is what the products and sums of R63 come to. -/
def addSum (r : Residue) (v : Int) : Residue := rAdd r (res v)

end Sys2Proof.Machine
end

