-- ==== Sys2Proof/Config.lean ====
section
/-!
DEFINITION. What the implementation fixes and the spec does not state: fused values, keys, and the outputs of the
firmware compilers. Each is opaque: no value of it can be proved.
-/
namespace Sys2Proof

/-- The fused key hash a firmware image's key must match (R386). DESIGN CHOICE, log entry 10: a free value. -/
opaque Config.fusedKeyHash : BitVec 256

/-- The fused minimum version of a device as it leaves the factory (R386). DESIGN CHOICE, log entry 10: free. -/
opaque Config.fusedMinVersion : BitVec 32

/-- Ed448 verification under RFC 8032: key, context, message, signature (R386). The scheme's arithmetic is not in the
spec. DESIGN CHOICE, log entry 10: a free function. -/
opaque Config.ed448Verify : List Byte → List Byte → List Byte → List Byte → Bool

/-- The signature the signing unit makes with the device's identity key: context and message to 114 bytes (R388).
DESIGN CHOICE, log entry 10: a free function. -/
opaque Config.ed448Sign : List Byte → List Byte → List Byte

/-- Whether a management request to raise the minimum version carries a good signature (R386). DESIGN CHOICE, log
entry 10: free. -/
opaque Config.svnRequestSigned : BitVec 32 → List Byte → Bool

/-- The boot ROM's 16-byte version string (R387). DESIGN CHOICE, log entry 10: free. -/
opaque Config.romVersion : List Byte

/-- The stepping in DEVID<23:16> (R352). DESIGN CHOICE, log entry 10: free. -/
opaque Config.stepping : BitVec 8

/-- The native object of a portable object, or none where it cannot be scheduled (R319). DESIGN CHOICE, log entry
11: a free function of the object's bytes, as R319 allows. -/
opaque Config.ezost : List Byte → Option (List Byte)

/-- The words between the products of a panel's routine in Abette's literal form: of the panel's number, its rows, whether the weights
are Q4, whether each of its steps is an MMALS, and the place among them; bundle by bundle the slot and the word of each candidate, and
the cycles of an idle bundle where none stays. DESIGN CHOICE, log entry 11: free, since R322 gives the products and not the schedule. -/
opaque Config.literalGap : Nat → Nat → Bool → List Bool → Nat → List (Nat × List (Nat × Nat))

/-- The accumulator tile and the tile register of a product in Abette's literal form, of the same (R322). DESIGN CHOICE, log entry 11:
free. -/
opaque Config.literalOperands : Nat → Nat → Bool → List Bool → Nat → Nat × Nat

/-- BOUND less 1 of kernel `i` of Abette's object, of a request, the weight bytes and the scale bytes (R308, R322). DESIGN CHOICE, log
entry 11: free. -/
opaque Config.abetteBound : List Byte → List Byte → List Byte → Nat → Nat

/-- The bytes of firmware's configuration block as MR2 measures them: dispatch cores with the ASIDs of each, QCTL values, scrub
intervals, the policy of each tenant and the default policy, in that order (R387). The spec gives no layout; log entry 72: free. -/
opaque Config.configBlock : List (Nat × List Nat) → List (Nat × BitVec 64) → List Nat → List (Nat × Bool) → Bool → List Byte

/-- The vendor-signed certificate of the identity key in fuse-backed ROM (R388). DESIGN CHOICE, log entry 10: free. -/
opaque Config.certificate : List Byte

/-- The row of a line of HBM within its stack, by the line's number: the controller places lines as it chooses (R350, R381). DESIGN
CHOICE, log entry 46: free. -/
opaque Config.hbmRow : Nat → Nat

/-- The bank of a row of HBM within its stack (R381). DESIGN CHOICE, log entry 46: free. -/
opaque Config.hbmBank : Nat → Nat

/-- The pseudo-channel of a bank of HBM within its stack (R381). DESIGN CHOICE, log entry 46: free. -/
opaque Config.hbmChannel : Nat → Nat

/-- Row spares of an HBM bank (R381). DESIGN CHOICE, log entry 46: free. -/
opaque Config.rowSpares : Nat

/-- Bank spares of an HBM stack (R381). DESIGN CHOICE, log entry 46: free. -/
opaque Config.bankSpares : Nat

/-- The Ethernet port that carries a connection (R358, R384). DESIGN CHOICE, log entry 46: free. -/
opaque Config.connPort : Nat → Nat

/-- Which of several possibilities is taken where the spec leaves the choice open, at a cycle: a frame of the free pool
(R201, R345), a tier (R332), a tile number for a copied page (R199). DESIGN CHOICE, log entry 25: free. -/
opaque Config.openChoice : Nat → Nat

/-- Which of the tiles still to come a DECANT delivers next: the command and the tiles delivered so far (R201). DESIGN
CHOICE, log entry 25: free. -/
opaque Config.decantPick : Nat → Nat → Nat

/-- RES of a command status for which the spec states none, by the command. DESIGN CHOICE, log entry 25: free. -/
opaque Config.unstatedRes : Nat → Nat

/-- CODE of a PINS whose blocks do not extend a matching chain, by the command (R200). DESIGN CHOICE, log entry 26:
free. -/
opaque Config.pinsBroken : Nat → Nat

/-- Whether a task that has ended on a core was to contribute to a use of a collective: core, task and the number of the use. The spec
does not say how the hardware knows (R203). DESIGN CHOICE, log entry 27: free. -/
opaque Config.participant : Nat → Nat → Nat → Bool

/-- The flags of what other packages' engines computed of a use of a collective, by its number: no packet carries them (R202, R361).
Free: log entry 94. -/
opaque Config.remoteFlags : Nat → Nat

/-- Bytes of a context save area, by their address: the spec gives no layout of them (R24, R305). Log entry 79:
free. -/
opaque Config.savedByte : Nat → Byte

end Sys2Proof
end

