-- ==== Sys2Proof/Machine/Table.lean ====
section
/-!
DEFINITION. A table: values held by number, sorted by number, no number twice, and no entry equal to what an
unlisted number reads as. Memories, register files and the device's numbered resources are all tables, so equal
contents are equal data.
-/
namespace Sys2Proof.Machine

/-- Entries by key, in rising key order. -/
abbrev Table (α : Type) := List (Nat × α)

variable {α : Type}

/-- The entry at `k`, or `d` where none is listed. -/
def Table.get (d : α) (t : Table α) (k : Nat) : α :=
  match t with
  | [] => d
  | (j, v) :: r => if j = k then v else Table.get d r k

/-- `v` put at `k` before the first larger key. -/
def Table.insert (k : Nat) (v : α) : Table α → Table α
  | [] => [(k, v)]
  | (j, w) :: r => if k < j then (k, v) :: (j, w) :: r else (j, w) :: Table.insert k v r

/-- The table without key `k`. -/
def Table.erase (k : Nat) : Table α → Table α
  | [] => []
  | (j, w) :: r => if j = k then Table.erase k r else (j, w) :: Table.erase k r

/-- The table with `v` at `k`; a value equal to the default is not listed. -/
def Table.set [DecidableEq α] (d : α) (t : Table α) (k : Nat) (v : α) : Table α :=
  if v = d then t.erase k else (t.erase k).insert k v

/-- The canonical form: keys strictly rising, no listed default. -/
def Table.wf [DecidableEq α] (d : α) : Table α → Bool
  | [] => true
  | [(_, v)] => decide (v ≠ d)
  | (j, v) :: (k, w) :: r => decide (v ≠ d) && decide (j < k) && Table.wf d ((k, w) :: r)

/-- A byte memory: an unlisted address reads as zero. -/
abbrev Memory := Table Byte

/-- What a byte that nothing has written reads as. DESIGN CHOICE (log entry 4). -/
def Memory.blank : Byte := 0

/-- The canonical form of a memory. -/
def Memory.wf (m : Memory) : Bool := Table.wf Memory.blank m

/-- One byte. -/
def Memory.read (m : Memory) (a : Nat) : Byte := Table.get Memory.blank m a

/-- One byte written. -/
def Memory.write (m : Memory) (a : Nat) (b : Byte) : Memory := Table.set Memory.blank m a b

/-- `n` bytes from address `a` upward. -/
def Memory.bytes (m : Memory) (a : Nat) : Nat → List Byte
  | 0 => []
  | n + 1 => m.read a :: m.bytes (a + 1) n

/-- The bytes stored from address `a` upward. -/
def Memory.store (m : Memory) (a : Nat) : List Byte → Memory
  | [] => m
  | b :: bs => (m.write a b).store (a + 1) bs

/-- The little-endian number of `n` bytes at `a` (R9). -/
def Memory.num (m : Memory) (a n : Nat) : Nat := leNat (m.bytes a n)

/-- The number `x` stored in `n` little-endian bytes at `a` (R9). -/
def Memory.setNum (m : Memory) (a n x : Nat) : Memory := m.store a (leBytes n x)

end Sys2Proof.Machine
end

