-- ==== Sys2Proof/Machine/State.lean ====
section
/-!
DEFINITION. The machine's state: every core with its vault, and the package around the cores. Plain data throughout.
Register files and memories are tables, so an unlisted register or byte holds its value at task entry (R17, R23).
-/
namespace Sys2Proof.Machine

/-- Why the machine stops. -/
inductive Fault where
  /-- Raised by `step` when it is asked to turn to a core number above 511, which names no core (R1). Safe: the
  hardware has no such core. -/
  | noSuchCore (n : Nat)
  deriving DecidableEq, Repr

/-- Why an instruction has no meaning. -/
inductive Refusal where
  /-- Raised by an arm of `exec` whose instruction has no meaning yet. Safe: nothing is claimed of it. -/
  | notModelled (mnemonic : String)
  deriving DecidableEq, Repr

/-- The function units of the transport slots (01, Slots, units and engines). -/
inductive FUnit where
  | ia | ib | va | vb | sf
  deriving DecidableEq, Repr

/-- The parts of the tile engine (R146). -/
inductive XPart where
  | array | exit | shuffle
  deriving DecidableEq, Repr

/-- The causes of traps and faults (R247). -/
inductive Cause where
  | illb | illop | laneconf | qimb | aqovf | sqovf
  | accrange | fmtbusy | xbusy | xhaz | xparm | vparm | litend
  | vrange | valign | bankown | crange | armhaz | ringerr
  | descerr | xtinv | xtrange | eparm | priv
  | tbempty | loopesc | nonuniform | lmnest | loopdeep | stkovf | winuf | exitbar | adaptnest
  | trap | brk | preovr
  | fetch | trans | tperm | tdir | tcoord | atomtier | gfault
  | rnschk | dpoison
  deriving DecidableEq, Repr

/-- The performance events that stalled cycles count (R87, R99). -/
inductive PerfEvent where
  | stallld | stallt | stallg | stallq | stallring | unitbusy | qfull | fetchstall | winspill | winfill
  deriving DecidableEq, Repr

/-- A trap or fault with what its record reports (R246, R248, R344). -/
structure TrapInfo where
  cause : Cause
  slot : Nat
  /-- The 16-bit code of TRAP and BRK (R107). -/
  code : Nat := 0
  va : Nat := 0
  /-- The access was in tensor form. -/
  tensor : Bool := false
  /-- The fetch was that of a literal word. -/
  lit : Bool := false
  tid : Nat := 0
  tile : Nat := 0
  coords : List Nat := []
  rem : Nat := 0
  /-- Where the failing transfer waits in the global port, by its issue number. -/
  port : Option Nat := none
  deriving DecidableEq, Repr

/-- Where a result is delivered. Register numbers are physical: names are resolved at issue (R166, R244). -/
inductive Dest where
  | g (n : Nat) | v (n : Nat) | p (n : Nat) | q (n : Nat)
  | lc | sv | rrb
  | portA (u : FUnit) | portB (u : FUnit) | res (u : FUnit)
  /-- `tileL` is the write of a TLDL or TLD, for which a reader waits (R167, R184). -/
  | x (n : Nat) | wls | td (n : Nat) | tile (n : Nat) | tileL (n : Nat) | maskReg
  /-- A tile register with the zero flag that bit 32768 of the value gives (R151). -/
  | tileFlag (n : Nat)
  | mfmt (n : Nat) | wfmt | rab | fpflags
  /-- Accumulators of the weight engine, and bound registers by their key. -/
  | a (n : Nat) | y (n : Nat) | bound (n : Nat)
  /-- Registers that a C-slot load writes, for which a reader waits (R172). -/
  | gC (n : Nat) | vC (n : Nat) | tileC (n : Nat)
  /-- A register that an AMOG writes, for which a reader waits (R184). -/
  | gG (n : Nat)
  /-- Bank ownership (R170) and the armed mark of a tile register (R174). -/
  | owned | arm (n : Nat)
  | none
  deriving DecidableEq, Repr

/-- An operation in flight whose result is known: it is delivered at cycle `due` (R83, R126). Bits of the destination
under `mask` take the bits of `value`; `flags` join ccr.fpflags (R58). While a core is frozen nothing is delivered, and
resumption moves `due` on by the cycles the freeze lasted, so that the remaining latency is kept (R89, R91). -/
structure Delivery where
  due : Nat
  order : Nat
  dest : Dest
  value : Nat
  mask : Nat
  flags : Nat
  /-- A data error reported at delivery (R65, R376). -/
  err : Option TrapInfo
  deriving DecidableEq, Repr

/-- An MMA form in flight (R147, R148, R150): its operands as read at issue. -/
structure MmaJob where
  due : Nat
  order : Nat
  c : Nat
  pair : Nat
  transposed : Bool
  sparse : Bool
  skip : Bool
  a0 : TileBits
  a1 : TileBits
  b : TileBits
  /-- The metadata word of MMALS (R150). -/
  metaWord : BitVec 512
  /-- What it added to the bound (R66). -/
  inc : Nat
  deriving DecidableEq, Repr

/-- An MFLUSH or TQNT in flight. -/
inductive ExitJob where
  /-- MFLUSH: the accumulator and its bound as read at issue, the scales popped, and the tile's place (R66, R152). -/
  | mflush (due order : Nat) (c : Nat) (acc : BitVec 217088) (bnd : Nat) (rs cs : List (BitVec 16)) (base pitch : Nat)
      (add : Bool) (mk : Nat) (mask : BitVec 512) (fmt : BitVec 8)
  /-- TQNT: the scales it writes (R159); the tile itself is a delivery. -/
  | tqnt (due order : Nat) (base : Nat) (scales : List (BitVec 16))
  deriving DecidableEq, Repr

/-- Bytes of the vault that an MFLUSH or TQNT owns until `due` (R153), `lo` to `hi - 1`. -/
structure Hazard where
  lo : Nat
  hi : Nat
  due : Nat
  deriving DecidableEq, Repr

/-- A fill of the scale queue in flight (R176). -/
structure ScaleFill where
  due : Nat
  order : Nat
  words : List (BitVec 16)
  poison : Bool
  deriving DecidableEq, Repr

/-- What a NEXT in flight will write into its g register (R178). -/
structure NextJob where
  due : Nat
  order : Nat
  g : Nat
  value : Word64
  deriving DecidableEq, Repr

/-- What an entry of a C-slot queue does at its target vault (R172). -/
inductive CKind where
  | ld (g : Nat) (size : Nat) (sx : Bool)
  | vld (v : Nat)
  | tld (t : Nat)
  | tldm (t : Nat) (members : Nat)
  | st (data : List Byte)
  | amo (aop size : Nat) (src cmp : Nat) (g : Nat)
  /-- An RPUB, which publishes after the store-queue entries ahead of it (R181). -/
  | publish (member n handle : Nat)
  | mark (id : Nat)
  deriving DecidableEq, Repr

/-- An entry of the load queue or the store queue (R172). -/
structure CEntry where
  kind : CKind
  member : Nat
  off : Nat
  size : Nat
  issued : Nat
  bundle : Nat
  scope : Nat
  acquire : Bool
  release : Bool
  deriving DecidableEq, Repr

/-- A tile of a tensor, as a transfer names it (R229). -/
structure TileRef where
  asid : Nat
  tid : Nat
  tile : Nat
  coords : List Nat
  /-- The descriptor's tier policy: true is event (R187). -/
  event : Bool
  /-- An indirect coordinate was out of range after its lookup (R229). -/
  bad : Bool
  deriving DecidableEq, Repr

/-- The engine commands (R192, R197 to R206). -/
inductive CmdKind where
  | cpy | kapp | pmatch | pins | prel | blend | coll | asn | launch | decant
  deriving DecidableEq, Repr

/-- What a word in the global port does (R184). -/
inductive GOp where
  | tldTile (t : Nat) (r : TileRef)
  | tldRing (h : Nat) (r : TileRef)
  | tst (r : TileRef) (data : TileBits)
  | tldx (va : Nat) (pa : Option Nat) (len dst : Nat)
  | tstx (va : Nat) (pa : Option Nat) (data : List Byte)
  | xlate (x va acc : Nat)
  | amog (va : Nat) (pa : Option Nat) (aop size src cmp g : Nat)
  | cmd (k : CmdKind) (at_ : Nat) (block : BitVec 512)
  | icinv (va len : Nat)
  | emit (digest : BitVec 256) (off : Nat) (bytes emits : Nat)
  deriving DecidableEq, Repr

/-- How a command whose work is done completes (R192): CODE and RES, what goes into the own vault, and the flags that
join (R202). -/
structure Done where
  code : Nat
  res : Nat
  out : List (Nat × List Byte)
  flags : Nat
  deriving DecidableEq, Repr

/-- A word in the global port (R184) or an engine command under way (R192). -/
structure GEntry where
  op : GOp
  /-- The task that issued it. -/
  task : Nat
  asid : Nat
  order : Nat
  bundle : Nat
  issued : Nat
  scope : Nat
  acquire : Bool
  release : Bool
  /-- Where the completion increment goes: core and counter (R192). -/
  kcore : Nat
  kc : Nat
  /-- A fault it met, being served (R90, R193). -/
  faulted : Option TrapInfo
  /-- Set on a transfer that faulted and on the words behind it that had yet to perform: they perform in the port's order (R239). -/
  kept : Bool
  /-- Tiles or bytes already delivered (R197, R201). -/
  progress : List Nat
  /-- The data came from a place that failed: deliver it zeroed and poisoned (R349). -/
  failed : Bool
  /-- A command's block lay on a poisoned line (R376). -/
  bad : Bool
  /-- A collective that has contributed (R203). -/
  started : Bool
  /-- A tile read for a ring, its slot header and bytes, which waits for its turn to be published (R187, R188). -/
  got : Option (Nat × List Byte)
  /-- Set once a command's work is done; its completion may wait for its release (R260). -/
  finished : Option Done
  deriving DecidableEq, Repr

/-- A GATH the gather engine works on (R198). -/
structure GatherJob where
  base : Nat
  size : Nat
  left : Nat
  /-- Its place in the order of issue, and the bundle that issued it. -/
  order : Nat
  bundle : Nat
  /-- It stands behind a transfer that faulted, and goes on in the port's order (R239). -/
  kept : Bool
  /-- A fault being served (R193, R198). -/
  faulted : Option TrapInfo
  /-- A read under way failed (R349). -/
  failed : Bool
  deriving DecidableEq, Repr

/-- A ring handle h0-h7 (R180, R181). -/
structure Ring where
  bound : Bool
  cfg : Word64
  /-- Consumer: the current slot. Producer: the next slot to publish. -/
  slot : Nat
  /-- Consumer: the next element of the current slot. -/
  elem : Nat
  /-- Consumer: slots filled. Producer: slots free. -/
  count : Nat
  /-- Consumer: the next slot an engine fills. -/
  fill : Nat
  deriving DecidableEq, Repr

/-- An unbound handle (R17). -/
def Ring.unbound : Ring := ⟨false, 0, 0, 0, 0, 0⟩

/-- A target buffer (R93). -/
structure Target where
  pc : Word64
  /-- None is the keep mark. -/
  lpc : Option Word64
  /-- The cycle from which the buffer is ready. -/
  ready : Nat
  /-- Up to 256 bytes of bundles fetched from the target: lines of code by the number of their line in HBM. -/
  code : Table (Option (BitVec 512))
  deriving DecidableEq, Repr

/-- A level of the loop stack (R241). -/
structure Level where
  modulo : Bool
  index : Word32
  count : Word32
  stages : BitVec 4
  start : Word64
  stop : Word64
  depth : Nat
  strides : Table Word32
  /-- A bundle of the current iteration has issued (R242). -/
  issued : Bool
  deriving DecidableEq, Repr

/-- A tile register: its bytes and its zero flag (R236), and what it waits for. -/
structure Tile where
  data : TileBits
  zero : Bool
  deriving DecidableEq, Repr

/-- A tile register at task entry (R17). -/
def Tile.blank : Tile := ⟨0, true⟩

/-- The sequencer's registers (R17, R241). -/
structure Seq where
  pc : Word64
  lpc : Word64
  lc : Word32
  sv : BitVec 16
  rrb : BitVec 4
  /-- Active levels, innermost first. -/
  levels : List Level
  pending : Table Word32
  depth : Nat
  /-- Frames spilled to the stack region and not yet filled (R99). -/
  spilled : Nat
  spillPtr : Nat
  adapter : BitVec 3
  /-- Prepared target buffers by number. -/
  tb : Table (Option Target)
  /-- The lines of code of the target buffer that the last transfer went through (R93). -/
  stream : Table (Option (BitVec 512))
  /-- Where the straight-line code that issues now began, and the first cycle in which a bundle of it could issue (R37). -/
  streamFrom : Word64
  streamAt : Nat
  /-- Nothing has fetched the bundle at PC ahead of its issue: a task's first (R300), a segment's first (R110), or the one behind a
  RET. -/
  cold : Bool
  deriving DecidableEq, Repr

/-- The sequencer at task entry, before PC and LPC are set. -/
def Seq.entry : Seq :=
  { pc := 0, lpc := 0, lc := 0, sv := 0, rrb := 0, levels := [], pending := [], depth := 0, spilled := 0,
    spillPtr := 0, adapter := 0, tb := [], stream := [], streamFrom := 0, streamAt := 0, cold := false }

/-- Operand ports and bypass registers (R13). -/
structure Ports where
  iaA : Word64
  iaB : Word64
  iaR : Word64
  ibA : Word64
  ibB : Word64
  ibR : Word64
  vaA : Vec
  vaB : Vec
  vaR : Vec
  vbA : Vec
  vbB : Vec
  vbR : Vec
  sfA : Vec
  sfR : Vec
  deriving DecidableEq, Repr

/-- The ports at task entry (R17). -/
def Ports.entry : Ports := ⟨0, 0, 0, 0, 0, 0, 0, 0, 0, 0, 0, 0, 0, 0⟩

/-- The register files (R17). g: 1-15 are g1-g15, 16 + i is physical windowed register i. -/
structure Regs where
  g : Table Word64
  v : Table Vec
  p : Table Bool
  q : Table (BitVec 128)
  b : Table Word32
  xt : Table (BitVec 128)
  td : Table (BitVec 512)
  k : Table Word32
  h : Table Ring
  deriving DecidableEq, Repr

/-- The register files at task entry. -/
def Regs.entry : Regs := ⟨[], [], [], [], [], [], [], [], []⟩

/-- The weight and tile engines' registers (R17). -/
structure Engines where
  t : Table Tile
  /-- Armed tile registers (R174). -/
  armed : Table Bool
  c : Table (BitVec 217088)
  /-- x registers as Q8 bytes (R20, R25). -/
  x : Table Vec
  y : Table (BitVec 6784)
  a : Table (BitVec 6784)
  /-- Bounds of R66: c0-c3 at 0-3, a0-a63 at 4-67, y0-y15 at 68-83. -/
  bound : Table Word64
  /-- MMA counts of c0-c3 (R17, R24): MMA forms issued into c since its last clear. DESIGN CHOICE, log entry 81. -/
  mmaCount : Table Word64
  wls : BitVec 2048
  tlm : Table (BitVec 128)
  mfmt : Table (BitVec 8)
  wfmt : BitVec 8
  mask : BitVec 512
  mmas : List MmaJob
  exits : List ExitJob
  /-- First cycle in which each part is free (R146). -/
  arrayFree : Nat
  exitFree : Nat
  shuffleFree : Nat
  /-- Operations in flight that keep a format register busy, by the cycle of their delivery: 0 to 3 a pair, 4 WFMT, 5
  none (R72, R154). -/
  busyPairs : List (Nat × Nat)
  hazards : List Hazard
  deriving DecidableEq, Repr

/-- The mask block that masks nothing: CKEEP and RKEEP all ones (R155). -/
def maskNothing : BitVec 512 := BitVec.ofNat 512 (2 ^ 128 - 1)

/-- The engines at task entry (R17). -/
def Engines.entry : Engines :=
  { t := [], armed := [], c := [], x := [], y := [], a := [], bound := [], mmaCount := [], wls := 0, tlm := [], mfmt := [], wfmt := 0,
    mask := maskNothing, mmas := [], exits := [], arrayFree := 0, exitFree := 0, shuffleFree := 0, busyPairs := [],
    hazards := [] }

/-- Queues and operations under way (R23). -/
structure Queues where
  scale : List (BitVec 16)
  fills : List ScaleFill
  addr : List (BitVec 512)
  data : List Vec
  rngKey : Word64
  rngCtr : Word64
  loads : List CEntry
  stores : List CEntry
  gathers : List GatherJob
  nexts : List NextJob
  flight : List Delivery
  /-- Lane groups held, with the first cycle in which they are free (R86). -/
  lanes : List (Nat × Nat)
  iaFree : Nat
  ibFree : Nat
  /-- The first cycle in which the next literal word is in the code stream buffer, one word coming in a cycle (R149, R315). -/
  litReady : Nat
  deriving DecidableEq, Repr

/-- The queues at task entry (R23). -/
def Queues.entry : Queues :=
  { scale := [], fills := [], addr := [], data := [], rngKey := 0, rngCtr := 0, loads := [], stores := [],
    gathers := [], nexts := [], flight := [], lanes := [], iaFree := 0, ibFree := 0, litReady := 0 }

/-- The provenance context of a task (R208): the bytes absorbed since the last reset, newest last. -/
structure Digest where
  absorbed : List Byte
  emits : Nat
  deriving DecidableEq, Repr

/-- Whether a core runs. -/
inductive Run where
  | idle
  | running
  /-- Frozen in a trap cycle (R248). -/
  | frozen (t : TrapInfo) (at_ : Nat)
  /-- Frozen at a pre-emptible point (R251). -/
  | point (at_ : Nat)
  /-- After END, draining (R105). -/
  | ending
  deriving DecidableEq, Repr

/-- The control registers and status of a task on a core (R22). -/
structure Ctl where
  run : Run
  /-- END has issued (R105). -/
  draining : Bool
  /-- The task, as an index into the package's task list. -/
  task : Nat
  resumed : Bool
  rab : Bool
  cause : Word64
  /-- The package cycle from which ccr.cycles counts (R22). -/
  cycle0 : Nat
  fpflags : Word64
  /-- The last cycle in which flags joined ccr.fpflags, and those flags (R58). -/
  fresh : Nat × Nat
  preempt : Bool
  /-- Issue cycles since the request (R252). -/
  overrun : Nat
  bound : Nat
  member : Nat
  size : Nat
  /-- Core number within the cluster of member 0 (R301). -/
  base : Nat
  group : Nat
  queue : Nat
  tenants : BitVec 7
  asid : BitVec 16
  digest : Digest
  /-- Banks the task owns (R170). -/
  owned : BitVec 64
  /-- Banks granted pending (R302). -/
  pendingBanks : BitVec 64
  /-- The vault offset and bytes of the stack region, if any (R99). -/
  stack : Option (Nat × Nat)
  /-- End of the code object's literal section (R149, R313). -/
  litEnd : Word64
  /-- Loaded object and code version (R316). -/
  object : Nat
  version : Nat
  kernel : Nat
  deriving DecidableEq, Repr

/-- A core on which no task runs: `bound` is the largest that the loader accepts (R222; log entry 3). -/
def Ctl.idle : Ctl :=
  { run := .idle, draining := false, task := 0, resumed := false, rab := false, cause := 0, cycle0 := 0, fpflags := 0, fresh := (0, 0), preempt := false,
    overrun := 0, bound := 65536, member := 0, size := 1, base := 0, group := 0, queue := 0, tenants := 0, asid := 0,
    digest := ⟨[], 0⟩, owned := 0, pendingBanks := 0, stack := none, litEnd := 0, object := 0, version := 0,
    kernel := 0 }

/-- A wait of WAITE, WAITM or BARC in progress: since when, and the line WAITM keeps (R109, R196). -/
structure Waiting where
  since : Nat
  line : Option (BitVec 512)
  /-- A read of WAITM's line has found it poisoned, or has failed (R349, R376). -/
  bad : Bool := false
  /-- WAITM's read under way has failed (R349, R362). -/
  failed : Bool := false
  deriving DecidableEq, Repr

/-- What the issuing bundle gives its slots (the model's own). -/
structure Ctx where
  scope : Nat
  pc : Word64
  next : Word64
  words : List Instr
  /-- Literal words consumed so far in the bundle (R149). -/
  lits : Nat
  /-- Where the sequencer goes after the bundle, if not on: PC, and LPC unless kept (R92). -/
  xfer : Option (Word64 × Option Word64)
  /-- The lines of code of the target buffer it goes through (R93). -/
  lines : Table (Option (BitVec 512))
  /-- It goes where nothing has fetched code ahead (R110). -/
  cold : Bool
  /-- Words of a body that a LOOP or LOOPM of count 0 skips (R100). -/
  skip : Nat
  /-- The bundle ends no iteration although it is a body's last (R92). -/
  prevails : Bool
  /-- The bundle opened a level, which is in its first iteration (R100). -/
  opened : Bool
  /-- The bundle is an EXITL, which offers no pre-emptible point (R251). -/
  noPoint : Bool
  /-- The bundle has ended an iteration, and the place after it is a pre-emptible point (R251). -/
  point : Bool
  /-- ccr.digest as it stood before the bundle. -/
  digest0 : Word64
  /-- Handles with a filled slot as they stood before the bundle (R77, R109). -/
  filled0 : BitVec 8
  /-- Handles bound as they stood before the bundle (R77, R109). -/
  bound0 : BitVec 8
  /-- Slots of each handle that the bundle's pops have used up, which are released when it commits (R181, R182). -/
  popped : Table Nat
  /-- Slots that the bundle releases, which their producer finds free once it has committed: producing member, handle and number
  (R181, R182). -/
  freed : List (Nat × Nat × Nat)
  deriving DecidableEq, Repr

/-- No bundle. -/
def Ctx.empty : Ctx :=
  { scope := 0, pc := 0, next := 0, words := [], lits := 0, xfer := none, lines := [], cold := false, skip := 0, prevails := false, opened := false,
    noPoint := false, point := false, digest0 := 0, filled0 := 0, bound0 := 0, popped := [], freed := [] }

/-- One core and its vault. -/
structure Core where
  seq : Seq
  regs : Regs
  ports : Ports
  eng : Engines
  qs : Queues
  ctl : Ctl
  /-- Previous word of each slot, where valid (R34). -/
  prev : Table (Option Word64)
  ctx : Ctx
  /-- The stall in progress (R87). -/
  stall : Option PerfEvent
  waiting : Option Waiting
  /-- The first cycle in which the next bundle may issue. -/
  wake : Nat
  /-- The first cycle in which the code stream unit has the next bundle in the bundle buffer (R37). -/
  supply : Nat
  /-- Bundles issued since task entry. -/
  bundles : Nat
  /-- Words in the global port and engine commands under way, oldest first (R184). -/
  port : List GEntry
  /-- Faults and traps that take effect at the next boundary, oldest first (R90). -/
  boundary : List TrapInfo
  /-- BARC: the ordinal number passed, and the arrival at the next (R106). -/
  barcs : Nat
  arrived : Option Nat
  /-- The cycle from which the BARC that waits may issue (R106). -/
  pass : Option Nat
  perf : Table Nat
  vault : Memory
  /-- Poisoned 64-byte lines (R376). -/
  poison : Table Bool
  /-- Vault bytes overwritten in the last bundles: bundle number, address, old byte (R231). -/
  undo : List (Nat × Nat × Byte)
  /-- Banks retained here for pre-empted tasks: bank and task (R305). -/
  retained : Table (Option Nat)
  failed : Bool
  deriving DecidableEq, Repr

/-- A core before any task has run on it. -/
def Core.blank : Core :=
  { seq := Seq.entry, regs := Regs.entry, ports := Ports.entry, eng := Engines.entry, qs := Queues.entry,
    ctl := Ctl.idle, prev := [], ctx := Ctx.empty, stall := none, waiting := none, wake := 0, supply := 0, bundles := 0,
    port := [], boundary := [], barcs := 0, arrived := none, pass := none, perf := [], vault := [], poison := [], undo := [], retained := [],
    failed := false }


/-- A tile that a write touches: the address of its tile-table entry, that of its summary's SGEN field or 0 where it has
none, and whether the write covers it whole (R237, R376). -/
structure TileMark where
  entry : Nat
  summary : Nat
  whole : Bool
  /-- The write carries the page's side entry, whose SGEN is that of the version it makes (R237, R265). -/
  version : Bool := false
  /-- The write finds its page bad: the entry takes PSN with it (R325). -/
  poison : Bool := false
  deriving DecidableEq, Repr

/-- A write in a die's remote write buffer (R256). -/
structure WEntry where
  die : Nat
  addr : Nat
  data : List Byte
  tiles : List TileMark := []
  /-- The packet that carries it to a peer: connection and SEQ (R360). -/
  sent : Option (Nat × Word32) := none
  /-- Bytes elsewhere that reach their homes in one step with it (R265). -/
  also : List (Nat × List Byte) := []
  /-- Reference counts that rise or fall by one as it reaches its home, by the address of REF (R200, R329). -/
  refs : List (Nat × Bool) := []
  /-- The entry of a tile that a DECANT moves, the frame that it then names, and whether the copy is bad (R201, R325, R335). -/
  place : Option (Nat × Nat × Bool) := none
  /-- Memory that is free once it has reached its home. -/
  frees : List (Nat × Nat) := []
  /-- A write of a trellis engine, whose next command waits for it (R200, R331). -/
  tree : Bool := false
  /-- Its place among other agents' writes to its tile is settled: the generation that it makes is known (R199, R265). DESIGN CHOICE,
  log entry 130. -/
  sworn : Bool := false
  /-- The task whose flat write it is, or 0 (R206, R362). -/
  task : Nat := 0
  deriving DecidableEq, Repr

/-- A multicast held in a cluster's buffer: the members that have not received it (R174). -/
structure Multicast where
  cluster : Nat
  t : Nat
  members : List Nat
  data : TileBits
  deriving DecidableEq, Repr

/-- An address space (R336, R337). -/
structure Asid where
  l0 : Nat
  dir : Nat
  dirLen : Nat
  deriving DecidableEq, Repr

/-- Global memory and what lies between it and the cores (R256, R347, R348, R376). -/
structure MemSys where
  mem : Memory
  /-- Remote write buffers of the dies, in the order of acceptance, and writes on their way to a home on the port's own die
  (R394). -/
  wbuf : List WEntry
  /-- A die's writes to homes of its own take time (R394), and those of the host (number 4; R268, R281). -/
  lag : Table Bool
  /-- Host writes that the link has delivered and that have yet to reach their homes, in order (R268). -/
  hostq : List WEntry
  /-- Remote read buffers: die * 2^46 + line. -/
  rbuf : Table (Option (BitVec 512))
  /-- Tiles that stand in a remote read buffer as one version: die * 2^52 + entry; the tile's place and its generation (R265). -/
  tileCopies : Table (Option (Nat × Nat))
  /-- Lines in the cores' code stream buffers, by physical page: core * 2^46 + line (R207, R267, R316). -/
  cbuf : Table (Option (BitVec 512))
  /-- Lines that the host-line caches hold: I/O die * 2^46 + line (R348). -/
  hostLines : Table Bool
  badFrames : Table Bool
  guarded : Table Bool
  /-- Lines of memory behind a link that what serves them marks poisoned (R346, R349). -/
  badLines : Table Bool
  /-- The line of a read by firmware that completes with an error or not at all (R349). -/
  failing : Option Nat
  /-- Frames of 64 KiB that firmware has withdrawn from service (R361, R382). -/
  withdrawn : Table Bool
  /-- Entries whose bytes cannot be brought back, by their address: a withdrawn far region, a failed peer (R357, R362). -/
  lost : Table Bool
  /-- Firmware's records of tiles and pages that are not present, by the address of their entry (R333). -/
  records : Table (List Byte)
  /-- Free memory that the tier manager allocates from: address and bytes (R201). -/
  frames : List (Nat × Nat)
  asids : Table (Option Asid)
  touch : List (Nat × Nat × Nat)
  multicasts : List Multicast
  /-- Trellis roots: I/O die * 2^32 + tree, with the ASID its VAs lie in (R330). -/
  roots : Table (Option (Nat × Nat))
  nodes : List (Nat × Nat)
  deriving DecidableEq, Repr

/-- A task group in the task queues (R206, R296, R299). -/
structure Group where
  id : Nat
  kent : Nat
  done : Nat
  dval : Word64
  count : Nat
  minch : Nat
  size : Nat
  queue : Nat
  dies : Nat
  tenants : BitVec 7
  asid : BitVec 16
  params : List Byte
  tlms : List (BitVec 128)
  remaining : Nat
  blocks : Nat
  object : Nat
  version : Nat
  kernel : Nat
  /-- The dispatch core that launched it. -/
  core : Nat
  deriving DecidableEq, Repr

/-- Where a task stands. -/
inductive TaskState where
  | running | saved
  /-- The scheduler has selected it for resumption (R297, R305). -/
  | restoring
  | ended
  deriving DecidableEq, Repr

/-- A bank in a save area, with its poisoned lines (R305, R376). -/
structure SavedBank where
  core : Nat
  bank : Nat
  data : Memory
  poison : List Nat
  deriving DecidableEq, Repr

/-- A task: one gang on one chunk (R300). -/
structure Task where
  id : Nat
  group : Nat
  /-- Core identifier of member 0. -/
  base : Nat
  size : Nat
  first : Nat
  cnt : Nat
  state : TaskState
  requested : Bool
  /-- The group that a scheduler's request makes room for (R304). -/
  incoming : Option Nat
  ended : List Nat
  /-- Contexts of a saved task by core (R24). -/
  contexts : List (Nat × Core)
  /-- Saved banks (R305). -/
  banks : List SavedBank
  /-- Increments held for it: core and counter (R193). -/
  held : List (Nat × Nat)
  /-- Banks that its members still hold after they ended: core and mask (R302, R303). -/
  holding : Table (BitVec 64)
  deriving DecidableEq, Repr

/-- Launches and scheduling (18). -/
structure Sched where
  qctl : Table Word64
  ptr : Table Nat
  dispatch : List (Nat × List Nat)
  groups : List Group
  /-- Groups in each queue: die * 64 + queue and group, in order of acceptance. -/
  queued : List (Nat × Nat)
  tasks : List Task
  /-- The outstanding request of each die's scheduler (R304). -/
  asked : Table (Option Nat)
  /-- The cycle of each die's last scheduler cycle, counted from 1 (R298). -/
  turned : Table Nat
  saveAreas : Table Nat
  /-- The next task group's number, from 1: zero in a record means none (R383; log entry 6). -/
  nextGroup : Nat
  deriving DecidableEq, Repr

/-- An entry of a kernel's scratchpad plan (R308). -/
structure PlanEntry where
  bank : Nat
  off : Nat
  len : Nat
  param : Bool
  stack : Bool
  image : List Byte
  deriving DecidableEq, Repr

/-- A kernel of a loaded object (R308, R313). -/
structure Kernel where
  entry : Nat
  lit : Nat
  bound : Nat
  pbsz : Nat
  plan : List PlanEntry
  /-- The bank map π (R314): the image of bank b at place b. -/
  bankMap : List Nat
  deriving DecidableEq, Repr

/-- A code version: its pages and its live hook table (R316, R323). -/
structure Version where
  num : Nat
  /-- VA, physical address and digest of each code page. -/
  pages : List (Nat × Nat × BitVec 256)
  /-- Kernel, hook, slot, segment VA, segment literal VA. -/
  hooks : List (Nat × Nat × Nat × Nat × Nat)
  deriving DecidableEq, Repr

/-- A loaded code object (R313, R316). -/
structure Obj where
  handle : Nat
  asid : Nat
  digest : BitVec 256
  /-- The digest of the portable object it was translated from (R319). -/
  portable : Option (BitVec 256)
  bva : Nat
  blen : Nat
  lva : Nat
  llen : Nat
  kernels : List Kernel
  /-- Hooks that the object defines: kernel and hook number. -/
  hookDefs : List (Nat × Nat)
  /-- Symbols: name, kind and value after loading (R308, R310). -/
  symbols : List (List Byte × Nat × Nat)
  /-- Newest first. -/
  versions : List Version
  sealed : Bool
  /-- Cleared by UNLOAD: groups accepted earlier still run it. -/
  mapped : Bool
  deriving DecidableEq, Repr

/-- Code objects (19). -/
structure Code where
  objects : List Obj
  nextHandle : Nat
  nextVa : Nat
  deriving DecidableEq, Repr

/-- An event queue's registers (R356). -/
structure Evq where
  base : Word64
  log2n : Byte
  en : Bool
  widx : Word32
  ridx : Word32
  drop : Word32
  deriving DecidableEq, Repr

/-- The management window (R352 to R356) and what has gone to the host. -/
structure Mgmt where
  mcmd : BitVec 512
  /-- The command block as firmware read it when it was submitted (R353). -/
  taken : BitVec 512
  mseq : Word64
  doneSeq : Word32
  doneCode : Byte
  busy : Bool
  evq : Table (Option Evq)
  /-- Next sequence number of each event source (R383). -/
  evSeq : Table Nat
  /-- MSI-X vectors signalled, oldest first (R346). -/
  msix : List Nat
  /-- Source n may not signal until its limit expires; a signal is owed (R355). -/
  holdoff : Table Bool
  owed : Table Bool
  /-- Each die's fault queue: die and record, oldest first (R344). -/
  faultQ : List (Nat × BitVec 1024)
  /-- Bytes returned to host reads of BAR0 and BAR2, oldest first (R347, R352). -/
  reads : List (List Byte)
  /-- Copies of the certificate that quote commands have returned, oldest first (R388). -/
  certs : List (List Byte)
  /-- Tasks to which a debug session is attached (R107). -/
  sessions : List Nat
  deriving DecidableEq, Repr

/-- Boot, measurement and signing (25). -/
structure Trust where
  running : Bool
  cellar : Bool
  bootStep : Nat
  bootAddr : Option (BitVec 128)
  dhcpUrl : Option (List Byte)
  bootUrl : Option (List Byte)
  urlWindow : Bool
  /-- A boot step has failed and the ROM waits to start again (R385). -/
  bootFailed : Bool
  /-- The stages that the ROM has loaded: load address and bytes (R385, R386). -/
  stages : List (Nat × List Byte)
  mr : Table (BitVec 256)
  minVersion : BitVec 32
  alog : List (BitVec 512)
  ahead : BitVec 256
  phead : BitVec 256
  pcnt : Nat
  archived : Nat
  /-- Records appended since the last checkpoint (R392). -/
  unsigned : Nat
  /-- The port of I/O die 0 that the ROM has brought up (R385). -/
  bootPort : Option Nat
  provBase : Nat
  ckptBase : Nat
  deriving DecidableEq, Repr

/-- A packet sent and not yet acknowledged, or sent to the wire (R358, R359). -/
structure OutPacket where
  conn : Nat
  type : Nat
  seq : Word32
  ackSeq : Word32
  flg : BitVec 4
  addr : Nat
  tag : Word32
  len : Nat
  payload : List Byte
  sends : Nat
  deriving DecidableEq, Repr

/-- A Yelvin connection (R359). -/
structure Conn where
  id : Nat
  peer : Nat
  up : Bool
  txSeq : Word32
  rxNext : Word32
  window : Nat
  unacked : List OutPacket
  /-- Packets received ahead of sequence, kept until their turn (R359, R360). -/
  early : List Word32
  nextTag : Word32
  /-- Reads outstanding: their TAG, the core, the key of the word they serve and the address (R361). -/
  readsOut : List (Word32 × Nat × Nat × Nat)
  deriving DecidableEq, Repr

/-- Bytes that an RDRESP has brought for a waiting word (R361): the core and the key of the word they are for, and whether the peer
answered with an error. -/
structure PeerData where
  core : Nat
  order : Nat
  addr : Nat
  data : List Byte
  bad : Bool
  deriving DecidableEq, Repr

/-- What a participant must agree on with the others (R203, R361): the operation, P and SHAPE. -/
structure CollSig where
  op : Nat
  p : Nat
  shape : Nat
  deriving DecidableEq, Repr

/-- One participant's contribution to a collective (R203): the word that made it, by core and key. -/
structure Contribution where
  core : Nat
  key : Nat
  sig : CollSig
  rank : Nat
  bytes : List Byte
  deriving DecidableEq, Repr

/-- What a packet has brought of a rank range or of the final result (R361): who sent it, with which declaration, the first byte's place
and the bytes. -/
structure CollPart where
  final : Bool
  peer : Nat
  sig : CollSig
  lo : Nat
  hi : Nat
  first : Nat
  bytes : List Byte
  deriving DecidableEq, Repr

/-- A use of a collective tag within a domain (R203). -/
structure Collective where
  /-- Uses are numbered as they begin. -/
  num : Nat
  domain : Nat
  tag : Word32
  /-- The operation, P and SHAPE of its first contribution. -/
  sig : CollSig
  contribs : List Contribution
  parts : List CollPart
  /-- Merged rank ranges sent on (R361). -/
  sent : List (Nat × Nat)
  deriving DecidableEq, Repr

/-- A use of a tag that has ended, for one of the other packages: which of its packets have come, by result or not, first and last rank
and first byte. What has not come yet may still come, and belongs to this use (log entry 94). -/
structure PastUse where
  domain : Nat
  tag : Word32
  peer : Nat
  /-- What the package declared; none after a MISMATCH, of which any declaration is one. -/
  sig : Option CollSig
  had : List (Bool × Nat × Nat × Nat)
  deriving DecidableEq, Repr

/-- Links and the fabric (21). -/
structure Fabric where
  /-- A link is down: kind * 2^16 + unit (R384). -/
  down : Table Bool
  /-- Per-hop retry announced by the partner of an Ethernet port (R359). -/
  announced : Table Bool
  conns : List Conn
  wire : List OutPacket
  msgs : List (Nat × List Byte)
  colls : List Collective
  /-- The number of the next use of a collective. -/
  nextUse : Nat
  /-- Uses that have ended and of which packets may still come. -/
  late : List PastUse
  /-- COLL packets that wait for room on the connection to their peer: peer, TAG and payload. -/
  outbox : List (Nat × Word32 × List Byte)
  arrived : List PeerData
  /-- The participant list of each tenant's system group: the package of each participant (R363). -/
  groups : Table (List Nat)
  collLimit : Nat
  deriving DecidableEq, Repr

/-- Detection, scrubbing, spares and power (24, R2). -/
structure Health where
  clock : Nat
  tempHigh : Bool
  supplyOut : Bool
  /-- Mean power of the last window, in W (R384). -/
  mean : Nat
  micros : Nat
  /-- Corrected errors in the last 24 h by resource: kind * 2^48 + unit (R381). -/
  corrected : Table Nat
  /-- Spares used, by the pool they come from: kind * 2^48 + pool. -/
  sparesUsed : Table Nat
  retired : Table Bool
  /-- Symbols that a SerDes lane has carried in the last 24 h (R381). -/
  symbols : Table Nat
  /-- Lines that the scrubber has corrected in a tile within 24 h, by the address of the tile's entry (R380). -/
  tileFixes : Table Nat
  policy : Table Bool
  defaultPolicy : Bool
  /-- Intervals of the vault, the memory and the KV scrubber, in ms (R379). -/
  intervals : List Nat
  deriving DecidableEq, Repr

/-- Everything around the cores. -/
structure Dev where
  sys : MemSys
  sched : Sched
  code : Code
  mgmt : Mgmt
  trust : Trust
  fabric : Fabric
  health : Health
  deriving DecidableEq, Repr

/-- One entry of the schedule (the model's own; log entry 1): what comes about next where the rules leave the order or the time
open and the opcode table has a row for it or none. -/
inductive Turn where
  /-- The machine's own next step, as with nothing scheduled: so a schedule can place the others among bundles and cycles. -/
  | own
  /-- A step that a row of the opcode table stands for. -/
  | event (i : Instr)
  /-- The sequencer turns to a core. -/
  | core (n : Nat)
  /-- A copy is replaced in the remote read buffer of a die (R257). -/
  | replaced (die addr : Nat)
  /-- From now on a die's writes to homes of its own reach them at once, or take time (R394); number 4 stands for the host's. -/
  | lag (die : Nat) (on : Bool)
  /-- A host write that waits reaches its home (R268, R281). -/
  | hostDrain (ix : Nat)
  /-- An engine command has a part of its effects, and the others later (log entry 2). -/
  | partly (core ix : Nat)
  /-- A line of code is fetched into a core's code stream buffer ahead of its use (R37, R267). -/
  | fetched (core va : Nat)
  /-- A line of code is dropped from a core's code stream buffer. -/
  | unfetched (core va : Nat)
  /-- Target buffer `tb` of a core takes the bundles at its target (R93). -/
  | target (core tb : Nat)
  /-- Target buffer `tb` of a core, prepared and not ready, is ready only from cycle `at_` on (R93). -/
  | targetLate (core tb at_ : Nat)
  /-- The code stream unit of a core has the next bundle, or its next literal word, only from cycle `at_` on (R37, R149). -/
  | supplied (core at_ : Nat)
  /-- A corrected error of a resource lies 24 h back (R381). -/
  | aged (kind unit : Nat)
  /-- A corrected line of a tile lies 24 h back (R380): the tile, by the address of its entry. -/
  | agedTile (entry : Nat)
  /-- What the FEC of a SerDes lane has counted in the last 24 h: symbols corrected, of symbols (R381, R384). -/
  | fec (lane errors symbols : Nat)
  /-- Parity detects an error in a core (R378, R381). -/
  | parity (core : Nat)
  /-- The checker of a control core detects a fault (R381). -/
  | controlCheck (n : Nat)
  /-- Microseconds of real time pass (R384). -/
  | elapsed (n : Nat)
  /-- The ROM's step fails: no link trains, no reply comes, no image is got (R385). -/
  | bootFails
  /-- A read of a vault line meets an ECC error, corrected or not (R374, R376). -/
  | vaultEcc (core line : Nat) (bad : Bool)
  /-- A read of a line of HBM or the cellar meets an ECC error, corrected or not (R374, R376). -/
  | memEcc (addr : Nat) (bad : Bool)
  /-- A line of memory behind a link is, or is no longer, marked poisoned by what serves it (R346, R349). -/
  | linkPoison (addr : Nat) (on : Bool)
  /-- A debug session is attached to a task, or ends (R107). -/
  | debug (task : Nat) (on : Bool)
  /-- Firmware makes a core a dispatch core with a list of address spaces, or no dispatch core (R294). -/
  | dispatch (core : Nat) (asids : Option (List Nat))
  /-- Firmware starts a dispatch program: core, address space, code object and kernel (R294). -/
  | program (core asid : Nat) (object : List Byte) (kernel : Nat)
  /-- The host reads bytes of the management window (R10, R352). -/
  | bar0Read (off len : Nat)
  deriving DecidableEq, Repr

/-- The machine. `core` is the core numbered `cur`; the others stand in `others`. -/
structure State where
  /-- What comes about before the next bundle of the current core. DESIGN CHOICE, log entry 1. -/
  agenda : List Turn
  cycle : Nat
  cur : Nat
  core : Core
  others : Table Core
  dev : Dev
  deriving DecidableEq, Repr

/-- The default cores: 0 and 1 of cluster 0 of every die dispatch, with no ASID listed (R294). -/
def defaultDispatch : List (Nat × List Nat) :=
  [(0, []), (1, []), (128, []), (129, []), (256, []), (257, []), (384, []), (385, [])]

/-- Memory and its buffers after reset. -/
def MemSys.reset : MemSys :=
  { mem := [], wbuf := [], lag := [], hostq := [], rbuf := [], tileCopies := [], cbuf := [], hostLines := [], badFrames := [],
    guarded := [], badLines := [], failing := none, withdrawn := [], lost := [], records := [], frames := [], asids := [],
    touch := [], multicasts := [], roots := [], nodes := [] }

/-- The scheduler after reset (R296, R298). An unlisted QCTL reads as 0x60. -/
def Sched.reset : Sched :=
  { qctl := [], ptr := [], dispatch := defaultDispatch, groups := [], queued := [], tasks := [], asked := [], turned := [],
    saveAreas := [], nextGroup := 1 }

/-- QCTL at reset: enabled, pre-emptible, priority 0 (R296). -/
def qctlReset : Word64 := 0x60

/-- The management window after reset. -/
def Mgmt.reset : Mgmt :=
  { mcmd := 0, taken := 0, mseq := 0, doneSeq := 0, doneCode := 0, busy := false, evq := [], evSeq := [], msix := [], holdoff := [],
    owed := [], faultQ := [], reads := [], certs := [], sessions := [] }

/-- Boot and trust after a conventional reset: the ROM stands before step 1, the measurement registers are zero
(R385, R387). -/
def Trust.reset : Trust :=
  { running := false, cellar := true, bootStep := 1, bootAddr := none, dhcpUrl := none, bootUrl := none,
    urlWindow := true, bootFailed := false, stages := [], mr := [], minVersion := Config.fusedMinVersion, alog := [], ahead := 0,
    phead := 0, pcnt := 0, archived := 0, unsigned := 0, bootPort := none, provBase := 0, ckptBase := 0 }

/-- The links after reset: up and with no connection (log entry 8). -/
def Fabric.reset : Fabric :=
  { down := [], announced := [], conns := [], wire := [], msgs := [], colls := [], nextUse := 0, late := [], outbox := [], arrived := [], groups := [],
    collLimit := 50 }

/-- The intervals of R379: 2 s, 1 h and 1 h. -/
def defaultIntervals : List Nat := [2000, 3600000, 3600000]

/-- Health after reset: the clock at 1,900 MHz and policy 1 for every tenant (R2, R377). -/
def Health.reset : Health :=
  { clock := 1900, tempHigh := false, supplyOut := false, mean := 0, micros := 0, corrected := [], sparesUsed := [], retired := [],
    symbols := [], tileFixes := [], policy := [], defaultPolicy := true, intervals := defaultIntervals }

/-- The package after a conventional reset. -/
def Dev.reset : Dev :=
  { sys := MemSys.reset, sched := Sched.reset, code := ⟨[], 1, 0x0000010000000000⟩, mgmt := Mgmt.reset,
    trust := Trust.reset, fabric := Fabric.reset, health := Health.reset }

/-- The machine right after a conventional reset: no task runs on any core, and the boot ROM is about to start. -/
def State.reset : State :=
  { agenda := [], cycle := 0, cur := 0, core := Core.blank, others := [], dev := Dev.reset }

end Sys2Proof.Machine
end

