-- ==== Sys2Proof/Machine/Ops.lean ====
section
/-!
DEFINITION. The named operations over cores, registers and vaults: access to a core by number, register names (R99,
R244), the sequencer flags (R21, R243), vault bytes (R231, R255, R376), results in flight (R16, R83, R115), interlocks
(R83, R84), taking a trap or fault (R248) and resuming from one (R249).
-/
namespace Sys2Proof.Machine

open Host (Outcome)

/-- What keeps a word from having its effect: a stall of the whole core (R87), a stall that counts its cycles from the
bundle's first attempt and keeps a line (R99, R109, R196), an arrival at BARC (R106), a trap at issue
(R80, R81), or a fault that keeps the bundle from issuing (R196). -/
inductive Stop where
  | stall (e : PerfEvent)
  | hold (e : PerfEvent) (line : Option (BitVec 512))
  /-- WAITM goes on watching, with what its read of the line has set going. -/
  | watch (line : Option (BitVec 512)) (s : State)
  | arrive
  | trap (c : Cause)
  | fault (t : TrapInfo)
  deriving DecidableEq, Repr

/-- The outcome of a step of this machine. -/
abbrev Next := Outcome State Fault Refusal

/-! ### Cores by number -/

/-- The entry for core `n` in the list of the other cores put in its place. -/
def putCore (t : Table Core) (n : Nat) (c : Core) : Table Core := (t.erase n).insert n c

/-- Core `n` (R1). -/
def State.coreAt (s : State) (n : Nat) : Core := if n = s.cur then s.core else s.others.get Core.blank n

/-- Core `n` replaced. -/
def State.setCore (s : State) (n : Nat) (c : Core) : State :=
  if n = s.cur then { s with core := c } else { s with others := putCore s.others n c }

/-- The machine with core `n` as its current core. -/
def State.turnTo (s : State) (n : Nat) : State :=
  if n = s.cur then s
  else { s with cur := n, core := s.others.get Core.blank n, others := putCore (s.others.erase n) s.cur s.core }

/-- An operation carried out on core `n` as the current core. -/
def State.on (s : State) (n : Nat) (f : State → State) : State := (f (s.turnTo n)).turnTo s.cur

/-- A change to the current core. -/
def State.mod (s : State) (f : Core → Core) : State := { s with core := f s.core }

/-- A change to core `n`. -/
def State.modAt (s : State) (n : Nat) (f : Core → Core) : State := s.setCore n (f (s.coreAt n))

/-- The die of a core (R1). -/
def dieOf (core : Nat) : Nat := core / 128

/-- The core that is member `m` of the current core's gang (R227, R301). -/
def State.member (s : State) (m : Nat) : Nat := s.cur / 16 * 16 + s.core.ctl.base + m

/-- The cores of the current core's gang. -/
def State.gang (s : State) : List Nat := (List.range s.core.ctl.size).map s.member

/-- A step that acts on core `n` alone: no core has a number above 511 (R1). -/
def onCore (n : Nat) (f : State → State) (s : State) : Next :=
  if 512 ≤ n then .fault (.noSuchCore n) else .next (s.on n f)

/-! ### Register names -/

/-- The place of windowed name `16 + w` in the window at the call depth (R99). -/
def windowKey (depth w : Nat) : Nat := 16 + (depth + w / 8) % 16 * 8 + w % 8

/-- The physical register that g`n` names (R99, R244). -/
def Core.gKey (c : Core) (n : Nat) : Nat :=
  if n < 16 then n else windowKey c.seq.depth ((n - 16 + 16 - c.seq.rrb.toNat) % 16)

/-- The physical register that v`n` names (R244). -/
def Core.vKey (c : Core) (n : Nat) : Nat := if n < 16 then n else 16 + (n - 16 + 16 - c.seq.rrb.toNat) % 16

/-- The physical register that p`n` names (R244). -/
def Core.pKey (c : Core) (n : Nat) : Nat := if n < 8 then n else 8 + (n - 8 + 16 - c.seq.rrb.toNat) % 8

/-- Physical g register: g0 reads zero (R17). -/
def Core.gAt (c : Core) (key : Nat) : Word64 := if key = 0 then 0 else c.regs.g.get 0 key

/-- Physical g register written: a write of g0 is ignored (R17). -/
def Core.setGAt (c : Core) (key : Nat) (x : Word64) : Core :=
  if key = 0 then c else { c with regs := { c.regs with g := c.regs.g.set 0 key x } }

/-- v register by physical number. -/
def Core.vAt (c : Core) (key : Nat) : Vec := c.regs.v.get 0 key
/-- p`n`. -/
def Core.pAt (c : Core) (n : Nat) : Bool := c.regs.p.get false (c.pKey n)
/-- q`n`. -/
def Core.qAt (c : Core) (n : Nat) : BitVec 128 := c.regs.q.get 0 n
/-- b`n`. -/
def Core.bAt (c : Core) (n : Nat) : Nat := (c.regs.b.get 0 n).toNat
/-- k`n`. -/
def Core.kAt (c : Core) (n : Nat) : Word32 := c.regs.k.get 0 n
/-- h`n`. -/
def Core.ring (c : Core) (n : Nat) : Ring := c.regs.h.get Ring.unbound n
/-- h`n` replaced. -/
def Core.setRing (c : Core) (n : Nat) (r : Ring) : Core :=
  { c with regs := { c.regs with h := c.regs.h.set Ring.unbound n r } }
/-- t`n`. -/
def Core.tileAt (c : Core) (n : Nat) : Tile := c.eng.t.get Tile.blank n
/-- t`n` written whole, with its zero flag computed (R151, R236). -/
def Core.setTile (c : Core) (n : Nat) (x : TileBits) : Core :=
  { c with eng := { c.eng with t := c.eng.t.set Tile.blank n ⟨x, x == 0⟩ } }

/-- t`n` written whole with a zero flag of its own (R151). -/
def Core.setTileFlag (c : Core) (n : Nat) (x : TileBits) (z : Bool) : Core :=
  { c with eng := { c.eng with t := c.eng.t.set Tile.blank n ⟨x, z⟩ } }

/-! ### Sequencer flags -/

/-- FIRST of a level (R243). -/
def Level.first (l : Level) : Bool := l.index == 0

/-- LAST of a level (R243). -/
def Level.last (l : Level) (lc : Word32) (sv : BitVec 16) : Bool :=
  if l.modulo then lc == 0 && sv.toNat == 2 ^ (l.stages.toNat - 1) else l.index + 1 == l.count

/-- FIRST of the innermost level; clear when none is active. -/
def Seq.first (q : Seq) : Bool :=
  match q.levels with
  | l :: _ => l.first
  | [] => false

/-- LAST of the innermost level. -/
def Seq.last (q : Seq) : Bool :=
  match q.levels with
  | l :: _ => l.last q.lc q.sv
  | [] => false

/-- INLOOPM. -/
def Seq.inLoopm (q : Seq) : Bool :=
  match q.levels with
  | l :: _ => l.modulo
  | [] => false

/-- A Bool as 0 or 1. -/
def bit (b : Bool) : Nat := if b then 1 else 0

/-- FB (R21). -/
def Seq.fb (q : Seq) : Nat :=
  bit q.first + 2 * bit q.last + 4 * bit (!q.levels.isEmpty) + 8 * bit q.inLoopm + 16 * q.levels.length

/-! ### The vault -/

/-- Bytes of a vault. -/
def vaultSize : Nat := 4194304

/-- Number of 64-byte lines that a range of bytes touches. -/
def linesOf (a n : Nat) : List Nat := (List.range ((a + n + 63) / 64 - a / 64)).map (a / 64 + ·)

/-- Whether a poisoned line lies in the range (R376). -/
def Core.poisoned (c : Core) (a n : Nat) : Bool := (linesOf a n).any fun l => c.poison.get false l

/-- The lines that a range covers whole. -/
def wholeLines (a n : Nat) : List Nat := (linesOf a n).filter fun l => a ≤ 64 * l && 64 * l + 64 ≤ a + n

/-- Bytes of the vault written, with what they held noted for R231; a line written whole loses its poison (R376). -/
def Core.store (c : Core) (a : Nat) (bs : List Byte) : Core :=
  { c with
    vault := c.vault.store a bs
    undo := (List.range bs.length).foldl (fun u i => (c.bundles, a + i, c.vault.read (a + i)) :: u) c.undo
    poison := (wholeLines a bs.length).foldl (fun p l => p.set false l false) c.poison }

/-- A number stored in `n` bytes. -/
def Core.storeNum (c : Core) (a n x : Nat) : Core := c.store a (leBytes n x)

/-- Lines of the vault marked poisoned (R65). -/
def Core.markPoison (c : Core) (lines : List Nat) : Core :=
  { c with poison := lines.foldl (fun p l => p.set false l true) c.poison }

/-- Lines of the vault that lose their poison (R376). -/
def Core.healPoison (c : Core) (lines : List Nat) : Core :=
  { c with poison := lines.foldl (fun p l => p.set false l false) c.poison }

/-- The vault as the layout unit sees it for a transfer in the bundle that is issuing (R231): without what this bundle
and the two before it wrote, or anything that reached the vault after they began. -/
def Core.vaultBefore (c : Core) : Memory :=
  c.undo.foldl (fun m u => if c.bundles ≤ u.1 + 2 then m.write u.2.1 u.2.2 else m) c.vault

/-- The number of the bank of a vault byte (R161). -/
def bankOf (a : Nat) : Nat := a / 65536 % 64

/-- The banks that a range of bytes touches. -/
def banksOf (a n : Nat) : List Nat := (List.range ((a + n - 1) / 65536 + 1 - a / 65536)).map fun i => (a / 65536 + i) % 64

/-- Whether a bank pending for the core's task lies in the range (R302). -/
def Core.pendingIn (c : Core) (a n : Nat) : Bool := (banksOf a n).any fun k => c.ctl.pendingBanks.getLsbD k

/-- A fault or trap to be taken at the next boundary, after those noted before it (R90). -/
def Core.note (c : Core) (t : TrapInfo) : Core := { c with boundary := c.boundary ++ [t] }

/-- DPOISON noted when a read has met a poisoned line (R376). -/
def Core.noteRead (c : Core) (slot a n : Nat) : Core :=
  if c.poisoned a n then c.note { cause := .dpoison, slot := slot } else c

/-! ### Results in flight -/

/-- A delivery put among those in flight, in the order of due cycle and issue (R16). -/
def insertDelivery (d : Delivery) : List Delivery → List Delivery
  | [] => [d]
  | e :: r => if d.due < e.due || (d.due == e.due && d.order < e.order) then d :: e :: r else e :: insertDelivery d r

/-- A delivery issued. -/
def Core.send (c : Core) (d : Delivery) : Core := { c with qs := { c.qs with flight := insertDelivery d c.qs.flight } }

/-- The place of slot `n` of the issuing bundle in the order of issue (R16). -/
def Core.orderOf (c : Core) (slot : Nat) : Nat := c.bundles * 16 + slot

/-- The bits of `old` with those under `mask` taken from `x`. -/
def overlay {w : Nat} (old : BitVec w) (mask x : Nat) : BitVec w :=
  (old &&& ~~~(BitVec.ofNat w mask)) ||| (BitVec.ofNat w x &&& BitVec.ofNat w mask)

/-- All bits of a width. -/
def ones (w : Nat) : Nat := 2 ^ w - 1

/-- The bits of SV that a move may set (R112): those below the stage count while a LOOPM level is active. In the bundle whose B word opens
or leaves the level it counts as the B word leaves it: DESIGN CHOICE, log entry 117. -/
def Seq.svMask (q : Seq) : Nat :=
  match q.levels with
  | l :: _ => if l.modulo then ones l.stages.toNat else ones 16
  | [] => ones 16

/-- A port or bypass register's write. -/
def Core.setPorts (c : Core) (f : Ports → Ports) : Core := { c with ports := f c.ports }

/-- The `.a` port of a unit written. -/
def Ports.setA (p : Ports) (u : FUnit) (x : Nat) : Ports :=
  match u with
  | .ia => { p with iaA := BitVec.ofNat 64 x }
  | .ib => { p with ibA := BitVec.ofNat 64 x }
  | .va => { p with vaA := BitVec.ofNat 1024 x }
  | .vb => { p with vbA := BitVec.ofNat 1024 x }
  | .sf => { p with sfA := BitVec.ofNat 1024 x }

/-- The `.b` port of a unit written; sf has none. -/
def Ports.setB (p : Ports) (u : FUnit) (x : Nat) : Ports :=
  match u with
  | .ia => { p with iaB := BitVec.ofNat 64 x }
  | .ib => { p with ibB := BitVec.ofNat 64 x }
  | .va => { p with vaB := BitVec.ofNat 1024 x }
  | .vb => { p with vbB := BitVec.ofNat 1024 x }
  | .sf => p

/-- A result's arrival in a bypass register (R14, R126). -/
def Ports.setR (p : Ports) (u : FUnit) (mask x : Nat) : Ports :=
  match u with
  | .ia => { p with iaR := overlay p.iaR mask x }
  | .ib => { p with ibR := overlay p.ibR mask x }
  | .va => { p with vaR := overlay p.vaR mask x }
  | .vb => { p with vbR := overlay p.vbR mask x }
  | .sf => { p with sfR := overlay p.sfR mask x }

/-- The `.a` port of a unit. -/
def Ports.a (p : Ports) : FUnit → Nat
  | .ia => p.iaA.toNat
  | .ib => p.ibA.toNat
  | .va => p.vaA.toNat
  | .vb => p.vbA.toNat
  | .sf => p.sfA.toNat

/-- The `.b` port of a unit; sf has none. -/
def Ports.b (p : Ports) : FUnit → Nat
  | .ia => p.iaB.toNat
  | .ib => p.ibB.toNat
  | .va => p.vaB.toNat
  | .vb => p.vbB.toNat
  | .sf => 0

/-- The bypass register of a unit. -/
def Ports.r (p : Ports) : FUnit → Nat
  | .ia => p.iaR.toNat
  | .ib => p.ibR.toNat
  | .va => p.vaR.toNat
  | .vb => p.vbR.toNat
  | .sf => p.sfR.toNat

/-- A value written to its destination (R112, R166). -/
def Core.put (c : Core) (dest : Dest) (mask x : Nat) : Core :=
  match dest with
  | .g n => c.setGAt n (overlay (c.gAt n) mask x)
  | .v n => { c with regs := { c.regs with v := c.regs.v.set 0 n (overlay (c.vAt n) mask x) } }
  | .p n => { c with regs := { c.regs with p := c.regs.p.set false n (bitOf x 0) } }
  | .q n => { c with regs := { c.regs with q := c.regs.q.set 0 n (overlay (c.qAt n) mask x) } }
  | .lc => { c with seq := { c.seq with lc := BitVec.ofNat 32 x } }
  | .sv => { c with seq := { c.seq with sv := BitVec.ofNat 16 (x &&& c.seq.svMask) } }
  | .rrb => { c with seq := { c.seq with rrb := BitVec.ofNat 4 x } }
  | .portA u => c.setPorts (·.setA u x)
  | .portB u => c.setPorts (·.setB u x)
  | .res u => c.setPorts (·.setR u mask x)
  | .x n => { c with eng := { c.eng with x := c.eng.x.set 0 n (BitVec.ofNat 1024 x) } }
  | .wls => { c with eng := { c.eng with wls := BitVec.ofNat 2048 x } }
  | .td n => { c with regs := { c.regs with td := c.regs.td.set 0 n (BitVec.ofNat 512 x) } }
  | .tile n => c.setTile n (BitVec.ofNat 32768 x)
  | .tileL n => c.setTile n (BitVec.ofNat 32768 x)
  | .tileFlag n => c.setTileFlag n (BitVec.ofNat 32768 x) (bitOf x 32768)
  | .maskReg => { c with eng := { c.eng with mask := BitVec.ofNat 512 x } }
  | .mfmt n => { c with eng := { c.eng with mfmt := c.eng.mfmt.set 0 n (BitVec.ofNat 8 x) } }
  | .wfmt => { c with eng := { c.eng with wfmt := BitVec.ofNat 8 x } }
  | .rab => { c with ctl := { c.ctl with rab := bitOf x 0 } }
  | .fpflags => { c with ctl := { c.ctl with fpflags := BitVec.ofNat 64 (x &&& fpflagsMask) } }
  | .a n => { c with eng := { c.eng with a := c.eng.a.set 0 n (BitVec.ofNat 6784 x) } }
  | .y n => { c with eng := { c.eng with y := c.eng.y.set 0 n (BitVec.ofNat 6784 x) } }
  | .bound n => { c with eng := { c.eng with bound := c.eng.bound.set 0 n (BitVec.ofNat 64 x) } }
  | .gC n => c.setGAt n (BitVec.ofNat 64 x)
  | .gG n => c.setGAt n (BitVec.ofNat 64 x)
  | .vC n => { c with regs := { c.regs with v := c.regs.v.set 0 n (BitVec.ofNat 1024 x) } }
  | .tileC n => c.setTile n (BitVec.ofNat 32768 x)
  | .owned => { c with ctl := { c.ctl with owned := BitVec.ofNat 64 x,
                                            pendingBanks := c.ctl.pendingBanks &&& BitVec.ofNat 64 x } }
  | .arm n => { c with eng := { c.eng with armed := c.eng.armed.set false n true } }
  | .none => c

/-- Flags that join ccr.fpflags in cycle `t` (R57, R58). -/
def Core.addFlags (c : Core) (t f : Nat) : Core :=
  { c with ctl := { c.ctl with
      fpflags := c.ctl.fpflags ||| BitVec.ofNat 64 f
      fresh := (t, if c.ctl.fresh.1 = t then c.ctl.fresh.2 ||| f else f) } }

/-- The flags that have joined in cycle `t` (R58). -/
def Core.flagsOf (c : Core) (t : Nat) : Nat := if c.ctl.fresh.1 = t then c.ctl.fresh.2 else 0

/-- A bypass register, whose earlier result of the same cycle is never visible (R115). -/
def Dest.isRes : Dest → Bool
  | .res _ => true
  | _ => false

/-- Whether a later delivery of the same cycle hides this one (R115). -/
def hiddenBy (d : Delivery) (later : List Delivery) : Bool :=
  d.dest.isRes && later.any fun e => e.due == d.due && e.dest == d.dest

/-- The data error that a delivery reports (R65). -/
def Core.noteErr (c : Core) (e : Option TrapInfo) : Core :=
  match e with
  | some t => c.note t
  | none => c

/-- A delivery lands in cycle `t`: its value, unless a later one of the same cycle hides it, and its flags. -/
def Core.land (c : Core) (t : Nat) (d : Delivery) (later : List Delivery) : Core :=
  let c := if hiddenBy d later then c else c.put d.dest d.mask d.value
  (if d.flags = 0 then c else c.addFlags t d.flags).noteErr d.err

/-- Deliveries land in order in cycle `t`. -/
def Core.landAll (t : Nat) (c : Core) : List Delivery → Core
  | [] => c
  | d :: r => Core.landAll t (c.land t d r) r

/-- Those of the deliveries due by cycle `t` that `p` selects land, in order of issue (R16). -/
def Core.deliverIf (c : Core) (p : Dest → Bool) (t : Nat) : Core :=
  let due := c.qs.flight.filter fun d => d.due ≤ t && p d.dest
  let rest := c.qs.flight.filter fun d => !(d.due ≤ t && p d.dest)
  Core.landAll t { c with qs := { c.qs with flight := rest } } due

/-- Everything due by cycle `t` is delivered. -/
def Core.deliver (c : Core) (t : Nat) : Core := c.deliverIf (fun _ => true) t

/-- Whether a bundle's write of a register lands with its commit: the sequencer reads it at an iteration end (R101, R103), or
nothing issued earlier can land on it in the next cycle as well. -/
def Dest.atCommit : Dest → Bool
  | .p _ => true
  | .lc => true
  | .sv => true
  | .rrb => true
  | .mfmt _ => true
  | .wfmt => true
  | .maskReg => true
  | .rab => true
  | .fpflags => true
  | .a _ => true
  | .y _ => true
  | .bound _ => true
  | .owned => true
  | .arm _ => true
  | _ => false

/-- A result sent to arrive `lat` cycles after the current one. -/
def State.result (s : State) (slot lat : Nat) (dest : Dest) (value mask flags : Nat) (err : Option TrapInfo := none) : State :=
  s.mod fun c => c.send { due := s.cycle + lat, order := c.orderOf slot, dest := dest, value := value, mask := mask,
                          flags := flags, err := err }

/-! ### Interlocks -/

/-- Whether an entry of a C-slot queue will write g register `key`. -/
def CEntry.writesG (e : CEntry) (key : Nat) : Bool :=
  match e.kind with
  | .ld g _ _ => g == key
  | .amo _ _ _ _ g => g == key
  | _ => false

/-- Whether a word in the port will write g register `key`. -/
def GEntry.writesG (e : GEntry) (key : Nat) : Bool :=
  match e.op with
  | .amog _ _ _ _ _ _ g => g == key
  | _ => false

/-- The words in the port that the core's own task issued: those of an earlier task run on beside them (R105). -/
def Core.mine (c : Core) : List GEntry := c.port.filter fun e => e.task == c.ctl.task

/-- Whether a delivery of an earlier bundle to `d` is in flight. -/
def Core.flying (c : Core) (d : Dest) : Bool := c.qs.flight.any fun x => x.dest == d && x.order / 16 != c.bundles

/-- Whether a word in the load or store queue stood there before the bundle that issues (R77). -/
def CEntry.before (e : CEntry) (b : Nat) : Bool := e.bundle != b

/-- Whether a word in the port stood there before the bundle that issues (R77). -/
def GEntry.before (e : GEntry) (b : Nat) : Bool := e.bundle != b

/-- What a read of g register `key` waits for (R83, R184): what earlier bundles have under way, for the bundle's own words read the
register as it stood before them (R77). -/
def Core.gWait (c : Core) (key : Nat) : Option PerfEvent :=
  if key = 0 then none
  else if c.qs.loads.any (fun e => e.writesG key && e.before c.bundles) ||
      c.qs.stores.any (fun e => e.writesG key && e.before c.bundles) || c.flying (.gC key) then some .stallld
  else if c.mine.any (fun e => e.writesG key && e.before c.bundles) || c.flying (.gG key) then some .stallg
  else none

/-- What a read of v register `key` waits for (R172). -/
def Core.vWait (c : Core) (key : Nat) : Option PerfEvent :=
  if (c.qs.loads.any fun e => e.kind == .vld key && e.before c.bundles) || c.flying (.vC key) then some .stallld else none

/-- Whether a queue entry will write tile register `n` of its own core. -/
def CEntry.writesT (e : CEntry) (self n : Nat) : Bool :=
  match e.kind with
  | .tld t => t == n
  | .tldm t m => t == n && bitOf m self
  | _ => false

/-- Whether a word in the port will write tile register `n`. -/
def GEntry.writesT (e : GEntry) (n : Nat) : Bool :=
  match e.op with
  | .tldTile t _ => t == n
  | _ => false

/-- Whether tile register `n` is armed (R174). -/
def Core.armed (c : Core) (n : Nat) : Bool := c.eng.armed.get false n

/-- Whether tile register `n` is pending from a lateral load or armed, for the gang waits of R251. -/
def Core.tileLateral (c : Core) (n : Nat) : Bool :=
  c.armed n || c.qs.loads.any (fun e => e.writesT c.ctl.member n && e.before c.bundles) || c.flying (.tileC n)

/-- Whether tile register `n` is pending from a word of an earlier bundle (R77, R84). -/
def Core.tilePending (c : Core) (n : Nat) : Bool :=
  c.tileLateral n || c.mine.any (fun e => e.writesT n && e.before c.bundles) || c.flying (.tileL n)

/-- A stall, where there is something to wait for. -/
def waitFor (w : Option PerfEvent) : Except Stop Unit :=
  match w with
  | some e => .error (.stall e)
  | none => .ok ()

/-- A stall of `n` cycles from the bundle's first attempt (R99). -/
def State.holdFor (s : State) (n : Nat) (e : PerfEvent) : Except Stop Unit :=
  match s.core.waiting with
  | some w => if w.since + n ≤ s.cycle then .ok () else .error (.hold e none)
  | none => if n = 0 then .ok () else .error (.hold e none)

/-- A trap unless the condition holds. -/
def need (ok : Bool) (c : Cause) : Except Stop Unit := if ok then .ok () else .error (.trap c)

/-- A stall while the condition holds. -/
def waitWhile (b : Bool) (e : PerfEvent) : Except Stop Unit := if b then .error (.stall e) else .ok ()

/-- The value of g`n` as a source: a pending one stalls (R83). -/
def Core.readG (c : Core) (n : Nat) : Except Stop Word64 := do
  waitFor (c.gWait (c.gKey n))
  return c.gAt (c.gKey n)

/-- The value of v`n` as a source. -/
def Core.readV (c : Core) (n : Nat) : Except Stop Vec := do
  waitFor (c.vWait (c.vKey n))
  return c.vAt (c.vKey n)

/-- Tile register `n` as a source: a pending or armed one stalls (R84, R174). -/
def Core.readTile (c : Core) (n : Nat) : Except Stop Tile := do
  waitWhile (c.tilePending n) .stallt
  return c.tileAt n

/-- A tile-engine word waits for a pending tile that it names as its destination (R84); an armed one is no wait of its (R174). -/
def Core.tileWait (c : Core) (n : Nat) : Except Stop Unit := waitWhile (!c.armed n && c.tilePending n) .stallt

/-- A tile register as a destination of something other than a multicast: armed traps (R174). -/
def Core.writeTileOk (c : Core) (n : Nat) : Except Stop Unit := need (!c.armed n) .armhaz

/-! ### Traps and faults -/

/-- The code of a cause (R247). -/
def Cause.code : Cause → Nat
  | .illb => 0x01 | .illop => 0x02 | .laneconf => 0x03 | .qimb => 0x04 | .aqovf => 0x05 | .sqovf => 0x06
  | .accrange => 0x07 | .fmtbusy => 0x08 | .xbusy => 0x09 | .xhaz => 0x0A | .xparm => 0x0B | .vparm => 0x0C
  | .litend => 0x0D | .vrange => 0x0E | .valign => 0x0F | .bankown => 0x10 | .crange => 0x11 | .armhaz => 0x12
  | .ringerr => 0x13 | .descerr => 0x14 | .xtinv => 0x15 | .xtrange => 0x16 | .eparm => 0x17 | .priv => 0x18
  | .tbempty => 0x19 | .loopesc => 0x1A | .nonuniform => 0x1B | .lmnest => 0x1C | .loopdeep => 0x1D | .stkovf => 0x1E
  | .winuf => 0x1F | .exitbar => 0x20 | .adaptnest => 0x21 | .trap => 0x30 | .brk => 0x31 | .preovr => 0x32
  | .fetch => 0x40 | .trans => 0x41 | .tperm => 0x42 | .tdir => 0x43 | .tcoord => 0x44 | .atomtier => 0x45
  | .gfault => 0x46 | .rnschk => 0x50 | .dpoison => 0x51

/-- The class of a cause (R246, R247). -/
def Cause.cls (c : Cause) : Nat :=
  if c.code < 0x30 then 0 else if c.code < 0x40 then 1 else if c.code < 0x50 then 2 else 3

/-- The value of ccr.cause for a trap or fault (R246): SLOT is 15 for a fetch fault and for boundary traps. -/
def TrapInfo.causeWord (t : TrapInfo) : Nat :=
  t.cause.cls * 2 ^ 12 + (if t.cause.cls = 1 || t.cause = .fetch then 15 else t.slot % 16) * 2 ^ 8 + t.cause.code

/-- The core is frozen in trap cycle `at_` (R248): nothing in flight is delivered from then on. -/
def Core.freeze (c : Core) (t : TrapInfo) (at_ : Nat) : Core :=
  { c with ctl := { c.ctl with run := .frozen t at_ }, stall := none, waiting := none }

/-- Shift of a cycle number that lies after the trap cycle (R89, R91). -/
def later (at_ by_ n : Nat) : Nat := if at_ < n then n + by_ else n

/-- Every remaining latency and occupancy moved on by the `by_` cycles that a freeze at cycle `at_` lasted (R91). -/
def Core.shift (c : Core) (at_ by_ : Nat) : Core :=
  let f := later at_ by_
  { c with
    qs := { c.qs with
            flight := c.qs.flight.map fun d => { d with due := f d.due }
            fills := c.qs.fills.map fun x => { x with due := f x.due }
            nexts := c.qs.nexts.map fun x => { x with due := f x.due }
            lanes := c.qs.lanes.map fun x => (x.1, f x.2)
            iaFree := f c.qs.iaFree
            ibFree := f c.qs.ibFree }
    eng := { c.eng with
             mmas := c.eng.mmas.map fun x => { x with due := f x.due }
             exits := c.eng.exits.map fun x =>
               match x with
               | .mflush due o k acc bnd rs cs b p add md m fm => .mflush (f due) o k acc bnd rs cs b p add md m fm
               | .tqnt due o b sc => .tqnt (f due) o b sc
             arrayFree := f c.eng.arrayFree
             exitFree := f c.eng.exitFree
             shuffleFree := f c.eng.shuffleFree
             busyPairs := c.eng.busyPairs.map fun x => (f x.1, x.2)
             hazards := c.eng.hazards.map fun x => { x with due := f x.due } }
    seq := { c.seq with tb := c.seq.tb.map fun x => (x.1, x.2.map fun t => { t with ready := f t.ready }) } }

/-- The core issues again: the bundle at the saved PC issues in cycle `t` (R91, R249). -/
def Core.thaw (c : Core) (at_ t : Nat) : Core :=
  let c := c.shift at_ (t - at_)
  { c with ctl := { c.ctl with run := if c.ctl.draining then .ending else .running }, wake := t, stall := none, waiting := none }

/-- The cycle from which what performs in cycle `now` may be read: the next one, or at a frozen core the resumption, which finds it
there (R26, R89). A cycle after the freeze is a remaining latency, which the resumption keeps. -/
def Core.arrival (c : Core) (now : Nat) : Nat :=
  match c.ctl.run with
  | .frozen _ at_ => min at_ now
  | .point at_ => min at_ now
  | _ => now + 1

/-- Whether a core delivers what is due: a frozen one holds it (R89). -/
def Core.delivers (c : Core) : Bool :=
  match c.ctl.run with
  | .running => true
  | .ending => true
  | _ => false

/-! ### Counters of stalls -/

/-- The number of a performance event in the table of counts. -/
def PerfEvent.num : PerfEvent → Nat
  | .stallld => 0 | .stallt => 1 | .stallg => 2 | .stallq => 3 | .stallring => 4 | .unitbusy => 5 | .qfull => 6
  | .fetchstall => 7 | .winspill => 8 | .winfill => 9

/-- One performance event counted (R87). -/
def Core.count (c : Core) (e : PerfEvent) : Core :=
  { c with perf := c.perf.set 0 e.num (c.perf.get 0 e.num + 1) }

end Sys2Proof.Machine
end

