-- ==== Sys2Proof/Machine/Global.lean ====
section
/-!
DEFINITION. Global memory: the physical map (R350), the memory ports of the dies with their buffers (R256 to R260,
R348, R394), page walks (R339 to R341), tile lookups (R337, R338) and the fetch of code (R315, R316).
-/
namespace Sys2Proof.Machine

/-! ### The physical map -/

/-- End of HBM. -/
def hbmEnd : Nat := 0xC000000000
/-- Bytes of HBM that one compute die is home to. -/
def hbmPerDie : Nat := 0x3000000000

/-- The tier of a physical address (R350): none where nothing is mapped. -/
def tierOf (cellar : Bool) (a : Nat) : Option Nat :=
  if a < hbmEnd then some 0
  else if 0x100000000000 ≤ a && a < 0x120000000000 then (if cellar then some 1 else none)
  else if 0x4000000000000 ≤ a && a < 0x8000000000000 then some 2
  else if 0x8000000000000 ≤ a && a < 0x10000000000000 then some 3
  else none

/-- The peer range (R350, R360). -/
def isPeer (a : Nat) : Bool := 0x6000000000000 ≤ a && a < 0x8000000000000

/-- Host memory (R350). -/
def isHost (a : Nat) : Bool := 0x8000000000000 ≤ a && a < 0x10000000000000

/-- The compute die that is home to an address, if one is (R256, R350). -/
def homeDie (a : Nat) : Option Nat := if a < hbmEnd then some (a / hbmPerDie) else none

/-- The link that an address lies behind: its kind and unit in the table of links that are down (R346, R350, R384). -/
def linkOf (a : Nat) : Option Nat :=
  if isHost a then some (2 * 2 ^ 16)
  else if 0x4000000000000 ≤ a && a < 0x6000000000000 then some (3 * 2 ^ 16 + (a / 2 ^ 48 - 4))
  else none

/-- Whether the place that holds an address can be reached: its link is up (R349, R357). -/
def State.reachable (s : State) (a : Nat) : Bool := ((linkOf a).map fun k => !s.dev.fabric.down.get false k).getD true

/-- The tier of an address in this machine. -/
def State.tier (s : State) (a : Nat) : Option Nat := tierOf s.dev.trust.cellar a

/-! ### Memory ports -/

/-- A change to the memory system. -/
def State.sys (s : State) (f : MemSys → MemSys) : State := { s with dev := { s.dev with sys := f s.dev.sys } }

/-- The key of a line in a buffer of die or I/O die `d`. -/
def lineKey (d a : Nat) : Nat := d * 2 ^ 46 + a / 64

/-- The ranges of bytes that a write holds. -/
def WEntry.parts (w : WEntry) : List (Nat × List Byte) := (w.addr, w.data) :: w.also

/-- The ranges of memory that a write changes: first byte and bytes. -/
def WEntry.ranges (w : WEntry) : List (Nat × Nat) :=
  w.parts.map (fun p => (p.1, p.2.length)) ++ w.refs.map (fun r => (r.1, 2)) ++ w.place.toList.map fun p => (p.1, 8)

/-- Whether a write changes a byte of a range. -/
def WEntry.touches (w : WEntry) (a n : Nat) : Bool := w.ranges.any fun p => p.1 < a + n && a < p.1 + p.2

/-- The byte at `a` that a write holds. -/
def WEntry.byte? (w : WEntry) (a : Nat) : Option Byte :=
  w.parts.findSome? fun p => if p.1 ≤ a && a < p.1 + p.2.length then p.2[a - p.1]? else none

/-- The newest byte at `a` among the writes that die `d`'s port has accepted and not passed on (R257). -/
def bufferedByte (d a : Nat) : List WEntry → Option Byte
  | [] => none
  | e :: r =>
    match bufferedByte d a r with
    | some b => some b
    | none => if e.die = d then e.byte? a else none

/-- Byte `a` as a core of die `d` reads it (R257); with `buffered` false, as an engine, WAITM or a walker of that die
reads it, never from the remote read buffer. -/
def MemSys.byte (m : MemSys) (d : Nat) (buffered : Bool) (a : Nat) : Byte :=
  match bufferedByte d a m.wbuf with
  | some b => b
  | none =>
    match if buffered then m.rbuf.get none (lineKey d a) else none with
    | some l => BitVec.ofNat 8 (laneOf 8 l.toNat (a % 64))
    | none => m.mem.read a

/-- `n` bytes from `a` upward through the port of die `d`. -/
def MemSys.bytes (m : MemSys) (d : Nat) (buffered : Bool) (a n : Nat) : List Byte :=
  (List.range n).map fun i => m.byte d buffered (a + i)

/-- Bytes from the home alone, as code stream units and walkers read them (R257). -/
def MemSys.homeBytes (m : MemSys) (a n : Nat) : List Byte := (List.range n).map fun i => m.mem.read (a + i)

/-- A little-endian number from the home alone. -/
def MemSys.homeNum (m : MemSys) (a n : Nat) : Nat := leNat (m.homeBytes a n)

/-- Whether what firmware reads meets the line whose read fails (R349). -/
def MemSys.fails (m : MemSys) (a n : Nat) : Bool := m.failing.any fun l => 64 * l < a + n && a < 64 * l + 64

/-- Bytes as firmware reads them at their home: zeros of a line whose read fails (R349). -/
def MemSys.fetched (m : MemSys) (a n : Nat) : List Byte :=
  if m.fails a n then (List.range n).map fun i => if m.failing = some ((a + i) / 64) then 0 else m.mem.read (a + i)
  else m.homeBytes a n

/-- The 64 bytes of a line at its home. -/
def MemSys.lineBits (m : MemSys) (l : Nat) : BitVec 512 :=
  BitVec.ofNat 512 (leNat ((List.range 64).map fun i => m.mem.read (64 * l + i)))

/-- Whether a read through die `d` may leave a copy of the line in its remote read buffer (R256, R360). -/
def keepsCopy (d a : Nat) : Bool := homeDie a != some d && !isPeer a

/-- The I/O die that serves compute die `d`'s accesses to host memory. DEDUCED, log entry 17: the spec does not
say which; nothing but the list of held lines depends on it. -/
def ioDieOf (d : Nat) : Nat := d / 2

/-- Lines of an I/O die's host-line cache: 2 MiB of 64 bytes (R348). -/
def hostLineCount : Nat := 32768

/-- A line put into the host-line cache of I/O die `i`; a full cache gives up one, which the spec leaves open (log entry 91). -/
def holdLine (t : Table Bool) (i key : Nat) : Table Bool :=
  let mine := t.filter fun e => e.1 / 2 ^ 46 == i
  if t.get false key || mine.length < hostLineCount then t.set false key true
  else (t.set false ((mine[Config.openChoice key % mine.length]?.map (·.1)).getD 0) false).set false key true

/-- The lines of host memory that a read leaves in the host-line cache (R348). A held line has the bytes of host
memory, since a host write snoops it away. -/
def MemSys.holdHost (m : MemSys) (d a n : Nat) : MemSys :=
  if isHost a then
    { m with hostLines := (linesOf a n).foldl (fun t l => holdLine t (ioDieOf d) (lineKey (ioDieOf d) (64 * l))) m.hostLines }
  else m

/-- Whether a read of `n` bytes from `a` takes a byte of line `l` from its home: no write of die `d` holds it (R257). -/
def MemSys.fromHome (m : MemSys) (d a n l : Nat) : Bool :=
  (List.range 64).any fun i => a ≤ 64 * l + i && 64 * l + i < a + n && (bufferedByte d (64 * l + i) m.wbuf).isNone

/-- A line as the port of die `d` has it: what it has accepted over what the home holds. -/
def MemSys.portLine (m : MemSys) (d l : Nat) : BitVec 512 :=
  BitVec.ofNat 512 (leNat (m.bytes d false (64 * l) 64))

/-- The copies that a core's read leaves in the remote read buffer (R257). DESIGN CHOICE, log entry 16: a read from the
home always leaves one. Bytes that the port has accepted are in it, so that no later read finds older ones (R258). -/
def MemSys.afterRead (m : MemSys) (d a n : Nat) : MemSys :=
  { m with
    rbuf := (linesOf a n).foldl (fun t l =>
      if keepsCopy d (64 * l) && (t.get none (lineKey d (64 * l))).isNone && m.fromHome d a n l then
        t.set none (lineKey d (64 * l)) (some (m.portLine d l))
      else t) m.rbuf }

/-- The tiles that a die's read buffer has as one version, without those that touch a range of bytes. -/
def forgetTiles (t : Table (Option (Nat × Nat))) (d a n : Nat) : Table (Option (Nat × Nat)) :=
  t.filter fun e => !(e.1 / 2 ^ 52 == d && (e.2.map fun x => decide (x.1 < a + n) && decide (a < x.1 + 4096)).getD false)

/-- The copies of the lines of a range dropped from the remote read buffer of die `d` (R257). -/
def MemSys.dropCopies (m : MemSys) (d a n : Nat) : MemSys :=
  { m with
    rbuf := (linesOf a n).foldl (fun t l => t.set none (lineKey d (64 * l)) none) m.rbuf
    tileCopies := forgetTiles m.tileCopies d (a / 64 * 64) (n + a % 64) }

/-- The copy of a line replaced in the remote read buffer of die `d`: the core that has read the line at its home reads
nothing older from the buffer (R257, R258). -/
def MemSys.dropCopy (m : MemSys) (d a : Nat) : MemSys := m.dropCopies d a 1

/-- Bytes written over a line. -/
def writeLine (l : BitVec 512) (base a : Nat) (bs : List Byte) : BitVec 512 :=
  BitVec.ofNat 512 (ofLanes 8 ((List.range 64).map fun i =>
    if a ≤ base + i && base + i < a + bs.length then (bs.getD (base + i - a) 0).toNat else laneOf 8 l.toNat i))

/-- The copies in the remote read buffer of die `d` that a write updates (R257). -/
def MemSys.updateCopies (m : MemSys) (d a : Nat) (bs : List Byte) : MemSys :=
  { m with
    rbuf := (linesOf a bs.length).foldl (fun t l =>
      match t.get none (lineKey d (64 * l)) with
      | some x => t.set none (lineKey d (64 * l)) (some (writeLine x (64 * l) a bs))
      | none => t) m.rbuf }

/-- A write that reaches its home; the host-line caches keep no copy of what a device writes to host memory (R348). -/
def MemSys.reachHome (m : MemSys) (a : Nat) (bs : List Byte) : MemSys :=
  { m with
    mem := m.mem.store a bs
    hostLines := if isHost a then
        (linesOf a bs.length).foldl (fun t l =>
          (t.set false (lineKey 0 (64 * l)) false).set false (lineKey 1 (64 * l)) false) m.hostLines
      else m.hostLines }

/-- A tile-table entry with GEN advanced, and poison cleared by a write of the whole tile (R237, R376). -/
def bumpGen (bits : Nat) (whole : Bool) : Nat :=
  let g := (fieldOf bits 63 52 + 1) % 4096
  let low := bits % 2 ^ 52
  let low := if whole && bitOf low 4 then low - 16 else low
  low + g * 2 ^ 52

/-- An entry's bits with poison (R338, R376). -/
def poisonBits (bits : Nat) : Nat := if bitOf bits 4 then bits else bits + 16

/-- SGEN for a generation: a wrap leaves the field that no entry holds (R237, R326). -/
def sgenOf (gen : Nat) : Nat := if gen = 0 then 0xFFFF else gen

/-- A write to a tile advances GEN; SGEN of a page written with its side entry follows, and a wrap of GEN marks any other summary stale
(R237, R265). -/
def MemSys.bump (m : MemSys) (t : TileMark) : MemSys :=
  let b := bumpGen (m.mem.num t.entry 8) t.whole
  let b := if t.poison then poisonBits b else b
  let mem := m.mem.setNum t.entry 8 b
  let g := fieldOf b 63 52
  { m with mem :=
      if t.summary ≠ 0 && t.version then mem.setNum t.summary 2 (sgenOf g)
      else if t.summary ≠ 0 && g = 0 then mem.setNum t.summary 2 0xFFFF
      else mem }

/-- A reference count one higher, modulo 2^16, or one lower but never below zero (R200). -/
def stepRef (up : Bool) (n : Nat) : Nat := if up then (n + 1) % 65536 else n - 1

/-- A reference count changed at its home. -/
def MemSys.countRef (m : MemSys) (r : Nat × Bool) : MemSys :=
  { m with mem := m.mem.setNum r.1 2 (stepRef r.2 (m.mem.num r.1 2)) }

/-- An entry's bits with its place replaced: V, W, S, KV, PSN and GEN stay (R335, R338). -/
def placeBits (bits addr tier : Nat) (p : Bool) : Nat :=
  fieldOf bits 63 52 * 2 ^ 52 + addr / 4096 % 2 ^ 40 * 4096 + fieldOf bits 7 4 * 16 + tier % 4 * 4 + bit p * 2 + bits % 2

/-- The entry of a moved tile names its new frame, with poison where the copy is bad (R201, R325, R335). -/
def MemSys.rename (m : MemSys) (p : Nat × Nat × Bool) : MemSys :=
  let b := m.mem.num p.1 8
  { m with mem := m.mem.setNum p.1 8 (placeBits (if p.2.2 then poisonBits b else b) p.2.1 0 true), records := m.records.set [] p.1 [] }

/-- An accepted write reaches its home, all its parts in one step, and the tiles it touches change version there (R237, R265). -/
def MemSys.settle (m : MemSys) (w : WEntry) : MemSys :=
  let m := w.parts.foldl (fun m p => m.reachHome p.1 p.2) m
  let m := w.tiles.foldl MemSys.bump (w.place.toList.foldl MemSys.rename (w.refs.foldl MemSys.countRef m))
  { m with frames := m.frames ++ w.frees }

/-- The tiles that a die's read buffer has as one version, without those that the die writes to: their next generation is only known
at the home (R265). -/
def leaveTiles (t : Table (Option (Nat × Nat))) (d : Nat) (tiles : List TileMark) : Table (Option (Nat × Nat)) :=
  tiles.foldl (fun t x => t.set none (d * 2 ^ 52 + x.entry) none) t

/-- Entries of at most 4,096 bytes for a write to a peer, so that each fits a packet (R361). `fuel` is at least the number
of them. -/
def peerEntries (d t : Nat) : Nat → Nat → List Byte → List WEntry
  | 0, _, _ => []
  | fuel + 1, a, bs =>
    if bs.isEmpty then []
    else { die := d, addr := a, data := bs.take 4096, task := t } :: peerEntries d t fuel (a + 4096) (bs.drop 4096)

/-- Whether a write reaches its home in the step that accepts it: all its homes are on the port's own die, whose writes take no
time now, and none to a common byte is under way (R256, R394; log entry 89). -/
def MemSys.passes (m : MemSys) (w : WEntry) : Bool :=
  !m.lag.get false w.die && w.ranges.all fun p =>
    homeDie p.1 == some w.die && !(m.wbuf.any fun x => x.die == w.die && x.touches p.1 p.2)

/-- The buffered writes to a range that can pass on, of the dies that `of_` selects, with the earlier ones of their die that they must
follow, and those that stay (R256). -/
def splitWrites (of_ : Nat → Bool) (a n : Nat) : List WEntry → List WEntry × List WEntry
  | [] => ([], [])
  | w :: r =>
    let (go, stay) := splitWrites of_ a n r
    if of_ w.die && !isPeer w.addr &&
        (w.touches a n || go.any fun x => x.die == w.die && x.ranges.any fun p => w.touches p.1 p.2) then
      (w :: go, stay)
    else (go, w :: stay)

/-- Buffered writes to a range pass on to their homes, in the order of acceptance (R256). -/
def MemSys.flushOf (m : MemSys) (of_ : Nat → Bool) (a n : Nat) : MemSys :=
  let (go, stay) := splitWrites of_ a n m.wbuf
  go.foldl MemSys.settle { m with wbuf := stay }

/-- The host writes that wait reach their homes in the order of the link (R268). -/
def MemSys.settleHost (m : MemSys) : MemSys := m.hostq.foldl MemSys.settle { m with hostq := [] }

/-- Whether two writes change a common tile. -/
def WEntry.shares (w x : WEntry) : Bool := w.tiles.any fun t => x.tiles.any fun u => u.entry == t.entry

/-- A write takes its place behind the other agents' writes to its tile, where it or one of them has its place settled: those reach
their homes first (R256, R265; log entry 130). -/
def MemSys.inOrder (m : MemSys) (w : WEntry) : MemSys :=
  let m := if w.sworn && m.hostq.any (·.shares w) then m.settleHost else m
  (m.wbuf.filter fun x => x.die != w.die && (x.sworn || w.sworn) && x.shares w).foldl
    (fun m x => m.flushOf (· == x.die) x.addr x.data.length) m

/-- A write accepted by the memory port of its die: the die's copies follow it, and it goes to its home at once or waits among the
writes accepted (R256, R257, R394). -/
def MemSys.accept (m : MemSys) (w : WEntry) : MemSys :=
  let m := m.inOrder w
  let m := w.parts.foldl (fun (m : MemSys) p => m.updateCopies w.die p.1 p.2) m
  let m := { m with tileCopies := leaveTiles m.tileCopies w.die w.tiles }
  if m.passes w then m.settle w
  else if isPeer w.addr then { m with wbuf := m.wbuf ++ peerEntries w.die w.task (w.data.length / 4096 + 1) w.addr w.data }
  else { m with wbuf := m.wbuf ++ [w] }

/-- A write of task `t` through the memory port of die `d`. -/
def MemSys.write (m : MemSys) (d t a : Nat) (bs : List Byte) (tiles : List TileMark) : MemSys :=
  if bs.isEmpty then m else m.accept { die := d, addr := a, data := bs, tiles := tiles, task := t }

/-- Every write under way to a range reaches its home, as before firmware uses the range for something else: the ports choose their
time. -/
def MemSys.flush (m : MemSys) (a n : Nat) : MemSys :=
  (if m.hostq.any (·.touches a n) then m.settleHost else m).flushOf (fun _ => true) a n

/-- Whether a write of die `d` to a byte of a range has yet to reach its home. -/
def MemSys.under (m : MemSys) (d a n : Nat) : Bool := m.wbuf.any fun w => w.die == d && w.touches a n

/-- Whether a write of die `d` on its way changes what the entry of a tile says but for its generation, so that the die's readers see
neither before both (R265). -/
def MemSys.arriving (m : MemSys) (d at_ : Nat) : Bool :=
  m.wbuf.any fun w => w.die == d && (w.touches at_ 8 || w.tiles.any fun t => t.entry == at_ && t.poison)

/-- Whether a tile, by the address of its entry, is on its way to a new place or a new page is to come there. -/
def MemSys.moving (m : MemSys) (at_ : Nat) : Bool := m.wbuf.any fun w => w.touches at_ 8

/-- Whether every write that die `d`'s port accepted has reached its home (R259, R260). -/
def MemSys.drained (m : MemSys) (d : Nat) : Bool := m.wbuf.all fun e => e.die != d

/-- A scope as a number (R32): package and system are 3 and 4. -/
def wideScope (sc : Nat) : Bool := 3 ≤ sc

/-- What an acquire at a scope removes (R259): at package and system scope the die's read buffer, at system scope
the host lines as well. One at system scope finds every host write that the link had delivered before one it has observed (R268). -/
def MemSys.acquire (m : MemSys) (d sc : Nat) : MemSys :=
  let m := if sc = 4 then m.settleHost else m
  { m with
    rbuf := if wideScope sc then m.rbuf.filter (fun e => e.1 / 2 ^ 46 != d) else m.rbuf
    tileCopies := if wideScope sc then m.tileCopies.filter (fun e => e.1 / 2 ^ 52 != d) else m.tileCopies
    hostLines := if sc = 4 then [] else m.hostLines }

/-! ### Walks -/

/-- A translation that a walk grants (R189, R340). -/
structure Mapping where
  /-- Physical address of the byte asked for. -/
  addr : Nat
  pte : Nat
  pteAddr : Nat
  /-- 0 for 64 KiB, 1 for 512 MiB, 2 for 4 TiB. -/
  size : Nat
  deriving DecidableEq, Repr

/-- The frame field of an entry as a physical address (R339). -/
def frameAddr (pte : Nat) : Nat := fieldOf pte 51 16 * 65536

/-- Bytes that a leaf of a size code maps. -/
def mapBytes (size : Nat) : Nat := if size = 0 then 2 ^ 16 else if size = 1 then 2 ^ 29 else 2 ^ 42

/-- The levels of a walk: lowest VA bit of the index, bits of the index, size code of a leaf (R340). -/
def walkLevels : List (Nat × Nat × Option Nat) := [(55, 2, none), (42, 13, some 2), (29, 13, some 1), (16, 13, some 0)]

/-- A walk from the table at `base` (R340). -/
def walkFrom (m : MemSys) (va : Nat) : List (Nat × Nat × Option Nat) → Nat → Except Cause Mapping
  | [], _ => .error .trans
  | (lo, n, leaf) :: rest, base =>
    let at_ := base + 8 * (va / 2 ^ lo % 2 ^ n)
    let e := m.homeNum at_ 8
    let blk := bitOf e 11
    let last := rest.isEmpty
    if !bitOf e 0 then .error .trans
    else if fieldOf e 15 12 ≠ 0 then .error .trans
    else if last && blk then .error .trans
    else if last || blk then
      match leaf with
      | none => .error .trans
      | some size =>
        if bitOf e 8 && frameAddr e % mapBytes size ≠ 0 then .error .trans
        else .ok { addr := frameAddr e + va % mapBytes size, pte := e, pteAddr := at_, size := size }
    else walkFrom m va rest (frameAddr e)

/-- A mapping present in its tier, whose leaf begins in the range of its tier and has the byte asked for there (R333, R350). -/
def State.mapPresent (s : State) (p : Mapping) : Bool :=
  bitOf p.pte 8 && s.tier (frameAddr p.pte) == some (fieldOf p.pte 7 6) && s.tier p.addr == some (fieldOf p.pte 7 6)

/-- The asked-for permissions of a flat access (R189, R339): a write needs W, S clear and K clear. -/
def pteAllows (pte : Nat) (write : Bool) : Bool := !write || (bitOf pte 1 && !bitOf pte 3 && !bitOf pte 10)

/-- The address space numbered `asid` (R336). -/
def State.space (s : State) (asid : Nat) : Option Asid := s.dev.sys.asids.get none asid

/-- The PTE with the bits a walker sets (R341). -/
def setAD (s : State) (p : Mapping) (write : Bool) : State :=
  s.sys fun m => { m with mem := m.mem.setNum p.pteAddr 8 ((m.homeNum p.pteAddr 8) ||| (if write then 0x30 else 0x10)) }

/-- A walk for reading or writing one address, its permission check and the bits it sets (R189, R340, R341). -/
def State.translate (s : State) (asid va : Nat) (write : Bool) : Except Cause (Mapping × State) :=
  match s.space asid with
  | none => .error .trans
  | some a => do
    let p ← walkFrom s.dev.sys (va % 2 ^ 57) walkLevels a.l0
    if !s.mapPresent p then .error .trans
    else if !pteAllows p.pte write then .error .tperm
    else .ok (p, setAD s p write)

/-- The physical pieces of a range of virtual addresses, page by page of 64 KiB: address and bytes. What the walks before one that
faults have set stays (R341). `fuel` is at least the number of pages. -/
def State.pieces (s : State) (asid : Nat) (write : Bool) :
    Nat → Nat → Nat → Except (Cause × Nat × State) (List (Nat × Nat) × State)
  | _, _, 0 => .ok ([], s)
  | 0, va, _ => .error (.trans, va, s)
  | fuel + 1, va, n =>
    let k := min n (65536 - va % 65536)
    match s.translate asid va write with
    | .error c => .error (c, va, s)
    | .ok (p, s') =>
      match State.pieces s' asid write fuel (va + k) (n - k) with
      | .error e => .error e
      | .ok (l, t) => .ok ((p.addr, k) :: l, t)

/-- The pieces of a range. -/
def State.range (s : State) (asid : Nat) (write : Bool) (va n : Nat) : Except (Cause × Nat × State) (List (Nat × Nat) × State) :=
  s.pieces asid write (n / 65536 + 2) va n

/-- The bytes of pieces, read through the port of die `d`. -/
def MemSys.gather (m : MemSys) (d : Nat) (buffered : Bool) (l : List (Nat × Nat)) : List Byte :=
  l.flatMap fun p => m.bytes d buffered p.1 p.2

/-- Whether a range meets a line that what serves it marks poisoned (R349). -/
def MemSys.linesBad (m : MemSys) (a n : Nat) : Bool := m.badLines.any fun e => e.2 && 64 * e.1 < a + n && a < 64 * e.1 + 64

/-- Whether a flat read of pieces meets a poisoned frame or line (R349, R376). -/
def MemSys.piecesBad (m : MemSys) (l : List (Nat × Nat)) : Bool :=
  l.any fun p => m.badFrames.get false (p.1 / 65536) || m.linesBad p.1 p.2

/-! ### Tiles -/

/-- An entry of a tensor directory (R337): tile table, its length, side table, KV. -/
structure DirEntry where
  ttb : Nat
  len : Nat
  sbase : Nat
  kv : Bool
  deriving DecidableEq, Repr

/-- The directory entry of a tensor (R337). -/
def State.dirEntry (s : State) (asid tid : Nat) : Option DirEntry :=
  match s.space asid with
  | none => none
  | some a =>
    let e := a.dir + 32 * tid
    let m := s.dev.sys
    let fl := m.homeNum (e + 12) 1
    if a.dirLen ≤ tid || !bitOf fl 0 then none
    else some { ttb := m.homeNum e 8, len := m.homeNum (e + 8) 4, sbase := m.homeNum (e + 16) 8, kv := bitOf fl 1 }

/-- A tile-table entry found by a lookup (R338). -/
structure TileEntry where
  at_ : Nat
  bits : Nat
  dir : DirEntry
  deriving DecidableEq, Repr

/-- ADDR of an entry. -/
def TileEntry.addr (e : TileEntry) : Nat := fieldOf e.bits 51 12 * 4096
/-- GEN of an entry. -/
def TileEntry.gen (e : TileEntry) : Nat := fieldOf e.bits 63 52
/-- TIER of an entry. -/
def TileEntry.tier (e : TileEntry) : Nat := fieldOf e.bits 3 2

/-- The lookup of a tile: TDIR, TCOORD and TRANS (R229, R338, R350). -/
def State.lookup (s : State) (asid tid tile : Nat) : Except Cause TileEntry :=
  match s.dirEntry asid tid with
  | none => .error .tdir
  | some d =>
    if d.len ≤ tile then .error .tcoord
    else
      let at_ := d.ttb + 8 * tile
      let e := s.dev.sys.homeNum at_ 8
      if !bitOf e 0 || fieldOf e 11 8 ≠ 0 then .error .trans
      else if bitOf e 1 && s.tier (fieldOf e 51 12 * 4096) != some (fieldOf e 3 2) then .error .trans
      else .ok { at_ := at_, bits := e, dir := d }

/-- The place of a tile's entry. -/
def State.entryPlace (s : State) (asid tid tile : Nat) : Nat := ((s.dirEntry asid tid).map fun d => d.ttb + 8 * tile).getD 0

/-- Whether the tile's bytes are where a tensor-form transfer reads them: HBM and P (R333). -/
def TileEntry.here (e : TileEntry) : Bool := bitOf e.bits 1 && e.tier == 0

/-- An 8-byte write of a tile-table entry by an engine or firmware, at the home. -/
def State.setEntry (s : State) (e : TileEntry) (bits : Nat) : State :=
  s.sys fun m => { m with mem := m.mem.setNum e.at_ 8 bits }

/-- The side entry of a tile of a KV tensor (R324). -/
def DirEntry.side (d : DirEntry) (t : Nat) : Nat := d.sbase + 512 * t

/-- The number of the tile that an entry describes. -/
def TileEntry.tile (e : TileEntry) : Nat := (e.at_ - e.dir.ttb) / 8

/-- The mark that a write of the tile carries. -/
def TileEntry.mark (e : TileEntry) (whole : Bool) : TileMark :=
  { entry := e.at_, summary := if e.dir.kv then e.dir.side e.tile + 4 else 0, whole := whole }

/-- Each entry once, though several directories name its table; with a side table where one of them has it. -/
def oneEach : List TileEntry → List TileEntry
  | [] => []
  | e :: r =>
    let l := oneEach r
    if l.any (·.at_ == e.at_) then (if e.dir.kv then e :: l.filter (·.at_ != e.at_) else l) else e :: l

/-- The tile table entries of every address space whose present tile a physical byte range touches (R237). -/
def State.entriesAt (s : State) (a n : Nat) : List TileEntry :=
  oneEach <| s.dev.sys.asids.flatMap fun (x : Nat × Option Asid) =>
    (List.range ((x.2.map (·.dirLen)).getD 0)).flatMap fun tid =>
      match s.dirEntry x.1 tid with
      | none => []
      | some d => (List.range d.len).filterMap fun t =>
          let bits := s.dev.sys.homeNum (d.ttb + 8 * t) 8
          let e : TileEntry := { at_ := d.ttb + 8 * t, bits := bits, dir := d }
          if bitOf bits 0 && bitOf bits 1 && e.addr < a + n && a < e.addr + 4096 then some e else none

/-- The marks that a flat write of `n` bytes at `a` carries (R237). -/
def State.marksAt (s : State) (a n : Nat) : List TileMark :=
  (s.entriesAt a n).map fun e => e.mark (a ≤ e.addr && e.addr + 4096 ≤ a + n)

/-- A flat write of pieces by task `t` through the port of die `d`. -/
def State.flatWrite (s : State) (d t : Nat) : List (Nat × Nat) → List Byte → State
  | [], _ => s
  | p :: r, bs => State.flatWrite (s.sys fun m => m.write d t p.1 (bs.take p.2) (s.marksAt p.1 p.2)) d t r (bs.drop p.2)

/-- The generation of a tile at its home. -/
def MemSys.genAt (m : MemSys) (e : TileEntry) : Nat := fieldOf (m.homeNum e.at_ 8) 63 52

/-- The generation of a tile as the port of die `d` has it, once the place of the die's writes to it is settled: those still in its
buffer count. -/
def MemSys.genSeen (m : MemSys) (d : Nat) (e : TileEntry) : Nat :=
  let early := (m.wbuf.filter fun w => w.die == d).flatMap (·.tiles)
  (m.genAt e + (early.filter fun t => t.entry == e.at_).length) % 4096

/-- The writes of die `d` to a tile take their place behind the other agents' (R265; log entry 130): what the die reads of it from now
on is the version of a known generation. -/
def MemSys.swear (m : MemSys) (d : Nat) (e : TileEntry) : MemSys :=
  let m := m.inOrder { die := d, addr := e.addr, data := [], tiles := [e.mark false], sworn := true }
  { m with wbuf := m.wbuf.map fun w =>
      if w.die == d && w.tiles.any (fun t => t.entry == e.at_) then { w with sworn := true } else w }

/-- A reference count as die `d`'s port has it: what the home holds, with the steps that the port has accepted (R257). -/
def MemSys.refSeen (m : MemSys) (d a : Nat) : Nat :=
  (((m.wbuf.filter fun w => w.die == d).flatMap (·.refs)).filter fun r => r.1 == a).foldl (fun n r => stepRef r.2 n)
    (leNat (m.bytes d false a 2))

/-- The generation of a tile that die `d`'s read buffer has whole as one version (R265). -/
def MemSys.tileCopy (m : MemSys) (d : Nat) (e : TileEntry) : Option Nat :=
  match m.tileCopies.get none (d * 2 ^ 52 + e.at_) with
  | some (a, g) =>
    if a = e.addr && (List.range 64).all (fun i => (m.rbuf.get none (lineKey d (a + 64 * i))).isSome) then some g else none
  | none => none

/-- A tile as a TLD of die `d` reads it, one version whole, with its generation and the memory system it leaves (R257, R265): from
the read buffer where that has it as one version, else from its home, with copies replaced. The generation of a version that the die
has written is not known before the write reaches its home. -/
def MemSys.readTile (m : MemSys) (d : Nat) (e : TileEntry) : List Byte × Nat × MemSys :=
  match m.tileCopy d e with
  | some g => (m.bytes d true e.addr 4096, g, m)
  | none =>
    let m := m.dropCopies d e.addr 4096
    let k := m.afterRead d e.addr 4096
    let kept := if m.under d e.addr 4096 then none else some (e.addr, m.genAt e)
    (m.bytes d false e.addr 4096, m.genAt e, { k with tileCopies := k.tileCopies.set none (d * 2 ^ 52 + e.at_) kept })

/-! ### Code -/

/-- A loaded object by its handle. -/
def Code.find (c : Code) (h : Nat) : Option Obj := c.objects.find? (·.handle == h)

/-- A version of an object. -/
def Obj.version (o : Obj) (n : Nat) : Option Version := o.versions.find? (·.num == n)

/-- The current version of an object (R316). -/
def Obj.current (o : Obj) : Nat :=
  match o.versions with
  | v :: _ => v.num
  | [] => 0

/-- The code page of a VA in a version: physical address and digest (R313, R316). -/
def Version.page (v : Version) (va : Nat) : Option (Nat × BitVec 256) :=
  match v.pages.find? fun p => p.1 == va / 65536 * 65536 with
  | some (_, pa, d) => some (pa, d)
  | none => none

/-- The code version that the current core's task fetches through (R316). -/
def State.codeVersion (s : State) : Option Version :=
  match s.dev.code.find s.core.ctl.object with
  | some o => o.version s.core.ctl.version
  | none => none

/-- The physical address that a code fetch at `va` reads: the page must be in HBM (R315, R333). -/
def State.codeAddr (s : State) (va : Nat) : Option Nat :=
  match s.codeVersion with
  | none => none
  | some v =>
    match v.page va with
    | some (pa, _) => if pa < hbmEnd then some (pa + va % 65536) else none
    | none => none

/-- The 4 bytes of code at address `a` in a line that holds them. -/
def lineWord (l : BitVec 512) (a : Nat) : List Byte := (List.range 4).map fun i => BitVec.ofNat 8 (laneOf 8 l.toNat (a % 64 + i))

/-- The 4 bytes of code at a physical address as core `n` fetches them: from its code stream buffer where that holds the line,
else from their home (R257, R267). -/
def MemSys.codeBytes (m : MemSys) (n a : Nat) : List Byte :=
  match m.cbuf.get none (lineKey n a) with
  | some l => lineWord l a
  | none => m.homeBytes a 4

/-- Lines of a core's bundle buffer: 64 KiB of 64 bytes (R37, R315). -/
def bundleLines : Nat := 1024

/-- Room for one more line in the bundle buffer of core `n`: a full one gives up a line, which the spec leaves open (log entry 16). -/
def roomForLine (t : Table (Option (BitVec 512))) (n key : Nat) : Table (Option (BitVec 512)) :=
  let mine := t.filter fun e => e.1 / 2 ^ 46 == n
  if (t.get none key).isSome || mine.length < bundleLines then t
  else t.erase ((mine[Config.openChoice key % mine.length]?.map (·.1)).getD 0)

/-- A line of code in the code stream buffer of core `n` (R37, R267): fetched from its home ahead of its use, or dropped. -/
def MemSys.holdCode (m : MemSys) (n a : Nat) (held : Bool) : MemSys :=
  let key := lineKey n a
  { m with cbuf := if held then (roomForLine m.cbuf n key).set none key (some (m.lineBits (a / 64))) else m.cbuf.erase key }

/-- The code stream unit of core `n` fetches the line at `va` ahead of its use, or drops it: a line of a code page of its task that
is there (R315, R316). -/
def State.streamCode (s : State) (n va : Nat) (held : Bool) : State :=
  match (s.turnTo n).codeAddr va with
  | some pa => s.sys fun m => m.holdCode n pa held
  | none => s

/-- Whether some version maps a VA of the range to the line at physical address `a` (R207, R316). -/
def State.codeMapped (s : State) (va len a : Nat) : Bool :=
  s.dev.code.objects.any fun o => o.versions.any fun v => v.pages.any fun p =>
    p.2.1 ≤ a && a < p.2.1 + 65536 && va < p.1 + (a - p.2.1) + 64 && p.1 + (a - p.2.1) < va + len

/-- Lines of code that a core holds in its target buffers, or took from one, without those that `gone` selects (R93, R207). -/
def Core.dropLines (c : Core) (gone : Nat → Bool) : Core :=
  let keep := fun (t : Table (Option (BitVec 512))) => t.filter fun e => !gone (64 * e.1)
  { c with seq := { c.seq with
      stream := keep c.seq.stream
      tb := c.seq.tb.map fun x => (x.1, x.2.map fun b => { b with code := keep b.code }) } }

/-- What ICINV discards from the code stream and target buffers of every core (R207): the lines of the VA range, all of them where
its length is 0. -/
def State.discardCode (s : State) (va len : Nat) : State :=
  let gone := fun a => len == 0 || s.codeMapped va len a
  let s := s.sys fun m => { m with cbuf := m.cbuf.filter fun e => !gone (e.1 % 2 ^ 46 * 64) }
  { s with core := s.core.dropLines gone, others := s.others.map fun x => (x.1, x.2.dropLines gone) }

/-- The 4 bytes of code at a physical address as the current core fetches them: from the target buffer that the last transfer went
through where that holds the line (R93), else through its code stream unit. -/
def State.codeWord (s : State) (pa : Nat) : List Byte :=
  match s.core.seq.stream.get none (pa / 64) with
  | some l => lineWord l pa
  | none => s.dev.sys.codeBytes s.cur pa

/-- `n` 4-byte words of code from `va` upward, as the current core fetches them (R93, R257, R267); none where a page is not there
(R29). -/
def State.codeWords (s : State) (va : Nat) : Nat → Option (List Byte)
  | 0 => some []
  | n + 1 =>
    match s.codeAddr va, State.codeWords s (va + 4) n with
    | some pa, some r => some (s.codeWord pa ++ r)
    | _, _ => none

/-- A line of code as the code stream unit of core `n` has it, in its buffer or at its home. -/
def MemSys.codeLine (m : MemSys) (n a : Nat) : BitVec 512 := (m.cbuf.get none (lineKey n a)).getD (m.lineBits (a / 64))

/-- The lines of the up to 256 bytes of bundles at a target whose pages are there, by their numbers in HBM (R93). -/
def State.targetLines (s : State) (pc : Nat) : Table (Option (BitVec 512)) :=
  (List.range 4).foldl (fun t i =>
    match s.codeAddr (pc / 64 * 64 + 64 * i) with
    | some pa => t.set none (pa / 64) (some (s.dev.sys.codeLine s.cur pa))
    | none => t) []

/-- Target buffer `n` of the current core takes the bundles at its target, if it has been prepared (R93). -/
def State.fillTarget (n : Nat) (s : State) : State :=
  match s.core.seq.tb.get none n with
  | some b =>
    { s with core := { s.core with seq := { s.core.seq with
        tb := s.core.seq.tb.set none n (some { b with code := s.targetLines b.pc.toNat }) } } }
  | none => s

end Sys2Proof.Machine
end

