-- ==== Sys2Proof/Machine/Events.lean ====
section
/-!
DEFINITION. Event records (R355, R356, R383, R384), fault records (R344), and taking a trap (R248).
-/
namespace Sys2Proof.Machine

/-- A change to the management window. -/
def State.mgmt (s : State) (f : Mgmt → Mgmt) : State := { s with dev := { s.dev with mgmt := f s.dev.mgmt } }

/-- Bytes of a record: each field is its number of bytes and its value, lowest first. -/
def fieldBytes : List (Nat × Nat) → List Byte
  | [] => []
  | (n, x) :: r => leBytes n x ++ fieldBytes r

/-- The bytes with the 32-bit number `x` put at `at_`. -/
def putSeq (bytes : List Byte) (at_ x : Nat) : List Byte := bytes.take at_ ++ leBytes 4 x ++ bytes.drop (at_ + 4)

/-- Host memory as the host numbers it: the device's address is 0x8_0000_0000_0000 higher (R348). -/
def hostAddr (a : Nat) : Nat := 0x8000000000000 + a % 2 ^ 51

/-- The size in bytes of the records of a source (R356). -/
def recordSize (src : Nat) : Nat := if src = 0 then 128 else 32

/-- MSI-X vector `v` signalled to the host; while the host link is down the write is dropped (R349). -/
def State.signal (s : State) (v : Nat) : State :=
  if s.reachable (hostAddr 0) then s.mgmt fun m => { m with msix := m.msix ++ [v] } else s

/-- Source `n` signals its vector, at most once per 2 µs (R355). -/
def State.signalSource (s : State) (n : Nat) : State :=
  if s.dev.mgmt.holdoff.get false n then s.mgmt fun m => { m with owed := m.owed.set false n true }
  else (s.mgmt fun m => { m with holdoff := m.holdoff.set false n true }).signal (1 + n)

/-- An event queue at reset: all zero (log entry 7). -/
def Evq.blank : Evq := ⟨0, 0, false, 0, 0, 0⟩

/-- Registers of event queue `n`. -/
def State.evq (s : State) (n : Nat) : Evq := (s.dev.mgmt.evq.get none n).getD Evq.blank

/-- Registers of event queue `n` replaced. -/
def State.setEvq (s : State) (n : Nat) (e : Evq) : State :=
  s.mgmt fun m => { m with evq := m.evq.set none n (if e = Evq.blank then none else some e) }

/-- An event record of source `src` (R355, R356): it takes the next SEQ, which stands at byte `seqAt`, and is written to
the ring in host memory if the source is enabled and has a free entry, or counted as dropped, as is one that the host
link cannot carry. -/
def State.record (s : State) (src seqAt : Nat) (bytes : List Byte) : State :=
  let seq := s.dev.mgmt.evSeq.get 0 src
  let s := s.mgmt fun m => { m with evSeq := m.evSeq.set 0 src (seq + 1) }
  let e := s.evq src
  let n := 2 ^ e.log2n.toNat
  if e.en && (e.widx - e.ridx).toNat < n && s.reachable (hostAddr 0) then
    let a := e.base.toNat + recordSize src * (e.widx.toNat % n)
    let s := s.sys fun m => m.reachHome (hostAddr a) (putSeq bytes seqAt (seq % 2 ^ 32))
    (s.setEvq src { e with widx := e.widx + 1 }).signalSource src
  else s.setEvq src { e with drop := e.drop + 1 }

/-- A scrubber or repair record (R383). -/
def State.careRecord (s : State) (src kind task unitKind unit addr count : Nat) : State :=
  s.record src 0 (fieldBytes [(4, 0), (4, task), (4, kind), (4, unitKind * 2 ^ 28 + unit % 2 ^ 16), (8, addr), (8, count)])

/-- A link record (R384). -/
def State.linkRecord (s : State) (kind unitKind unit detail count : Nat) : State :=
  s.record 7 0 (fieldBytes [(4, 0), (4, 0), (4, kind), (4, unitKind * 2 ^ 28 + unit % 2 ^ 16), (8, detail), (8, count)])

/-- The number from which lanes of the Ethernet ports are numbered; those below belong to Phoulaip links (log entry 46). -/
def serdesBase : Nat := 2 ^ 15

/-- The lanes of a link: 16 of a Phoulaip link, 4 of an Ethernet port (log entry 46). -/
def lanesOfLink (kind unit : Nat) : List Nat :=
  if kind = 0 then (List.range 16).map (16 * unit + ·)
  else if kind = 1 then (List.range 4).map (serdesBase + 4 * unit + ·)
  else []

/-- Where what a lane has counted stands for its link: a Phoulaip link or an Ethernet port. -/
def linkOfLane (lane : Nat) : Nat :=
  if lane < serdesBase then 16 * 2 ^ 48 + lane / 16 else 17 * 2 ^ 48 + (lane - serdesBase) / 4

/-- COUNT of a link record: replays, corrected symbols and retransmissions of the unit, its lanes' among them (R384). -/
def State.linkCount (s : State) (kind unit : Nat) : Nat :=
  let n := s.dev.health.corrected
  n.get 0 ((16 + kind) * 2 ^ 48 + unit) + ((lanesOfLink kind unit).map fun l => n.get 0 (4 * 2 ^ 48 + l)).sum

/-- A write dropped because its link is down, logged (R349). -/
def State.logDropped (s : State) (a : Nat) : State :=
  match linkOf a with
  | some k => s.linkRecord 3 (k / 2 ^ 16) (k % 2 ^ 16) 0 (s.linkCount (k / 2 ^ 16) (k % 2 ^ 16))
  | none => s

/-- The event of a failed read by firmware (R349): cause DPOISON at a physical address. -/
def failRecord (a : Nat) : List Byte :=
  fieldBytes [(2, 0), (2, { cause := .dpoison, slot := 10 : TrapInfo }.causeWord), (44, 0), (8, a), (72, 0)]

/-- Firmware has read some ranges of memory: the read of a line among them that failed is logged and over (R349). DESIGN CHOICE, log
entry 131. -/
def State.endReads (s : State) (l : List (Nat × Nat)) : State :=
  match s.dev.sys.failing with
  | none => s
  | some k =>
    if l.any fun p => s.dev.sys.fails p.1 p.2 then (s.sys fun m => { m with failing := none }).record 0 4 (failRecord (64 * k))
    else s

/-- A physical write by the control complex or an engine of it, performed at its home at once, or dropped and logged while its link
is down (R349). -/
def State.physWrite (s : State) (a : Nat) (bs : List Byte) : State :=
  if s.reachable a then s.sys fun m => m.reachHome a bs else s.logDropped a

/-- A power record (R384); the temperature is in eighths of a degree. -/
def State.powerRecord (s : State) (kind : Nat) (temp : Int) : State :=
  s.record 8 0 (fieldBytes [(4, 0), (4, 0), (4, kind), (4, s.dev.health.clock), (4, s.dev.health.mean), (4, wrapTo 32 temp),
    (8, s.dev.health.micros)])

/-- Bundles from VA `va` up to `target` in a code version, wherever its pages stand (R211); `fuel` is at least their number. -/
def State.countBundles (s : State) (v : Version) (target : Nat) : Nat → Nat → Nat
  | 0, _ => 0
  | fuel + 1, va =>
    if target ≤ va then 0
    else
      match v.page va with
      | none => 0
      | some (pa, _) => 1 + s.countBundles v target fuel (va + 4 * bundleLength (s.dev.sys.homeNum (pa + va % 65536) 4))

/-- BNUM: the number of the bundle at PC within the task's code object (R211, R344); 0 in an adapter's segment: DESIGN CHOICE, log entry
120. -/
def State.bundleNumber (s : State) : Nat :=
  match s.dev.code.find s.core.ctl.object, s.codeVersion with
  | some o, some v =>
    let pc := s.core.seq.pc.toNat
    if o.bva ≤ pc && pc < o.bva + o.blen then s.countBundles v pc ((pc - o.bva) / 4 + 1) o.bva else 0
  | _, _ => 0

/-- The INDEX values of the active levels, innermost first, six in all (R344). -/
def Core.indexes (c : Core) : List (Nat × Nat) :=
  (List.range 6).map fun i => (4, ((c.seq.levels[i]?).map (·.index.toNat)).getD 0)

/-- The fault record of the current core (R344), SEQ left zero. -/
def State.faultRecord (s : State) (t : TrapInfo) : List Byte :=
  let c := s.core
  fieldBytes ([(2, s.cur), (2, t.causeWord), (4, 0), (4, c.ctl.group), (1, c.ctl.queue), (1, c.seq.levels.length),
    (2, c.ctl.asid.toNat), (4, s.bundleNumber)] ++ c.indexes ++ [(8, t.va), (4, t.tid)] ++
    ((List.range 4).map fun i => (4, t.coords.getD i 0)) ++
    [(4, t.tile), (4, t.rem), (8, t.code), (8, c.seq.pc.toNat), (32, 0)])

/-- The record appended to the die's fault queue (R248, R344). -/
def State.fileFault (s : State) (t : TrapInfo) : State :=
  let die := dieOf s.cur
  let seq := s.dev.mgmt.evSeq.get 0 (16 + die)
  let bytes := putSeq (s.faultRecord t) 4 (seq % 2 ^ 32)
  s.mgmt fun m => { m with evSeq := m.evSeq.set 0 (16 + die) (seq + 1)
                           faultQ := m.faultQ ++ [(die, BitVec.ofNat 1024 (leNat bytes))] }

/-- Taking a trap or fault (R248): the core freezes in cycle `at_`, with what is in flight kept, and its fault record
goes to the die's fault queue. PC and LPC stay at the bundle that issues on resumption, and ccr.cause changes when the
task resumes (R246). -/
def takeTrap (t : TrapInfo) (at_ : Nat) (s : State) : State :=
  (s.fileFault t).mod fun c => c.freeze t at_

/-- The task resumes from its trap: ccr.cause takes the cause and the bundle at the saved PC issues in cycle `t`
(R246, R249). -/
def returnFromTrap (t : Nat) (s : State) : State :=
  match s.core.ctl.run with
  | .frozen info at_ =>
    s.mod fun c => { c with ctl := { c.ctl with cause := BitVec.ofNat 64 info.causeWord } }.thaw at_ t
  | _ => s

/-- The host-visible copy of a fault record (R249, R345), appended to event source 0. Its CLASS is that of the cause,
which is 10 for every fault that R345 names. -/
def State.hostCopy (s : State) (t : TrapInfo) : State := s.record 0 4 (s.faultRecord t)

/-- The bytes of a fault record with CAUSE zero, for an end that no cause of R246 stands for (log entry 45). -/
def noCause (bytes : List Byte) : List Byte := bytes.take 2 ++ [0, 0] ++ bytes.drop 4

/-- The host-visible report of a task that firmware ends on the current core (R249, R351): the cause of the fault it was frozen for, or
none. -/
def State.endCopy (s : State) : State :=
  match s.core.ctl.run with
  | .frozen t _ => s.hostCopy t
  | _ => s.record 0 4 (noCause (s.faultRecord { cause := .preovr, slot := 15 }))

/-- A wait that began at the bundle's first attempt and the line it keeps (R99, R109, R196). -/
def Core.keepWaiting (c : Core) (now : Nat) (l : Option (BitVec 512)) : Waiting :=
  match c.waiting with
  | some w => { w with line := if w.line.isSome then w.line else l }
  | none => { since := now, line := l }

/-- A word of slot `slot` has its effect, or stalls the core, or traps at issue and the core freezes in this cycle. -/
def issue (slot : Nat) (act : State → Except Stop State) (s : State) : Next :=
  match act s with
  | .ok t => .next t
  | .error (.stall e) => .next (s.mod fun c => { c with stall := some e })
  | .error (.hold e l) =>
    .next (s.mod fun c => { c with stall := some e, waiting := some (c.keepWaiting s.cycle l) })
  | .error (.watch l t) =>
    .next (t.mod fun c => { c with stall := some .stallg, waiting := some (c.keepWaiting s.cycle l) })
  | .error .arrive => .next (s.mod fun c => { c with stall := some .stallg, arrived := some (c.arrived.getD s.cycle) })
  | .error (.fault t) => .next (takeTrap t s.cycle s)
  | .error (.trap k) => .next (takeTrap { cause := k, slot := slot } s.cycle s)

/-- A guarded word: with its guard false it has no effect (R39). -/
def issueIf (slot : Nat) (go : Bool) (act : State → Except Stop State) (s : State) : Next :=
  if go then issue slot act s else .next s

end Sys2Proof.Machine
end

