-- ==== Sys2Proof/Machine/Operands.lean ====
section
/-!
DEFINITION. Operand forms: guards (R39), ring handles and their pops (R180 to R182), sources and destinations of the
transport slots (R43, R112, R113), base-register addresses (R161, R162), the checks of own-vault accesses (R161, R302)
and the literal stream (R149).
-/
namespace Sys2Proof.Machine

/-! ### Guards -/

/-- A guard that names p0 to p15 (R39). -/
def Core.guardP (c : Core) (g : Guard) : Bool := !bitOf g.toNat 5 || (c.pAt (fieldOf g.toNat 3 0) != bitOf g.toNat 4)

/-- The predicate part of a vector trigger's guard: p0 to p7 (R39); a lane-mask guard lets the word execute. -/
def Core.guardV (c : Core) (g : Guard) : Bool :=
  !bitOf g.toNat 5 || bitOf g.toNat 3 || (c.pAt (fieldOf g.toNat 2 0) != bitOf g.toNat 4)

/-- The lanes below `n` that a vector trigger's guard includes (R19, R39). -/
def Core.guardLanes (c : Core) (g : Guard) (n : Nat) : List Bool :=
  let q := (c.qAt (fieldOf g.toNat 2 0)).toNat
  (List.range n).map fun i => !(bitOf g.toNat 5 && bitOf g.toNat 3) || (bitOf q i != bitOf g.toNat 4)

/-! ### Rings -/

/-- BASE (R180). -/
def Ring.base (r : Ring) : Nat := fieldOf r.cfg.toNat 21 0
/-- SZ: slot size in units of 128 bytes. -/
def Ring.sz (r : Ring) : Nat := fieldOf r.cfg.toNat 31 24
/-- CNT: slots. -/
def Ring.cnt (r : Ring) : Nat := fieldOf r.cfg.toNat 39 32
/-- ROLE: a producer. -/
def Ring.producer (r : Ring) : Bool := bitOf r.cfg.toNat 41
/-- PK: the peer is a gang member. -/
def Ring.peer (r : Ring) : Bool := bitOf r.cfg.toNat 42
/-- PM: the peer member. -/
def Ring.pm (r : Ring) : Nat := fieldOf r.cfg.toNat 46 43
/-- PH: the consumer's handle. -/
def Ring.ph (r : Ring) : Nat := fieldOf r.cfg.toNat 49 47
/-- The vault offset of slot `i`. -/
def Ring.slotAt (r : Ring) (i : Nat) : Nat := r.base + 128 * r.sz * i
/-- The bytes of a whole ring. -/
def Ring.bytes (r : Ring) : Nat := 128 * r.sz * r.cnt

/-- Whether a word in the port fills ring `h` of its core (R181, R187, R197, R201). -/
def GEntry.fills (e : GEntry) (h : Nat) : Bool :=
  match e.op with
  | .tldRing k _ => k == h
  | .cmd .cpy _ b => bitOf (laneOf 8 b.toNat 20) 2 && laneOf 64 b.toNat 1 % 8 == h
  | .cmd .decant _ b => laneOf 8 b.toNat 14 % 8 == h
  | _ => false

/-- Whether a fill of ring `h` is outstanding (R88): an engine command that produces into it, or a producer on another core. -/
def Core.ringFilling (c : Core) (h : Nat) : Bool :=
  c.mine.any (·.fills h) || ((c.ring h).peer && (c.ring h).pm != c.ctl.member)

/-- The handles of a producer that hold slots of consumer handle `h` of member `m`. -/
def producersOf (c : Core) (m h : Nat) : List Nat :=
  (List.range 8).filter fun k =>
    let r := c.ring k
    r.bound && r.producer && r.pm == m && r.ph == h

/-- The consumer of handle `h` releases `n` slots from the current one on; its producing member finds them free when the bundle commits
(R181, R182). -/
def State.releaseSlots (s : State) (h n : Nat) : State :=
  let r := s.core.ring h
  s.mod fun c =>
    { c.setRing h { r with slot := if r.cnt = 0 then 0 else (r.slot + n) % r.cnt, elem := 0, count := r.count - n } with
      ctx := { c.ctx with freed := if r.peer then c.ctx.freed ++ [(r.pm, h, n)] else c.ctx.freed } }

/-- The producing member finds slots of the current core's handle free: its handles of the task that fill it count them (R181). -/
def State.creditSlots (s : State) (f : Nat × Nat × Nat) : State :=
  let me := s.core.ctl.member
  let t := s.core.ctl.task
  s.modAt (s.member f.1) fun c =>
    if c.ctl.task == t && c.ctl.run != .idle then
      (producersOf c me f.2.1).foldl (fun c k =>
        c.setRing k { c.ring k with count := min (c.ring k).cnt ((c.ring k).count + f.2.2) }) c
    else c

/-- Whether a TLDX in the port will write a byte of the range (R190). -/
def GEntry.landsIn (e : GEntry) (a n : Nat) : Bool :=
  match e.op with
  | .tldx _ _ len dst => a < dst + len && dst < a + n
  | _ => false

/-- A read of vault bytes that a TLDX of the task has yet to bring waits (R184, R190). -/
def Core.bringWait (c : Core) (a n : Nat) : Except Stop Unit := waitWhile (c.mine.any (·.landsIn a n)) .stallg

/-- Whether an acquire of an earlier bundle has yet to perform, which holds back bundle `b`'s accesses (R164). -/
def Core.acquirePending (c : Core) (b : Nat) : Bool :=
  c.qs.loads.any (fun e => e.acquire && e.bundle < b) || c.qs.stores.any (fun e => e.acquire && e.bundle < b) ||
  c.mine.any fun e => e.acquire && e.bundle < b

/-- A slot of ring `h` used up by a pop of the issuing bundle (R182). -/
def Core.countPop (c : Core) (h : Nat) : Core := { c with ctx := { c.ctx with popped := c.ctx.popped.set 0 h (c.ctx.popped.get 0 h + 1) } }

/-- A pop of the next element of ring `h` (R113, R182), an access that earlier acquires hold back (R164) and that waits for what a TLDX
is to bring (R184). -/
def State.popRing (s : State) (h : Nat) : Except Stop (Nat × State) := do
  let r := s.core.ring h
  need r.bound .illop
  need (!r.producer) .ringerr
  waitWhile (s.core.acquirePending s.core.bundles) .stallring
  if r.count = 0 then
    waitWhile (s.core.ringFilling h) .stallring
    need false .qimb
  let a := r.slotAt r.slot + 128 + 128 * r.elem
  s.core.bringWait a 128
  let x := s.core.vault.num a 128
  if r.elem + 2 = r.sz then return (x, (s.releaseSlots h 1).mod (·.countPop h))
  else return (x, s.mod fun c => c.setRing h { r with elem := r.elem + 1 })

/-- A pop of the data queue (R88, R198). -/
def State.popData (s : State) : Except Stop (Nat × State) :=
  match s.core.qs.data with
  | x :: r => .ok (x.toNat, s.mod fun c => { c with qs := { c.qs with data := r } })
  | [] => .error (if s.core.qs.addr.isEmpty then .trap .qimb else .stall .stallq)

/-- A pop of the random-bits queue: the generator never runs dry (R88, R179; log entry 18). -/
def State.popRandom (s : State) : Nat × State :=
  let q := s.core.qs
  (randBlock q.rngKey.toNat q.rngCtr.toNat, s.mod fun c => { c with qs := { c.qs with rngCtr := c.qs.rngCtr + 1 } })

/-- A pop of `n` words of the scale queue (R82, R88). -/
def State.popScales (s : State) (n : Nat) : Except Stop (List Nat × State) :=
  let q := s.core.qs
  if n ≤ q.scale.length then
    .ok ((q.scale.take n).map (·.toNat), s.mod fun c => { c with qs := { c.qs with scale := c.qs.scale.drop n } })
  else .error (if q.fills.isEmpty then .trap .qimb else .stall .stallq)

/-! ### Sources and destinations of moves -/

/-- The bypass register of a source code (R43). -/
def unitOfCode (n : Nat) : FUnit :=
  if n < 0x64 then .ia else if n < 0x68 then .ib else if n < 0x6C then .va else if n < 0x70 then .vb else .sf

/-- The value of a source specifier, zero-extended, with what a pop does (R43, R112, R113). -/
def State.source (s : State) (spec : BitVec 9) : Except Stop (Nat × State) := do
  let n := spec.toNat
  let c := s.core
  if n < 0x20 then return ((← c.readG n).toNat, s)
  else if n < 0x40 then return ((← c.readV (n - 0x20)).toNat, s)
  else if n < 0x50 then return (bit (c.pAt (n - 0x40)), s)
  else if n < 0x58 then return ((c.qAt (n - 0x50)).toNat, s)
  else if n = 0x58 then return (c.seq.lc.toNat, s)
  else if n = 0x59 then return (c.seq.sv.toNat, s)
  else if n = 0x5A then return (c.seq.rrb.toNat, s)
  else if n = 0x5B then return (c.seq.fb, s)
  else if n < 0x80 then return (c.ports.r (unitOfCode n), s)
  else if n < 0x88 then s.popRing (n - 0x80)
  else if n = 0x88 then return s.popRandom
  else if n = 0x89 then s.popData
  else return (n % 256, s)

/-- The destination that a specifier names at issue, and its width (R43, R112, R244). Writes of g0 and FB are
ignored. -/
def Core.destOf (c : Core) (spec : BitVec 9) : Dest × Nat :=
  let n := spec.toNat
  if n < 0x20 then (.g (c.gKey n), 64)
  else if n < 0x40 then (.v (c.vKey (n - 0x20)), 1024)
  else if n < 0x50 then (.p (c.pKey (n - 0x40)), 1)
  else if n < 0x58 then (.q (n - 0x50), 128)
  else if n = 0x58 then (.lc, 32)
  else if n = 0x59 then (.sv, 16)
  else if n = 0x5A then (.rrb, 4)
  else if n = 0x5B then (.none, 8)
  else
    let u := unitOfCode n
    (if n % 4 = 0 then .portA u else .portB u, if n < 0x68 then 64 else 1024)

/-! ### Addresses -/

/-- The effective address of an own-vault or cluster access (R161, R162). -/
def Core.ea (c : Core) (bb : BitVec 3) (off : Nat) : Nat := (c.bAt bb.toNat + off) % 2 ^ 32

/-- Whether an in-flight MFLUSH or TQNT owns a byte of the range (R153). -/
def Core.hazard (c : Core) (now a n : Nat) : Bool :=
  c.eng.hazards.any fun h => now < h.due && a < h.hi && h.lo < a + n

/-- Whether the banks of a range are all the task's own (R161). -/
def Core.ownsRange (c : Core) (a n : Nat) : Bool := (banksOf a n).all fun k => c.ctl.owned.getLsbD k

/-! ### Tasks and retained banks -/

/-- A change to the scheduler's state. -/
def State.sched (s : State) (f : Sched → Sched) : State := { s with dev := { s.dev with sched := f s.dev.sched } }

/-- The task with an identifier. -/
def State.task? (s : State) (id : Nat) : Option Task := s.dev.sched.tasks.find? (·.id == id)

/-- A change to the task with an identifier. -/
def State.modTask (s : State) (id : Nat) (f : Task → Task) : State :=
  s.sched fun d => { d with tasks := d.tasks.map fun t => if t.id = id then f t else t }

/-- Whether the registers of task `t` are those of core `c`. -/
def Core.holds (c : Core) (t : Nat) : Bool := c.ctl.task == t

/-- The context of task `t` for core `n`: in the core, or saved (R24, R305). -/
def State.ownerCore (s : State) (n t : Nat) : Option Core :=
  if (s.coreAt n).holds t then some (s.coreAt n)
  else
    match s.task? t with
    | some x => (x.contexts.find? (·.1 == n)).map (·.2)
    | none => none

/-- The handle of the ring that a word fills (R187, R197, R201). -/
def GOp.ring? : GOp → Option Nat
  | .tldRing h _ => some h
  | .cmd .cpy _ b => if bitOf b.toNat 162 then some (fieldOf b.toNat 127 64) else none
  | .cmd .decant _ b => some (fieldOf b.toNat 79 72)
  | _ => none

/-- Whether operations of task `t` on core `n` still write bank `k`, which the task has released: fills of a ring in it, an MFLUSH or
a TQNT (R170, R303). -/
def State.stillWrites (s : State) (n t k : Nat) : Bool :=
  match s.ownerCore n t with
  | none => false
  | some c =>
    !c.ctl.owned.getLsbD k &&
    (((s.coreAt n).port.any fun e => e.task == t &&
        ((e.op.ring?.map c.ring).any fun r => r.bound && (banksOf r.base r.bytes).contains k)) ||
      (!c.eng.exits.isEmpty && c.eng.hazards.any fun h => (banksOf h.lo (h.hi - h.lo)).contains k))

/-- Whether a task other than `t` still holds bank `k` of core `n` (R170, R302, R303). -/
def State.heldByOther (s : State) (n t k : Nat) : Bool :=
  s.dev.sched.tasks.any fun x => x.id != t && ((x.holding.get 0 n).getLsbD k || s.stillWrites n x.id k)

/-- The bytes of bank `k` of a vault. -/
def Memory.bank (m : Memory) (k : Nat) : Memory := m.filter fun e => bankOf e.1 == k

/-- Bank `k` of core `n` as a save area keeps it. -/
def Core.bankCopy (c : Core) (n k : Nat) : SavedBank :=
  ⟨n, k, c.vault.bank k, (c.poison.map (·.1)).filter fun l => bankOf (64 * l) == k⟩

/-- A context: what is not the vault, the port or the core's own (R24, R27). -/
def Core.context (c : Core) : Core := { c with vault := [], poison := [], port := [], retained := [], perf := [], failed := false }

/-- Bytes of a core's context (R24). -/
def contextBytes : Nat := 287842

/-- Byte `o` of a context at address `a` of a save area. Which byte stands where the spec leaves open, but for the parts' order in R24's
table: so the last byte of each 7-byte element of c, y and a has bits 7:5 zero (R61; log entry 79). -/
def contextByte (a o : Nat) : Byte :=
  let last := fun lo hi => lo ≤ o && o < hi && (o - lo) % 7 == 6
  if last 79218 193906 || last 202098 273778 then Config.savedByte a &&& 0x1F else Config.savedByte a

/-- The save area of a task's queue takes its contexts, then its banks (R24, R305; log entry 79). -/
def State.fillSaveArea (s : State) (id : Nat) : State :=
  match s.task? id with
  | none => s
  | some t =>
    let base := s.dev.sched.saveAreas.get 0 (64 * dieOf t.base + ((s.dev.sched.groups.find? (·.id == t.group)).map (·.queue)).getD 0)
    let n := contextBytes * (t.contexts.filter fun p => !t.ended.contains p.1).length
    if base = 0 then s
    else s.sys fun m => m.reachHome base ((List.range (n + 65536 * t.banks.length)).map fun i =>
      if i < n then contextByte (base + i) (i % contextBytes) else Config.savedByte (base + i))

/-- Bank `k` of core `n`, if it is retained for a task other than `by_`, is saved to that task's save area and no longer
retained (R305). -/
def State.saveBank (by_ n : Nat) (s : State) (k : Nat) : State :=
  match (s.coreAt n).retained.get none k with
  | none => s
  | some t =>
    if t = by_ then s
    else
      ((s.modTask t fun x => { x with banks := x.banks ++ [(s.coreAt n).bankCopy n k] }).modAt n fun c =>
        { c with retained := c.retained.set none k none }).fillSaveArea t

/-- An access by task `by_` to banks of core `n` first saves what other tasks retain there (R305). -/
def State.guardBanks (s : State) (by_ n : Nat) (banks : List Nat) : State := banks.foldl (State.saveBank by_ n) s

/-- An exit-unit access of the current core's task to ranges of its vault (R305). -/
def State.guardRanges (s : State) (ranges : List (Nat × Nat)) : State :=
  ranges.foldl (fun s r => s.guardBanks s.core.ctl.task s.cur (banksOf r.1 r.2)) s

/-- A range that touches a pending bank waits (R302). -/
def Core.bankWait (c : Core) (a n : Nat) : Except Stop Unit := waitWhile (a + n ≤ vaultSize && c.pendingIn a n) .stallld

/-- The checks of R161 in their order, with the stall of R302 before them. -/
def State.checkVault (s : State) (a n align : Nat) : Except Stop Unit := do
  let c := s.core
  c.bankWait a n
  need (a + n ≤ vaultSize) .vrange
  need (a % align == 0) .valign
  need (c.ownsRange a n) .bankown
  need (!c.hazard s.cycle a n) .xhaz

/-- The checks of an own-vault access of the L slot: bytes that a TLDX will write are waited for (R190). -/
def State.checkLocal (s : State) (a n align : Nat) : Except Stop Unit := do
  s.core.bringWait a n
  s.checkVault a n align

/-- What own-vault accesses of `n` bytes at the addresses wait for, all of them before the checks of any (R81, R190, R302). -/
def Core.waitEach (c : Core) (n : Nat) : List Nat → Except Stop Unit
  | [] => .ok ()
  | a :: r => do
    c.bringWait a n
    c.bankWait a n
    c.waitEach n r

/-- The checks of a cluster access in the order of R162: the member and the offset in its vault. -/
def State.checkCluster (s : State) (ca n align : Nat) : Except Stop (Nat × Nat) := do
  let off := ca % vaultSize
  let m := ca / vaultSize % 16
  need (ca / 2 ^ 26 == 0 && off + n ≤ vaultSize) .vrange
  need (m < s.core.ctl.size) .crange
  need (off % align == 0) .valign
  return (m, off)

/-! ### Ordering qualifiers (R164, R185, R260) -/

/-- Acquire. -/
def isAcquire (o : BitVec 3) : Bool := bitOf o.toNat 0
/-- Release. -/
def isRelease (o : BitVec 3) : Bool := bitOf o.toNat 1

/-- The bundle that issued an MFLUSH or TQNT. -/
def ExitJob.bundle : ExitJob → Nat
  | .mflush _ o _ _ _ _ _ _ _ _ _ _ _ => o / 16
  | .tqnt _ o _ _ => o / 16

/-- Whether a GATH of a bundle before `b` has reads under way: those of the index vectors that have been pushed (R164, R198; log
entry 23). -/
def Core.gathering (c : Core) (b : Nat) : Bool := !c.qs.addr.isEmpty && c.qs.gathers.any (·.bundle < b)

/-- Whether every access and engine command of bundles before `b` has performed (R164, R260). -/
def Core.earlierDone (c : Core) (b : Nat) : Bool :=
  c.qs.loads.all (b ≤ ·.bundle) && c.qs.stores.all (b ≤ ·.bundle) && c.mine.all (b ≤ ·.bundle) &&
  c.eng.exits.all (b ≤ ·.bundle) && !c.gathering b

/-- Whether a release of bundle `b` of the task whose registers are `c` may take effect at a scope (R260). -/
def State.mayReleaseOf (s : State) (c : Core) (b sc : Nat) : Bool :=
  c.earlierDone b && (!wideScope sc || s.dev.sys.drained (dieOf s.cur))

/-- Whether a release of the current core's bundle `b` may take effect at a scope (R260): earlier accesses and commands
done, and at package and system scope the die's writes at their homes. -/
def State.mayRelease (s : State) (b sc : Nat) : Bool := s.mayReleaseOf s.core b sc

/-- An acquire at a scope by the current core (R259, R260). -/
def State.acquire (s : State) (sc : Nat) : State := s.sys (·.acquire (dieOf s.cur) sc)

/-- What an access that performs at issue waits for, by its qualifier (R164): earlier acquires; for a release, every
earlier access and command. -/
def State.orderWait (s : State) (o : BitVec 3) (e : PerfEvent) : Except Stop Unit := do
  let b := s.core.bundles
  waitWhile (s.core.acquirePending b) e
  waitWhile (isRelease o && !s.mayRelease b s.core.ctx.scope) e

/-- The acquire of an access that performs at issue. -/
def State.orderAfter (s : State) (o : BitVec 3) : State := if isAcquire o then s.acquire s.core.ctx.scope else s

/-! ### The literal stream -/

/-- The VA of the next literal word (R149): LPC and what the bundle has consumed. -/
def Core.literalAt (c : Core) : Nat := (c.seq.lpc.toNat + 64 * c.ctx.lits) % 2 ^ 57

/-- `n` literal words from `va` on, each 64 bytes; none where a page is not there (R315). -/
def State.literalWords (s : State) (va : Nat) : Nat → Option (List (List Byte))
  | 0 => some []
  | n + 1 =>
    match s.codeWords va 16, State.literalWords s (va + 64) n with
    | some w, some r => some (w :: r)
    | _, _ => none

/-- The fetch fault of a bundle, reported at its first word (R29). -/
def bundleFault (pc : Nat) : TrapInfo := { cause := .fetch, slot := 15, va := pc }

/-- The fetch fault of `n` literal words from `va` on, reported at the first whose page is not there (R315). -/
def State.literalFault (s : State) (va n : Nat) : TrapInfo :=
  let at_ := ((List.range n).map (va + 64 * ·)).find? fun a => (s.codeAddr a).isNone
  { cause := .fetch, slot := 15, va := at_.getD va, lit := true }

/-- The end of the literal section that a position lies in: the task's object's own, or an adapter's whose segment runs
(R110, R149, R313). -/
def State.litLimit (s : State) (a : Nat) : Nat :=
  let own := s.core.ctl.litEnd.toNat
  if s.core.seq.adapter = 0 then own
  else
    match s.dev.code.objects.find? fun o => o.lva ≤ a && a < o.lva + o.llen with
    | some o => o.lva + o.llen
    | none => own

/-- `n` literal words consumed (R149, R176): past the section's end LITEND, and a page that is not there is a fetch
fault. The word behind them is in the code stream buffer `n` cycles after them (R315; log entry 87). -/
def State.literals (s : State) (n : Nat) : Except Stop (List (List Byte) × State) := do
  let a := s.core.literalAt
  need (a + 64 * n ≤ s.litLimit a) .litend
  match s.literalWords a n with
  | none => .error (.fault (s.literalFault a n))
  | some ws =>
    return (ws, s.mod fun c => { c with
      ctx := { c.ctx with lits := c.ctx.lits + n }, qs := { c.qs with litReady := max s.cycle c.qs.litReady + n } })

/-- What a B, M, W or X word and a C or Q load hand on: success with a state. -/
def ok (s : State) : Except Stop State := .ok s

end Sys2Proof.Machine
end

