-- ==== Sys2Proof/Machine/Local.lean ====
section
/-!
DEFINITION. The local slot (R161 to R171): accesses to the core's own vault, performed in the issue cycle, and bank
ownership.
-/
namespace Sys2Proof.Machine

/-- An L word issues under its guard (R39). -/
def execL (g : Guard) (act : State → Except Stop State) (s : State) : Next := issueIf 8 (s.core.guardP g) act s

/-- The bytes of a size code (R165). -/
def sizeOf (sz : Nat) : Nat := 2 ^ sz

/-- A read of the own vault: ordered by its qualifier and checked (R161, R163, R164). The bytes as a number, and the
state with DPOISON noted where a line was poisoned (R376). -/
def State.loadLocal (s : State) (o : BitVec 3) (a n align : Nat) : Except Stop (Nat × State) := do
  s.orderWait o .stallld
  s.checkLocal a n align
  return (s.core.vault.num a n, (s.orderAfter o).mod fun c => c.noteRead 8 a n)

/-- A write of the own vault (R161, R163, R164). -/
def State.storeLocal (s : State) (o : BitVec 3) (a n align x : Nat) : Except Stop State := do
  s.orderWait o .stallld
  s.checkLocal a n align
  return (s.orderAfter o).mod fun c => c.storeNum a n x

/-- A loaded number as LD and LDC deliver it (R166). -/
def extended (sx : Bool) (n x : Nat) : Nat := if sx then wrapTo 64 (signedOf (8 * n) x) else x

/-- LD (R166). -/
def execLd (o : BitVec 3) (g : Guard) (bb : BitVec 3) (sz : BitVec 2) (sx : BitVec 1) (d : BitVec 5) (off : BitVec 32)
    (s : State) : Next :=
  execL g (fun s => do
    let n := sizeOf sz.toNat
    let (x, s') ← s.loadLocal o (s.core.ea bb off.toNat) n n
    return s'.result 8 4 (.g (s.core.gKey d.toNat)) (extended (sx == 1) n x) (ones 64) 0) s

/-- ST (R166). -/
def execSt (o : BitVec 3) (g : Guard) (bb : BitVec 3) (sz : BitVec 2) (r : BitVec 5) (off : BitVec 32) (s : State) :
    Next :=
  execL g (fun s => do
    let n := sizeOf sz.toNat
    let x ← s.core.readG r.toNat
    s.storeLocal o (s.core.ea bb off.toNat) n n x.toNat) s

/-- VLD (R166). -/
def execVld (o : BitVec 3) (g : Guard) (bb : BitVec 3) (d : BitVec 5) (off : BitVec 32) (s : State) : Next :=
  execL g (fun s => do
    let (x, s') ← s.loadLocal o (s.core.ea bb off.toNat) 128 128
    return s'.result 8 4 (.v (s.core.vKey d.toNat)) x (ones 1024) 0) s

/-- VST (R166). -/
def execVst (o : BitVec 3) (g : Guard) (bb : BitVec 3) (r : BitVec 5) (off : BitVec 32) (s : State) : Next :=
  execL g (fun s => do
    let x ← s.core.readV r.toNat
    s.storeLocal o (s.core.ea bb off.toNat) 128 128 x.toNat) s

/-- TLDL (R167, R174): pending until its tile is written. -/
def execTldl (o : BitVec 3) (g : Guard) (bb : BitVec 3) (d : BitVec 4) (off : BitVec 32) (s : State) : Next :=
  execL g (fun s => do
    let (x, s') ← s.loadLocal o (s.core.ea bb off.toNat) 4096 64
    s.core.writeTileOk d.toNat
    return s'.result 8 8 (.tileL d.toNat) x (ones 32768) 0) s

/-- TSTL (R167). -/
def execTstl (o : BitVec 3) (g : Guard) (bb : BitVec 3) (r : BitVec 4) (off : BitVec 32) (s : State) : Next :=
  execL g (fun s => do
    let t ← s.core.readTile r.toNat
    s.storeLocal o (s.core.ea bb off.toNat) 4096 64 t.data.toNat) s

/-- XLD (R168). -/
def execXld (o : BitVec 3) (g : Guard) (bb : BitVec 3) (d : BitVec 6) (off : BitVec 32) (s : State) : Next :=
  execL g (fun s => do
    let (x, s') ← s.loadLocal o (s.core.ea bb off.toNat) 128 128
    return s'.result 8 6 (.x d.toNat) x (ones 1024) 0) s

/-- Scale words with bit 15 of each cleared (R62, R168). -/
def scaleWords (n x : Nat) : Nat := ofLanes 16 ((lanesOf 16 n x).map (· % 2 ^ 15))

/-- XSC (R168). -/
def execXsc (o : BitVec 3) (g : Guard) (bb : BitVec 3) (off : BitVec 32) (s : State) : Next :=
  execL g (fun s => do
    let (x, s') ← s.loadLocal o (s.core.ea bb off.toNat) 256 64
    return s'.result 8 6 .wls (scaleWords 128 x) (ones 2048) 0) s

/-- The new value of an atomic operation of width `w` bits (R169). -/
def amoOf (w : Nat) (aop : Nat) (old src cmp : Nat) : Nat :=
  let x := src % 2 ^ w
  match aop with
  | 0 => (old + x) % 2 ^ w
  | 1 => if signedOf w x < signedOf w old then x else old
  | 2 => if signedOf w old < signedOf w x then x else old
  | 3 => old &&& x
  | 4 => old ||| x
  | 5 => x
  | _ => if old = cmp % 2 ^ w then x else old

/-- The comparand of cas: gD before the bundle; the other operations read no gD (R169). -/
def Core.comparand (c : Core) (aop : BitVec 3) (d : BitVec 5) : Except Stop Nat :=
  if aop = 6 then do return (← c.readG d.toNat).toNat else .ok 0

/-- Bytes of an atomic's size code (R169). -/
def amoSize (sz : BitVec 1) : Nat := if sz = 1 then 8 else 4

/-- AMOL (R169): performed at issue; the old value is delivered 6 cycles later. -/
def execAmol (o : BitVec 3) (g : Guard) (bb : BitVec 3) (sz : BitVec 1) (aop : BitVec 3) (r d : BitVec 5)
    (off : BitVec 32) (s : State) : Next :=
  execL g (fun s => do
    let n := amoSize sz
    let x ← s.core.readG r.toNat
    let cmp ← s.core.comparand aop d
    let a := s.core.ea bb off.toNat
    let (old, s') ← s.loadLocal o a n n
    let s' := s'.mod fun c => c.storeNum a n (amoOf (8 * n) aop.toNat old x.toNat cmp)
    return s'.result 8 6 (.g (s.core.gKey d.toNat)) old (ones 64) 0) s

/-- TDL (R171). -/
def execTdl (o : BitVec 3) (g : Guard) (bb : BitVec 3) (d : BitVec 5) (off : BitVec 32) (s : State) : Next :=
  execL g (fun s => do
    let (x, s') ← s.loadLocal o (s.core.ea bb off.toNat) 64 64
    return s'.result 8 4 (.td d.toNat) x (ones 512) 0) s

/-- The element addresses of VLDS (R166). -/
def stridedAddrs (a : Nat) (stride : Int) (n : Nat) : List Nat :=
  (List.range n).map fun (i : Nat) => wrapTo 32 ((a : Int) + (i : Int) * stride)

/-- Elements of `n` bytes gathered one by one, each checked under R161. -/
def State.loadEach (s : State) (o : BitVec 3) (n : Nat) : List Nat → Except Stop (List Nat × State)
  | [] => .ok ([], s)
  | a :: r => do
    let (x, s) ← s.loadLocal o a n n
    let (xs, s) ← State.loadEach s o n r
    return (x :: xs, s)

/-- VLDS (R166): no check of an element comes before a wait of another (R81). -/
def execVlds (o : BitVec 3) (g : Guard) (bb : BitVec 3) (es : BitVec 2) (d r : BitVec 5) (off : BitVec 32) (s : State) :
    Next :=
  execL g (fun s => do
    let n := sizeOf es.toNat
    let st ← s.core.readG r.toNat
    let addrs := stridedAddrs (s.core.ea bb off.toNat) (signedOf 32 st.toNat) (128 / n)
    s.orderWait o .stallld
    s.core.waitEach n addrs
    let (xs, s') ← s.loadEach o n addrs
    return s'.result 8 4 (.v (s.core.vKey d.toNat)) (ofLanes (8 * n) xs) (ones 1024) 0) s

/-- Whether a task other than the current core's holds a bank of the mask on this core (R170, R302, R303). -/
def State.heldElsewhere (s : State) (mask : BitVec 64) : Bool :=
  (List.range 64).any fun k => mask.getLsbD k && s.heldByOther s.cur s.core.ctl.task k

/-- ACQB (R170, R302, R305). -/
def execAcqb (g : Guard) (m : BitVec 5) (s : State) : Next :=
  execL g (fun s => do
    let mask ← s.core.readG m.toNat
    waitWhile ((mask &&& s.core.ctl.pendingBanks) != 0) .stallld
    waitWhile (s.heldElsewhere (mask &&& ~~~s.core.ctl.owned)) .stallld
    let named := (List.range 64).filter fun k => mask.getLsbD k
    let s' := s.guardBanks s.core.ctl.task s.cur named
    return s'.result 8 1 .owned (s.core.ctl.owned ||| mask).toNat (ones 64) 0) s

/-- RELB (R170). -/
def execRelb (g : Guard) (m : BitVec 5) (s : State) : Next :=
  execL g (fun s => do
    let mask ← s.core.readG m.toNat
    return s.result 8 1 .owned (s.core.ctl.owned &&& ~~~mask).toNat (ones 64) 0) s

end Sys2Proof.Machine
end

