-- ==== Sys2Proof/Machine/Cluster.lean ====
section
/-!
DEFINITION. The cluster slot (R162, R164, R172 to R174): words enter the load queue or the store queue, and entries
perform in queue order at the vault of a gang member. Multicasts wait in the cluster's buffer for armed registers.
-/
namespace Sys2Proof.Machine

/-! ### Issue -/

/-- Entries that take room in a queue of 32: a mark and a publication take none (R23, R173). -/
def CEntry.counts (e : CEntry) : Bool :=
  match e.kind with
  | .mark _ => false
  | .publish _ _ _ => false
  | _ => true

/-- A full queue stalls (R23, R172). -/
def queueRoom (q : List CEntry) : Except Stop Unit := waitWhile (32 ≤ (q.filter (·.counts)).length) .qfull

/-- An entry of the issuing bundle. -/
def State.entry (s : State) (o : BitVec 3) (k : CKind) (m off n : Nat) : CEntry :=
  { kind := k, member := m, off := off, size := n, issued := s.cycle, bundle := s.core.bundles,
    scope := s.core.ctx.scope, acquire := isAcquire o, release := isRelease o }

/-- An entry at the end of the load queue. -/
def Core.pushLoad (c : Core) (e : CEntry) : Core := { c with qs := { c.qs with loads := c.qs.loads ++ [e] } }
/-- An entry at the end of the store queue. -/
def Core.pushStore (c : Core) (e : CEntry) : Core := { c with qs := { c.qs with stores := c.qs.stores ++ [e] } }

/-- Whether an entry of the store queue reads its bytes: an atomic does. -/
def CKind.reads : CKind → Bool
  | .amo _ _ _ _ _ => true
  | _ => false

/-- RAB is set by every C access that issues (R162). -/
def State.setRab (s : State) : State := s.result 9 1 .rab 1 1 0

/-- A C word issues under its guard (R39). -/
def execC (g : Guard) (act : State → Except Stop State) (s : State) : Next := issueIf 9 (s.core.guardP g) act s

/-- A read of the member's own vault waits for what a TLDX of its task is to bring there (R184). -/
def State.ownBring (s : State) (ca n : Nat) : Except Stop Unit :=
  if ca / vaultSize == s.core.ctl.member then s.core.bringWait (ca % vaultSize) n else .ok ()

/-- A load issues: `extra` is the check that follows those of R162. -/
def State.loadCluster (s : State) (o : BitVec 3) (ca n align : Nat) (k : CKind) (extra : Except Stop Unit) :
    Except Stop State := do
  queueRoom s.core.qs.loads
  s.ownBring ca n
  let (m, off) ← s.checkCluster ca n align
  extra
  return (s.mod fun c => c.pushLoad (s.entry o k m off n)).setRab

/-- A store or AMOC issues, AMOC as a reader (R184). -/
def State.storeCluster (s : State) (o : BitVec 3) (ca n align : Nat) (k : CKind) : Except Stop State := do
  queueRoom s.core.qs.stores
  if k.reads then s.ownBring ca n
  let (m, off) ← s.checkCluster ca n align
  return (s.mod fun c => c.pushStore (s.entry o k m off n)).setRab

/-- LDC (R172). -/
def execLdc (o : BitVec 3) (g : Guard) (bb : BitVec 3) (sz : BitVec 2) (sx : BitVec 1) (d : BitVec 5) (off : BitVec 32)
    (s : State) : Next :=
  execC g (fun s =>
    let n := sizeOf sz.toNat
    s.loadCluster o (s.core.ea bb off.toNat) n n (.ld (s.core.gKey d.toNat) n (sx == 1)) (.ok ())) s

/-- STC (R172): the data is taken from its register at issue. -/
def execStc (o : BitVec 3) (g : Guard) (bb : BitVec 3) (sz : BitVec 2) (r : BitVec 5) (off : BitVec 32) (s : State) :
    Next :=
  execC g (fun s => do
    let n := sizeOf sz.toNat
    let x ← s.core.readG r.toNat
    s.storeCluster o (s.core.ea bb off.toNat) n n (.st (leBytes n x.toNat))) s

/-- VLDC (R172). -/
def execVldc (o : BitVec 3) (g : Guard) (bb : BitVec 3) (d : BitVec 5) (off : BitVec 32) (s : State) : Next :=
  execC g (fun s => s.loadCluster o (s.core.ea bb off.toNat) 128 128 (.vld (s.core.vKey d.toNat)) (.ok ())) s

/-- VSTC (R172). -/
def execVstc (o : BitVec 3) (g : Guard) (bb : BitVec 3) (r : BitVec 5) (off : BitVec 32) (s : State) : Next :=
  execC g (fun s => do
    let x ← s.core.readV r.toNat
    s.storeCluster o (s.core.ea bb off.toNat) 128 128 (.st (leBytes 128 x.toNat))) s

/-- TLDC (R172, R174): its tile register is pending until the tile arrives. -/
def execTldc (o : BitVec 3) (g : Guard) (bb : BitVec 3) (d : BitVec 4) (off : BitVec 32) (s : State) : Next :=
  execC g (fun s =>
    s.loadCluster o (s.core.ea bb off.toNat) 4096 64 (.tld d.toNat) (s.core.writeTileOk d.toNat)) s

/-- Whether an entry is a TLDM that needs a place in the multicast buffer. -/
def CEntry.isMulticast (e : CEntry) : Bool :=
  match e.kind with
  | .tldm _ m => m != 0
  | _ => false

/-- Multicasts that the current core's cluster holds or has queued (R174). -/
def State.multicastCount (s : State) : Nat :=
  (s.dev.sys.multicasts.filter (·.cluster == s.cur / 16)).length +
    ((List.range 16).map fun i => ((s.coreAt (s.cur / 16 * 16 + i)).qs.loads.filter (·.isMulticast)).length).sum

/-- TLDM (R174): a fifth multicast stalls; a set bit at or above the gang size traps; so does the issuer's own register
when it is armed already. -/
def execTldm (o : BitVec 3) (g : Guard) (bb : BitVec 3) (d : BitVec 4) (m : BitVec 5) (off : BitVec 32) (s : State) :
    Next :=
  execC g (fun s => do
    let mask := (← s.core.readG m.toNat).toNat % 2 ^ 16
    waitWhile (mask ≠ 0 && 4 ≤ s.multicastCount) .qfull
    s.loadCluster o (s.core.ea bb off.toNat) 4096 64 (.tldm d.toNat mask) (do
      need (mask / 2 ^ s.core.ctl.size == 0) .crange
      need (!(bitOf mask s.core.ctl.member && s.core.armed d.toNat)) .armhaz)) s

/-- ARM (R174): the mark is set for the next bundle. -/
def execArm (g : Guard) (d : BitVec 4) (s : State) : Next :=
  execC g (fun s => .ok (s.result 9 1 (.arm d.toNat) 1 1 0)) s

/-- AMOC (R169, R172). -/
def execAmoc (o : BitVec 3) (g : Guard) (bb : BitVec 3) (sz : BitVec 1) (aop : BitVec 3) (r d : BitVec 5)
    (off : BitVec 32) (s : State) : Next :=
  execC g (fun s => do
    let n := amoSize sz
    let x ← s.core.readG r.toNat
    let cmp ← s.core.comparand aop d
    s.storeCluster o (s.core.ea bb off.toNat) n n (.amo aop.toNat n x.toNat cmp (s.core.gKey d.toNat))) s

/-! ### Performance -/

/-- The number of a mark. -/
def CEntry.markId (e : CEntry) : Option Nat :=
  match e.kind with
  | .mark i => some i
  | _ => none

/-- A mark at the head of both queues has done its work (R173). -/
def popMarks (loads stores : List CEntry) : List CEntry × List CEntry :=
  match loads, stores with
  | l :: ls, t :: ts =>
    match l.markId, t.markId with
    | some i, some j => if i = j then popMarks ls ts else (l :: ls, t :: ts)
    | _, _ => (l :: ls, t :: ts)
  | ls, ts => (ls, ts)

/-- The queues of the current core with marks that have done their work gone. -/
def Core.settleMarks (c : Core) : Core :=
  let q := popMarks c.qs.loads c.qs.stores
  { c with qs := { c.qs with loads := q.1, stores := q.2 } }

/-- MARK (R173): it enters both queues and never stalls. -/
def execMark (g : Guard) (s : State) : Next :=
  execC g (fun s =>
    let e := s.entry 0 (.mark s.core.bundles) 0 0 0
    .ok (s.mod fun c => ((c.pushLoad e).pushStore e).settleMarks)) s

/-- Whether an entry at the head of its queue may perform: no mark stands there, earlier acquires have performed, and a
release waits for all that is earlier (R164, R173, R260). What performs ahead of a bundle of the vault's own core is an access of
the cycle before, in which the first port came first (R225; log entry 88). An access to a bank that is pending for its task waits until
that is the task's (R302, R305). -/
def State.mayPerform (s : State) (e : CEntry) : Bool :=
  let c := s.coreAt (s.member e.member)
  e.markId.isNone && !(e.size != 0 && c.holds s.core.ctl.task && c.pendingIn e.off e.size) && decide (e.issued < s.cycle) &&
    !s.core.acquirePending e.bundle && (!e.release || s.mayRelease e.bundle e.scope)

/-- A load's or atomic's data on its way: readable 14 cycles after issue at the earliest and in the cycle after it performs (R83,
R225), and while the core is frozen not before it resumes, with the latency that remains (R26, R89). -/
def State.arrives (s : State) (e : CEntry) (d : Dest) (x : Nat) : State :=
  s.mod fun c => c.send { due := max (c.arrival s.cycle) (e.issued + 14), order := e.bundle * 16 + 9, dest := d, value := x,
                          mask := ones 32768, flags := 0, err := none }

/-- DPOISON noted on the issuing core when a C read has met a poisoned line of vault `n` (R376). -/
def State.noteCluster (s : State) (n a size : Nat) : State :=
  if (s.coreAt n).poisoned a size then s.mod fun c => c.note { cause := .dpoison, slot := 9 } else s

/-! ### Barriers (R106) -/

/-- The cores of the current core's gang on which its task has not ended. -/
def State.alive (s : State) : List Nat :=
  s.gang.filter fun n => (s.coreAt n).ctl.task == s.core.ctl.task && (s.coreAt n).ctl.run != .idle

/-- Whether a core's queues are both empty. -/
def Core.drained (c : Core) : Bool := c.qs.loads.isEmpty && c.qs.stores.isEmpty

/-- Whether the members wait at one barrier and every queue has drained: those that have ended count (R106). -/
def State.barrierMet (s : State) : Bool :=
  s.alive.all fun n =>
    let c := s.coreAt n
    c.arrived.isSome && c.pass.isNone && c.barcs == s.core.barcs && c.drained

/-- Once the conditions of a barrier hold, its members pass in the next cycle (R106). -/
def State.tryBarrier (s : State) : State :=
  if s.barrierMet then
    s.alive.foldl (fun s n => s.modAt n fun c => { c with pass := some (s.cycle + 1) }) s
  else s

/-- BARRIER_PASS (R106). -/
def execBarrierPass (core : Nat) (s : State) : Next := onCore core (·.tryBarrier) s

/-- A publication reaches its consumer (R181). -/
def State.publish (s : State) (pm ph n : Nat) : State :=
  let t := s.core.ctl.task
  s.modAt (s.member pm) fun c =>
    if c.ctl.task = t then c.setRing ph { c.ring ph with count := (c.ring ph).count + n } else c

/-- Whether a multicast to a member of the current core's gang is held (R174). -/
def State.multicastHeld (s : State) : Bool := s.dev.sys.multicasts.any fun m => m.members.any s.gang.contains

/-- A member of the gang that has frozen at a point goes on, since a multicast is held: the gang is pre-empted only when none is (R174;
log entry 95). -/
def State.leavePoint (s : State) (n : Nat) : State :=
  match (s.coreAt n).ctl.run with
  | .point at_ =>
    if (s.coreAt n).holds s.core.ctl.task then
      s.modAt n fun c => { c with ctl := { c.ctl with cycle0 := c.ctl.cycle0 + (s.cycle + 1 - at_) } }.thaw at_ (s.cycle + 1)
    else s
  | _ => s

/-- A multicast is held for the members that a mask names (R174). -/
def State.multicast (s : State) (t mask : Nat) (data : TileBits) : State :=
  s.gang.foldl State.leavePoint (s.sys fun k => { k with multicasts := k.multicasts ++
    [⟨s.cur / 16, t, ((List.range 16).filter (bitOf mask)).map s.member, data⟩] })

/-- An entry performs at its target vault (R172, R174, R305). -/
def State.performEntry (s : State) (e : CEntry) : State :=
  let n := s.member e.member
  let a := e.off
  let s := match e.kind with
    | .publish _ _ _ => s
    | .mark _ => s
    | _ => s.guardBanks s.core.ctl.task n (banksOf a e.size)
  let old := (s.coreAt n).vault.num a e.size
  let s := match e.kind with
    | .ld g _ sx => (s.noteCluster n a e.size).arrives e (.gC g) (extended sx e.size old)
    | .vld v => (s.noteCluster n a e.size).arrives e (.vC v) old
    | .tld t => (s.noteCluster n a e.size).arrives e (.tileC t) old
    | .tldm t m =>
      if m = 0 then s
      else (s.noteCluster n a e.size).multicast t m (BitVec.ofNat 32768 old)
    | .st data => s.modAt n (·.store a data)
    | .amo aop w src cmp g =>
      let s := (s.noteCluster n a w).modAt n fun c => c.storeNum a w (amoOf (8 * w) aop old src cmp)
      s.arrives e (.gC g) old
    | .publish pm k ph => s.publish pm ph k
    | .mark _ => s
  if e.acquire then s.acquire e.scope else s

/-- The head of a queue performs, if it may. -/
def State.performHead (s : State) (store : Bool) : State :=
  match (if store then s.core.qs.stores else s.core.qs.loads) with
  | [] => s
  | e :: r =>
    if s.mayPerform e then
      let s := s.mod fun c =>
        { c with qs := if store then { c.qs with stores := r } else { c.qs with loads := r } }
      ((s.performEntry e).mod (·.settleMarks)).tryBarrier
    else s

/-- C_QUEUE_PERFORM (R172, R173). -/
def execCQueuePerform (core : Nat) (store : Bool) (s : State) : Next := onCore core (·.performHead store) s

/-- A core takes its copy of a multicast for register `d` (R174). -/
def Multicast.takes (m : Multicast) (core d : Nat) : Bool := m.t == d && m.members.contains core

/-- The multicasts left when `core` has taken its copy of the first for register `d`. -/
def takeCopy (core d : Nat) : List Multicast → Option TileBits × List Multicast
  | [] => (none, [])
  | m :: r =>
    if m.takes core d then
      let left := m.members.filter (· != core)
      (some m.data, if left.isEmpty then r else { m with members := left } :: r)
    else
      let (x, r') := takeCopy core d r
      (x, m :: r')

/-- A copy of a multicast lands: after what is due in this cycle, since ARM issued after every other word that writes the register
(R16, R174). -/
def State.landCopy (s : State) (d : Nat) (data : TileBits) : State :=
  s.mod fun c =>
    let c := (c.deliverIf (fun x => x == .tile d || x == .tileL d || x == .tileC d || x == .tileFlag d) s.cycle).setTile d data
    { c with eng := { c.eng with armed := c.eng.armed.set false d false } }

/-- MULTICAST_DELIVERY (R174): only while the member's register is armed; a frozen core takes none (R89). Nor does one whose END has issued,
and its copy stays for the next armed register there: DESIGN CHOICE, log entry 119. -/
def execMulticastDelivery (core : Nat) (d : BitVec 4) (s : State) : Next :=
  onCore core (fun s =>
    let (x, left) := takeCopy s.cur d.toNat s.dev.sys.multicasts
    match x with
    | none => s
    | some data =>
      if s.core.armed d.toNat && s.core.ctl.run == .running then
        (s.sys fun m => { m with multicasts := left }).landCopy d.toNat data
      else s) s

end Sys2Proof.Machine
end

