-- ==== Sys2Proof/Machine/Tasks.lean ====
section
/-!
DEFINITION. Task groups, chunks and the distributor (R299), the core a word's task stands on (R105, R193, R305),
completion counters (R193), vault accesses of engines (R305) and the hand-over of banks (R302, R303).
-/
namespace Sys2Proof.Machine

/-! ### Groups and chunks -/

/-- The group numbered `id`. -/
def State.group? (s : State) (id : Nat) : Option Group := s.dev.sched.groups.find? (·.id == id)

/-- A change to the group numbered `id`. -/
def State.modGroup (s : State) (id : Nat) (f : Group → Group) : State :=
  s.sched fun d => { d with groups := d.groups.map fun g => if g.id = id then f g else g }

/-- The size of the next chunk (R299). -/
def Group.chunk (g : Group) : Nat :=
  min g.remaining (max g.minch (ceilDiv g.remaining (2 * g.blocks)))

/-- The distributor hands out a chunk of a group: its first index and its count, or none when none is left (R299). -/
def State.takeChunk (s : State) (id : Nat) : Option (Nat × Nat) × State :=
  match s.group? id with
  | none => (none, s)
  | some g =>
    if g.remaining = 0 then (none, s)
    else (some (g.count - g.remaining, g.chunk), s.modGroup id fun x => { x with remaining := x.remaining - g.chunk })

/-! ### Where a task's words act -/

/-- A change to the context of task `t` for core `n`, wherever it is. -/
def State.modOwner (s : State) (n t : Nat) (f : Core → Core) : State :=
  if (s.coreAt n).holds t then s.modAt n f
  else s.modTask t fun x => { x with contexts := x.contexts.map fun p => if p.1 = n then (n, f p.2) else p }

/-- Whether task `t` stands on core `n` and has not ended there. -/
def State.onCore? (s : State) (n t : Nat) : Bool :=
  (s.coreAt n).holds t && (s.coreAt n).ctl.run != .idle

/-- Whether task `t` is pre-empted (R305). -/
def State.isSaved (s : State) (t : Nat) : Bool :=
  (s.task? t).any fun x => x.state == .saved || x.state == .restoring

/-- Whether task `t` has ended on every member. -/
def State.isOver (s : State) (t : Nat) : Bool := (s.task? t).all (·.state == .ended)

/-- A completion increment of counter `kc` on core `n` for task `t`: held while the task is pre-empted, discarded where
it has ended (R192, R193). -/
def State.increment (s : State) (n kc t : Nat) : State :=
  if s.onCore? n t then
    s.modAt n fun c => { c with regs := { c.regs with k := c.regs.k.set 0 kc (c.kAt kc + 1) } }
  else if s.isSaved t then s.modTask t fun x => { x with held := x.held ++ [(n, kc)] }
  else s

/-! ### Vault accesses of engines -/

/-- Bank `k` of core `n` as task `t` has it saved. -/
def State.savedBank (s : State) (n t k : Nat) : Option SavedBank :=
  match s.task? t with
  | some x => x.banks.find? fun b => b.core == n && b.bank == k
  | none => none

/-- One byte of core `n`'s vault as task `t` has it: in the saved bank where the bank is saved. -/
def State.taskByte (s : State) (n t a : Nat) : Byte :=
  match s.savedBank n t (bankOf a) with
  | some b => b.data.read a
  | none => (s.coreAt n).vault.read a

/-- `k` bytes as an engine working for task `t` reads them from the vault of core `n`. -/
def State.engineRead (s : State) (n t a k : Nat) : List Byte :=
  if (banksOf a k).any fun b => (s.savedBank n t b).isSome then (List.range k).map fun i => s.taskByte n t (a + i)
  else (s.coreAt n).vault.bytes a k

/-- Whether a poisoned line lies in a range of the vault of core `n` as task `t` has it (R376). -/
def State.enginePoisoned (s : State) (n t a k : Nat) : Bool :=
  (linesOf a k).any fun l =>
    match s.savedBank n t (bankOf (64 * l)) with
    | some b => b.poison.contains l
    | none => (s.coreAt n).poison.get false l

/-- Bytes written to the vault without a note for R231. -/
def Core.storeQuiet (c : Core) (a : Nat) (bs : List Byte) : Core := { c.store a bs with undo := c.undo }

/-- Bytes written for task `t` to the vault of core `n`. -/
def State.vaultWrite (s : State) (n t a : Nat) (bs : List Byte) : State :=
  s.modAt n fun c => if c.holds t then c.store a bs else c.storeQuiet a bs

/-- A saved bank with bytes written to it: a line written whole loses its poison (R376). -/
def SavedBank.store (b : SavedBank) (a : Nat) (bs : List Byte) : SavedBank :=
  { b with data := Memory.store b.data a bs, poison := b.poison.filter fun l => !(wholeLines a bs.length).contains l }

/-- Bytes of one bank written where task `t` has that bank: in its save area, or in the vault, where banks retained for other tasks are
saved first (R305; log entry 20). -/
def State.bankWrite (s : State) (n t a : Nat) (bs : List Byte) : State :=
  if bs.isEmpty then s
  else if (s.savedBank n t (bankOf a)).isSome then
    s.modTask t fun x => { x with banks := x.banks.map fun p => if p.core = n && p.bank = bankOf a then p.store a bs else p }
  else (s.guardBanks t n [bankOf a]).vaultWrite n t a bs

/-- What `k` bytes hold before a write for a task that is pre-empted, noted with its context: its next transfers may not see the write yet
(R231). -/
def State.noteUndo (s : State) (n t a k : Nat) : State :=
  if (s.coreAt n).holds t then s
  else s.modOwner n t fun c =>
    { c with undo := (List.range k).foldl (fun u i => (c.bundles, a + i, s.taskByte n t (a + i)) :: u) c.undo }

/-- An engine working for task `t` writes the vault of core `n` (R255, R305): banks retained there for other tasks are
saved first; a bank of the task's own that is saved is written where it is saved (log entry 20). -/
def State.engineWrite (s : State) (n t a : Nat) (bs : List Byte) : State :=
  if bs.isEmpty then s
  else
    let s := s.noteUndo n t a bs.length
    if (banksOf a bs.length).any fun b => (s.savedBank n t b).isSome then
      (banksOf a bs.length).foldl (fun s k =>
        let lo := max a (65536 * k)
        s.bankWrite n t lo ((bs.take (65536 * (k + 1) - a)).drop (lo - a))) s
    else (s.guardBanks t n (banksOf a bs.length)).vaultWrite n t a bs

/-! ### Hand-over of banks -/

/-- The kernel that a core's task runs. -/
def State.kernelOf (s : State) (c : Core) : Option Kernel :=
  match s.dev.code.find c.ctl.object with
  | some o => o.kernels[c.ctl.kernel]?
  | none => none

/-- The parameter block as the launcher writes it (R206): PBSZ bytes, zero past PBLEN. -/
def paramBytes (params : List Byte) (size : Nat) : List Byte :=
  (params.take size) ++ List.replicate (size - params.length) 0

/-- What the launcher writes into a bank for a task on core `c` (R206, R218, R302): vault offset and bytes. -/
def State.imagesFor (s : State) (c : Core) (k : Nat) : List (Nat × List Byte) :=
  match s.kernelOf c with
  | none => []
  | some kn =>
    let params := ((s.group? c.ctl.group).map (·.params)).getD []
    (kn.plan.filter fun e => (banksOf e.off e.len).contains k).filterMap fun e =>
      if e.param then some (e.off, paramBytes params kn.pbsz)
      else if e.image.isEmpty then none
      else some (e.off, e.image)

/-- A vault with bank `k` replaced by saved bytes. -/
def withBank (v : Memory) (k : Nat) (m : Memory) : Memory :=
  m.foldl (fun (v : Memory) (e : Nat × Byte) => v.write e.1 e.2) (List.filter (fun e => bankOf e.1 != k) v)

/-- A saved bank written back, its poison with it. -/
def Core.writeBack (c : Core) (b : SavedBank) : Core :=
  { c with
    vault := withBank c.vault b.bank b.data
    poison := b.poison.foldl (fun p l => p.set false l true) (c.poison.filter fun e => bankOf (64 * e.1) != b.bank) }

/-- Bank `k` of core `n` is the current task's (R302, R305): what the task had saved is written back, or else the
launcher's images are written. -/
def State.grantBank (n : Nat) (s : State) (k : Nat) : State :=
  let c := s.coreAt n
  let t := c.ctl.task
  let s := match s.savedBank n t k with
    | some b =>
      (s.modAt n (·.writeBack b)).modTask t fun x =>
        { x with banks := x.banks.filter fun b => !(b.core == n && b.bank == k) }
    | none => (s.imagesFor c k).foldl (fun (s : State) (e : Nat × List Byte) =>
        s.modAt n (·.storeQuiet e.1 (e.2.take (vaultSize - e.1)))) s
  s.modAt n fun c => { c with ctl := { c.ctl with pendingBanks := c.ctl.pendingBanks &&& ~~~(1#64 <<< k) } }

/-- Every pending bank of core `n` that no earlier task holds any more is granted (R302). -/
def State.settleBanks (s : State) (n : Nat) : State :=
  let c := s.coreAt n
  ((List.range 64).filter fun k => c.ctl.pendingBanks.getLsbD k && !s.heldByOther n c.ctl.task k).foldl
    (State.grantBank n) s

/-- Whether a word in the port is an engine command or another word that still writes its core's vault: it keeps the
banks of its ended task held (R105, R303). -/
def GEntry.keepsBanks (e : GEntry) : Bool :=
  match e.op with
  | .tst _ _ => false
  | .tstx _ _ _ => false
  | .icinv _ _ => false
  | _ => true

/-- Banks that ended tasks hold on core `n` are released once their engine commands there have completed, and pending
banks are then granted (R105, R302, R303). -/
def State.releaseEnded (s : State) (n : Nat) : State :=
  let port := (s.coreAt n).port
  let gone := fun (t : Task) => t.ended.contains n && !(port.any fun e => e.task == t.id && e.keepsBanks)
  (s.sched fun d =>
    { d with tasks := d.tasks.map fun t =>
        if gone t then { t with holding := t.holding.set 0 n 0 } else t }).settleBanks n

end Sys2Proof.Machine
end

