-- ==== Sys2Proof/Machine/Queue.lean ====
section
/-!
DEFINITION. The queue slot (R175 to R182): scale and index pushes, chunks, the random-bits generator and rings; and the
deliveries of scale words, chunks and unit results.
-/
namespace Sys2Proof.Machine

/-- A Q word issues under its guard (R39, R175). -/
def execQ (g : Guard) (act : State → Except Stop State) (s : State) : Next := issueIf 11 (s.core.guardP g) act s

/-! ### Scale words -/

/-- SQOVF when occupancy, outstanding fills and the new words exceed 256 (R176). -/
def scaleRoom (c : Core) (n : Nat) : Except Stop Unit :=
  need (c.qs.scale.length + (c.qs.fills.map (·.words.length)).sum + n ≤ 256) .sqovf

/-- A fill outstanding until its push, which never overtakes an earlier one (R88, R176). -/
def State.fillScales (s : State) (lat : Nat) (ws : List (BitVec 16)) : State :=
  s.mod fun c =>
    let due := c.qs.fills.foldl (fun d f => max d f.due) (s.cycle + lat)
    { c with qs := { c.qs with fills := c.qs.fills ++ [⟨due, c.orderOf 11, ws, false⟩] } }

/-- The words of SLD, each address checked under R161 with alignment 2 (R176). -/
def State.readScales (s : State) : List Nat → Except Stop (List (BitVec 16) × State)
  | [] => .ok ([], s)
  | a :: r => do
    s.checkLocal a 2 2
    let w := BitVec.ofNat 16 (s.core.vault.num a 2)
    let (ws, s) ← State.readScales (s.mod fun c => c.noteRead 11 a 2) r
    return (w :: ws, s)

/-- SLD (R81, R163, R176): the words are read at issue and pushed 4 cycles later. -/
def execSld (g : Guard) (b : BitVec 3) (n : BitVec 8) (o : BitVec 10) (s : State) : Next :=
  execQ g (fun s => do
    s.orderWait 0 .stallld
    let base := s.core.bAt b.toNat + 32 * o.toNat
    let addrs := (List.range (n.toNat + 1)).map fun i => (base + 2 * i) % 2 ^ 32
    s.core.waitEach 2 addrs
    let (ws, s') ← s.readScales addrs
    scaleRoom s.core (n.toNat + 1)
    return s'.fillScales 4 ws) s

/-- SLDL (R176): literal words after those of the X slot, pushed 2 cycles later. -/
def execSldl (g : Guard) (w : BitVec 5) (s : State) : Next :=
  execQ g (fun s => do
    let (ls, s') ← s.literals (w.toNat + 1)
    scaleRoom s.core (32 * (w.toNat + 1))
    return s'.fillScales 2 ((lanesOf 16 (32 * (w.toNat + 1)) (leNat ls.flatten)).map fun x => BitVec.ofNat 16 x)) s

/-- Every fill due by cycle `t` is pushed, in order of issue (R176). -/
def Core.pushScales (c : Core) (t : Nat) : Core :=
  let due := c.qs.fills.filter fun f => f.due ≤ t
  { c with qs := { c.qs with
      scale := c.qs.scale ++ due.flatMap (·.words)
      fills := c.qs.fills.filter fun f => !(f.due ≤ t) } }

/-- SCALE_PUSH (R176). -/
def execScalePush (core : Nat) (s : State) : Next :=
  onCore core (fun s => if s.core.delivers then s.mod (·.pushScales s.cycle) else s) s

/-! ### Indices, chunks and random bits -/

/-- IXP (R177). -/
def execIxp (g : Guard) (v : BitVec 5) (h : BitVec 1) (s : State) : Next :=
  execQ g (fun s => do
    let x ← s.core.readV v.toNat
    need (s.core.qs.addr.length < 64) .aqovf
    let half := BitVec.ofNat 512 (laneOf 512 x.toNat h.toNat)
    return s.mod fun c => { c with qs := { c.qs with addr := c.qs.addr ++ [half] } }) s

/-- The result word of NEXT (R178). -/
def chunkWord : Option (Nat × Nat) → Word64
  | some (first, cnt) => BitVec.ofNat 64 (cnt % 2 ^ 31 * 2 ^ 32 + first)
  | none => BitVec.ofNat 64 (2 ^ 63)

/-- NEXT (R178): the chunk is taken at issue and written 24 cycles later into what g31 names now. -/
def execNextChunk (g : Guard) (s : State) : Next :=
  execQ g (fun s =>
    let (k, s) := s.takeChunk s.core.ctl.group
    .ok (s.mod fun c =>
      { c with qs := { c.qs with nexts := c.qs.nexts ++ [⟨s.cycle + 24, c.orderOf 11, c.gKey 31, chunkWord k⟩] } })) s

/-- The delivery of a NEXT (R178). -/
def NextJob.delivery (j : NextJob) : Delivery :=
  { due := j.due, order := j.order, dest := .g j.g, value := j.value.toNat, mask := ones 64, flags := 0, err := none }

/-- Every NEXT due by cycle `t` writes its register, in its place among what else is due (R16). -/
def Core.landNexts (c : Core) (t : Nat) : Core :=
  let due := c.qs.nexts.filter fun n => n.due ≤ t
  let c := { c with qs := { c.qs with nexts := c.qs.nexts.filter fun n => !(n.due ≤ t) } }
  (due.foldl (fun c n => c.send n.delivery) c).deliver t

/-- NEXT_RESULT (R178). -/
def execNextResult (core : Nat) (s : State) : Next :=
  onCore core (fun s => if s.core.delivers then s.mod (·.landNexts s.cycle) else s) s

/-- RNGK (R179): pops of its own bundle have taken the old head. -/
def execRngk (g : Guard) (k c : BitVec 5) (s : State) : Next :=
  execQ g (fun s => do
    let key ← s.core.readG k.toNat
    let ctr ← s.core.readG c.toNat
    return s.mod fun c => { c with qs := { c.qs with rngKey := key, rngCtr := ctr } }) s

/-! ### Rings -/

/-- Whether a ring configuration word is well formed for a gang of `size` (R180). -/
def ringOk (r : Ring) (size : Nat) : Bool :=
  let w := r.cfg.toNat
  r.cnt != 0 && 2 ≤ r.sz && w / 2 ^ 50 == 0 && !bitOf w 40 && fieldOf w 23 22 == 0 && r.base % 128 == 0 &&
  (r.producer || r.ph == 0) && (r.peer || r.pm == 0) && (!r.peer || r.pm < size) &&
  r.slotAt r.cnt ≤ vaultSize && (!r.producer || r.peer)

/-- RCFG (R180). -/
def execRcfg (g : Guard) (h : BitVec 3) (r : BitVec 5) (s : State) : Next :=
  execQ g (fun s => do
    let w ← s.core.readG r.toNat
    let ring : Ring := { bound := true, cfg := w, slot := 0, elem := 0, count := 0, fill := 0 }
    need (ringOk ring s.core.ctl.size && !s.core.mine.any (·.fills h.toNat)) .ringerr
    return s.mod fun c => c.setRing h.toNat { ring with count := if ring.producer then ring.cnt else 0 }) s

/-- The checks that RWAIT, RADV and RPUB share (R181). -/
def ringUse (r : Ring) (n : BitVec 8) : Except Stop Unit := need (r.bound && n != 0 && n.toNat ≤ r.cnt) .ringerr

/-- RWAIT (R181): slots that its own bundle's pops use up still count as filled (R182). -/
def execRwait (g : Guard) (h : BitVec 3) (n : BitVec 8) (s : State) : Next :=
  execQ g (fun s => do
    ringUse (s.core.ring h.toNat) n
    waitWhile ((s.core.ring h.toNat).count + s.core.ctx.popped.get 0 h.toNat < n.toNat) .stallring
    return s) s

/-- RADV (R181, R182): after the bundle's pops. -/
def execRadv (g : Guard) (h : BitVec 3) (n : BitVec 8) (s : State) : Next :=
  execQ g (fun s => do
    let r := s.core.ring h.toNat
    ringUse r n
    need (!r.producer && n.toNat ≤ r.count) .ringerr
    return s.releaseSlots h.toNat n.toNat) s

/-- Whether a ring is a consumer fitting for a producing member (R181). -/
def Ring.fits (r : Ring) (me : Nat) : Bool := r.bound && !r.producer && r.peer && r.pm == me

/-- RPUB (R181): the slots leave the producer's free ones at issue and are published behind the store queue. -/
def execRpub (g : Guard) (h : BitVec 3) (n : BitVec 8) (s : State) : Next :=
  execQ g (fun s => do
    let r := s.core.ring h.toNat
    ringUse r n
    need (r.producer && n.toNat ≤ r.count) .ringerr
    let peer := s.coreAt (s.member r.pm)
    need (peer.ctl.run != .idle && peer.holds s.core.ctl.task && (peer.ring r.ph).fits s.core.ctl.member) .ringerr
    let e := { s.entry 2 (.publish r.pm n.toNat r.ph) r.pm 0 0 with release := true }
    return s.mod fun c => (c.pushStore e).setRing h.toNat
      { r with slot := (r.slot + n.toNat) % r.cnt, count := r.count - n.toNat }) s

/-! ### Unit results -/

/-- UNIT_RESULT_DELIVERY (R115), with the results of NEXT that are due, each in its place (R16). -/
def execUnitResultDelivery (core : Nat) (s : State) : Next :=
  onCore core (fun s => if s.core.delivers then s.mod (·.landNexts s.cycle) else s) s

end Sys2Proof.Machine
end

