-- ==== Sys2Proof/Machine/Branch.lean ====
section
/-!
DEFINITION. The branch slot (R92 to R110): target buffers and transfers, calls and the register window, loops, the end
of a task, barriers, software traps, control registers, waits and adapters. A bundle's B word acts after its other
words; what it writes to registers is delivered for the next bundle.
-/
namespace Sys2Proof.Machine

/-! ### Common operations -/

/-- A change to the sequencer. -/
def State.seq (s : State) (f : Seq → Seq) : State := s.mod fun c => { c with seq := f c.seq }

/-- A change to what the bundle hands to its commit. -/
def State.ctx (s : State) (f : Ctx → Ctx) : State := s.mod fun c => { c with ctx := f c.ctx }

/-- LPC after the bundle's literal words (R95). -/
def Core.lpcAfter (c : Core) : Word64 := BitVec.ofNat 64 c.literalAt

/-- A g register, by its physical number, written for the next bundle. -/
def State.writeG (s : State) (key x : Nat) : State := s.result 0 1 (.g key) (x % 2 ^ 64) (ones 64) 0

/-- The bundle transfers, with the lines of code that a target buffer has of the target: it prevails over an iteration end (R92,
R93). `cold` where no target buffer has fetched the target's first bundle (R110). -/
def State.goto (s : State) (pc : Word64) (lpc : Option Word64) (lines : Table (Option (BitVec 512)) := []) (cold : Bool := false) :
    State :=
  s.ctx fun k => { k with xfer := some (pc, lpc), lines := lines, cold := cold, prevails := true }

/-- Target buffer `t`, if it has been prepared (R93). -/
def Core.buffer (c : Core) (t : Nat) : Option Target := c.seq.tb.get none t

/-- A prepared buffer that is ready: an unprepared one traps, one not yet ready stalls (R93). -/
def State.ready (s : State) (t : BitVec 2) : Except Stop Target :=
  match s.core.buffer t.toNat with
  | none => .error (.trap .tbempty)
  | some b => if s.cycle < b.ready then .error (.stall .fetchstall) else .ok b

/-- The innermost level opened at the current call depth, among `ls` (R95). -/
def innermostAt (depth : Nat) (ls : List Level) : Option Level := ls.find? (·.depth == depth)

/-- Whether an address lies in a level's body. -/
def Level.inBody (l : Level) (pc : Word64) : Bool := l.start.toNat ≤ pc.toNat && pc.toNat < l.stop.toNat

/-- LOOPESC unless the target lies in the body of the innermost level of the current depth (R95). -/
def escapes (depth : Nat) (ls : List Level) (pc : Word64) : Except Stop Unit :=
  match innermostAt depth ls with
  | some l => need (l.inBody pc) .loopesc
  | none => .ok ()

/-- A transfer through a buffer, with the LOOPESC check against `ls` (R95). -/
def State.transfer (s : State) (t : BitVec 2) (ls : List Level) : Except Stop State := do
  let b ← s.ready t
  escapes s.core.seq.depth ls b.pc
  return s.goto b.pc b.lpc b.code

/-! ### Target buffers and transfers -/

/-- A buffer prepared: ready three cycles later (R93, log entry 21). It takes the target's bundles later. -/
def State.prepare (s : State) (t : BitVec 2) (pc : Nat) (lpc : Option Nat) : State :=
  let b : Target := { pc := BitVec.ofNat 64 (pc % 2 ^ 57), lpc := lpc.map fun x => BitVec.ofNat 64 (x % 2 ^ 57),
                      ready := s.cycle + 3, code := [] }
  s.seq fun q => { q with tb := q.tb.set none t.toNat (some b) }

/-- Whether the bundle at `pc` stands in the current core's bundle buffer (R37). -/
def State.inBuffer (s : State) (pc : Nat) : Bool :=
  match s.codeWords pc 1 with
  | none => false
  | some h =>
    (List.range (bundleLength (leNat h))).all fun i =>
      match s.codeAddr (pc + 4 * i) with
      | some pa => (s.dev.sys.cbuf.get none (lineKey s.cur pa)).isSome
      | none => false

/-- A prepared buffer that is not ready, and whose target's first bundle the code stream unit has yet to fetch, is ready from cycle
`at_` on, and not earlier than before (R93). -/
def State.delayTarget (n at_ : Nat) (s : State) : State :=
  match s.core.seq.tb.get none n with
  | some b =>
    if s.cycle < b.ready && !s.inBuffer b.pc.toNat then
      { s with core := { s.core with seq := { s.core.seq with tb := s.core.seq.tb.set none n (some { b with ready := max b.ready at_ }) } } }
    else s
  | none => s

/-- PREP (R94). -/
def execPrep (t : BitVec 2) (k : BitVec 1) (p l : BitVec 5) (s : State) : Next :=
  issue 0 (fun s => do
    let pc ← s.core.readG p.toNat
    let lpc ← if k = 1 then s.core.readG l.toNat else .ok 0
    need (pc.toNat % 4 == 0 && lpc.toNat % 64 == 0) .illop
    return s.prepare t pc.toNat (if k = 1 then some lpc.toNat else none)) s

/-- PREPI (R94): the LPC is taken as before the bundle's own consumption. -/
def execPrepi (t : BitVec 2) (k : BitVec 1) (p : BitVec 13) (l : BitVec 10) (s : State) : Next :=
  issue 0 (fun s =>
    let pc := wrapTo 57 (s.core.ctx.pc.toNat + 4 * signedOf 13 p.toNat)
    let lpc := wrapTo 57 (s.core.seq.lpc.toNat + 64 * signedOf 10 l.toNat)
    .ok (s.prepare t pc (if k = 1 then some lpc else none))) s

/-- BR (R95). -/
def execBr (t : BitVec 2) (s : State) : Next := issue 0 (fun s => s.transfer t s.core.seq.levels) s

/-- BRP (R95). -/
def execBrp (t : BitVec 2) (i : BitVec 1) (p : BitVec 4) (s : State) : Next :=
  issueIf 0 (s.core.pAt p.toNat != (i == 1)) (fun s => s.transfer t s.core.seq.levels) s

/-- BRV (R95, R96). -/
def execBrv (t : BitVec 2) (i : BitVec 1) (q l : BitVec 3) (s : State) : Next :=
  issue 0 (fun s =>
    let n := 2 ^ l.toNat
    let x := (s.core.qAt q.toNat).toNat % 2 ^ n
    if x = (if i = 1 then 0 else ones n) then s.transfer t s.core.seq.levels
    else do
      need (x == 0 || x == ones n) .nonuniform
      return s) s

/-! ### Calls and the register window -/

/-- Whether a call from this depth needs a group that still holds an older frame (R99). -/
def Seq.needsSpill (q : Seq) : Bool := 14 + q.spilled ≤ q.depth

/-- The first windowed register of the group that logical group `j` lies in (R99). -/
def groupKey (j : Nat) : Nat := 16 + j % 16 * 8

/-- The 64 bytes of a group. -/
def Core.groupBytes (c : Core) (j : Nat) : List Byte :=
  (List.range 8).flatMap fun i => leBytes 8 (c.gAt (groupKey j + i)).toNat

/-- What a call checks before it commits (R97, R99): depth 31, and room in the stack region. -/
def Core.callRoom (c : Core) : Except Stop Unit := do
  need (c.seq.depth < 31) .stkovf
  if c.seq.needsSpill then need ((c.ctl.stack.map fun r => decide (c.seq.spillPtr + 64 ≤ r.2)).getD false) .stkovf

/-- The place of a frame in the stack region (R99). -/
def Core.frameAt (c : Core) (p : Nat) : Nat := (c.ctl.stack.map (·.1)).getD 0 + p

/-- A spill or fill of the window at place `p` of the stack region stalls `n` cycles (R99), once earlier acquires have performed (R164;
log entry 76), its bank is no longer pending (R302), and what a TLDX is to bring there has come (R184). -/
def State.windowWait (s : State) (moves : Bool) (p n : Nat) (e : PerfEvent) : Except Stop Unit := do
  waitWhile (moves && s.core.acquirePending s.core.bundles) e
  if moves then
    waitWhile (s.core.pendingIn (s.core.frameAt p) 64) .stallld
    s.core.bringWait (s.core.frameAt p) 64
    s.holdFor n e

/-- The oldest group spilled to the stack region (R99). -/
def Core.spillGroup (c : Core) : Core :=
  match c.ctl.stack with
  | none => c
  | some (off, _) =>
    let k := c.store (off + c.seq.spillPtr) (c.groupBytes c.seq.spilled)
    { k with seq := { k.seq with spilled := k.seq.spilled + 1, spillPtr := k.seq.spillPtr + 64 } }

/-- The last group spilled filled from the stack region, for the next bundle (R77, R99): what lands on it in the same cycle from an
earlier bundle gives way to it (R16). -/
def State.fillGroup (s : State) : State :=
  match s.core.ctl.stack with
  | none => s
  | some (off, _) =>
    let q := s.core.seq
    let p := q.spillPtr - 64
    let x := s.core.vault.num (off + p) 64
    ((List.range 8).foldl (fun s i => s.writeG (groupKey (q.spilled - 1) + i) (laneOf 64 x i)) s).seq fun q =>
      { q with spilled := q.spilled - 1, spillPtr := p }

/-- The window slides to a callee (R97, R110): its g24 to g29 read zero, g31 and g30 hold the link. -/
def State.slide (s : State) (g31 g30 : Nat) : State :=
  let s := if s.core.seq.needsSpill then s.mod (·.spillGroup) else s
  let base := groupKey (s.core.seq.depth + 2)
  let s := (List.range 6).foldl (fun s i => s.writeG (base + i) 0) s
  let s := (s.writeG (base + 6) g30).writeG (base + 7) g31
  (s.seq fun q => { q with depth := q.depth + 1 }).result 0 1 .rrb 0 (ones 4) 0

/-- The g30 of a link (R97, R110): LPC, adapter tenant and the caller's RRB. -/
def linkWord (lpc tenant rrb : Nat) : Nat := lpc % 2 ^ 57 + tenant * 2 ^ 57 + rrb * 2 ^ 60

/-- LMNEST inside a LOOPM level (R97). -/
def notInLoopm (c : Core) : Except Stop Unit := need (!c.seq.inLoopm) .lmnest

/-- CALL (R97, R99): what a transfer through the buffer needs comes first (R81, R111). -/
def execCall (t : BitVec 2) (s : State) : Next :=
  issue 0 (fun s => do
    let c := s.core
    let b ← s.ready t
    notInLoopm c
    c.callRoom
    s.windowWait c.seq.needsSpill c.seq.spillPtr 2 .winspill
    return (s.slide c.ctx.next.toNat (linkWord c.literalAt 0 c.seq.rrb.toNat)).goto b.pc b.lpc b.code) s

/-! ### Adapters -/

/-- The next tenant above `k` that is present and has a segment for a hook, with the segment's address and literal
position (R110, R323). -/
def State.nextSegment (s : State) (hook k : Nat) : Option (Nat × Nat × Nat) :=
  match s.codeVersion with
  | none => none
  | some v =>
    ((List.range 8).filter (k < ·)).findSome? fun t =>
      if s.core.ctl.tenants.getLsbD (t - 1) then
        (v.hooks.find? fun h => h.1 == s.core.ctl.kernel && h.2.1 == hook && h.2.2.1 == t).map
          fun h => (t, h.2.2.2.1, h.2.2.2.2)
      else none

/-- An adapter call of the ADAPT bundle at `pc` (R110). -/
def State.callSegment (s : State) (pc lpc rrb : Nat) (seg : Nat × Nat × Nat) : State :=
  let s := s.slide pc (linkWord lpc seg.1 rrb)
  (s.seq fun q => { q with adapter := BitVec.ofNat 3 seg.1 }).goto (BitVec.ofNat 64 seg.2.1)
    (some (BitVec.ofNat 64 seg.2.2)) [] true

/-- ADAPT (R110), with the checks of a call before its own (R81, R111). -/
def execAdapt (h : BitVec 10) (s : State) : Next :=
  issue 0 (fun s => do
    let c := s.core
    notInLoopm c
    match s.nextSegment h.toNat 0 with
    | none =>
      need (c.seq.adapter == 0) .adaptnest
      return s
    | some seg =>
      c.callRoom
      need (c.seq.adapter == 0) .adaptnest
      s.windowWait c.seq.needsSpill c.seq.spillPtr 2 .winspill
      return s.callSegment c.ctx.pc.toNat c.literalAt c.seq.rrb.toNat seg) s

/-- The length in bytes and the hook of the ADAPT bundle at `pc` (R28, R98); no hook where no ADAPT stands there. -/
def State.adaptAt (s : State) (pc : Nat) : Option (Nat × Option Nat) :=
  match s.codeWords pc 1 with
  | none => none
  | some h =>
    let n := bundleLength (leNat h)
    match s.codeWords pc n with
    | none => none
    | some bs =>
      match decodeBundle bs with
      | .ok b =>
        match b.words.find? (·.1 == 0) with
        | some w =>
          match decodeSlot 0 w.2.1 with
          | .ok (.adapt k) => some (4 * n, some k.toNat)
          | _ => some (4 * n, none)
        | none => some (4 * n, none)
      | .error _ => some (4 * n, none)

/-- The window slides back (R98, R99): a spilled group of the caller is filled. -/
def State.slideBack (s : State) (rrb : Nat) : State :=
  let q := s.core.seq
  let s := if q.depth - 1 < q.spilled then s.fillGroup else s
  (s.seq fun q => { q with depth := q.depth - 1 }).result 0 1 .rrb rrb (ones 4) 0

/-- RET continues an ADAPT with its next tenant, or goes on behind it (R98, R110; log entry 22). -/
def State.resumeAdapt (s : State) (pc g30 : Nat) : Except Stop State := do
  let rrb := fieldOf g30 63 60
  let s := s.slideBack rrb
  match s.adaptAt pc with
  | none => .error (.fault (bundleFault pc))
  | some (len, hook) =>
    match hook.bind fun h => s.nextSegment h (fieldOf g30 59 57) with
    | some seg => return s.callSegment pc (g30 % 2 ^ 57) rrb seg
    | none =>
      let s := s.seq fun q => { q with adapter := 0 }
      return s.goto (BitVec.ofNat 64 ((pc + len) % 2 ^ 57)) (some (BitVec.ofNat 64 (g30 % 2 ^ 57))) [] true

/-- RET (R98, R99). -/
def execRet (k : BitVec 1) (s : State) : Next :=
  issue 0 (fun s => do
    let c := s.core
    let g31 ← c.readG 31
    let g30 ← c.readG 30
    need (c.seq.depth != 0) .winuf
    need (innermostAt c.seq.depth c.seq.levels).isNone .loopesc
    need (g31.toNat % 4 == 0) .illop
    s.windowWait (decide (c.seq.depth - 1 < c.seq.spilled)) (c.seq.spillPtr - 64) 5 .winfill
    if fieldOf g30.toNat 59 57 ≠ 0 then s.resumeAdapt (g31.toNat % 2 ^ 57) g30.toNat
    else
      let lpc := if k = 1 then none else some (BitVec.ofNat 64 (g30.toNat % 2 ^ 57))
      return (s.slideBack (fieldOf g30.toNat 63 60)).goto (BitVec.ofNat 64 (g31.toNat % 2 ^ 57)) lpc [] true) s

/-! ### Loops -/

/-- A LOOP or LOOPM takes the pending strides and clears them (R102). -/
def State.takeStrides (s : State) : State := s.seq fun q => { q with pending := [] }

/-- A body of `len` words is skipped once the bundle has committed (R100; log entry 86). -/
def State.skipBody (s : State) (len : Nat) : State := s.takeStrides.ctx fun k => { k with skip := len }

/-- A level pushed over the body of `len` words that follows the bundle (R100, R103). -/
def State.openLevel (s : State) (modulo : Bool) (n : Nat) (stages : BitVec 4) (len : Nat) : State :=
  let start := s.core.ctx.next
  let l : Level :=
    { modulo := modulo, index := 0, count := BitVec.ofNat 32 n, stages := stages, start := start,
      stop := BitVec.ofNat 64 ((start.toNat + 4 * len) % 2 ^ 57), depth := s.core.seq.depth,
      strides := s.core.seq.pending, issued := false }
  (s.takeStrides.seq fun q => { q with levels := l :: q.levels }).ctx fun k => { k with opened := true }

/-- LOOP with its count (R97, R100). -/
def State.loop (s : State) (n len : Nat) : Except Stop State := do
  notInLoopm s.core
  if n = 0 then return s.skipBody len
  else do
    need (s.core.seq.levels.length < 6) .loopdeep
    return s.openLevel false n 0 len

/-- LOOPM with its count (R97, R103). -/
def State.loopm (s : State) (stages : BitVec 4) (n len : Nat) : Except Stop State := do
  notInLoopm s.core
  if n = 0 then return s.skipBody len
  else do
    need (s.core.seq.levels.length < 6) .loopdeep
    let s := s.openLevel true n stages len
    let s := ((s.result 0 1 .lc (n - 1) (ones 32) 0).result 0 1 .sv 1 (ones 16) 0).result 0 1 .rrb 0 (ones 4) 0
    return (List.range 8).foldl (fun s i => s.result 0 1 (.p (8 + i)) (bit (i == 0)) 1 0) s

/-- LOOP_IMM (R100). -/
def execLoopImm (c : BitVec 13) (l : BitVec 12) (s : State) : Next := issue 0 (·.loop c.toNat l.toNat) s

/-- LOOP_REG (R100). -/
def execLoopReg (r : BitVec 5) (l : BitVec 12) (s : State) : Next :=
  issue 0 (fun s => do s.loop ((← s.core.readG r.toNat).toNat % 2 ^ 32) l.toNat) s

/-- LOOPM_IMM (R103). -/
def execLoopmImm (st : BitVec 4) (c : BitVec 9) (l : BitVec 12) (s : State) : Next :=
  issue 0 (·.loopm st c.toNat l.toNat) s

/-- LOOPM_REG (R103). -/
def execLoopmReg (st : BitVec 4) (g : BitVec 5) (l : BitVec 12) (s : State) : Next :=
  issue 0 (fun s => do s.loopm st ((← s.core.readG g.toNat).toNat % 2 ^ 32) l.toNat) s

/-- The `v` innermost levels left, and a transfer (R104). -/
def State.exitLevels (s : State) (t : BitVec 2) (v : Nat) : Except Stop State := do
  let q := s.core.seq
  let t ← s.transfer t (q.levels.drop v)
  need (v ≤ (q.levels.filter (·.depth == q.depth)).length) .loopesc
  return t.seq fun q => { q with levels := q.levels.drop v }

/-- EXITL offers no pre-emptible point, taken or not (R251). -/
def State.exitl (s : State) : State := s.ctx fun k => { k with noPoint := true }

/-- EXITL (R104). -/
def execExitl (t : BitVec 2) (v : BitVec 3) (s : State) : Next := issue 0 (fun s => s.exitl.exitLevels t v.toNat) s

/-- EXITL_COND (R104). -/
def execExitlCond (t : BitVec 2) (i : BitVec 1) (p : BitVec 4) (v : BitVec 3) (s : State) : Next :=
  issue 0 (fun s =>
    if s.core.pAt p.toNat != (i == 1) then s.exitl.exitLevels t v.toNat else .ok s.exitl) s

/-- A stride written to the pending set (R102). -/
def State.setStride (s : State) (b : BitVec 3) (x : Nat) : State :=
  s.seq fun q => { q with pending := q.pending.set 0 b.toNat (BitVec.ofNat 32 x) }

/-- SETSTR_IMM (R102). -/
def execSetstrImm (b : BitVec 3) (x : BitVec 22) (s : State) : Next :=
  issue 0 (fun s => .ok (s.setStride b (wrapTo 32 (signedOf 22 x.toNat)))) s

/-- SETSTR_REG (R102). -/
def execSetstrReg (b : BitVec 3) (g : BitVec 5) (s : State) : Next :=
  issue 0 (fun s => do return s.setStride b (← s.core.readG g.toNat).toNat) s

/-! ### Ending, barriers and traps -/

/-- The task issues nothing more on this core (R92, R105). -/
def State.finish (s : State) : State :=
  (s.mod fun c => { c with ctl := { c.ctl with run := .ending, draining := true } }).ctx fun k => { k with prevails := true }

/-- END (R105). -/
def execEndTask (s : State) : Next :=
  issue 0 (fun s => do
    need (!s.core.ctl.rab) .exitbar
    return s.finish) s

/-- ENDH (R105): the banks of the mask are released at once. -/
def execEndHold (m : BitVec 5) (s : State) : Next :=
  issue 0 (fun s => do
    let mask ← s.core.readG m.toNat
    need (!s.core.ctl.rab) .exitbar
    return s.finish.result 0 1 .owned (s.core.ctl.owned &&& ~~~mask).toNat (ones 64) 0) s

/-- Whether the queues were empty before the bundle (R77, R106). -/
def Core.drainedBefore (c : Core) : Bool := !c.qs.loads.any (·.before c.bundles) && !c.qs.stores.any (·.before c.bundles)

/-- BARC (R106): alone in its gang and with queues that were empty before its bundle it issues without waiting; otherwise it waits
for its pass. -/
def execBarc (s : State) : Next :=
  issue 0 (fun s =>
    let c := s.core
    let go := match c.pass with
      | some t => decide (t ≤ s.cycle)
      | none => c.ctl.size == 1 && c.arrived.isNone && c.drainedBefore
    if go then
      .ok ((s.mod fun c => { c with barcs := c.barcs + 1, arrived := none, pass := none }).result 0 1 .rab 0 1 0)
    else .error .arrive) s

/-- A boundary trap that follows the bundle (R107). -/
def State.softTrap (s : State) (k : Cause) (code : BitVec 16) : State :=
  s.mod fun c => c.note { cause := k, slot := 15, code := code.toNat }

/-- TRAP (R107). -/
def execTrap (c : BitVec 16) (s : State) : Next := issue 0 (fun s => .ok (s.softTrap .trap c)) s

/-- BRK (R107). -/
def execBrk (c : BitVec 16) (s : State) : Next := issue 0 (fun s => .ok (s.softTrap .brk c)) s

/-! ### Control registers -/

/-- ccr.digest (R208). -/
def Digest.word (d : Digest) : Nat := d.absorbed.length % 2 ^ 32 + d.emits % 2 ^ 16 * 2 ^ 32

/-- ccr register `n` as a bundle reads it (R22, R108). -/
def State.ccr (s : State) (n : Nat) : Nat :=
  let c := s.core
  let k := c.ctl
  match n with
  | 0 => bit k.rab + 2 * bit (1 < k.size) + 4 * bit k.resumed
  | 1 => k.cause.toNat
  | 2 => s.cycle - k.cycle0
  | 3 => s.cur
  | 4 => k.member + k.size * 2 ^ 4
  | 5 => k.group % 2 ^ 32 + k.queue * 2 ^ 32
  | 6 => k.tenants.toNat + k.asid.toNat * 2 ^ 16
  | 7 => k.fpflags.toNat
  | 8 => bit k.preempt + k.bound * 2 ^ 32
  | _ => c.ctx.digest0.toNat

/-- CCRR (R108). -/
def execCcrr (d : BitVec 5) (c : BitVec 4) (s : State) : Next :=
  issue 0 (fun s => .ok (s.writeG (s.core.gKey d.toNat) (s.ccr c.toNat))) s

/-- CCRW (R22, R58, R108): fpflags alone is writable, and the flags delivered in the same cycle are joined to what is written. -/
def execCcrw (r : BitVec 5) (c : BitVec 4) (s : State) : Next :=
  issue 0 (fun s => do
    let x ← s.core.readG r.toNat
    if c = 7 then return s.result 0 1 .fpflags (x.toNat ||| s.core.flagsOf s.cycle) (ones 64) 0 else return s) s

/-! ### Waiting for events -/

/-- A handle with a filled slot that the core has not consumed (R109). -/
def Ring.hasSlot (r : Ring) : Bool := r.bound && !r.producer && r.count != 0

/-- Handles that meet a condition, as a mask. -/
def Core.handleMask (c : Core) (p : Ring → Bool) : BitVec 8 :=
  BitVec.ofNat 8 (((List.range 8).map fun i => bit (p (c.ring i)) * 2 ^ i).sum)

/-- WAITE (R109): handles are bound and filled as before the bundle (R77). -/
def execWaite (r : BitVec 8) (e : BitVec 1) (d t : BitVec 5) (s : State) : Next :=
  issue 0 (fun s => do
    let c := s.core
    let lim ← c.readG t.toNat
    need (r &&& ~~~c.ctx.bound0 == 0) .illop
    let hit := (r &&& c.ctx.filled0).toNat + (if e = 1 && c.ctl.preempt then 256 else 0)
    if hit = 0 then s.holdFor (min (lim.toNat % 2 ^ 32) 65536) .stallring
    return s.writeG (c.gKey d.toNat) hit) s

/-! ### Idle bundles -/

/-- IDLE (R31): no bundle issues for `c + 1` cycles; what is in flight goes on. FL selects the iterations on which it issues,
as for every bundle (R33). -/
def execIdle (_ : BitVec 2) (c : BitVec 6) (s : State) : Next :=
  .next (s.mod fun k => { k with wake := s.cycle + c.toNat + 1 })

end Sys2Proof.Machine
end

