-- ==== Sys2Proof/Machine/Port.lean ====
section
/-!
DEFINITION. The global slot: words that enter the port (R184 to R191, R207), words that hold their bundle (R194 to
R196), GATH (R198) and the provenance context (R208). Engine commands and arrivals follow in their own files.
-/
namespace Sys2Proof.Machine

/-- A G word issues under its guard (R39). -/
def execG (g : Guard) (act : State → Except Stop State) (s : State) : Next := issueIf 10 (s.core.guardP g) act s

/-- The port holds 32 words, those of the gather engine among them; a further one stalls (R184, R198). -/
def portRoom (c : Core) : Except Stop Unit := waitWhile (32 ≤ c.port.length + c.qs.gathers.length) .qfull

/-- Whether a word is a transfer, a translation or an atomic, which a fault of an earlier one holds in the port (R239). -/
def GOp.isTransfer : GOp → Bool
  | .cmd _ _ _ => false
  | .icinv _ _ => false
  | .emit _ _ _ _ => false
  | _ => true

/-- Whether a transfer of the core's task that has faulted stands in the port (R239). -/
def Core.behindFault (c : Core) : Bool := c.port.any fun f => f.task == c.ctl.task && f.op.isTransfer && f.faulted.isSome

/-- A word of the issuing bundle as it enters the port; one that enters behind a faulted transfer is kept in order (R239). -/
def State.word (s : State) (o : BitVec 3) (op : GOp) (kcore kc : Nat) : GEntry :=
  { op := op, task := s.core.ctl.task, asid := s.core.ctl.asid.toNat, order := s.core.orderOf 10, bundle := s.core.bundles, issued := s.cycle,
    scope := s.core.ctx.scope, acquire := isAcquire o, release := isRelease o, kcore := kcore, kc := kc, faulted := none,
    kept := s.core.behindFault, progress := [], failed := false, bad := false, started := false, got := none, finished := none }

/-- A word at the end of the port. -/
def State.enter (s : State) (e : GEntry) : State := s.mod fun c => { c with port := c.port ++ [e] }

/-! ### Tensor descriptors (R228 to R231) -/

/-- A 32-bit field of a descriptor by its place in words. -/
def descWord (d : BitVec 512) (i : Nat) : Nat := laneOf 32 d.toNat i
/-- IND. -/
def descInd (d : BitVec 512) : Nat := fieldOf (descWord d 0) 30 28
/-- TID. -/
def descTid (d : BitVec 512) : Nat := fieldOf (descWord d 0) 23 0
/-- POL: the event policy. -/
def descEvent (d : BitVec 512) : Bool := bitOf (descWord d 0) 27
/-- E0 to E3. -/
def descExtent (d : BitVec 512) (k : Nat) : Nat := descWord d (2 + k)
/-- S0 to S3. -/
def descStride (d : BitVec 512) (k : Nat) : Nat := descWord d (6 + k)
/-- ITAB. -/
def descTable (d : BitVec 512) : Nat := descWord d 12
/-- ITLEN. -/
def descTableLen (d : BitVec 512) : Nat := descWord d 13

/-- The checks of a descriptor itself (R230). -/
def descOk (d : BitVec 512) : Bool :=
  let w := descWord d 0
  bitOf w 31 && descInd d ≤ 4 && fieldOf w 26 24 == 0 && (List.range 4).all (fun k => descExtent d k != 0) &&
  (descInd d == 0 || descTableLen d != 0) && descTable d % 4 == 0 && descTable d < vaultSize &&
  descTable d + 4 * descTableLen d ≤ vaultSize && descWord d 14 == 0 && descWord d 15 == 0

/-- The bound of coordinate `k` before any lookup (R229). -/
def descLimit (d : BitVec 512) (k : Nat) : Nat := if descInd d = k + 1 then descTableLen d else descExtent d k

/-- The coordinates after the indirect lookup, whose table is read from `m` (R229). -/
def descLookup (d : BitVec 512) (m : Memory) (cs : List Nat) : List Nat :=
  (List.range 4).map fun k =>
    let c := cs.getD k 0
    if descInd d = k + 1 then m.num (descTable d + 4 * c) 4 else c

/-- The tile that coordinates select (R229). -/
def descTile (d : BitVec 512) (cs : List Nat) : Nat :=
  (descWord d 1 + ((List.range 4).map fun k => cs.getD k 0 * descStride d k).sum) % 2 ^ 32

/-- The tile that a transfer names, with the checks of R230: the indirect table is read from `m`. -/
def State.tileRef (s : State) (d : BitVec 512) (m : Memory) (cs : List Nat) : Except Stop TileRef := do
  need (descOk d && (List.range 4).all (fun k => cs.getD k 0 < descLimit d k)) .descerr
  let xs := descLookup d m cs
  return { asid := s.core.ctl.asid.toNat, tid := descTid d, tile := descTile d xs, coords := xs, event := descEvent d,
           bad := !((List.range 4).all fun k => xs.getD k 0 < descExtent d k) }

/-- The coordinates of a TLD or TST (R186). -/
def Core.coords (c : Core) (d : BitVec 512) (ba bb : BitVec 3) (off : BitVec 32) : List Nat :=
  [c.ea ba off.toNat, c.bAt bb.toNat, descWord d 10, descWord d 11]

/-- td`n`. -/
def Core.tdAt (c : Core) (n : Nat) : BitVec 512 := c.regs.td.get 0 n

/-- The tile reference of a word that names td`n` (R186, R229, R231). An indirect table in a pending bank is waited for: it is read with
the launcher's images in place (R231, R302). -/
def State.tensor (s : State) (td : BitVec 5) (ba bb : BitVec 3) (off : BitVec 32) : Except Stop TileRef := do
  let d := s.core.tdAt td.toNat
  waitWhile (descOk d && descInd d != 0 && s.core.pendingIn (descTable d) (4 * descTableLen d)) .stallld
  s.tileRef d s.core.vaultBefore (s.core.coords d ba bb off)

/-- A ring fit for tiles: a consumer with PK = 0 and room for 32 elements (R187, R201). -/
def Ring.takesTiles (r : Ring) : Bool := r.bound && !r.producer && !r.peer && 33 ≤ r.sz

/-- A ring whose slots lie in a pending bank is waited for (R302). -/
def ringWait (c : Core) (r : Ring) : Except Stop Unit := waitWhile (r.bound && c.pendingIn r.base r.bytes) .stallld

/-- TLD (R186, R188). -/
def execTld (o : BitVec 3) (g : Guard) (td : BitVec 5) (d : BitVec 4) (ba bb : BitVec 3) (off : BitVec 32) (s : State) :
    Next :=
  execG g (fun s => do
    portRoom s.core
    let r ← s.tensor td ba bb off
    need (!s.core.armed d.toNat) .armhaz
    return s.enter (s.word o (.tldTile d.toNat r) s.cur 0)) s

/-- TLD_RING (R187). -/
def execTldRing (o : BitVec 3) (g : Guard) (td : BitVec 5) (h ba bb : BitVec 3) (off : BitVec 32) (s : State) : Next :=
  execG g (fun s => do
    portRoom s.core
    ringWait s.core (s.core.ring h.toNat)
    let r ← s.tensor td ba bb off
    need (s.core.ring h.toNat).takesTiles .ringerr
    return s.enter (s.word o (.tldRing h.toNat r) s.cur 0)) s

/-- TST (R186): the tile is read at issue. -/
def execTst (o : BitVec 3) (g : Guard) (td : BitVec 5) (t : BitVec 4) (ba bb : BitVec 3) (off : BitVec 32) (s : State) :
    Next :=
  execG g (fun s => do
    portRoom s.core
    let x ← s.core.readTile t.toNat
    let r ← s.tensor td ba bb off
    return s.enter (s.word o (.tst r x.data) s.cur 0)) s

/-! ### Translations and flat transfers -/

/-- The word that an XLATE leaves in xt (R189). A read grants what the page allows (log entry 24). -/
def xtWord (asid va : Nat) (p : Mapping) : BitVec 128 :=
  BitVec.ofNat 128 (va % 2 ^ 57 + fieldOf p.pte 51 16 * 2 ^ 64 + 2 ^ 100 + fieldOf p.pte 7 6 * 2 ^ 102 + p.size * 2 ^ 104 +
    2 ^ 106 + bit (pteAllows p.pte true) * 2 ^ 107 + asid % 2 ^ 16 * 2 ^ 112)

/-- xt`n`. -/
def Core.xtAt (c : Core) (n : Nat) : Nat := (c.regs.xt.get 0 n).toNat

/-- VA of a translation. -/
def xtVa (x : Nat) : Nat := fieldOf x 56 0
/-- Bytes of the region a translation covers. -/
def xtSize (x : Nat) : Nat := mapBytes (fieldOf x 105 104)
/-- V. -/
def xtValid (x : Nat) : Bool := bitOf x 100
/-- The physical address that a translation gives for a VA of its region. -/
def xtPhys (x va : Nat) : Nat := fieldOf x 99 64 * 65536 + va % xtSize x

/-- Whether an XLATE into xt`n` is in the port. -/
def Core.xtPending (c : Core) (n : Nat) : Bool :=
  c.mine.any fun e =>
    match e.op with
    | .xlate x _ _ => x == n
    | _ => false

/-- XLATE (R189). -/
def execXlate (g : Guard) (xt : BitVec 3) (v : BitVec 5) (acc : BitVec 2) (s : State) : Next :=
  execG g (fun s => do
    portRoom s.core
    let va ← s.core.readG v.toNat
    return s.enter (s.word 0 (.xlate xt.toNat (va.toNat % 2 ^ 57) acc.toNat) s.cur 0)) s

/-- Steps 1 to 3 of R190 for `n` bytes at xt.VA + off: the VA and, while the translation is valid, the physical
address. A pending translation is waited for (R189). -/
def State.flat (s : State) (xt : BitVec 3) (off : BitVec 32) (n align : Nat) (write : Bool) (aligned : Bool) :
    Except Stop (Nat × Option Nat) := do
  waitWhile (s.core.xtPending xt.toNat) .stallg
  let x := s.core.xtAt xt.toNat
  need (x != 0) .xtinv
  let va := xtVa x + off.toNat
  need (va / xtSize x == xtVa x / xtSize x && (va + n - 1) / xtSize x == xtVa x / xtSize x && bitOf x (if write then 107 else 106)) .xtrange
  need (va % align == 0 && aligned) .valign
  return (va, if xtValid x then some (xtPhys x va) else none)

/-- TLDX (R190). -/
def execTldx (o : BitVec 3) (g : Guard) (xt bb ln : BitVec 3) (off : BitVec 32) (s : State) : Next :=
  execG g (fun s => do
    portRoom s.core
    let n := 64 * 2 ^ ln.toNat
    let dst := s.core.bAt bb.toNat
    s.core.bankWait dst n
    let (va, pa) ← s.flat xt off n 64 false (dst % 64 == 0)
    s.checkVault dst n 64
    return s.enter (s.word o (.tldx va pa n dst) s.cur 0)) s

/-- TSTX (R164, R190): the vault is read at issue, once earlier acquires have performed; its checks follow its stalls (R81). -/
def execTstx (o : BitVec 3) (g : Guard) (xt bb ln : BitVec 3) (off : BitVec 32) (s : State) : Next :=
  execG g (fun s => do
    portRoom s.core
    let n := 64 * 2 ^ ln.toNat
    let src := s.core.bAt bb.toNat
    s.orderWait 0 .stallg
    s.core.bringWait src n
    s.core.bankWait src n
    let (va, pa) ← s.flat xt off n 64 true (src % 64 == 0)
    s.checkLocal src n 64
    let s := s.mod fun c => c.noteRead 10 src n
    return s.enter (s.word o (.tstx va pa (s.core.vault.bytes src n)) s.cur 0)) s

/-- AMOG (R191). -/
def execAmog (o : BitVec 3) (g : Guard) (xt : BitVec 3) (sz : BitVec 1) (aop : BitVec 3) (r d : BitVec 5)
    (off : BitVec 32) (s : State) : Next :=
  execG g (fun s => do
    portRoom s.core
    let n := amoSize sz
    let x ← s.core.readG r.toNat
    let cmp ← s.core.comparand aop d
    let (va, pa) ← s.flat xt off n n true true
    return s.enter (s.word o (.amog va pa aop.toNat n x.toNat cmp (s.core.gKey d.toNat)) s.cur 0)) s

/-! ### Words that hold their bundle -/

/-- FENCE (R195, R263). -/
def execFence (g : Guard) (s : State) : Next :=
  execG g (fun s => do
    portRoom s.core
    let sc := s.core.ctx.scope
    waitWhile (!s.mayRelease s.core.bundles sc) .stallg
    return s.acquire sc) s

/-- CWAIT (R194). -/
def execCwait (o : BitVec 3) (g : Guard) (kc : BitVec 4) (v : BitVec 5) (s : State) : Next :=
  execG g (fun s => do
    portRoom s.core
    let x ← s.core.readG v.toNat
    let k := s.core.kAt kc.toNat
    waitWhile (2 ^ 31 ≤ (k - BitVec.ofNat 32 x.toNat).toNat) .stallg
    return s.orderAfter o) s

/-! ### GATH, ICINV and the provenance context -/

/-- GATH (R198). -/
def execGath (g : Guard) (b : BitVec 5) (es : BitVec 2) (n : BitVec 6) (s : State) : Next :=
  execG g (fun s => do
    portRoom s.core
    let base ← s.core.readG b.toNat
    let job : GatherJob := { base := base.toNat % 2 ^ 57, size := sizeOf es.toNat, left := n.toNat + 1, order := s.core.orderOf 10,
                             bundle := s.core.bundles, kept := s.core.behindFault, faulted := none, failed := false }
    return s.mod fun c => { c with qs := { c.qs with gathers := c.qs.gathers ++ [job] } }) s

/-- ICINV (R207). -/
def execIcinv (g : Guard) (a l : BitVec 5) (kc : BitVec 4) (s : State) : Next :=
  execG g (fun s => do
    portRoom s.core
    let va ← s.core.readG a.toNat
    let len ← s.core.readG l.toNat
    return s.enter (s.word 0 (.icinv (va.toNat % 2 ^ 57) len.toNat) s.cur kc.toNat)) s

/-- The digest of the code page that holds the bundle's header word, as the loader keeps it (R208, R313). -/
def State.pageDigest (s : State) : BitVec 256 :=
  match s.codeVersion with
  | some v => ((v.page s.core.ctx.pc.toNat).map (·.2)).getD 0
  | none => 0

/-- What an absorb form absorbs after its form byte (R208). -/
def State.absorbData (s : State) (f : BitVec 3) (r : BitVec 5) : Except Stop (List Byte) :=
  match f.toNat with
  | 0 => do return leBytes 8 (← s.core.readG r.toNat).toNat
  | 1 => do return leBytes 128 (← s.core.readV r.toNat).toNat
  | 2 => .ok (leBytes 16 (s.core.qAt r.toNat).toNat)
  | 3 => .ok (leBytes 2 (ofLanes 1 ((List.range 16).map fun i => bit (s.core.pAt i))))
  | _ => .ok (leBytes 32 s.pageDigest.toNat)

/-- The provenance context changed. -/
def State.prov (s : State) (f : Digest → Digest) : State :=
  s.mod fun c => { c with ctl := { c.ctl with digest := f c.ctl.digest } }

/-- DGST_ABSORB (R208). -/
def execDgstAbsorb (g : Guard) (f : BitVec 3) (r : BitVec 5) (s : State) : Next :=
  execG g (fun s => do
    portRoom s.core
    let d ← s.absorbData f r
    return s.prov fun p => { p with absorbed := p.absorbed ++ BitVec.ofNat 8 f.toNat :: d }) s

/-- DGST_EMIT (R208, R391): the digest, and what its record says, are those at issue. -/
def execDgstEmit (g : Guard) (bb : BitVec 3) (kc : BitVec 4) (off : BitVec 32) (s : State) : Next :=
  execG g (fun s => do
    portRoom s.core
    let a := s.core.ea bb off.toNat
    s.checkLocal a 32 32
    let p := s.core.ctl.digest
    let s := s.prov fun p => { p with emits := p.emits + 1 }
    return s.enter (s.word 0 (.emit (digest256 p.absorbed) a p.absorbed.length (p.emits + 1)) s.cur kc.toNat)) s

/-- DGST_RESET (R208). -/
def execDgstReset (g : Guard) (s : State) : Next :=
  execG g (fun s => do
    portRoom s.core
    return s.prov fun p => { p with absorbed := [] }) s

end Sys2Proof.Machine
end

