-- ==== Sys2Proof/Machine/Engine.lean ====
section
/-!
DEFINITION. What arrivals and engine commands share: the words of the port by place (R184), the task they work for
(R105, R193, R305), faults of words (R90, R239), reads and writes through the die's port (R257, R264, R360), and the
completion of a word.
-/
namespace Sys2Proof.Machine

/-! ### Words of the port -/

/-- Whether two entries are the same word. -/
def GEntry.same (a b : GEntry) : Bool := a.order == b.order && a.task == b.task

/-- What reads memory for a core without a word in its port: the gather engine (`n` is 0), or WAITM (1). -/
def readerWord (c : Core) (n : Nat) : GEntry :=
  { op := .cmd .cpy 0 0, task := c.ctl.task, asid := c.ctl.asid.toNat, order := n, bundle := 0, issued := 0, scope := 0,
    acquire := false, release := false, kcore := 0, kc := 0, faulted := none, kept := false, progress := [], failed := false, bad := false,
    started := false, got := none, finished := none }

/-- One number for a word of a core: its task and its place in the order of issue. -/
def GEntry.key (e : GEntry) : Nat := e.task * 2 ^ 64 + e.order

/-- An entry of the current core's port replaced. -/
def State.updateEntry (s : State) (e : GEntry) : State :=
  s.mod fun c => { c with port := c.port.map fun x => if x.same e then e else x }

/-- A word leaves the port: its acquire takes effect, and banks of an ended task may pass on (R105, R164, R303). -/
def State.retire (s : State) (e : GEntry) : State :=
  let s := s.mod fun c => { c with port := c.port.filter fun x => !x.same e }
  (if e.acquire then s.acquire e.scope else s).releaseEnded s.cur

/-- The registers of task `t` on the current core, with the words in its port. -/
def State.view (s : State) (t : Nat) : Core :=
  match s.ownerCore s.cur t with
  | some c => { c with port := s.core.port }
  | none => { Core.blank with port := s.core.port, ctl := { Ctl.idle with task := t } }

/-- Whether a word has had its effect, though it still waits in the port. -/
def GEntry.performed (e : GEntry) : Bool := e.finished.isSome || (e.got.isSome && e.op.isTransfer)

/-- Whether a GATH that a fault has kept, of an earlier bundle than a word that it has kept too, has pushed index vectors to read
(R239). -/
def State.behindGather (s : State) (e : GEntry) : Bool :=
  e.task == s.core.ctl.task && !s.core.qs.addr.isEmpty && s.core.qs.gathers.any fun j => j.kept && j.order < e.order

/-- Whether nothing that a fault has kept stands before a word that the fault has kept too (R239). A kept word that waits in the port for
room or for partners holds those behind it back too: DESIGN CHOICE, log entry 122. -/
def State.inTurn (s : State) (e : GEntry) : Bool :=
  !e.kept || (!s.behindGather e &&
    s.core.port.all fun f => f.task != e.task || !f.kept || e.order ≤ f.order || f.performed)

/-- Whether the ordering qualifiers, and a fault before it, let a word read or perform (R164, R185, R239, R260). -/
def State.wordOrdered (s : State) (e : GEntry) : Bool :=
  let v := s.view e.task
  s.inTurn e && !v.acquirePending e.bundle && (!e.release || s.mayReleaseOf v e.bundle e.scope)

/-- The task's data errors and faults that a word raises, kept with its registers until its next boundary (R90, R198,
R376); an ended core takes none. -/
def State.raise (s : State) (t : Nat) (i : TrapInfo) : State :=
  if s.onCore? s.cur t || s.isSaved t then s.modOwner s.cur t (·.note i) else s

/-- DPOISON raised to a word's task (R187, R376). -/
def State.poisonTask (s : State) (e : GEntry) : State := s.raise e.task { cause := .dpoison, slot := 10 }

/-- Whether work on a word has begun. -/
def GEntry.begun (e : GEntry) : Bool := e.performed || e.started || !e.progress.isEmpty

/-- A transfer meets a fault and waits in the port for its service, with the words of its task behind it (R90, R239). A command behind it
that has begun runs on: DESIGN CHOICE, log entry 121. -/
def State.faultWord (s : State) (e : GEntry) (i : TrapInfo) : State :=
  let keep := fun (x : GEntry) =>
    if x.same e then { e with faulted := some i, kept := true }
    else if x.task == e.task && e.order < x.order && !x.begun then { x with kept := true }
    else x
  let hold := fun (j : GatherJob) => if e.task == s.core.ctl.task && e.order < j.order then { j with kept := true } else j
  (s.mod fun c => { c with port := c.port.map keep, qs := { c.qs with gathers := c.qs.gathers.map hold } }).raise e.task
    { i with port := some e.order }

/-- A result on its way to a register of the task (R184): it lands among what else lands in the next cycle, by the order of issue
(R16), and while the core is frozen not before it resumes (R89). -/
def State.receive (s : State) (e : GEntry) (d : Dest) (x : Nat) : State :=
  s.modOwner s.cur e.task fun c =>
    c.send { due := c.arrival s.cycle, order := e.order, dest := d, value := x, mask := ones 32768, flags := 0, err := none }

/-! ### Bytes of global memory for a word -/

/-- The lines that a peer's range of bytes lies in, as one range. -/
def peerRange (a n : Nat) : Nat × Nat := (a / 64 * 64, (a + n + 63) / 64 * 64 - a / 64 * 64)

/-- What an RDRESP has brought at address `a` for reader `key` of core `core`. -/
def Fabric.broughtFor (f : Fabric) (core key a : Nat) : Option Byte :=
  (f.arrived.find? fun p => p.core == core && p.order == key && p.addr ≤ a && a < p.addr + p.data.length).bind fun p =>
    p.data[a - p.addr]?

/-- Whether a peer has answered a read of reader `key` of core `core` with an error (R361). -/
def Fabric.refused (f : Fabric) (core key : Nat) : Bool := f.arrived.any fun p => p.core == core && p.order == key && p.bad

/-- What has been brought for a reader is used up. -/
def Fabric.forgetFor (f : Fabric) (core key : Nat) : Fabric :=
  { f with arrived := f.arrived.filter fun p => !(p.core == core && p.order == key) }

/-- What an RDRESP has brought for a word at address `a`. -/
def State.broughtByte (s : State) (e : GEntry) (a : Nat) : Option Byte := s.dev.fabric.broughtFor s.cur e.key a

/-- Whether every byte of the pieces is there to read: bytes of a peer must have been brought, and a place behind a link
must be reachable (R349, R360). -/
def State.brought (s : State) (e : GEntry) (l : List (Nat × Nat)) : Bool :=
  l.all fun p =>
    if isPeer p.1 then (List.range p.2).all fun i => (s.broughtByte e (p.1 + i)).isSome else s.reachable p.1

/-- Whether a peer answered a read of the word with an error, or a link or the host failed it (R349, R361). -/
def State.readFailed (s : State) (e : GEntry) : Bool :=
  e.failed || s.dev.fabric.refused s.cur e.key

/-- The bytes of pieces as a word reads them: zero where the place that holds them has failed (R349). -/
def State.pieceBytes (s : State) (e : GEntry) (buffered : Bool) (l : List (Nat × Nat)) : List Byte :=
  l.flatMap fun p =>
    if e.failed && !(p.1 < hbmEnd) then List.replicate p.2 0
    else if isPeer p.1 then (List.range p.2).map fun i => (s.broughtByte e (p.1 + i)).getD 0
    else s.dev.sys.bytes (dieOf s.cur) buffered p.1 p.2

/-- The copies that a read of pieces leaves behind (R257, R348); only a core's own transfer reads through the remote
read buffer. -/
def State.leaveCopies (s : State) (buffered : Bool) (l : List (Nat × Nat)) : State :=
  s.sys fun m => l.foldl (fun (m : MemSys) (p : Nat × Nat) =>
    (if buffered then m.afterRead (dieOf s.cur) p.1 p.2 else m).holdHost (dieOf s.cur) p.1 p.2) m

/-- The copies of what an engine has read at the homes are replaced in its die's read buffer, so that what its reader learns from it is not
older there (R257, R258, R261). -/
def State.dropRead (s : State) (l : List (Nat × Nat)) : State :=
  s.sys fun m => l.foldl (fun (m : MemSys) p => m.dropCopies (dieOf s.cur) p.1 p.2) m

/-- A release at die scope or above orders what a command has read (R259, R261). -/
def State.readFor (s : State) (e : GEntry) (l : List (Nat × Nat)) : State := if 2 ≤ e.scope then s.dropRead l else s

/-- Bytes that a peer has brought for a word are used up with it. -/
def State.forget (s : State) (e : GEntry) : State :=
  { s with dev := { s.dev with fabric := s.dev.fabric.forgetFor s.cur e.key } }

/-! ### Packets to peers (R358 to R361) -/

/-- A change to the fabric. -/
def State.fabric (s : State) (f : Fabric → Fabric) : State := { s with dev := { s.dev with fabric := f s.dev.fabric } }

/-- The slice of the peer range that an address lies in (R360). -/
def sliceOf (a : Nat) : Nat := (a - 0x6000000000000) / 2 ^ 40

/-- The open connection to the peer of a slice. -/
def Fabric.connTo (f : Fabric) (peer : Nat) : Option Conn := f.conns.find? fun c => c.peer == peer && c.up

/-- A connection replaced. -/
def Fabric.setConn (f : Fabric) (c : Conn) : Fabric :=
  { f with conns := f.conns.map fun x => if x.id = c.id then c else x }

/-- Room for another packet: at most 256 unacknowledged, and the window (R358, R359). -/
def Conn.room (c : Conn) : Bool := c.unacked.length < min 256 c.window

/-- FLG.ACKREQ: on every packet that takes a SEQ, since each is acknowledged (R358, R359; log entry 98). -/
def ackReq : BitVec 4 := 1

/-- A packet sent on a connection: it takes the next SEQ and stays until acknowledged (R359). -/
def Fabric.send (f : Fabric) (c : Conn) (type addr : Nat) (tag : Word32) (len : Nat) (payload : List Byte) : Fabric :=
  let p : OutPacket := { conn := c.id, type := type, seq := c.txSeq, ackSeq := c.rxNext, flg := ackReq, addr := addr, tag := tag,
                         len := len, payload := payload, sends := 1 }
  { f.setConn { c with txSeq := c.txSeq + 1, unacked := c.unacked ++ [p] } with wire := f.wire ++ [p] }

/-- Whether sequence number `a` lies before `b` (R358). -/
def seqBefore (a b : Word32) : Bool := a != b && (b - a).toNat < 2 ^ 31

/-- COLL packets that wait for room leave while there is some, in order for each peer (R359, R361). -/
def Fabric.pump (f : Fabric) : Fabric :=
  f.outbox.foldl (fun (f : Fabric) x =>
    match f.connTo x.1 with
    | some k =>
      if k.room && !(f.outbox.any (·.1 == x.1)) then f.send k 6 0 x.2.1 x.2.2.length x.2.2 else { f with outbox := f.outbox ++ [x] }
    | none => { f with outbox := f.outbox ++ [x] }) { f with outbox := [] }

/-- READs of `n` peer bytes from `a` on sent for reader `key` of core `core` where none is outstanding: one for each 8,192 bytes at
most (R361). -/
def State.ask (s : State) (core key a n : Nat) : State :=
  let r := peerRange a n
  (List.range (ceilDiv r.2 8192)).foldl (fun s i =>
    let b := r.1 + 8192 * i
    match s.dev.fabric.connTo (sliceOf a) with
    | none => s
    | some c =>
      if (c.readsOut.any fun x => x.2.1 == core && x.2.2.1 == key && x.2.2.2 == b) || !c.room then s
      else
        let c' := { c with readsOut := c.readsOut ++ [(c.nextTag, core, key, b)], nextTag := c.nextTag + 1 }
        s.fabric fun f => f.send c' 3 (b % 2 ^ 40) c.nextTag (min 8192 (r.2 - 8192 * i)) []) s

/-- Reads of the peer bytes among pieces sent for a word, each behind the writes to its lines that the die's port still holds (R256,
R360). -/
def State.askPeers (s : State) (e : GEntry) (l : List (Nat × Nat)) : State :=
  l.foldl (fun (s : State) (p : Nat × Nat) =>
    let r := peerRange p.1 p.2
    if isPeer p.1 && !(s.dev.sys.wbuf.any fun w => w.die == dieOf s.cur && w.touches r.1 r.2) then s.ask s.cur e.key p.1 p.2
    else s) s

/-! ### Flat accesses of a word -/

/-- How an engine's work ends short of completing: nothing to do yet, with the state it leaves; a fault at an address,
with what had been done; or a status with CODE and RES. -/
inductive EStop where
  | wait (s : State)
  | fault (i : TrapInfo) (s : State)
  | code (n res : Nat) (s : State)

/-- The work of an engine. -/
abbrev EngineM := Except EStop

/-- A flat fault at an address. -/
def flatFault (k : Cause) (va rem : Nat) : TrapInfo := { cause := k, slot := 10, va := va, rem := rem }

/-- The pieces of `n` bytes at `va` in a word's address space (R189, R193). -/
def State.enginePieces (s : State) (e : GEntry) (write : Bool) (va n : Nat) : EngineM (List (Nat × Nat) × State) :=
  match s.range e.asid write va n with
  | .ok r => .ok r
  | .error (k, v, s) => .error (.fault (flatFault k v (va + n - v)) s)

/-- `n` bytes at `va` as an engine reads them: POISON for poisoned data, and for a read under way that has failed, whatever has become
of its mapping (R209, R257, R349, R362, R376). -/
def State.engineBytes (s : State) (e : GEntry) (va n : Nat) : EngineM (List Byte × State) := do
  if s.readFailed e then .error (.code 6 0 s)
  let (l, s) ← s.enginePieces e false va n
  if !s.brought e l then .error (.wait (s.askPeers e l))
  if s.dev.sys.piecesBad l then .error (.code 6 0 s)
  return (s.pieceBytes e false l, (s.leaveCopies false l).readFor e l)

/-- A little-endian number of `n` bytes at `va`. -/
def State.engineNum (s : State) (e : GEntry) (va n : Nat) : EngineM (Nat × State) := do
  let (b, s) ← s.engineBytes e va n
  return (leNat b, s)

/-- Bytes that an engine writes at `va`, through its die's port (R256). -/
def State.engineStore (s : State) (e : GEntry) (va : Nat) (bs : List Byte) : EngineM State := do
  let (l, s) ← s.enginePieces e true va bs.length
  return s.flatWrite (dieOf s.cur) e.task l bs

/-- `n` bytes of the own vault as an engine reads them; a poisoned line ends the command with POISON (R209, R376). -/
def State.engineVault (s : State) (e : GEntry) (a n : Nat) : EngineM (List Byte) :=
  if s.enginePoisoned s.cur e.task a n then .error (.code 6 0 s) else .ok (s.engineRead s.cur e.task a n)

/-! ### Command blocks -/

/-- Byte field of `n` bytes at `at_` of a block. -/
def blkField (b : BitVec 512) (at_ n : Nat) : Nat := fieldOf b.toNat (8 * (at_ + n) - 1) (8 * at_)

/-- Whether bytes `from_` to 55 of a block are zero. -/
def blkZero (b : BitVec 512) (from_ : Nat) : Bool := fieldOf b.toNat 447 (8 * from_) == 0

/-- Whether an own-vault offset of a block is aligned and its area lies within the vault (R192). -/
def blkArea (off align n : Nat) : Bool := off % align == 0 && off + n ≤ vaultSize

/-- The areas of the own vault that the fields of a command's block name (R192). -/
def blockAreas (k : CmdKind) (b : BitVec 512) : List (Nat × Nat) :=
  let off := fun i => blkField b i 4
  let fl := blkField b 20 1
  let coll := if blkField b 8 1 = 6 then [] else
    [(off 12, 4 * off 20), (off 16, 4 * off 20 * (if blkField b 8 1 = 4 then blkField b 4 2 else 1))]
  let span := blkField b 20 2 * blkField b 8 1
  match k with
  | .cpy => (if bitOf fl 0 then [(blkField b 0 8, off 16)] else []) ++ (if bitOf fl 1 then [(blkField b 8 8, off 16)] else [])
  | .kapp => [(off 12, 512), (off 16, 512)]
  | .pmatch => [(off 16, 8 * min (blkField b 20 2) (off 8 / 16))]
  | .pins => [(off 16, 8 * blkField b 22 2)]
  | .prel => [(off 0, 8 * blkField b 4 2)]
  | .blend => [(off 12, span), (off 16, span)]
  | .coll => coll
  | .asn => [(off 0, 256 * blkField b 16 2), (off 4, 128), (off 8, 2 * blkField b 16 2), (off 12, 4 * blkField b 18 1)]
  | .launch => [(off 36, blkField b 34 2)] ++ (if blkField b 33 1 = 0 then [] else [(off 40, 112)])
  | .decant => [(off 0, 64), (off 4, 16 * blkField b 8 1)]

/-- Whether a command's engine waits for a bank of those areas that is still pending for its task: it reads no byte there before the
earlier task has written its last, and writes none before that (R192, R302, R303). -/
def State.areaWait (s : State) (e : GEntry) : Bool :=
  match e.op with
  | .cmd k _ b =>
    let c := s.view e.task
    ((blockAreas k b).flatMap fun a => banksOf a.1 a.2).any fun n => c.ctl.pendingBanks.getLsbD n &&
      (s.onCore? s.cur e.task || s.isSaved e.task || s.heldByOther s.cur e.task n)
  | _ => false

/-- Whether a command may be worked on: ordered, and its areas granted. -/
def State.cmdReady (s : State) (e : GEntry) : Bool := s.wordOrdered e && !s.areaWait e

/-- The status word of a command (R192). -/
def statusWord (code res : Nat) : Nat := code + 256 * (res % 2 ^ 56)

/-- What a command leaves in the own vault, in order. -/
def State.writeOut (s : State) (e : GEntry) (out : List (Nat × List Byte)) : State :=
  out.foldl (fun (s : State) (w : Nat × List Byte) => s.engineWrite s.cur e.task w.1 w.2) s

/-- Flags of an engine join those of the issuing task (R202). -/
def State.joinTaskFlags (s : State) (e : GEntry) (f : Nat) : State :=
  if f = 0 then s
  else if s.onCore? s.cur e.task || s.isSaved e.task then s.modOwner s.cur e.task (·.addFlags s.cycle f) else s

/-- The command's block and counter are served (R192, R260): outputs and the status word are written, the counter is
incremented and the word leaves the port. -/
def State.finishCommand (s : State) (e : GEntry) (d : Done) : State :=
  let s := (s.writeOut e d.out).joinTaskFlags e d.flags
  let s := match e.op with
    | .cmd _ at_ _ => s.engineWrite s.cur e.task (at_ + 56) (leBytes 8 (statusWord d.code d.res))
    | _ => s
  ((s.increment e.kcore e.kc e.task).forget e).retire e

/-- A command whose work is done completes once its writes are performed at its scope (R260, R264). For a LAUNCH that is its counter, and
its group is in its queues before (R296): DESIGN CHOICE, log entry 126. -/
def State.tryFinish (s : State) (e : GEntry) : State :=
  match e.finished with
  | none => s
  | some d => if wideScope e.scope && !s.dev.sys.drained (dieOf s.cur) then s else s.finishCommand e d

/-- A command's work is done. -/
def State.settleCommand (s : State) (e : GEntry) (d : Done) : State :=
  let e := { e with finished := some d, faulted := none }
  (s.updateEntry e).tryFinish e

/-- A command that leaves nothing but its status. -/
def Done.plain (code res : Nat) : Done := ⟨code, res, [], 0⟩

/-- RES where the spec gives the command none for its status: a free value. DESIGN CHOICE, log entry 25. -/
def GEntry.anyRes (e : GEntry) : Nat := Config.unstatedRes e.key

/-- The entry as the state has it now. -/
def State.current (s : State) (e : GEntry) : GEntry := (s.core.port.find? (·.same e)).getD e

/-- What becomes of a command after its engine has worked. -/
def afterWork (e : GEntry) (r : EngineM (State × Done)) : State :=
  match r with
  | .ok (s, d) => s.settleCommand (s.current e) d
  | .error (.wait s) => s
  | .error (.fault i s) => s.updateEntry { s.current e with faulted := some i }
  | .error (.code n res s) => s.settleCommand (s.current e) (Done.plain n res)

end Sys2Proof.Machine
end

