-- ==== Sys2Proof/Machine/Arrivals.lean ====
section
/-!
DEFINITION. Transfers, translations and atomics perform (R186 to R191, R239, R240), the gather engine (R198), and fills of
ring slots (R187, R193, R197, R201, R234).
-/
namespace Sys2Proof.Machine

/-! ### The order of a core's transfers -/

/-- The tile that a transfer names. -/
def GOp.tileRef? : GOp → Option TileRef
  | .tldTile _ r => some r
  | .tldRing _ r => some r
  | .tst r _ => some r
  | _ => none

/-- The flat range that a transfer names: VA, bytes, and the physical address it was issued with. -/
def GOp.flatRange : GOp → Option (Nat × Nat × Option Nat)
  | .tldx va pa n _ => some (va, n, pa)
  | .tstx va pa d => some (va, d.length, pa)
  | .amog va pa _ n _ _ _ => some (va, n, pa)
  | _ => none

/-- The physical bytes a transfer moves, as its translation stands now. -/
def State.spanOf (s : State) (e : GEntry) : List (Nat × Nat) :=
  match e.op.tileRef?, e.op.flatRange with
  | some r, _ =>
    match s.lookup r.asid r.tid r.tile with
    | .ok t => if bitOf t.bits 1 then [(t.addr, 4096)] else []
    | .error _ => []
  | none, some (_, n, some pa) => [(pa, n)]
  | none, some (va, n, none) =>
    match s.range e.asid false va n with
    | .ok (l, _) => l
    | .error _ => []
  | none, none => []

/-- Whether two transfers name the same tile or overlapping virtual addresses. -/
def GOp.sameName (a b : GOp) : Bool :=
  match a.tileRef?, b.tileRef?, a.flatRange, b.flatRange with
  | some r, some q, _, _ => r.asid == q.asid && r.tid == q.tid && r.tile == q.tile
  | none, none, some (u, n, _), some (v, m, _) => u < v + m && v < u + n
  | _, _, _, _ => false

/-- Whether the global bytes of two transfers overlap (R188). -/
def State.overlap (s : State) (e f : GEntry) : Bool :=
  e.op.sameName f.op || (s.spanOf e).any fun p => (s.spanOf f).any fun q => p.1 < q.1 + q.2 && q.1 < p.1 + p.2

/-- Whether two words fill one ring, whose slots are published in program order (R187). -/
def sameRing (a b : GOp) : Bool :=
  match a, b with
  | .tldRing h _, .tldRing k _ => h == k
  | _, _ => false

/-- Whether two words translate into one xt register. -/
def sameXt (a b : GOp) : Bool :=
  match a, b with
  | .xlate x _ _, .xlate y _ _ => x == y
  | _, _ => false

/-- Whether an earlier transfer of the task that has yet to perform holds a transfer back (R188). -/
def State.heldBy (s : State) (e f : GEntry) : Bool :=
  f.task == e.task && f.op.isTransfer && f.got.isNone && (sameXt e.op f.op || s.overlap e f)

/-- Whether the entry of the tile that a transfer names is being changed by a write of its die (R265). -/
def State.entryArriving (s : State) (o : GOp) : Bool :=
  (o.tileRef?.map fun r => s.dev.sys.arriving (dieOf s.cur) (s.entryPlace r.asid r.tid r.tile)).getD false

/-- Whether the transfer at a place of the port may perform. -/
def State.mayTransfer (s : State) (ix : Nat) (e : GEntry) : Bool :=
  e.op.isTransfer && !s.entryArriving e.op && e.faulted.isNone && s.wordOrdered e && !((s.core.port.take ix).any (s.heldBy e))

/-! ### Tiles -/

/-- What the record of a tensor fault reports (R344). -/
def tileFault (k : Cause) (r : TileRef) (rem : Nat) : TrapInfo :=
  { cause := k, slot := 10, tensor := true, tid := r.tid, tile := r.tile, coords := r.coords, rem := rem }

/-- The tile-table entry that a transfer reaches: TCOORD before the lookup, then TDIR, TCOORD and TRANS (R229, R338). -/
def State.reach (s : State) (r : TileRef) : Except TrapInfo TileEntry :=
  if r.bad then .error (tileFault .tcoord r 4096)
  else
    match s.lookup r.asid r.tid r.tile with
    | .ok e => .ok e
    | .error k => .error (tileFault k r 4096)

/-- Whether a tile is poisoned (R338, R376). -/
def TileEntry.poisoned (t : TileEntry) : Bool := bitOf t.bits 4

/-- A TLD into a tile register delivers (R186, R187). -/
def State.arriveTile (s : State) (e : GEntry) (t : Nat) (r : TileRef) : State :=
  match s.reach r with
  | .error i => s.faultWord e i
  | .ok x =>
    if !x.here then s.faultWord e (tileFault .trans r 4096)
    else
      let (data, _, m) := s.dev.sys.readTile (dieOf s.cur) x
      let s := (s.sys fun _ => m).receive e (.tileL t) (leNat data)
      (if x.poisoned then s.poisonTask e else s).retire e

/-- A TST writes its tile (R186, R237). -/
def State.storeTile (s : State) (e : GEntry) (r : TileRef) (data : TileBits) : State :=
  match s.reach r with
  | .error i => s.faultWord e i
  | .ok x =>
    if !bitOf x.bits 6 || bitOf x.bits 7 then s.faultWord e (tileFault .tperm r 4096)
    else if !x.here then s.faultWord e (tileFault .trans r 4096)
    else (s.sys fun m => m.write (dieOf s.cur) e.task x.addr (leBytes 4096 data.toNat) [x.mark true]).retire e

/-! ### Flat transfers -/

/-- The pieces of a flat transfer: those of its translation while it stands, else those of a fresh walk. The first write
through a translation that lacks D walks again (R189, R341), and bytes of a block beyond its tier's range fault (R350). -/
def State.flatPieces (s : State) (e : GEntry) (write : Bool) (va n : Nat) (pa : Option Nat) :
    Except (TrapInfo × State) (List (Nat × Nat) × State) :=
  let fresh := match s.range e.asid write va n with
    | .ok r => .ok r
    | .error (k, v, t) => .error (flatFault k v (va + n - v), t)
  let stands := fun (a : Nat) => if (s.tier a).isSome then .ok ([(a, n)], s) else .error (flatFault .trans va n, s)
  match pa, s.space e.asid with
  | some a, some sp =>
    match walkFrom s.dev.sys (va % 2 ^ 57) walkLevels sp.l0 with
    | .ok p => if write && !bitOf p.pte 5 then fresh else stands a
    | .error _ => stands a
  | some a, none => stands a
  | none, _ => fresh

/-- A TLDX delivers into the vault (R190). A read under way that has failed is delivered zeroed, though its mapping is gone (R349,
R362). -/
def State.arriveFlat (s : State) (e : GEntry) (va n dst : Nat) (pa : Option Nat) : State :=
  match s.flatPieces e false va n pa with
  | .error (i, s) =>
    if s.readFailed e then ((s.engineWrite s.cur e.task dst (List.replicate n 0)).poisonTask e).forget e |>.retire e
    else s.faultWord e i
  | .ok (l, s) =>
    if !s.brought e l && !s.readFailed e then s.askPeers e l
    else
      let data := s.pieceBytes e true l
      let bad := s.dev.sys.piecesBad l || s.readFailed e || e.bad
      let s := (s.leaveCopies true l).engineWrite s.cur e.task dst data
      (if bad then s.poisonTask e else s).forget e |>.retire e

/-- The first line of a TLDX arrives, and the others later: nothing makes it one step (R190, R255, R283). -/
def State.arriveLine (s : State) (e : GEntry) (va n dst : Nat) (pa : Option Nat) : State :=
  match s.flatPieces e false va 64 pa with
  | .error _ => s
  | .ok (l, t) =>
    if !t.brought e l || t.readFailed e || l.any (fun p => isPeer p.1) then s
    else
      let data := t.pieceBytes e true l
      let e' := { e with op := .tldx (va + 64) (pa.map (· + 64)) (n - 64) (dst + 64), bad := e.bad || t.dev.sys.piecesBad l }
      ((t.leaveCopies true l).engineWrite t.cur e.task dst data).updateEntry e'

/-- The first line of a TSTX is written, and the others later (R190, R283). -/
def State.storeLine (s : State) (e : GEntry) (va : Nat) (pa : Option Nat) (data : List Byte) : State :=
  match s.flatPieces e true va 64 pa with
  | .error _ => s
  | .ok (l, t) =>
    (t.flatWrite (dieOf t.cur) e.task l (data.take 64)).updateEntry
      { e with op := .tstx (va + 64) (pa.map (· + 64)) (data.drop 64) }

/-- A TSTX writes global memory (R190, R237). -/
def State.storeFlat (s : State) (e : GEntry) (va : Nat) (pa : Option Nat) (data : List Byte) : State :=
  match s.flatPieces e true va data.length pa with
  | .error (i, s) => s.faultWord e i
  | .ok (l, s) => (s.flatWrite (dieOf s.cur) e.task l data).retire e

/-- Whether a tier serves no atomics (R191). -/
def State.noAtomics (s : State) (a : Nat) : Bool := !(s.tier a == some 0 || s.tier a == some 1)

/-- An atomic performs at the home of its bytes (R191): what its own die's port holds for them goes first, and the
die's buffered copy of the line is replaced (R258). -/
def State.atomic (s : State) (e : GEntry) (va : Nat) (pa : Option Nat) (aop n src cmp g : Nat) : State :=
  match s.flatPieces e true va n pa with
  | .error (i, s) => s.faultWord e i
  | .ok (l, s) =>
    let a := (l.map (·.1)).headD 0
    if s.noAtomics a then s.faultWord e (flatFault .atomtier va n)
    else
      let s := s.sys fun m => (m.flushOf (· == dieOf s.cur) a n).dropCopy (dieOf s.cur) a
      let old := s.dev.sys.homeNum a n
      let new := amoOf (8 * n) aop old src cmp
      let bad := s.dev.sys.piecesBad [(a, n)]
      let w : WEntry := { die := dieOf s.cur, addr := a, data := leBytes n new, tiles := s.marksAt a n }
      let s := s.sys fun m => (m.inOrder w).settle w
      let s := s.receive e (.gG g) old
      (if bad then s.poisonTask e else s).retire e

/-- A translation arrives in its xt register (R189). -/
def State.arriveXlate (s : State) (e : GEntry) (x va acc : Nat) : State :=
  match s.translate e.asid va (acc != 0) with
  | .error k => s.faultWord e (flatFault k va 0)
  | .ok (p, s) =>
    (s.modOwner s.cur e.task fun c =>
      { c with regs := { c.regs with xt := c.regs.xt.set 0 x (xtWord e.asid va p) } }).retire e

/-- A slot header's fields (R233, R234). -/
def slotHeader (gen tag : Nat) (absent poison : Bool) : Nat :=
  gen % 4096 * 2 ^ 28 + tag % 256 * 2 ^ 20 + 2 ^ 7 + bit absent * 2 ^ 6 + bit poison * 2 ^ 5 + bit (!absent) * 2 ^ 4 + bit absent

/-- A tier-miss record (R334). -/
def State.tierMiss (s : State) (r : TileRef) (t : TileEntry) : State :=
  s.record (1 + dieOf s.cur) 0 (fieldBytes [(4, 0), (4, 0), (2, r.asid), (2, s.cur), (4, r.tid), (4, r.tile), (1, 0),
    (1, t.tier + 4 * bit (bitOf t.bits 1)), (2, t.gen), (8, 0)])

/-- A tile transfer into a ring reads its tile (R187): an absent tile under the event policy arrives as zeros with its record sent.
The slot is filled in the ring's own order. Of a tile that the die has written and that has yet to reach its home the version that its
port has is delivered, with its generation (R257, R265; log entry 130). -/
def State.readSlot (s : State) (e : GEntry) (_ : Nat) (r : TileRef) : State :=
  if e.got.isSome then s
  else
    match s.reach r with
    | .error i => s.faultWord e i
    | .ok x =>
      if x.here && s.dev.sys.under (dieOf s.cur) x.addr 4096 then
        let m := s.dev.sys.swear (dieOf s.cur) x
        let k := (m.readTile (dieOf s.cur) x).2.2
        (s.sys fun _ => k).updateEntry { e with got := some (slotHeader (m.genSeen (dieOf s.cur) x) 0 false x.poisoned,
          m.bytes (dieOf s.cur) false x.addr 4096) }
      else if x.here then
        let (data, gen, m) := s.dev.sys.readTile (dieOf s.cur) x
        (s.sys fun _ => m).updateEntry { e with got := some (slotHeader gen 0 false x.poisoned, data) }
      else if r.event then
        (s.tierMiss r x).updateEntry { e with got := some (slotHeader x.gen 0 true false, List.replicate 4096 0) }
      else s.faultWord e (tileFault .trans r 4096)

/-- A transfer performs or meets a fault. -/
def State.performWord (s : State) (e : GEntry) : State :=
  match e.op with
  | .tldTile t r => s.arriveTile e t r
  | .tst r data => s.storeTile e r data
  | .tldx va pa n dst => s.arriveFlat e va n dst pa
  | .tstx va pa data => s.storeFlat e va pa data
  | .xlate x va acc => s.arriveXlate e x va acc
  | .amog va pa aop n src cmp g => s.atomic e va pa aop n src cmp g
  | .tldRing h r => s.readSlot e h r
  | .cmd _ _ _ => s
  | .icinv _ _ => s
  | .emit _ _ _ _ => s

/-- TRANSFER_ARRIVAL (R184, R186). -/
def execTransferArrival (core ix : Nat) (s : State) : Next :=
  onCore core (fun s =>
    match s.core.port[ix]? with
    | some e => if s.mayTransfer ix e then s.performWord e else s
    | none => s) s

/-! ### WAITM (R196) -/

/-- What WAITM reads of the line at a VA: the line where its bytes are there to compare, whether they are poisoned, and the state
with a READ sent to a peer, or with a host line held (R348, R349, R360). The line comes from the newest write in its die's write
buffer or from the home. A read under way that has failed finds zeros, poisoned, though its mapping is gone (R349, R362). -/
def State.watched (s : State) (va : Nat) : Except Stop (Option (BitVec 512) × Bool × State) :=
  let e := readerWord s.core 1
  if s.readFailed e || (s.core.waiting.map (·.failed)).getD false then .ok (some 0, true, s.forget e)
  else
  match s.translate s.core.ctl.asid.toNat va false with
  | .error k => .error (.fault { cause := k, slot := 10, va := va })
  | .ok (p, s) =>
    let l := [(p.addr, 64)]
    let line := BitVec.ofNat 512 (leNat (s.pieceBytes e false l))
    let there := s.brought e l
    if isPeer p.addr then
      .ok (if there then (some line, false, s.forget e) else (none, false, s.askPeers e l))
    else if there then
      .ok (some line, s.dev.sys.piecesBad l, s.sys fun m => (m.dropCopy (dieOf s.cur) p.addr).holdHost (dieOf s.cur) p.addr 64)
    else .ok (some 0, true, s)

/-- WAITM (R196): DPOISON is raised when it completes, if a read of its line was poisoned (R187, R376; log entry 97). Where
several of its outcomes hold at once, gD is 1 before 2 and 2 before 0. DESIGN CHOICE, log entry 116. -/
def execWaitm (o : BitVec 3) (g : Guard) (d a t : BitVec 5) (s : State) : Next :=
  execG g (fun s => do
    portRoom s.core
    let va := (← s.core.readG a.toNat).toNat % 2 ^ 57
    let lim := (← s.core.readG t.toNat).toNat % 2 ^ 32
    s.orderWait 0 .stallg
    need (va % 64 == 0) .valign
    let (now, bad, s') ← s.watched va
    let kept := (s.core.waiting.bind (·.line)) <|> now
    let since := (s.core.waiting.map (·.since)).getD s.cycle
    let bad := bad || (s.core.waiting.map (·.bad)).getD false
    let r :=
      if now.isSome && now ≠ kept then some 1
      else if s.core.ctl.preempt then some 2
      else if kept.isSome && since + lim ≤ s.cycle then some 0
      else none
    match r with
    | none => .error (.watch kept (s'.mod fun c => { c with waiting := some { since := since, line := kept, bad := bad } }))
    | some x =>
      let s' := if bad then s'.mod (·.note { cause := .dpoison, slot := 10 }) else s'
      return (s'.orderAfter o).result 10 1 (.g (s.core.gKey d.toNat)) x (ones 64) 0) s

/-! ### The gather engine (R198) -/

/-- The head job after an entry is done. -/
def nextJob : List GatherJob → List GatherJob
  | [] => []
  | j :: r => if j.left ≤ 1 then r else { j with left := j.left - 1, failed := false } :: r

/-- The head job waits for fault service. -/
def faultJob (i : Option TrapInfo) : List GatherJob → List GatherJob
  | [] => []
  | j :: r => { j with faulted := i } :: r

/-- The gather engine as a reader, on behalf of its head job. -/
def gatherWord (c : Core) : GEntry := { readerWord c 0 with failed := (c.qs.gathers.head?.map (·.failed)).getD false }

/-- The elements at the addresses, one after the other: pieces and the state with A bits set. -/
def State.elementPieces (s : State) (e : GEntry) (n : Nat) : List Nat → EngineM (List (Nat × Nat) × State)
  | [] => .ok ([], s)
  | va :: r => do
    let (l, s) ← s.enginePieces e false va n
    let (k, s) ← State.elementPieces s e n r
    return (l ++ k, s)

/-- The bytes of an element of a read that has failed: zeros where its mapping is gone (R349, R362). -/
def State.elementBytes (s : State) (e : GEntry) (n va : Nat) : List Byte :=
  match s.range e.asid false va n with
  | .ok (l, _) => s.pieceBytes e false l
  | .error _ => List.replicate n 0

/-- The head job's vector is pushed, with DPOISON where its data was bad. -/
def State.pushVector (s : State) (e : GEntry) (more : List (BitVec 512)) (bytes : List Byte) (bad : Bool) : State :=
  let s := s.mod fun c =>
    { c with qs := { c.qs with gathers := nextJob c.qs.gathers, addr := more, data := c.qs.data ++ [BitVec.ofNat 1024 (leNat bytes)] } }
  (if bad then s.mod (·.note { cause := .dpoison, slot := 10 }) else s).forget e

/-- Whether a gather job stands behind a kept word of its task that has yet to perform (R239). -/
def Core.gatherHeld (c : Core) (j : GatherJob) : Bool :=
  j.kept && c.port.any fun f => f.task == c.ctl.task && f.kept && f.order < j.order && !f.performed

/-- The gather engine pushes one vector, waits, or meets a fault. Acquires of earlier bundles hold its reads back (R164), and so does a
fault of an earlier transfer (R239). -/
def State.gatherPush (s : State) : State :=
  match s.core.qs.gathers, s.core.qs.addr with
  | j :: _, idx :: more =>
    if j.faulted.isSome || 64 ≤ s.core.qs.data.length || s.core.acquirePending j.bundle || s.core.gatherHeld j then s
    else
      let e := gatherWord s.core
      let vas := (lanesOf 32 16 idx.toNat).map fun i => (j.base + i * j.size) % 2 ^ 57
      if s.readFailed e then s.pushVector e more (vas.flatMap (s.elementBytes e j.size)) true
      else
        match s.elementPieces e j.size vas with
        | .error (.fault i s) => s.mod fun c => { c with qs := { c.qs with gathers := faultJob (some i) c.qs.gathers } }
        | .error (.wait s) => s
        | .error (.code _ _ s) => s
        | .ok (l, s) =>
          if s.brought e l then
            ((s.leaveCopies false l).dropRead l).pushVector e more (s.pieceBytes e false l) (s.dev.sys.piecesBad l)
          else s.askPeers e l
  | _, _ => s

/-- GATHER_PUSH (R198). -/
def execGatherPush (core : Nat) (s : State) : Next := onCore core State.gatherPush s

/-! ### Ring slots -/

/-- Whether a ring of the task has a free slot (R187). -/
def State.ringFree (s : State) (t h : Nat) : Bool :=
  let r := (s.view t).ring h
  r.bound && r.count < r.cnt

/-- A header and data written into the next free slot of a ring (R187, R234). -/
def State.writeSlot (s : State) (t h header : Nat) (data : List Byte) : State :=
  let r := (s.view t).ring h
  s.engineWrite s.cur t (r.slotAt r.fill) (leBytes 8 header ++ List.replicate 120 0 ++ data)

/-- The next free slot of a ring, which has its header and data, is published (R187). -/
def State.publishSlot (s : State) (t h : Nat) : State :=
  let r := (s.view t).ring h
  s.modOwner s.cur t fun c => c.setRing h { r with count := r.count + 1, fill := if r.cnt = 0 then 0 else (r.fill + 1) % r.cnt }

/-- The next free slot of a ring is filled and published; what word `e` has written there already is not written again. -/
def State.fillSlot (s : State) (e : GEntry) (h header : Nat) (data : List Byte) : State :=
  (if e.started then s else s.writeSlot e.task h header data).publishSlot e.task h

/-- Whether a ring fill must wait: its task is pre-empted, no slot is free, or writes that its publication releases have yet to reach
their homes (R187, R193, R260). -/
def State.fillWaits (s : State) (e : GEntry) (h : Nat) : Bool :=
  s.isSaved e.task || !s.ringFree e.task h || (wideScope e.scope && !s.dev.sys.drained (dieOf s.cur))

/-- Whether a transfer into a ring may fill its slot: it need not wait, and no earlier transfer fills the ring first (R187). -/
def State.fillTurn (s : State) (ix : Nat) (e : GEntry) (h : Nat) : Bool :=
  !s.fillWaits e h && !(s.core.port.take ix).any fun f => f.task == e.task && sameRing e.op f.op

/-- The tile that a transfer into a ring has read fills its slot in its turn (R187). -/
def State.publishTile (s : State) (ix : Nat) (e : GEntry) (h : Nat) : State :=
  match e.got with
  | none => s
  | some (header, data) =>
    if !s.fillTurn ix e h then s
    else
      let s := s.fillSlot e h header data
      (if bitOf header 5 then s.poisonTask e else s).retire e

end Sys2Proof.Machine
end

