-- ==== Sys2Proof/Machine/Tiers.lean ====
section
/-!
DEFINITION. The tier manager and fault service: frames (R201), moves of tiles between tiers (R325, R333, R335), what
fault service resolves (R345), and the resolution of faults of engines (R193).
-/
namespace Sys2Proof.Machine

/-! ### Frames -/

/-- Whether `n` bytes at a multiple of `k` lie in a free extent. -/
def holds (k n : Nat) (x : Nat × Nat) : Bool := ceilDiv x.1 k * k + n ≤ x.1 + x.2

/-- `n` bytes at a multiple of `k` taken from a free extent, and what is left of it. -/
def split (k n : Nat) (x : Nat × Nat) : Nat × List (Nat × Nat) :=
  let b := ceilDiv x.1 k * k
  (b, (if x.1 < b then [(x.1, b - x.1)] else []) ++ (if b + n < x.1 + x.2 then [(b + n, x.1 + x.2 - (b + n))] else []))

/-- One of `n` possibilities that the spec leaves open, by a free choice. DESIGN CHOICE, log entry 25. -/
def State.anyOf (s : State) (n : Nat) : Nat := if n = 0 then 0 else Config.openChoice s.cycle % n

/-- `n` bytes of free memory at a multiple of `k` that `ok` admits, in an extent of firmware's choosing. -/
def State.carve (s : State) (k n : Nat) (ok : Nat → Bool) : Option (Nat × List (Nat × Nat)) :=
  let all := s.dev.sys.frames
  let fit := all.filter fun x => ok x.1 && holds k n x
  match fit[s.anyOf fit.length]? with
  | none => none
  | some x => some ((split k n x).1, (split k n x).2 ++ all.erase x)

/-- Bytes of memory replaced: all of the range, with what is not given zero. -/
def MemSys.fill (m : MemSys) (a n : Nat) (bs : List Byte) : MemSys :=
  { m with mem := Memory.store (List.filter (fun e => !(a ≤ e.1 && e.1 < a + n)) m.mem) a (bs.take n) }

/-- Nothing of an earlier use of a frame stays in a buffer. -/
def MemSys.purge (m : MemSys) (a n : Nat) : MemSys :=
  let m := m.flush a n
  { m with
    rbuf := m.rbuf.filter fun e => !(a ≤ e.1 % 2 ^ 46 * 64 && e.1 % 2 ^ 46 * 64 < a + n)
    tileCopies := m.tileCopies.filter fun e => !((e.2.map fun x => decide (x.1 < a + n) && decide (a < x.1 + 4096)).getD false)
    cbuf := m.cbuf.filter fun e => !(a ≤ e.1 % 2 ^ 46 * 64 && e.1 % 2 ^ 46 * 64 < a + n)
    badFrames := if n % 65536 = 0 then m.badFrames.filter fun e => !(a ≤ e.1 * 65536 && e.1 * 65536 < a + n) else m.badFrames }

/-- `n` fresh bytes of a tier at a multiple of `k`, from the free pool that firmware lays out (R201). -/
def State.takeRun (s : State) (k n tier : Nat) : Option (Nat × State) :=
  match s.carve k n (fun a => s.tier a == some tier) with
  | none => none
  | some (a, left) => some (a, s.sys fun m => { m.purge a n with frames := left })

/-- A fresh frame of `n` bytes in a tier, at a multiple of its size. -/
def State.takeFrame (s : State) (n tier : Nat) : Option (Nat × State) := s.takeRun n n tier

/-- A frame freed. -/
def MemSys.free (m : MemSys) (a n : Nat) : MemSys := { m with frames := m.frames ++ [(a, n)] }

/-! ### Invalidation (R189, R342) -/

/-- What an invalidation covers: a VA range of an address space or of all. -/
structure Shoot where
  every : Bool
  allSpaces : Bool
  asid : Nat
  va : Nat
  bytes : Nat

/-- Whether it covers a byte of a range of an address space. -/
def Shoot.covers (k : Shoot) (asid va n : Nat) : Bool :=
  k.every || ((k.allSpaces || asid == k.asid) && va < k.va + k.bytes && k.va < va + n)

/-- A covered xt register has V clear. -/
def Shoot.xt (k : Shoot) (x : BitVec 128) : BitVec 128 :=
  let n := x.toNat
  let base := xtVa n / xtSize n * xtSize n
  if xtValid n && k.covers (fieldOf n 127 112) base (xtSize n) then BitVec.ofNat 128 (n - 2 ^ 100) else x

/-- A word that translated through a covered entry is translated afresh. -/
def Shoot.word (k : Shoot) (e : GEntry) : GEntry :=
  match e.op with
  | .tldx va (some _) n d => if k.covers e.asid va n then { e with op := .tldx va none n d } else e
  | .tstx va (some _) b => if k.covers e.asid va b.length then { e with op := .tstx va none b } else e
  | .amog va (some _) o n x c g => if k.covers e.asid va n then { e with op := .amog va none o n x c g } else e
  | _ => e

/-- A core's translations and words. -/
def Shoot.core (k : Shoot) (c : Core) : Core :=
  { c with
    regs := { c.regs with xt := c.regs.xt.map fun (x : Nat × BitVec 128) => (x.1, k.xt x.2) }
    port := c.port.map k.word }

/-- The invalidation performed at every core and in every context. -/
def State.shoot (s : State) (k : Shoot) : State :=
  let s := { s with core := k.core s.core, others := s.others.map fun (x : Nat × Core) => (x.1, k.core x.2) }
  s.sched fun d =>
    { d with tasks := d.tasks.map fun t => { t with contexts := t.contexts.map fun x => (x.1, k.core x.2) } }

/-! ### Leaves of page tables -/

/-- The entries of the table at `base` that hold anything. -/
def tableEntries (m : Memory) (base n : Nat) : List Nat :=
  ((List.filter (fun (x : Nat × Byte) => base ≤ x.1 && x.1 < base + 8 * n) m).map fun x => (x.1 - base) / 8).eraseDups

/-- The leaves of an address space: VA, address of the entry, its bits and its size code. -/
def leavesFrom (m : Memory) : List (Nat × Nat × Option Nat) → Nat → Nat → List (Nat × Nat × Nat × Nat)
  | [], _, _ => []
  | (lo, n, leaf) :: rest, va, base =>
    (tableEntries m base (2 ^ n)).flatMap fun i =>
      let at_ := base + 8 * i
      let e := m.num at_ 8
      let va := va + i * 2 ^ lo
      if !bitOf e 0 then []
      else if rest.isEmpty || bitOf e 11 then (leaf.map fun k => (va, at_, e, k)).toList
      else leavesFrom m rest va (frameAddr e)

/-- P cleared in every page-table leaf that maps a byte of a range of memory, with the bytes kept in firmware's record, and every
translation through such a leaf invalidated (R333, R342). -/
def State.unmapFlat (s : State) (a n : Nat) : State :=
  s.dev.sys.asids.foldl (fun s (x : Nat × Option Asid) =>
    match x.2 with
    | none => s
    | some sp =>
      (leavesFrom s.dev.sys.mem walkLevels 0 sp.l0).foldl (fun (s : State) l =>
        let (va, at_, e, k) := l
        if bitOf e 8 && frameAddr e < a + n && a < frameAddr e + mapBytes k then
          (s.sys fun m =>
            let m := m.flush (frameAddr e) (mapBytes k)
            { m with
              records := m.records.set [] at_ (m.homeBytes (frameAddr e) (mapBytes k))
              mem := m.mem.setNum at_ 8 (e - 2 ^ 8) }).shoot ⟨false, false, x.1, va, mapBytes k⟩
        else s) s) s

/-! ### Tiles -/

/-- The bytes of a tile wherever they are (R333). -/
def State.tileBytes (s : State) (x : TileEntry) : List Byte :=
  if bitOf x.bits 1 then s.dev.sys.fetched x.addr 4096
  else
    let r := s.dev.sys.records.get [] x.at_
    r.take 4096 ++ List.replicate (4096 - r.length) 0

/-- The stack of an HBM address, or the I/O die of a cellar address, as the unit of a record (R350, R383). -/
def memUnit (a : Nat) : Nat × Nat :=
  if a < hbmEnd then (2, a / 0xC00000000) else (3, 0)

/-- A record of the scrubber's source (R383). -/
def State.scrubRecord (s : State) (kind a : Nat) : State :=
  let u := memUnit a
  s.careRecord 5 kind 0 u.1 u.2 a (s.dev.health.corrected.get 0 (u.1 * 2 ^ 48 + u.2))

/-- The CRC of a page (R325): its bytes, KSC and VSC. -/
def pageCrc (data : List Byte) (ksc vsc : Nat) : Nat :=
  crc32c (data ++ [BitVec.ofNat 8 ksc, BitVec.ofNat 8 vsc])

/-- A KV page's checksum is recomputed over the bytes written: a disagreement with the recorded one sets poison and
raises a scrubber event (R325). -/
def State.checkPage (s : State) (x : TileEntry) (addr : Nat) (data : List Byte) : State :=
  if !x.dir.kv then s
  else
    let side := x.dir.side x.tile
    let m := s.dev.sys
    let crc := pageCrc data (m.homeNum side 1) (m.homeNum (side + 1) 1)
    let same := m.homeNum (side + 8) 4 == crc
    let s := s.sys fun m => { m with mem := m.mem.setNum (side + 8) 4 crc }
    if same then s
    else
      let b := s.dev.sys.homeNum x.at_ 8
      (s.setEntry x (if bitOf b 4 then b else b + 16)).scrubRecord 3 addr

/-- A tier move (R335): the bytes go to their new place and the entry is rewritten with one write, GEN kept. Writes under
way to the old place and to the side entry perform first, and flat pages that map the old place lose it (R343; log entry 92). With no
place the bytes go to firmware's record and P is cleared (R333). A tile with a line that its place gives as poisoned, or whose read
fails, is poisoned (R349, R357, R376). -/
def State.moveTile (s : State) (x : TileEntry) (place : Option Nat) (tier : Nat) : State :=
  let was := bitOf x.bits 1
  let s := if was then (s.sys (·.flush x.addr 4096)).unmapFlat x.addr 4096 else s
  let s := if x.dir.kv then s.sys (·.flush (x.dir.side x.tile) 512) else s
  let bits := s.dev.sys.homeNum x.at_ 8
  let m := s.dev.sys
  let x := { x with bits := if was && (m.linesBad x.addr 4096 || m.fails x.addr 4096) then poisonBits bits else bits }
  let data := s.tileBytes x
  let s := match place with
    | some a =>
      let s := s.sys fun m => { m.fill a 4096 data with records := m.records.set [] x.at_ [] }
      (s.setEntry x (placeBits x.bits a tier true)).checkPage x a data
    | none =>
      (s.sys fun m => { m with records := m.records.set [] x.at_ data }).setEntry x (placeBits x.bits x.addr x.tier false)
  if was then (s.endReads [(x.addr, 4096)]).sys (·.free x.addr 4096) else s

/-- Whether the tile's bytes can be had: not lost, and not behind a link that is down (R349, R357, R362). -/
def State.canMove (s : State) (x : TileEntry) : Bool :=
  if bitOf x.bits 1 then s.reachable x.addr else !s.dev.sys.lost.get false x.at_

/-- A tile promoted to a fresh HBM frame by firmware; none where no frame can be had. -/
def State.promote (s : State) (x : TileEntry) : Option State :=
  match s.takeFrame 4096 0 with
  | none => none
  | some (a, s) => some (s.moveTile x (some a) 0)

/-- A tile that DECANT promotes from the place that its entry names: the copy goes through the issuing die's port with the page's
checksum, its entry names the new frame as the copy reaches its home, and the old place is free then (R201, R256, R265, R335). Writes
under way to the old place perform first and flat pages that map it lose it (R342). A copy that disagrees with its checksum, or comes
from a poisoned line, poisons the tile (R325, R349, R376). None where no frame can be had. -/
def State.carryTile (s : State) (x : TileEntry) : Option State :=
  match s.takeFrame 4096 0 with
  | none => none
  | some (a, s) =>
    let s := (s.sys (·.flush x.addr 4096)).unmapFlat x.addr 4096
    let s := if x.dir.kv then s.sys (·.flush (x.dir.side x.tile) 512) else s
    let m := s.dev.sys
    let data := m.homeBytes x.addr 4096
    let side := x.dir.side x.tile
    let crc := pageCrc data (m.homeNum side 1) (m.homeNum (side + 1) 1)
    let same := !x.dir.kv || m.homeNum (side + 8) 4 == crc
    let s := s.sys (·.accept
      { die := dieOf s.cur, addr := a, data := data, also := if x.dir.kv then [(side + 8, leBytes 4 crc)] else []
        place := some (x.at_, a, !same || m.linesBad x.addr 4096), frees := [(x.addr, 4096)] })
    some (if same then s else s.scrubRecord 3 a)

/-- Whether a word of a port reads or writes the tile whose entry is at an address, or is a command that may read it: it is in flight
(R335). -/
def State.namesTile (s : State) (e : GEntry) (at_ : Nat) : Bool :=
  match e.op with
  | .cmd k _ _ => k == .cpy || k == .kapp || k == .decant
  | o => (o.tileRef?.map fun r => match s.lookup r.asid r.tid r.tile with
      | .ok x => x.at_ == at_
      | .error _ => false).getD false

/-- Every core in use, with its number. -/
def State.cores (s : State) : List (Nat × Core) := (s.cur, s.core) :: s.others.filter fun x => x.1 != s.cur

/-- Whether a transfer, a DECANT or an engine command that may read the tile is in flight. -/
def State.tileInUse (s : State) (at_ : Nat) : Bool := s.cores.any fun c => c.2.port.any (s.namesTile · at_)

/-- TIER_MOVE (R335): the tier manager promotes or demotes a tile; it demotes none that is being read, and moves none that is on its
way to another place. A move that finds the tile in its place, or finds no frame, changes nothing. -/
def execTierMove (asid tid tile : Nat) (tier : BitVec 2) (p : Bool) (s : State) : Next :=
  match s.lookup asid tid tile with
  | .error _ => .next s
  | .ok x =>
    let same := bitOf x.bits 1 == p && (!p || x.tier == tier.toNat)
    let down := bitOf x.bits 1 && (!p || x.tier < tier.toNat)
    if same || s.dev.sys.moving x.at_ || (down && s.tileInUse x.at_) || !s.canMove x then .next s
    else if !p then .next (s.moveTile x none 0)
    else
      match s.takeFrame 4096 tier.toNat with
      | none => .next s
      | some (a, s) => .next (s.moveTile x (some a) tier.toNat)

/-! ### Fault service (R345) -/

/-- The entry at which a walk stops: its address, its bits, and the size code of a leaf there. -/
def leafEntry (m : MemSys) (va : Nat) : List (Nat × Nat × Option Nat) → Nat → Option (Nat × Nat × Nat)
  | [], _ => none
  | (lo, n, leaf) :: rest, base =>
    let at_ := base + 8 * (va / 2 ^ lo % 2 ^ n)
    let e := m.homeNum at_ 8
    if rest.isEmpty || (bitOf e 0 && bitOf e 11) then leaf.map fun k => (at_, e, k)
    else if bitOf e 0 && fieldOf e 15 12 = 0 then leafEntry m va rest (frameAddr e)
    else none

/-- Whether a VA lies in an allocate-on-touch region of its address space (R345). -/
def State.touched (s : State) (asid va : Nat) : Bool :=
  s.dev.sys.touch.any fun r => r.1 == asid && r.2.1 ≤ va && va < r.2.1 + r.2.2

/-- A PTE with its place replaced; A and D and the other bits stay. -/
def placePte (pte addr tier : Nat) : Nat :=
  fieldOf pte 63 52 * 2 ^ 52 + addr / 65536 % 2 ^ 36 * 65536 + fieldOf pte 11 9 * 2 ^ 9 + 2 ^ 8 + tier % 4 * 2 ^ 6 + pte % 2 ^ 6

/-- A page is mapped to a fresh frame of firmware's choosing with its bytes from firmware's record. -/
def State.placePage (s : State) (at_ pte size tier : Nat) : Option State :=
  match s.takeFrame (mapBytes size) tier with
  | none => none
  | some (a, s) => some (s.sys fun m =>
      let m := m.fill a (mapBytes size) (m.records.get [] at_)
      { m with mem := m.mem.setNum at_ 8 (placePte pte a tier), records := m.records.set [] at_ [] })

/-- What fault service makes of a fault (R249, R345): it resolves it, it can never do so, or it is not done with it yet, as while no
frame is free or the tile is on its way. -/
inductive Served where
  | done (s : State)
  | never
  | full
  | later

/-- Service that has found the frame that it needs, or none. -/
def Served.of : Option State → Served
  | some s => .done s
  | none => .full

/-- The table that an entry at `at_` points to, allocated where there is none; a valid entry that points to none is a fault that cannot
be resolved (R340, R345). -/
def State.ensureTable (s : State) (at_ : Nat) : Except Served (Nat × State) :=
  let e := s.dev.sys.homeNum at_ 8
  if bitOf e 0 then (if bitOf e 11 || fieldOf e 15 12 ≠ 0 then .error .never else .ok (frameAddr e, s))
  else
    match s.takeFrame 65536 0 with
    | none => .error .full
    | some (a, s) => .ok (a, s.sys fun m =>
        let m := m.fill a 65536 []
        { m with mem := m.mem.setNum at_ 8 (a + 1), guarded := m.guarded.set false (a / 65536) true })

/-- The place of the level-3 entry of a VA in the space whose first table is at `l0`, with the tables above it (R340). -/
def State.leafPlace (s : State) (l0 va : Nat) : Except Served (Nat × State) := do
  let (t1, s) ← s.ensureTable (l0 + 8 * (va / 2 ^ 55 % 4))
  let (t2, s) ← s.ensureTable (t1 + 8 * (va / 2 ^ 42 % 8192))
  let (t3, s) ← s.ensureTable (t2 + 8 * (va / 2 ^ 29 % 8192))
  return (t3 + 8 * (va / 2 ^ 16 % 8192), s)

/-- A page mapped in the tier that firmware chooses, or in another where that one has no frame (R345). -/
def State.placeSomewhere (s : State) (at_ pte size tier : Nat) : Served :=
  .of ([tier, 0, 1, 2, 3].findSome? fun k => s.placePage at_ pte size k)

/-- A zeroed writable page mapped at the first touch of a VA, with the tables it needs (R345). -/
def State.touchPage (s : State) (l0 va tier : Nat) : Served :=
  match s.leafPlace l0 va with
  | .ok (at_, s) => (s.sys fun m => { m with records := m.records.set [] at_ [] }).placeSomewhere at_ 3 0 tier
  | .error r => r

/-- Whether a walk from the table at `l0` finds the page of a VA there. -/
def State.mapped (s : State) (l0 va : Nat) : Bool :=
  match walkFrom s.dev.sys va walkLevels l0 with
  | .ok p => s.mapPresent p
  | .error _ => false

/-- Service of a flat fault: a page that is there by now, since a fault before it brought it, needs none; a valid PTE with P = 0 is
promoted, unless its bytes are lost; where an entry of the walk is invalid, inside an allocate-on-touch region, a zeroed page is
mapped. -/
def State.serveFlat (s : State) (asid va tier : Nat) : Served :=
  let va := va % 2 ^ 57
  match s.space asid with
  | none => .never
  | some a =>
    if s.mapped a.l0 va then .done s
    else
    match leafEntry s.dev.sys va walkLevels a.l0 with
    | none => if s.touched asid va then s.touchPage a.l0 va tier else .never
    | some (at_, e, size) =>
      if bitOf e 0 then
        if bitOf e 8 || fieldOf e 15 12 ≠ 0 || (size = 0 && bitOf e 11) || s.dev.sys.lost.get false at_ then .never
        else s.placeSomewhere at_ e size tier
      else if s.touched asid va then s.touchPage a.l0 va tier
      else .never

/-- Service of a tensor-form fault: a valid entry whose tile cannot be read where it is needed is promoted to HBM. -/
def State.serveTile (s : State) (asid tid tile : Nat) : Served :=
  match s.lookup asid tid tile with
  | .ok x =>
    if x.here then .done s
    else if s.dev.sys.moving x.at_ then .later
    else if s.canMove x then .of (s.promote x)
    else .never
  | .error _ => .never

/-- The leaf that maps a VA changed. -/
def State.changePte (s : State) (asid va : Nat) (f : Nat → Nat) : State :=
  match (s.space asid).bind fun a => leafEntry s.dev.sys va walkLevels a.l0 with
  | some (at_, e, _) => s.sys fun m => { m with mem := m.mem.setNum at_ 8 (f e) }
  | none => s

/-- The code page of an object at physical address `pa` in its new place `a`, in every version that has it (R316). -/
def Obj.placed (o : Obj) (pa a : Nat) : Obj :=
  { o with versions := o.versions.map fun v =>
      { v with pages := v.pages.map fun p => if p.2.1 = pa then (p.1, a, p.2.2) else p } }

/-- A code page that is not in HBM is promoted: its bytes take a fresh frame, its PTE and every code version name that, and the old one
is free (R315, R316, R345). The frame of a sealed page is guarded (R318, R347). A page with a line that its place gives as poisoned, or
whose read fails, is poisoned (R349, R376). -/
def State.promoteCode (s : State) (o : Obj) (va pa : Nat) : Option State := do
  let (a, s) ← s.takeFrame 65536 0
  let bad := s.dev.sys.linesBad pa 65536 || s.dev.sys.fails pa 65536
  let s := (s.sys fun m => { m.fill a 65536 (m.fetched pa 65536) with
    badFrames := m.badFrames.set false (a / 65536) bad
    guarded := (m.guarded.set false (pa / 65536) false).set false (a / 65536) (m.guarded.get false (pa / 65536) || o.sealed) }).endReads
      [(pa, 65536)]
  let s := (s.changePte o.asid va fun e => if bitOf e 8 && frameAddr e == pa then placePte e a 0 else e).sys (·.free pa 65536)
  return { s with dev := { s.dev with code := { s.dev.code with objects := s.dev.code.objects.map (·.placed pa a) } } }

/-- The pages of a fetch that are needed: that of its first byte, and the next where that is there and the bundle at `va` runs into
it. -/
def State.fetchPages (s : State) (v : Version) (lit : Bool) (va : Nat) : List Nat :=
  let page := va / 65536 * 65536
  match v.page va with
  | none => [page]
  | some (pa, _) =>
    if lit || va + 4 * bundleLength (s.dev.sys.homeNum (pa + va % 65536) 4) ≤ page + 65536 then [page] else [page, page + 65536]

/-- Service of a fetch fault: the code pages that the fetch needs are promoted, one in each round of service (R315, R345). -/
def State.serveFetch (s : State) (object version : Nat) (lit : Bool) (va : Nat) : Served :=
  match s.dev.code.find object with
  | none => .never
  | some o =>
    match o.version version with
    | none => .never
    | some v =>
      match (s.fetchPages v lit va).mapM fun a => (v.page a).map fun p => (a, p.1) with
      | none => .never
      | some l =>
        match l.find? fun p => !(p.2 < hbmEnd) with
        | none => .done s
        | some (va, pa) => if s.reachable pa then .of (s.promoteCode o va pa) else .never

/-- What fault service makes of a fault (R345). -/
def State.serve (s : State) (asid object version : Nat) (t : TrapInfo) (tier : Nat) : Served :=
  match t.cause with
  | .trans => if t.tensor then s.serveTile asid t.tid t.tile else s.serveFlat asid t.va tier
  | .fetch => s.serveFetch object version t.lit t.va
  | _ => .never

/-! ### Faults of engines (R193) -/

/-- RES of a command that ends with FAULT: the VA, or for a DECANT the tile, the tiles delivered and the list index
(R193, R201). -/
def faultRes (e : GEntry) (i : TrapInfo) : Nat :=
  match e.op with
  | .cmd .decant _ _ => (i.tile * 2 ^ 32 + e.progress.length * 2 ^ 16 + i.rem * 2 ^ 8) / 2 ^ 8
  | _ => i.va

/-- Service finishes with the fault of a word: the word tries again, or a command ends with FAULT. A DECANT for whose tile no HBM
frame can be had ends with NOSPACE (R201). A transfer of an ended task that cannot be served is dropped. -/
def State.resolveWord (s : State) (e : GEntry) (i : TrapInfo) (tier : Nat) : State :=
  match s.serve e.asid 0 0 i tier with
  | .done s => s.updateEntry { e with faulted := none }
  | .full =>
    match e.op with
    | .cmd .decant _ _ => s.settleCommand e (Done.plain 2 (faultRes e i))
    | _ => s
  | .later => s
  | .never =>
    match e.op with
    | .cmd _ _ _ => s.settleCommand e (Done.plain 4 (faultRes e i))
    | _ => s.retire { e with acquire := false }

/-- Service finishes with the fault of the gather engine's head job: it reads again, or the job ends and GFAULT reaches
the task; the entry's fill stays outstanding, since no vector is pushed (R198). -/
def State.resolveGather (s : State) (tier : Nat) : State :=
  match s.core.qs.gathers with
  | [] => s
  | j :: _ =>
    match j.faulted with
    | none => s
    | some i =>
      match s.serve s.core.ctl.asid.toNat 0 0 i tier with
      | .done s => s.mod fun c => { c with qs := { c.qs with gathers := faultJob none c.qs.gathers } }
      | .full => s
      | .later => s
      | .never =>
        s.mod fun c => { c.note { cause := .gfault, slot := 10, va := i.va } with
          qs := { c.qs with gathers := c.qs.gathers.drop 1 } }

/-- Whether the service of a word's fault is the engine's own affair: a command, or a word of a task that has ended on
the core (R90, R193). -/
def State.engineFault (s : State) (e : GEntry) : Bool := !e.op.isTransfer || !(s.onCore? s.cur e.task || s.isSaved e.task)

/-- ENGINE_FAULT_RESOLUTION (R193): of the word at a place of the port, or of the gather engine past its end. -/
def execEngineFaultResolution (core ix : Nat) (tier : BitVec 2) (s : State) : Next :=
  onCore core (fun s =>
    match s.core.port[ix]? with
    | none => s.resolveGather tier.toNat
    | some e =>
      match e.faulted with
      | none => s
      | some i => if s.engineFault e then s.resolveWord e i tier.toNat else s) s

end Sys2Proof.Machine
end

