-- ==== Sys2Proof/Machine/Copy.lean ====
section
/-!
DEFINITION. The copy engine: CPY (R197) and DECANT (R201, R335), with the checks of their blocks at issue (R192).
-/
namespace Sys2Proof.Machine

/-! ### CPY -/

/-- The CPY block (R197). -/
structure CpyBlock where
  src : Nat
  dst : Nat
  len : Nat
  sk : Bool
  dk : Bool
  rg : Bool

/-- The fields of a CPY block. -/
def cpyBlock (b : BitVec 512) : CpyBlock :=
  let f := blkField b 20 1
  ⟨blkField b 0 8, blkField b 8 8, blkField b 16 4, bitOf f 0, bitOf f 1, bitOf f 2⟩

/-- The legal values of a CPY block (R192, R197): own-vault offsets are aligned to 64, the unit of LEN (log entry 90). -/
def cpyOk (b : BitVec 512) : Bool :=
  let c := cpyBlock b
  blkField b 20 1 < 8 && blkZero b 21 && c.len != 0 && c.len % 64 == 0 && !(c.dk && c.rg) &&
  (if c.sk then blkArea c.src 64 c.len else c.src < 2 ^ 57) &&
  (if c.rg then c.dst < 8 else if c.dk then blkArea c.dst 64 c.len else c.dst < 2 ^ 57)

/-- A ring that an engine may fill: a consumer with PK = 0 (R187, R197). -/
def Ring.fillable (r : Ring) : Bool := r.bound && !r.producer && !r.peer

/-- The checks of CPY at issue. -/
def State.checkCpy (s : State) (b : BitVec 512) : Except Stop Unit := do
  let c := cpyBlock b
  need (cpyOk b) .eparm
  if c.rg then need (s.core.ring c.dst).fillable .ringerr

/-- Bytes copied so far. -/
def GEntry.copied (e : GEntry) : Nat := e.progress.headD 0

/-- Bytes `pos` to `pos + n - 1` of the source; POISON carries the bytes copied. -/
def State.copySource (s : State) (e : GEntry) (c : CpyBlock) (pos n : Nat) : EngineM (List Byte × State) :=
  if c.sk then
    if s.enginePoisoned s.cur e.task (c.src + pos) n then .error (.code 6 pos s)
    else .ok (s.engineRead s.cur e.task (c.src + pos) n, s)
  else
    match s.engineBytes e ((c.src + pos) % 2 ^ 57) n with
    | .error (.code k _ s) => .error (.code k pos s)
    | r => r

/-- Bytes of the next step: up to the end of the destination page, or of the source page for the own vault
(R265). -/
def CpyBlock.step (c : CpyBlock) (pos : Nat) : Nat :=
  let edge := if c.dk then c.src + pos else c.dst + pos
  min (c.len - pos) (65536 - edge % 65536)

/-- One step of a copy; a page that may not be written ends it with PERM. -/
def State.copyStep (s : State) (e : GEntry) (c : CpyBlock) (pos : Nat) : EngineM (State × Nat) := do
  let n := c.step pos
  let (data, s) ← s.copySource e c pos n
  let s ← if c.dk then pure (s.engineWrite s.cur e.task (c.dst + pos) data)
    else
      match s.engineStore e ((c.dst + pos) % 2 ^ 57) data with
      | .error (.fault i s) => if i.cause == .tperm then .error (.code 5 pos s) else .error (.fault i s)
      | r => r
  return (s.updateEntry { s.current e with progress := [pos + n] }, pos + n)

/-- The copy from byte `pos` on, page by page; `fuel` is at least the number of pages left. -/
def State.copyRun (e : GEntry) (c : CpyBlock) : Nat → Nat → State → EngineM (State × Done)
  | 0, pos, s => .ok (s, Done.plain 0 pos)
  | fuel + 1, pos, s =>
    if c.len ≤ pos then .ok (s, Done.plain 0 c.len)
    else do
      let (s, pos) ← s.copyStep e c pos
      State.copyRun e c fuel pos s

/-- The work of CPY: into a ring, its slots are filled one by one beforehand. -/
def State.workCpy (s : State) (e : GEntry) (b : BitVec 512) : EngineM (State × Done) :=
  let c := cpyBlock b
  if c.rg then
    if c.len ≤ e.copied || s.isOver e.task then .ok (s, Done.plain 0 e.copied) else .error (.wait s)
  else State.copyRun e c (c.len / 65536 + 2) e.copied s

/-- One slot of a copy into a ring (R197, R234): filled and published, or with `publish` false only filled. -/
def State.fillCpy (s : State) (e : GEntry) (b : BitVec 512) (publish : Bool) : State :=
  let c := cpyBlock b
  let pos := e.copied
  let n := min (c.len - pos) (128 * (((s.view e.task).ring c.dst).sz - 1))
  let done := fun (s : State) => (s.publishSlot e.task c.dst).updateEntry { s.current e with started := false, progress := [pos + n] }
  if n = 0 then s
  else if e.started then (if publish then done s else s)
  else
    match s.copySource e c pos n with
    | .error r => afterWork e (.error r)
    | .ok (data, s) =>
      let s := s.writeSlot e.task c.dst (slotHeader 0 0 false false) data
      if publish then done s else s.updateEntry { s.current e with started := true }

/-! ### DECANT -/

/-- TDOFF, LIST, N and H of a DECANT block (R201). -/
def decantFields (b : BitVec 512) : Nat × Nat × Nat × Nat :=
  (blkField b 0 4, blkField b 4 4, blkField b 8 1, blkField b 9 1)

/-- The coordinates of entry `i` of a list at `list`, read from a memory. -/
def listCoords (m : Memory) (list i : Nat) : List Nat := (List.range 4).map fun k => m.num (list + 16 * i + 4 * k) 4

/-- Whether the descriptor of a DECANT or the list of `n` tiles from `list` on lies on a poisoned line (R209, R376). -/
def State.decantBad (s : State) (t td list n : Nat) : Bool :=
  s.enginePoisoned s.cur t td 64 || s.enginePoisoned s.cur t list (16 * n)

/-- The checks of DECANT at issue, of its descriptor and list as they stand then, which wait for no pending bank (R201, R230, R302):
DEDUCED, log entry 123. On a poisoned line they are not looked into: DEDUCED, log entry 129. -/
def State.checkDecant (s : State) (b : BitVec 512) : Except Stop Unit := do
  let (td, list, n, h) := decantFields b
  need (1 ≤ n && n ≤ 64 && h < 8 && blkZero b 10 && blkArea td 64 64 && blkArea list 16 (16 * n)) .eparm
  need (s.core.ring h).takesTiles .ringerr
  let d := BitVec.ofNat 512 (s.core.vault.num td 64)
  need (s.decantBad s.core.ctl.task td list n || descOk d && (List.range n).all fun i =>
    (List.range 4).all fun k => (listCoords s.core.vault list i).getD k 0 < descLimit d k) .descerr

/-- List indices not yet delivered. -/
def GEntry.toCome (e : GEntry) (n : Nat) : List Nat := (List.range n).filter fun i => !((e.progress.map (· % 256)).contains i)

/-- The list index of the tile that arrives next (R201). -/
def GEntry.nextTile (e : GEntry) (n : Nat) : Nat :=
  let l := e.toCome n
  l.getD (Config.decantPick e.key e.progress.length % l.length) 0

/-- The bytes of a task's vault as one memory of the ranges asked for. -/
def State.vaultPart (s : State) (t a n : Nat) : Memory := Memory.store [] a (s.engineRead s.cur t a n)

/-- The tile that entry `i` of the list names, by the descriptor at `td` as the engine reads it now (R229, R264). -/
def State.decantRef (s : State) (e : GEntry) (td list i : Nat) : TileRef :=
  let d := BitVec.ofNat 512 (leNat (s.engineRead s.cur e.task td 64))
  let cs := listCoords (s.vaultPart e.task (list + 16 * i) 16) list i
  let xs := descLookup d (s.vaultPart e.task (descTable d) (4 * descTableLen d)) cs
  { asid := e.asid, tid := descTid d, tile := descTile d xs, coords := xs, event := descEvent d,
    bad := !(descOk d && (List.range 4).all fun k => cs.getD k 0 < descLimit d k && xs.getD k 0 < descExtent d k) }

/-- A fault of a DECANT names its list index in place of the extent. -/
def decantFault (k : Cause) (r : TileRef) (i : Nat) : TrapInfo := tileFault k r i

/-- RES of a DECANT that stops short (R201). -/
def decantRes (tile delivered i : Nat) : Nat := tile * 2 ^ 24 + delivered * 2 ^ 8 + i

/-- The slot that a DECANT has filled is published: its tile is delivered, by what the header says of it (R201, R234). -/
def State.decantPublish (s : State) (e : GEntry) (h header : Nat) : State :=
  (s.publishSlot e.task h).updateEntry
    { s.current e with failed := false, got := none, progress := (s.current e).progress ++
        [fieldOf header 27 20 + 256 * bit (bitOf header 5)] }

/-- A tile delivered to the ring, or with `publish` false only written into its slot. -/
def State.decantSlot (s : State) (e : GEntry) (h i gen : Nat) (poison publish : Bool) (data : List Byte) : State :=
  let header := slotHeader gen i false poison
  let s := s.writeSlot e.task h header data
  if publish then s.decantPublish e h header else s.updateEntry { s.current e with got := some (header, []) }

/-- A tile in HBM delivered to the ring, as the die's port has it, with the generation of that version (R257, R265; log entry 130). -/
def State.decantDeliver (s : State) (e : GEntry) (h i : Nat) (x : TileEntry) (publish : Bool) : State :=
  let d := dieOf s.cur
  let s := if s.dev.sys.under d x.addr 4096 then s.sys (·.swear d x) else s
  (s.dropRead [(x.addr, 4096)]).decantSlot e h i (s.dev.sys.genSeen d x) x.poisoned publish (s.dev.sys.bytes d false x.addr 4096)

/-- Whether the descriptor, the list entry or the table entry that names tile `i` lies on a poisoned line as the engine reads it
(R376). -/
def State.decantPoisoned (s : State) (e : GEntry) (td list i : Nat) : Bool :=
  let d := BitVec.ofNat 512 (leNat (s.engineRead s.cur e.task td 64))
  let cs := listCoords (s.vaultPart e.task (list + 16 * i) 16) list i
  s.decantBad e.task td (list + 16 * i) 1 ||
    ((List.range 4).any fun k => descInd d = k + 1 && s.enginePoisoned s.cur e.task (descTable d + 4 * cs.getD k 0) 4)

/-- The next tile of a DECANT: promoted to a fresh frame where it is not in HBM, and delivered once it is there (R201, R335). A read of
its old place that has failed delivers zeros, poisoned, and the tile stays where it is (R349, R357). Where what names the tile is
poisoned the command ends with POISON (R376): DEDUCED, log entry 129. -/
def State.fillDecant (s : State) (e : GEntry) (b : BitVec 512) (publish : Bool) : State :=
  let (td, list, n, h) := decantFields b
  if n ≤ e.progress.length then s
  else if e.got.isSome then (if publish then s.decantPublish e h ((e.got.map (·.1)).getD 0) else s)
  else
    let i := e.nextTile n
    let r := s.decantRef e td list i
    if s.decantPoisoned e td list i then s.settleCommand e (Done.plain 6 e.progress.length)
    else if s.dev.sys.arriving (dieOf s.cur) (s.entryPlace r.asid r.tid r.tile) then s
    else
    match s.reach r with
    | .error t => s.updateEntry { e with faulted := some { t with rem := i } }
    | .ok x =>
      if e.failed then s.decantSlot e h i x.gen true publish (List.replicate 4096 0)
      else if s.dev.sys.moving x.at_ then s
      else if x.here then s.decantDeliver e h i x publish
      else if !bitOf x.bits 1 || !s.canMove x then s.updateEntry { e with faulted := some { decantFault .trans r i with rem := i } }
      else
        match s.carryTile x with
        | none => s.settleCommand e (Done.plain 2 (decantRes r.tile e.progress.length i))
        | some s =>
          match s.lookup r.asid r.tid r.tile with
          | .ok x => if x.here then s.decantDeliver e h i x publish else s
          | .error _ => s

/-- The work of DECANT is done when its last tile has been delivered (R201); a poisoned tile makes the status POISON. -/
def State.workDecant (s : State) (e : GEntry) (b : BitVec 512) : EngineM (State × Done) :=
  let n := (decantFields b).2.2.1
  if n ≤ e.progress.length || s.isOver e.task then
    .ok (s, Done.plain (if e.progress.any (256 ≤ ·) then 6 else 0) e.progress.length)
  else .error (.wait s)

/-! ### Fills of ring slots -/

/-- Whether a command may fill a slot of ring `h`. -/
def State.mayFill (s : State) (e : GEntry) (h : Nat) : Bool :=
  !e.bad && s.cmdReady e && !s.isOver e.task && !s.fillWaits e h

/-- RING_SLOT_FILL (R187, R193, R197, R201, R234): the word at a place of the port fills its ring's next free slot, or
is discarded once its task has ended on every member (R105). -/
def execRingSlotFill (core ix : Nat) (s : State) : Next :=
  onCore core (fun s =>
    match s.core.port[ix]? with
    | none => s
    | some e =>
      if e.finished.isSome || e.faulted.isSome then s
      else
        match e.op with
        | .tldRing h r =>
          if s.isOver e.task then s.retire { e with acquire := false }
          else
            let s := if e.got.isNone && s.mayTransfer ix e then s.readSlot e h r else s
            match s.core.port[ix]? with
            | some e => if e.faulted.isNone then s.publishTile ix e h else s
            | none => s
        | .cmd .cpy _ b =>
          if s.mayFill e (cpyBlock b).dst && (cpyBlock b).rg then s.fillCpy e b true else s
        | .cmd .decant _ b => if s.mayFill e (decantFields b).2.2.2 then s.fillDecant e b true else s
        | _ => s) s

end Sys2Proof.Machine
end

