-- ==== Sys2Proof/Machine/Kv.lean ====
section
/-!
DEFINITION. Key-value pages: KAPP with its copy-on-write (R199, R324 to R328).
-/
namespace Sys2Proof.Machine

/-! ### The block and the page -/

/-- The legal values of a KAPP block (R192, R199). -/
def kappOk (b : BitVec 512) : Bool :=
  blkField b 0 8 < 2 ^ 57 && blkField b 0 8 % 8 == 0 && blkField b 8 1 < 16 && blkField b 9 3 == 0 &&
  blkArea (blkField b 12 4) 128 512 && blkArea (blkField b 16 4) 128 512 && blkZero b 20

/-- The checks of KAPP at issue. -/
def checkKapp (b : BitVec 512) : Except Stop Unit := do
  need (kappOk b) .eparm

/-- A KV page with its side entry (R324). -/
structure Page where
  data : List Byte
  ksc : Nat
  vsc : Nat
  cnt : Nat
  ref : Nat

/-- A KV page as the die's port has it. -/
def State.readPage (s : State) (x : TileEntry) : Page :=
  let side := s.dev.sys.bytes (dieOf s.cur) false (x.dir.side x.tile) 16
  { data := s.dev.sys.bytes (dieOf s.cur) false x.addr 4096, ksc := (side.getD 0 0).toNat, vsc := (side.getD 1 0).toNat,
    cnt := (side.getD 2 0).toNat, ref := s.dev.sys.refSeen (dieOf s.cur) (x.dir.side x.tile + 6) }

/-! ### Quantisation -/

/-- `RoundNE(x / 2^(e - 127))` for a finite f32 pattern, 0 for a NaN, none for an infinity (R199, R327). -/
def quantise (x e : Nat) : Option Int :=
  match f32.val x with
  | .nan _ => some 0
  | .inf _ => none
  | .fin neg m q => some (toInt .even neg m 1 (q - ((e : Int) - 127))).1

/-- All values of a row quantised; none where one is infinite. -/
def quantiseRow (xs : List Nat) (e : Nat) : Option (List Int) := xs.mapM fun x => quantise x e

/-- Whether every value fits Q8 (R199). -/
def fitsQ8 (q : List Int) : Bool := q.all fun v => v.natAbs ≤ 127

/-- The least shift from `sh` on with which every value fits; `fuel` bounds the search. -/
def leastShift (xs : List Nat) (e : Nat) : Nat → Nat → Option Nat
  | 0, _ => none
  | fuel + 1, sh => if ((quantiseRow xs (e + sh)).map fitsQ8).getD false then some sh else leastShift xs e fuel (sh + 1)

/-- `RoundNE(v / 2^sh)` (R199). -/
def shiftEven (v : Int) (sh : Nat) : Int := (toInt .even (v < 0) v.natAbs 1 (-(sh : Int))).1

/-- One half of an append: the new scale, the shift of the old tokens, the token's values, and whether the half was
rescaled. None where no scale serves (R199, R327). -/
def appendHalf (xs : List Nat) (sc : Nat) : Option (Nat × Nat × List Int × Bool) :=
  if sc = 255 then none
  else
    match quantiseRow xs sc with
    | none => none
    | some q =>
      if sc != 0 && fitsQ8 q then some (sc, 0, q, false)
      else
        let e := max sc 1
        match leastShift xs e (255 - e) 0 with
        | none => none
        | some sh => some (e + sh, sh, (quantiseRow xs (e + sh)).getD [], true)

/-- A half of a page with its old tokens shifted and a token written: `data` holds 16 tokens of 128 Q8 values. -/
def writeHalf (data : List Byte) (sh cnt pos : Nat) (q : List Int) : List Byte :=
  let old := (List.range 2048).map fun i =>
    let b := data.getD i 0
    if i / 128 < cnt then BitVec.ofInt 8 (shiftEven b.toInt sh) else b
  (List.range 2048).map fun i => if i / 128 = pos then BitVec.ofInt 8 (q.getD (i % 128) 0) else old.getD i 0

/-- KMIN or KMAX: the extreme of each dimension over the first `cnt` tokens (R324, R327). -/
def keyExtreme (k : List Byte) (cnt : Nat) (pick : Int → Int → Int) : List Byte :=
  (List.range 128).map fun d =>
    if cnt = 0 then 0
    else BitVec.ofInt 8 ((List.range (cnt - 1)).foldl (fun m t => pick m (k.getD (128 * (t + 1) + d) 0).toInt)
      (k.getD d 0).toInt)

/-- The page after the append of a token, with the status bits K and V rescaled; none completes SCALEOVF. -/
def Page.append (p : Page) (pos : Nat) (ks vs : List Nat) : Option (Page × Bool × Bool) :=
  match appendHalf ks p.ksc, appendHalf vs p.vsc with
  | some (ksc, ksh, kq, kr), some (vsc, vsh, vq, vr) =>
    some ({ p with
      data := writeHalf (p.data.take 2048) ksh p.cnt pos kq ++ writeHalf (p.data.drop 2048) vsh p.cnt pos vq
      ksc := ksc, vsc := vsc, cnt := p.cnt + 1 }, kr, vr)
  | _, _ => none

/-- The flags of the conversion of a row to Q8: NX for an inexact value, NV for a NaN (R56, R58; log entry 28). -/
def quantiseFlags (xs : List Nat) (e : Nat) : Nat :=
  xs.foldl (fun f x => joinFlags f (match f32.val x with
    | .nan _ => flagNV
    | .inf _ => 0
    | .fin neg m q => flagIf (toInt .even neg m 1 (q - ((e : Int) - 127))).2 flagNX)) 0

/-- The side entry of a page up to REF, and behind it (R324). -/
def Page.sideParts (p : Page) (sgen : Nat) : List Byte × List Byte :=
  let k := p.data.take 2048
  (fieldBytes [(1, p.ksc), (1, p.vsc), (1, p.cnt), (1, bit (p.data.all (· == 0))), (2, sgen)],
    fieldBytes [(4, pageCrc p.data p.ksc p.vsc), (4, 0)] ++ keyExtreme k p.cnt min ++ keyExtreme k p.cnt max ++ List.replicate 240 0)

/-- The side entry of a page (R324). -/
def Page.side (p : Page) (sgen : Nat) : List Byte := (p.sideParts sgen).1 ++ leBytes 2 p.ref ++ (p.sideParts sgen).2

/-! ### The append -/

/-- The f32 lanes of K or V. -/
def lanes32 (b : List Byte) : List Nat := lanesOf 32 128 (leNat b)

/-- The recorded checksum is compared before it is replaced (R325): a disagreement poisons the page and raises a
scrubber event. -/
def State.comparePage (s : State) (x : TileEntry) (p : Page) : Bool :=
  leNat (s.dev.sys.bytes (dieOf s.cur) false (x.dir.side x.tile + 8) 4) == pageCrc p.data p.ksc p.vsc

/-- A page and its side entry as one version written in place by the port of die `d`; its REF stays, and SGEN is that of the
generation which it makes (R265, R326). A page whose checksum disagreed takes poison with it (R325). -/
def Page.rewrite (p : Page) (d : Nat) (x : TileEntry) (gen : Nat) (good : Bool) : WEntry :=
  let side := x.dir.side x.tile
  let q := p.sideParts (sgenOf gen)
  { die := d, addr := x.addr, data := p.data, tiles := [{ x.mark good with version := true, poison := !good }],
    also := [(side, q.1), (side + 8, q.2)], sworn := true }

/-- The page written in place through the die's port, as one version, and the generation that it gets: its place among other agents'
writes to the page is settled with it (R265, R327; log entry 130). A page whose checksum disagreed raises a scrubber event (R325,
R374). -/
def State.writePage (s : State) (x : TileEntry) (p : Page) (good : Bool) : State × Nat :=
  let d := dieOf s.cur
  let s := s.sys (·.swear d x)
  let gen := (s.dev.sys.genSeen d x + 1) % 4096
  let s := s.sys (·.accept (p.rewrite d x gen good))
  (if good then s else s.scrubRecord 3 x.addr, gen)

/-- The tile numbers of a tensor that no page uses or is to take. -/
def State.freeTiles (s : State) (d : DirEntry) : List Nat :=
  (List.range d.len).filter fun t => !bitOf (s.dev.sys.homeNum (d.ttb + 8 * t) 8) 0 && !s.dev.sys.moving (d.ttb + 8 * t)

/-- A fresh page of a tensor: its tile number and frame; none without room. Which tile number a copied page takes the spec
leaves open (log entry 25). -/
def State.freshPage (s : State) (d : DirEntry) : Option (Nat × Nat × State) :=
  let l := s.freeTiles d
  match l[s.anyOf l.length]?, s.takeFrame 4096 0 with
  | some t, some (a, s) => some (t, a, s)
  | _, _ => none

/-- A sequence's entry that names another page (R328). -/
def spteNaming (old tid tile : Nat) : Nat := fieldOf old 63 56 * 2 ^ 56 + tid % 2 ^ 24 * 2 ^ 32 + tile % 2 ^ 32

/-- The bits of a new page's tile-table entry: V, P, KV, its frame and generation, and poison where the page it was copied from is bad
(R325, R338). -/
def freshBits (gen a : Nat) (good : Bool) : Nat := gen * 2 ^ 52 + a / 4096 * 4096 + 0x23 + bit (!good) * 16

/-- A tile new in an entry has had no line corrected (R380). -/
def State.newTile (s : State) (at_ : Nat) : State :=
  { s with dev := { s.dev with health := { s.dev.health with tileFixes := s.dev.health.tileFixes.set 0 at_ 0 } } }

/-- Copy-on-write (R199, R265): the appended copy with its side entry and tile-table entry, the 8-byte write that repoints the sequence's
entry at `va`, and the old page's count, as one write of the issuing die's port whose parts reach their homes in one step. A sequence's
entry that lies in a peer's memory goes behind it. `ref` is where the sequence's entry lies. -/
def State.copyPage (s : State) (e : GEntry) (ref spte tid t a : Nat) (x : TileEntry) (p : Page) (good : Bool) : State × Nat :=
  let y : TileEntry := { at_ := x.dir.ttb + 8 * t, bits := 0, dir := x.dir }
  let gen := (s.dev.sys.genAt y + 1) % 4096
  let name := leBytes 8 (spteNaming spte tid t)
  let far := isPeer ref
  let w : WEntry :=
    { die := dieOf s.cur, addr := a, data := p.data, tiles := if far then [] else s.marksAt ref 8
      also := [(x.dir.side t, { p with ref := 1 }.side (sgenOf gen)), (y.at_, leBytes 8 (freshBits gen a good))] ++
        (if far then [] else [(ref, name)])
      refs := [(x.dir.side x.tile + 6, false)] }
  let s := (s.sys (·.accept w)).newTile y.at_
  let s := if far then s.sys fun m => m.write (dieOf s.cur) e.task ref name [] else s
  (if good then s else s.scrubRecord 3 a, gen)

/-- The work of KAPP (R199, R327): its page is performed at core, cluster and die scope once the port has it, and at the wider ones at
its home (R259, R277). It waits while its die changes the page's entry (R265). The flags of its conversions join at completion (R58). -/
def State.workKapp (s : State) (e : GEntry) (b : BitVec 512) : EngineM (State × Done) := do
  let va := blkField b 0 8
  let pos := blkField b 8 1
  let (spte, s) ← s.engineNum e va 8
  let tid := fieldOf spte 55 32
  let tile := spte % 2 ^ 32
  if s.dev.sys.arriving (dieOf s.cur) (s.entryPlace e.asid tid tile) then .error (.wait s)
  let x ← match s.lookup e.asid tid tile with
    | .ok x => pure x
    | .error k => .error (.fault (flatFault k va 0) s)
  if !x.dir.kv || !bitOf x.bits 5 then .error (.code 4 va s)
  if !x.here then .error (.fault (tileFault .trans { asid := e.asid, tid := tid, tile := tile, coords := [], event := false, bad := false } 4096) s)
  if x.poisoned then .error (.code 6 e.anyRes s)
  let old := s.readPage x
  let s := s.readFor e [(x.addr, 4096), (x.dir.side x.tile, 512)]
  if pos ≠ old.cnt then .error (.code 0x0A e.anyRes s)
  if 1 < old.ref && (s.freshPage x.dir).isNone then .error (.code 2 e.anyRes s)
  let ks ← s.engineVault e (blkField b 12 4) 512
  let vs ← s.engineVault e (blkField b 16 4) 512
  match old.append pos (lanes32 ks) (lanes32 vs) with
  | none => .error (.code 9 e.anyRes s)
  | some (p, kr, vr) =>
    let good := s.comparePage x old
    let bits := bit kr * 2 + bit vr * 4
    let flags := joinFlags (quantiseFlags (lanes32 ks) p.ksc) (quantiseFlags (lanes32 vs) p.vsc)
    if 1 < old.ref then
      let (l, s) ← s.enginePieces e true va 8
      match s.freshPage x.dir with
      | none => .error (.code 2 e.anyRes s)
      | some (t, a, s) =>
        let (s, gen) := s.copyPage e ((l.map (·.1)).headD 0) spte tid t a x p good
        return (s, { Done.plain 0 (gen * 2 ^ 24 + bits + 1) with flags := flags })
    else
      let (s, gen) := s.writePage x p good
      return (s, { Done.plain 0 (gen * 2 ^ 24 + bits) with flags := flags })

end Sys2Proof.Machine
end

