-- ==== Sys2Proof/Machine/Trellis.lean ====
section
/-!
DEFINITION. The trellis: page groups and nodes, PMATCH, PINS and PREL (R200, R329 to R331), and eviction (R332).
-/
namespace Sys2Proof.Machine

/-! ### Bytes of trees and groups -/

/-- The word that stands for the tier manager: of no task. -/
def managerWord : GEntry := readerWord Core.blank 0

/-- The physical address of a VA in an address space; a walk that fails is a fault. -/
def State.treeAddr (s : State) (_ : GEntry) (asid va : Nat) : EngineM (Nat × State) :=
  match s.translate asid va false with
  | .ok (p, s) => .ok (p.addr, s)
  | .error k => .error (.fault (flatFault k va 0) s)

/-- A field of `n` bytes of a tree's record, as the engine reads it through the port of the issuing die; firmware reads it at its home
(R257, R264). -/
def State.treeNum (s : State) (e : GEntry) (asid va n : Nat) : EngineM (Nat × State) := do
  let (a, s) ← s.treeAddr e asid va
  return (if e.task = 0 then s.dev.sys.homeNum a n else leNat (s.dev.sys.bytes (dieOf s.cur) false a n), s)

/-- A write of a trellis engine goes through the port of the issuing die; firmware's is at home (R256). -/
def State.treeWrite (s : State) (e : GEntry) (w : WEntry) : State :=
  s.sys fun m => if e.task = 0 then m.settle w else m.accept { w with tree := true }

/-- A field written, whose leaf takes A and D (R256, R331, R341). Nodes are read-only to programs and not to the engine (R330). -/
def State.setTree (s : State) (e : GEntry) (asid va n x : Nat) : EngineM State :=
  match s.translate asid va false with
  | .ok (p, s) =>
    .ok ((setAD s p true).treeWrite e { die := dieOf s.cur, addr := p.addr, data := leBytes n x, tiles := s.marksAt p.addr n })
  | .error k => .error (.fault (flatFault k va 0) s)

/-- Whether a write of a trellis engine is still on its way: the next command, and firmware's evictions, wait for it (R200, R331). -/
def State.treeBusy (s : State) : Bool := s.dev.sys.wbuf.any (·.tree)

/-! ### Page groups (R329) -/

/-- The side entry of page `i` of a group: its physical address. -/
def State.pageSide (s : State) (e : GEntry) (asid grp i : Nat) : EngineM (Nat × State) := do
  let (r, s) ← s.treeNum e asid (grp + 16 + 8 * i) 8
  match s.dirEntry asid (fieldOf r 55 32) with
  | none => .error (.fault (flatFault .tdir grp 0) s)
  | some d => return (d.side (r % 2 ^ 32), s)

/-- The counts of a group's pages, in index order. -/
def State.groupCounts (s : State) (e : GEntry) (asid grp : Nat) : Nat → Nat → EngineM (List Nat × State)
  | 0, _ => .ok ([], s)
  | n + 1, i => do
    let (side, s) ← s.pageSide e asid grp i
    let (l, s) ← State.groupCounts s e asid grp n (i + 1)
    return ((if e.task = 0 then s.dev.sys.homeNum (side + 6) 2 else s.dev.sys.refSeen (dieOf s.cur) (side + 6)) :: l, s)

/-- Every page's count of a group one higher or lower, in index order. A count at 65,535 wraps to zero where a new node links the group:
DESIGN CHOICE, log entry 112. -/
def State.countPages (up : Bool) (e : GEntry) (asid grp : Nat) : Nat → Nat → State → EngineM State
  | 0, _, s => .ok s
  | n + 1, i, s => do
    let (side, s) ← s.pageSide e asid grp i
    State.countPages up e asid grp n (i + 1) (s.treeWrite e { die := dieOf s.cur, addr := side + 6, data := [], refs := [(side + 6, up)] })

/-- A group's counts. -/
def State.counts (s : State) (e : GEntry) (asid grp : Nat) : EngineM (List Nat × State) := do
  let (n, s) ← s.treeNum e asid grp 4
  s.groupCounts e asid grp (min n 65535) 0

/-- Every count of a group changed. -/
def State.countGroup (s : State) (up : Bool) (e : GEntry) (asid grp : Nat) : EngineM State := do
  let (n, s) ← s.treeNum e asid grp 4
  State.countPages up e asid grp (min n 65535) 0 s

/-! ### Nodes (R330) -/

/-- Whether a node is valid and holds the tokens. -/
def State.nodeHas (s : State) (e : GEntry) (asid va tok : Nat) : EngineM (Bool × State) := do
  let (t, s) ← s.treeNum e asid va 64
  let (f, s) ← s.treeNum e asid (va + 64) 8
  return (bitOf f 0 && t == tok, s)

/-- The first sibling from `va` on that holds the tokens, 0 where none does (R331). `fuel` bounds the chain. -/
def State.findChild (s : State) (e : GEntry) (asid tok : Nat) : Nat → Nat → EngineM (Nat × State)
  | 0, _ => .ok (0, s)
  | fuel + 1, va =>
    if va = 0 then .ok (0, s)
    else do
      let (hit, s) ← s.nodeHas e asid va tok
      if hit then return (va, s)
      let (sib, s) ← s.treeNum e asid (va + 96) 8
      State.findChild s e asid tok fuel sib

/-- No chain of siblings is longer than the nodes that 48 address bits can hold. -/
def chainFuel : Nat := 2 ^ 41

/-- The child of a node for a block, 0 where there is none. -/
def State.child (s : State) (e : GEntry) (asid node tok : Nat) : EngineM (Nat × State) := do
  let (c, s) ← s.treeNum e asid (node + 88) 8
  s.findChild e asid tok chainFuel c

/-- A node reached takes a new stamp (R330, R331). -/
def State.stamp (s : State) (e : GEntry) (asid node : Nat) : EngineM State :=
  s.setTree e asid (node + 104) 8 (s.cycle % 2 ^ 64)

/-- The tree that a ROOT number names, on whichever I/O die holds it: the die, the root's VA and its address space. -/
def MemSys.tree (m : MemSys) (root : Nat) : Option (Nat × Nat × Nat) :=
  match m.roots.get none root, m.roots.get none (2 ^ 32 + root) with
  | some (va, a), _ => some (0, va, a)
  | none, some (va, a) => some (1, va, a)
  | none, none => none

/-! ### Commands -/

/-- The legal values of a PMATCH block (R192, R200). -/
def pmatchOk (b : BitVec 512) : Bool :=
  blkField b 0 8 < 2 ^ 57 && blkField b 0 8 % 4 == 0 && 1 ≤ blkField b 20 2 && blkZero b 22 &&
  blkArea (blkField b 16 4) 8 (8 * min (blkField b 20 2) (blkField b 8 4 / 16))

/-- The legal values of a PINS block. -/
def pinsOk (b : BitVec 512) : Bool :=
  blkField b 0 8 < 2 ^ 57 && blkField b 0 8 % 4 == 0 && 1 ≤ blkField b 22 2 && blkZero b 24 &&
  blkArea (blkField b 16 4) 1 (8 * blkField b 22 2)

/-- The legal values of a PREL block. -/
def prelOk (b : BitVec 512) : Bool := 1 ≤ blkField b 4 2 && blkZero b 6 && blkArea (blkField b 0 4) 1 (8 * blkField b 4 2)

/-- The checks of a trellis command at issue. -/
def checkTrellis (ok : BitVec 512 → Bool) (b : BitVec 512) : Except Stop Unit := do
  need (ok b) .eparm

/-- The 64 bytes of block `i` of the tokens at `va`, as a number. -/
def State.blockTokens (s : State) (e : GEntry) (va i : Nat) : EngineM (Nat × State) := s.engineNum e ((va + 64 * i) % 2 ^ 57) 64

/-- The match of PMATCH from a node on: the groups of the chain (R200, R331). `n` is the blocks left. -/
def State.matchChain (e : GEntry) (asid va : Nat) : Nat → Nat → Nat → State → EngineM (List Nat × State)
  | 0, _, _, s => .ok ([], s)
  | n + 1, i, node, s => do
    let (tok, s) ← s.blockTokens e va i
    let (c, s) ← s.child e asid node tok
    if c = 0 then return ([], s)
    let (grp, s) ← s.treeNum e asid (c + 72) 8
    let (counts, s) ← s.counts e asid grp
    if counts.any (· == 65535) then return ([], s)
    let s ← s.stamp e asid c
    let s ← s.countGroup true e asid grp
    let (l, s) ← State.matchChain e asid va n (i + 1) c s
    return (grp :: l, s)

/-- The work of PMATCH. -/
def State.workPmatch (s : State) (e : GEntry) (b : BitVec 512) : EngineM (State × Done) :=
  match s.dev.sys.tree (blkField b 12 4) with
  | none => .error (.code 4 0 s)
  | some (_, root, asid) => do
    let s ← s.stamp e asid root
    let (l, s) ← State.matchChain e asid (blkField b 0 8) (min (blkField b 8 4 / 16) (blkField b 20 2)) 0 root s
    return (s, ⟨0, l.length, [(blkField b 16 4, l.flatMap (leBytes 8))], 0⟩)

/-- The node that the first `n` blocks lead to, 0 where the chain breaks. -/
def State.follow (e : GEntry) (asid va : Nat) : Nat → Nat → Nat → State → EngineM (Nat × State)
  | 0, _, node, s => .ok (node, s)
  | n + 1, i, node, s => do
    let (tok, s) ← s.blockTokens e va i
    let (c, s) ← s.child e asid node tok
    if c = 0 then return (0, s)
    let s ← s.stamp e asid c
    State.follow e asid va n (i + 1) c s

/-- A node from an I/O die's pool. -/
def MemSys.takeNode (m : MemSys) (iod : Nat) : Option (Nat × MemSys) :=
  match m.nodes.find? fun x => x.1 == iod with
  | none => none
  | some x => some (x.2, { m with nodes := m.nodes.erase x })

/-- A new node linked as the first child of its parent; its group takes one reference, and a page's count of 65,535 becomes 0
(R200, R331; log entry 112). -/
def State.linkNode (s : State) (e : GEntry) (asid parent new tok grp : Nat) : EngineM State := do
  let (sib, s) ← s.treeNum e asid (parent + 88) 8
  let s ← s.setTree e asid new 64 tok
  let s ← s.setTree e asid (new + 64) 64
    (1 + grp * 2 ^ 64 + parent * 2 ^ 128 + sib * 2 ^ 256 + s.cycle % 2 ^ 64 * 2 ^ 320)
  let s ← s.setTree e asid (parent + 88) 8 new
  s.countGroup true e asid grp

/-- The insertion of PINS: blocks `i` on, `k` of the list on. -/
def State.insertChain (e : GEntry) (iod asid va list : Nat) : Nat → Nat → Nat → Nat → Nat → State → EngineM (State × Done)
  | 0, _, _, _, added, s => .ok (s, Done.plain 0 added)
  | n + 1, i, k, node, added, s => do
    let (tok, s) ← s.blockTokens e va i
    let (c, s) ← s.child e asid node tok
    if c ≠ 0 then
      let s ← s.stamp e asid c
      State.insertChain e iod asid va list n (i + 1) (k + 1) c added s
    else
      match s.dev.sys.takeNode iod with
      | none => return (s, Done.plain 2 added)
      | some (new, m) => do
        let g ← s.engineVault e (list + 8 * k) 8
        let s ← (s.sys fun _ => m).linkNode e asid node new tok (leNat g)
        State.insertChain e iod asid va list n (i + 1) (k + 1) new (added + 1) s

/-- The work of PINS. Only whole blocks of the tokens take part; what a broken chain completes with the spec does not say
(log entry 26). -/
def State.workPins (s : State) (e : GEntry) (b : BitVec 512) : EngineM (State × Done) :=
  match s.dev.sys.tree (blkField b 12 4) with
  | none => .error (.code 4 0 s)
  | some (iod, root, asid) => do
    let first := blkField b 20 2
    let s ← s.stamp e asid root
    let (node, s) ← State.follow e asid (blkField b 0 8) (min first (blkField b 8 4 / 16)) 0 root s
    if node = 0 || blkField b 8 4 / 16 < first then return (s, Done.plain (Config.pinsBroken e.key % 256) e.anyRes)
    State.insertChain e iod asid (blkField b 0 8) (blkField b 16 4) (min (blkField b 22 2) (blkField b 8 4 / 16 - first)) first
      0 node 0 s

/-- The groups of PREL from entry `i` on: whether one was at zero already. Of a group with some counts at zero the others fall, and only
one with all at zero is BADREF. DESIGN CHOICE, log entry 113. -/
def State.releaseGroups (e : GEntry) (list : Nat) : Nat → Nat → Bool → State → EngineM (State × Done)
  | 0, _, bad, s => .ok (s, Done.plain (if bad then 0x0B else 0) e.anyRes)
  | n + 1, i, bad, s => do
    let g ← s.engineVault e (list + 8 * i) 8
    let (counts, s) ← s.counts e e.asid (leNat g)
    let s ← s.countGroup false e e.asid (leNat g)
    State.releaseGroups e list n (i + 1) (bad || counts.all (· == 0)) s

/-- The work of PREL: its group addresses are the issuing task's, where PMATCH and PINS take their tree's address space. DESIGN CHOICE,
log entry 111. -/
def State.workPrel (s : State) (e : GEntry) (b : BitVec 512) : EngineM (State × Done) :=
  State.releaseGroups e (blkField b 0 4) (blkField b 4 2) 0 false s

/-! ### Eviction (R332) -/

/-- A node's field, 0 where it cannot be read. -/
def State.nodeField (s : State) (asid va n : Nat) : Nat :=
  match s.treeNum managerWord asid va n with
  | .ok (x, _) => x
  | .error _ => 0

/-- The pages of a group. -/
def State.groupPages (s : State) (asid grp : Nat) : List TileEntry :=
  (List.range (s.nodeField asid grp 4)).filterMap fun i =>
    let r := s.nodeField asid (grp + 16 + 8 * i) 8
    match s.lookup asid (fieldOf r 55 32) (r % 2 ^ 32) with
    | .ok x => some x
    | .error _ => none

/-- Whether a node's group is evictable: every count is zero. -/
def State.evictable (s : State) (asid node : Nat) : Bool :=
  let e := managerWord
  match s.treeNum e asid (node + 72) 8 with
  | .ok (g, _) =>
    g ≠ 0 &&
    !((s.groupPages asid g).any fun x => s.dev.sys.moving x.at_) &&
    match s.counts e asid g with
    | .ok (l, _) => l.all (· == 0)
    | .error _ => false
  | .error _ => false

/-- The nodes below those waiting, in the order met; `fuel` bounds their number. -/
def State.nodesFrom (s : State) (asid : Nat) : Nat → List Nat → List Nat
  | 0, _ => []
  | _, [] => []
  | fuel + 1, v :: rest =>
    if v = 0 then State.nodesFrom s asid fuel rest
    else v :: State.nodesFrom s asid fuel (s.nodeField asid (v + 88) 8 :: s.nodeField asid (v + 96) 8 :: rest)

/-- Whether the pages of a node's group have all left HBM. -/
def State.demoted (s : State) (asid node : Nat) : Bool :=
  !((s.groupPages asid (s.nodeField asid (node + 72) 8)).any (·.here))

/-- Whether a node of a tree can be evicted, by demoting the pages of its evictable group, or by removing a leaf whose pages have been
demoted (R332). -/
def State.candidate (s : State) (asid node : Nat) (remove : Bool) : Bool :=
  s.evictable asid node && s.demoted asid node == remove && (!remove || s.nodeField asid (node + 88) 8 == 0)

/-- Whether no other node of the tree that can be evicted so was reached longer ago (R332). -/
def State.oldest (s : State) (asid root node : Nat) (remove : Bool) : Bool :=
  (s.nodesFrom asid 4294967296 [s.nodeField asid (root + 88) 8]).all fun v =>
    !s.candidate asid v remove || s.nodeField asid (node + 104) 8 ≤ s.nodeField asid (v + 104) 8

/-- A page demoted to a lower tier, or to firmware's record; one that is being read stays (R335). -/
def State.demote (s : State) (x : TileEntry) : State :=
  let x := { x with bits := s.dev.sys.homeNum x.at_ 8 }
  if !x.here || s.dev.sys.moving x.at_ || s.tileInUse x.at_ then s
  else
    match [1, 2, 3][s.anyOf 4]? with
    | none => s.moveTile x none 0
    | some tier =>
      match s.takeFrame 4096 tier with
      | none => s.moveTile x none 0
      | some (a, s) => s.moveTile x (some a) tier

/-- A page freed with its frame, its entry and its count. -/
def State.freePage (s : State) (x : TileEntry) : State :=
  let s := if bitOf x.bits 1 then s.sys fun m => (m.flush x.addr 4096).free x.addr 4096 else s
  s.sys fun m => { m with mem := m.mem.setNum x.at_ 8 (fieldOf (m.homeNum x.at_ 8) 63 52 * 2 ^ 52)
                          records := m.records.set [] x.at_ [] }

/-- A node unlinked from its parent's children. -/
def State.unlink (s : State) (asid node : Nat) : EngineM State := do
  let e := managerWord
  let parent := s.nodeField asid (node + 80) 8
  let sib := s.nodeField asid (node + 96) 8
  let first := s.nodeField asid (parent + 88) 8
  if first = node then s.setTree e asid (parent + 88) 8 sib
  else
    match (s.nodesFrom asid 4294967296 [first]).find? fun v => s.nodeField asid (v + 96) 8 == node with
    | some v => s.setTree e asid (v + 96) 8 sib
    | none => return s

/-- Whether a node of a tree may be evicted. -/
def State.mayEvict (s : State) (asid root node : Nat) (remove : Bool) : Bool :=
  bitOf (s.nodeField asid (node + 64) 8) 0 && !bitOf (s.nodeField asid (node + 64) 8) 1 && s.candidate asid node remove &&
  s.oldest asid root node remove

/-- The memory of a range of virtual addresses freed. -/
def State.freeRange (s : State) (asid va n : Nat) : State :=
  match s.range asid false va n with
  | .ok (l, _) => s.sys fun m => l.foldl (fun (m : MemSys) p => (m.flush p.1 p.2).free p.1 p.2) m
  | .error _ => s

/-- A page group evicted: its pages go to a lower tier and the node stays; or a leaf is unlinked and its pages, record
and node are freed. -/
def State.evict (s : State) (iod asid node : Nat) (remove : Bool) : State :=
  let grp := s.nodeField asid (node + 72) 8
  let pages := s.groupPages asid grp
  if !remove then
    (List.range (s.nodeField asid grp 4)).foldl (fun s i =>
      let r := s.nodeField asid (grp + 16 + 8 * i) 8
      match s.lookup asid (fieldOf r 55 32) (r % 2 ^ 32) with
      | .ok x => s.demote x
      | .error _ => s) s
  else
    match s.unlink asid node with
    | .error _ => s
    | .ok s =>
      let s := (pages.foldl State.freePage s).freeRange asid grp (16 + 8 * s.nodeField asid grp 4)
      match s.setTree managerWord asid (node + 64) 8 0 with
      | .error _ => s
      | .ok s => s.sys fun m => { m with nodes := m.nodes ++ [(iod, node)] }

/-- GROUP_EVICTION (R332): of the tree numbered `root` of an I/O die, in ascending LRU order. -/
def execGroupEviction (iod root node : Nat) (remove : Bool) (s : State) : Next :=
  match s.dev.sys.roots.get none (iod * 2 ^ 32 + root) with
  | none => .next s
  | some (va, asid) => .next (if !s.treeBusy && s.mayEvict asid va node remove then s.evict iod asid node remove else s)

end Sys2Proof.Machine
end

