-- ==== Sys2Proof/Machine/Collect.lean ====
section
/-!
DEFINITION. Collectives: BLEND and COLL (R202 to R204), and the exchange of COLL packets (R361, R363, R364).
-/
namespace Sys2Proof.Machine

/-! ### Merging -/

/-- A partial state of one row: m, l and o (R202). -/
structure Triple where
  m : Nat
  l : Nat
  o : List Nat

/-- `a > b` for f32 patterns, false beside a NaN. -/
def fGreater (a b : Nat) : Bool := !(f32.val a).isNan && !(f32.val b).isNan && (f32.val b).lt (f32.val a)

/-- `a + b · f`, each step rounded. -/
def addScaled (a b f : Nat) : Nat × Nat :=
  let (p, h) := fmul f32 b f
  let (x, k) := fadd f32 a p
  (x, h ||| k)

/-- Merge (R202), with its flags. -/
def merge (l r : Triple) : Triple × Nat :=
  let (a, b) := if fGreater r.m l.m then (r, l) else (l, r)
  let (f, h) := if b.m = 0xFF800000 then (0, 0)
    else
      let (x, j) := fsub f32 b.m a.m
      let (y, k) := exp2H x
      (y, j ||| k)
  let (s, k) := addScaled a.l b.l f
  let os := (a.o.zip b.o).map fun p => addScaled p.1 p.2 f
  (⟨a.m, s, os.map (·.1)⟩, os.foldl (fun w p => w ||| p.2) (h ||| k))

/-- Normalise (R202). -/
def normalise (t : Triple) : Triple × Nat :=
  if (f32.val t.l).isZero then ({ t with o := t.o.map fun _ => 0 }, flagEMPTYROW)
  else
    let os := t.o.map fun x => fdiv f32 x t.l
    ({ t with o := os.map (·.1) }, os.foldl (fun w p => w ||| p.2) 0)

/-- The row layout of R203. -/
def Triple.bytes (t : Triple) : List Byte := leBytes 4 t.m ++ leBytes 4 t.l ++ leBytes 8 0 ++ t.o.flatMap (leBytes 4)

/-- A row of `16 + 4d` bytes. -/
def tripleOf (b : List Byte) : Triple :=
  let l := lanesOf 32 (b.length / 4) (leNat b)
  ⟨l.getD 0 0, l.getD 1 0, l.drop 4⟩

/-- A byte string cut into pieces of `n` bytes; `fuel` is at least their number. -/
def cut (n : Nat) : Nat → List Byte → List (List Byte)
  | 0, _ => []
  | fuel + 1, l => if l.isEmpty then [] else l.take n :: cut n fuel (l.drop n)

/-- ROWS, DH and MODE of a blend's SHAPE (R361). -/
def CollSig.rows (g : CollSig) : Nat := fieldOf g.shape 7 0
/-- Bytes of a blend's row. -/
def CollSig.rowSize (g : CollSig) : Nat := 16 + 32 * fieldOf g.shape 15 8
/-- MODE. -/
def CollSig.mode (g : CollSig) : Nat := fieldOf g.shape 23 16
/-- A blend. -/
def CollSig.blend (g : CollSig) : Bool := g.op == 0x80

/-- The combination of two payloads, left operand first, with its flags (R202, R204). -/
def combine (g : CollSig) (x y : List Byte) : List Byte × Nat :=
  if g.blend then
    let rows := (cut g.rowSize 64 x).zip (cut g.rowSize 64 y)
    rows.foldl (fun (w : List Byte × Nat) r =>
      let (t, f) := merge (tripleOf r.1) (tripleOf r.2)
      (w.1 ++ t.bytes, w.2 ||| f)) ([], 0)
  else if g.op = 4 then (x ++ y, 0)
  else if g.op = 5 ∨ g.op = 6 then (x, 0)
  else
    let ps := (lanesOf 32 (x.length / 4) (leNat x)).zip (lanesOf 32 (y.length / 4) (leNat y))
    let rs := ps.map fun p =>
      if g.op = 0 then fadd f32 p.1 p.2
      else if g.op = 1 then ((p.1 + p.2) % 2 ^ 32, 0)
      else if g.op = 2 then fmax f32 p.1 p.2
      else fmin f32 p.1 p.2
    (rs.flatMap fun r => leBytes 4 r.1, rs.foldl (fun w r => w ||| r.2) 0)

/-- The value of two sibling subtrees, the right one from rank `mid` to below `hi`: of a broadcast the one that holds ROOT's elements
(R204, R363). -/
def siblings (g : CollSig) (mid hi : Nat) (x y : List Byte) : List Byte × Nat :=
  let root := fieldOf g.shape 27 16
  if g.op = 5 && mid ≤ root && root < hi then (y, 0) else combine g x y

/-- The value of the RankTree's node `j` of level `k` over `p` ranks (R202), with its flags: the combination of its children where both
are to be had, else a piece that covers exactly the node's ranks. -/
def treeNode (g : CollSig) (piece : Nat → Nat → Option (List Byte × Nat)) : Nat → Nat → Option (List Byte × Nat)
  | 0, j => piece j j
  | k + 1, j =>
    let lo := j * 2 ^ (k + 1)
    let whole := piece lo (min g.p (lo + 2 ^ (k + 1)) - 1)
    match treeNode g piece k (2 * j) with
    | none => whole
    | some (x, f) =>
      if g.p ≤ (2 * j + 1) * 2 ^ k then some (x, f)
      else
        match treeNode g piece k (2 * j + 1) with
        | none => whole
        | some (y, h) =>
          let (z, i) := siblings g ((2 * j + 1) * 2 ^ k) ((2 * j + 2) * 2 ^ k) x y
          some (z, f ||| h ||| i)

/-- The value over all ranks, of a broadcast ROOT's contribution: no arithmetic gives a broadcast a flag. -/
def treeRoot (g : CollSig) (piece : Nat → Nat → Option (List Byte × Nat)) : Option (List Byte × Nat) :=
  (treeNode g piece 12 0).map fun x => (x.1, if g.op = 5 then 0 else x.2)

/-- What stands at OUT for a value over all ranks. -/
def finalBytes (g : CollSig) (b : List Byte) : List Byte × Nat :=
  if g.blend && bitOf g.mode 0 then
    (cut g.rowSize 64 b).foldl (fun (w : List Byte × Nat) r =>
      let (t, f) := normalise (tripleOf r)
      (w.1 ++ t.bytes, w.2 ||| f)) ([], 0)
  else (b, 0)

/-! ### The blocks -/

/-- The legal values of a BLEND block (R192, R203). -/
def blendOk (b : BitVec 512) (scope : Nat) : Bool :=
  let p := blkField b 4 2
  let d := 8 * blkField b 9 1
  let rs := blkField b 20 2
  let span := rs * (blkField b 8 1 - 1) + 16 + 4 * d
  scope != 0 && 1 ≤ p && p ≤ 4096 && blkField b 6 2 < p && 1 ≤ blkField b 8 1 && blkField b 8 1 ≤ 64 &&
  1 ≤ blkField b 9 1 && blkField b 9 1 ≤ 32 && blkField b 10 1 < 4 && blkField b 11 1 == 0 && rs % 64 == 0 &&
  16 + 4 * d ≤ rs && blkArea (blkField b 12 4) 64 span && blkArea (blkField b 16 4) 64 span && blkZero b 22

/-- The legal values of a COLL block (R192, R204). -/
def collOk (b : BitVec 512) (scope : Nat) : Bool :=
  let p := blkField b 4 2
  let op := blkField b 8 1
  let n := blkField b 20 4
  scope != 0 && 1 ≤ p && p ≤ 4096 && blkField b 6 2 < p && op ≤ 6 && blkField b 9 1 == 0 && blkZero b 24 &&
  (op == 6 || (1 ≤ n && n ≤ 16384 && blkArea (blkField b 12 4) 1 (4 * n) &&
    blkArea (blkField b 16 4) 1 (4 * n * (if op = 4 then p else 1)))) &&
  (op != 5 || blkField b 10 2 < p)

/-- The checks of a collective at issue. -/
def checkCollective (ok : BitVec 512 → Nat → Bool) (scope : Nat) (b : BitVec 512) : Except Stop Unit := do
  need (ok b scope) .eparm

/-- What a BLEND's block declares to the others. -/
def blendSig (b : BitVec 512) : CollSig :=
  ⟨0x80, blkField b 4 2, blkField b 8 1 + blkField b 9 1 * 2 ^ 8 + blkField b 10 1 * 2 ^ 16⟩

/-- What a COLL's block declares; N is ignored in a barrier. -/
def collSig (b : BitVec 512) : CollSig :=
  let op := blkField b 8 1
  ⟨op, blkField b 4 2, (if op = 6 then 0 else blkField b 20 4 % 2 ^ 16) + blkField b 10 2 % 2 ^ 12 * 2 ^ 16⟩

/-- The declaration of a collective's word. -/
def GEntry.collSig? (e : GEntry) : Option CollSig :=
  match e.op with
  | .cmd .blend _ b => some (blendSig b)
  | .cmd .coll _ b => some (collSig b)
  | _ => none

/-- The block of a command. -/
def GEntry.block (e : GEntry) : BitVec 512 :=
  match e.op with
  | .cmd _ _ b => b
  | _ => 0

/-- TAG. -/
def GEntry.tag (e : GEntry) : Word32 := BitVec.ofNat 32 (blkField e.block 0 4)

/-- A participant's payload as it stands in its vault (R266). -/
def State.payload (s : State) (e : GEntry) (g : CollSig) : EngineM (List Byte) :=
  let b := e.block
  if g.blend then do
    let rows ← (List.range g.rows).mapM fun k => s.engineVault e (blkField b 12 4 + k * blkField b 20 2) g.rowSize
    return (rows.map fun r => (tripleOf r).bytes).flatten
  else if g.op = 6 then .ok []
  else s.engineVault e (blkField b 12 4) (4 * blkField b 20 4)

/-- What a participant writes at its OUT (R203, R204). -/
def outputs (e : GEntry) (g : CollSig) (bytes : List Byte) : List (Nat × List Byte) :=
  let b := e.block
  let out := blkField b 16 4
  if g.op = 6 then []
  else if g.blend then
    if bitOf g.mode 1 && blkField b 6 2 ≠ 0 then []
    else ((List.range g.rows).zip (cut g.rowSize 64 bytes)).map fun r => (out + r.1 * blkField b 20 2, r.2)
  else [(out, bytes)]

/-! ### Domains and uses -/

/-- The tenants of the task that issued a word, whatever runs on the core now. -/
def State.tenantsOf (s : State) (e : GEntry) : BitVec 7 :=
  (((s.task? e.task).bind fun t => s.group? t.group).map (·.tenants)).getD (s.view e.task).ctl.tenants

/-- The system group of the tenants of a word's task: the lowest tenant that has one (R203, R363). -/
def State.tenantOf (s : State) (e : GEntry) : Nat :=
  ((List.range 7).find? fun k =>
    (s.tenantsOf e).getLsbD k && !(s.dev.fabric.groups.get [] (k + 1)).isEmpty).map (· + 1) |>.getD 0

/-- The domain of a collective at its word's scope: the scope and which cluster, die or group (R203). -/
def State.domainOf (s : State) (e : GEntry) : Nat :=
  e.scope * 2 ^ 32 +
    (if e.scope = 1 then s.cur / 16 else if e.scope = 2 then dieOf s.cur else if e.scope = 3 then 0 else s.tenantOf e)

/-- Whether a domain is a system group. -/
def isSystem (domain : Nat) : Bool := domain / 2 ^ 32 == 4

/-- Whether a use is the one of a tag within a domain. Within a system group a BLEND and a COLL of one tag meet, and mismatch (R361);
elsewhere each kind has its own uses (R203, R204). -/
def Collective.is (c : Collective) (domain : Nat) (blend : Bool) (tag : Word32) : Bool :=
  c.domain == domain && (isSystem domain || c.sig.blend == blend) && c.tag == tag

/-- A use replaced, begun, or removed. -/
def Fabric.setUse (f : Fabric) (c : Collective) (new : Option Collective) : Fabric :=
  { f with colls :=
      match new with
      | none => f.colls.filter (·.num != c.num)
      | some d => if f.colls.any (·.num == c.num) then f.colls.map fun x => if x.num = c.num then d else x else f.colls ++ [d] }

/-- The words of a use are done: each gets its own outcome (R203). -/
def State.finishUse (s : State) (c : Collective) (outcome : GEntry → Done) : State :=
  c.contribs.foldl (fun s x => s.modAt x.core fun k =>
    { k with port := k.port.map fun e => if e.key = x.key then { e with finished := some (outcome e) } else e })
    (s.fabric fun f => f.setUse c none)

/-- Bytes of the payload of a rank range (R361). -/
def CollSig.rangeBytes (g : CollSig) (lo hi : Nat) : Nat :=
  if g.blend then g.rows * g.rowSize
  else if g.op = 6 then 0
  else 4 * fieldOf g.shape 15 0 * (if g.op = 4 then hi + 1 - lo else 1)

/-- The bytes of the range that a part belongs to, if packets of its sender have brought them all, in any order (R361). -/
def Collective.whole (c : Collective) (q : CollPart) : Option (List Byte) :=
  let ps := c.parts.filter fun p =>
    p.final == q.final && p.peer == q.peer && p.sig == q.sig && p.lo == q.lo && p.hi == q.hi
  (List.range (q.sig.rangeBytes q.lo q.hi)).mapM fun i =>
    (ps.find? fun p => p.first ≤ i && i < p.first + p.bytes.length).bind fun p => p.bytes[i - p.first]?

/-- Whether a part is the first of a range that has arrived whole. -/
def Collective.heads (c : Collective) (p : CollPart) : Bool := p.first == 0 && (c.whole p).isSome

/-- The single contributions of other packages that have arrived whole. -/
def Collective.singles (c : Collective) : List CollPart := c.parts.filter fun p => !p.final && p.lo == p.hi && c.heads p

/-- The merged ranges that have arrived whole. -/
def Collective.merged (c : Collective) : List CollPart := c.parts.filter fun p => !p.final && p.lo != p.hi && c.heads p

/-- The piece of a rank range with its flags: a participant's own, or what packets have brought. -/
def Collective.piece (c : Collective) (lo hi : Nat) : Option (List Byte × Nat) :=
  match c.contribs.find? fun x => lo == hi && x.rank == lo with
  | some x => some (x.bytes, 0)
  | none =>
    match (c.singles ++ c.merged).find? fun p => p.sig == c.sig && p.lo == lo && p.hi == hi with
    | some p => (c.whole p).map fun b => (b, if lo = hi then 0 else Config.remoteFlags c.num % 2 ^ 5)
    | none => none

/-- The ranks of the contributions that have arrived one by one. -/
def Collective.ranks (c : Collective) : List Nat := c.contribs.map (·.rank) ++ c.singles.map (·.lo)

/-- How many contributions have arrived (R203): those that came one by one, and those that only a merged range holds. -/
def Collective.count (c : Collective) : Nat :=
  c.ranks.length + ((List.range c.sig.p).filter fun r => !c.ranks.contains r && c.merged.any fun p => p.lo ≤ r && r ≤ p.hi).length

/-- Whether a use holds contributions that disagree, or ranks that repeat (R203, R361). -/
def Collective.mismatch (c : Collective) : Bool :=
  !(c.contribs.all fun x => x.sig == c.sig) || !(c.parts.all fun x => x.sig == c.sig) || !(decide c.ranks.Nodup)

/-- A participant's outcome of a use: MISMATCH writes nothing. -/
def doneWith (g : CollSig) (bytes : List Byte) (flags : Nat) (e : GEntry) : Done :=
  ⟨0, if g.blend then g.p else e.anyRes, outputs e g bytes, flags⟩

/-- Every participant completes with a code and nothing at OUT. -/
def doneWithout (code : Nat) (e : GEntry) : Done := Done.plain code e.anyRes

/-! ### Packets -/

/-- The COLL head (R361). -/
def collHead (g : CollSig) (lo hi dir first : Nat) : List Byte :=
  fieldBytes [(2, lo), (2, hi), (2, g.p), (1, g.op), (1, dir), (4, g.shape), (4, first)]

/-- Bytes of one item. -/
def CollSig.item (g : CollSig) : Nat := if g.blend then g.rowSize else 4

/-- The bytes of a rank range's payload that a packet holds: whole items, as many as fit (R361). -/
def CollSig.packet (g : CollSig) : Nat := 8176 / g.item * g.item

/-- The payloads of the packets of a rank range: whole items, as many as fit (R361). -/
def collPayloads (g : CollSig) (lo hi dir : Nat) (bytes : List Byte) : List (List Byte) :=
  if bytes.isEmpty then [collHead g lo hi dir 0]
  else
    let cs := cut g.packet (bytes.length + 1) bytes
    ((List.range cs.length).zip cs).map fun c => collHead g lo hi dir (c.1 * (8176 / g.item)) ++ c.2

/-- The other packages of a domain's group (R363). -/
def State.peersOf (s : State) (domain : Nat) : List Nat :=
  ((s.dev.fabric.groups.get [] (domain % 2 ^ 32)).filter (· < 512)).eraseDups

/-- Packets of a rank range put out for every other package of the group. -/
def State.sendRange (s : State) (domain : Nat) (tag : Word32) (g : CollSig) (lo hi dir : Nat) (bytes : List Byte) : State :=
  let out := (s.peersOf domain).flatMap fun peer => (collPayloads g lo hi dir bytes).map fun b => (peer, tag, b)
  s.fabric fun f => Fabric.pump { f with outbox := f.outbox ++ out }

/-! ### The course of a use -/

/-- Which packet of a use a part is: the result or not, first and last rank, first byte. -/
def CollPart.key (p : CollPart) : Bool × Nat × Nat × Nat := (p.final, p.lo, p.hi, p.first)

/-- A use as it ends for another package: what that one has sent of it. -/
def Collective.past (c : Collective) (bad : Bool) (peer : Nat) : PastUse :=
  { domain := c.domain, tag := c.tag, peer := peer, sig := if bad then none else some c.sig
    had := (c.parts.filter (·.peer == peer)).map (·.key) }

/-- The number that stands for this package among those of a use that has ended. -/
def ownPackage : Nat := 512

/-- A use as it ends in MISMATCH for the participants of this package: the ranks below the largest P declared, and those that have
contributed. -/
def Collective.ownPast (c : Collective) : PastUse :=
  let p := (c.contribs.map (·.sig.p) ++ c.parts.map (·.sig.p)).foldl max c.sig.p
  { domain := c.domain, tag := c.tag, peer := ownPackage, sig := some { c.sig with p := p }
    had := c.contribs.map fun x => (false, x.rank, x.rank, 0) }

/-- A system use that has closed still has those packets of the other packages that are under way, and after a MISMATCH the participants
that have yet to contribute (log entry 94). -/
def State.keepPast (s : State) (c : Collective) (bad : Bool) : State :=
  if isSystem c.domain then
    s.fabric fun f => { f with
      late := (f.late.filter fun u => !(u.domain == c.domain && u.tag == c.tag)) ++ (s.peersOf c.domain).map (c.past bad) ++
        (if bad then [c.ownPast] else []) }
  else s

/-- Every participant of a use completes MISMATCH, and nothing is written (R203, R361). -/
def State.mismatchUse (s : State) (c : Collective) : State := (s.finishUse c (doneWithout 7)).keepPast c true

/-- A use is done with a result. -/
def State.doneUse (s : State) (c : Collective) (bytes : List Byte) (flags : Nat) : State :=
  (s.finishUse c (doneWith c.sig bytes flags)).keepPast c false

/-- A use closes: it completes everywhere, or MISMATCH. -/
def State.closeUse (s : State) (c : Collective) : State :=
  match if c.mismatch then none else treeRoot c.sig c.piece with
  | none => s.mismatchUse c
  | some (b, f) =>
    let (out, h) := finalBytes c.sig b
    let s := s.doneUse c out (f ||| h)
    if isSystem c.domain then s.sendRange c.domain c.tag c.sig 0 (c.sig.p - 1) 1 out else s

/-- Whether a use has every contribution: as many as P (R203). -/
def Collective.complete (c : Collective) : Bool := c.sig.p ≤ c.count

/-- Flags that a result itself shows: EMPTYROW where a normalised row has l = 0 (R202). -/
def resultFlags (g : CollSig) (b : List Byte) : Nat :=
  if g.blend && bitOf g.mode 0 && (cut g.rowSize 64 b).any fun r => (f32.val (tripleOf r).l).isZero then flagEMPTYROW else 0

/-- The final result of a use as a package of the group has sent it, if it has. -/
def Collective.result (c : Collective) : Option (List Byte) :=
  (c.parts.find? fun p => p.final && p.sig == c.sig && p.lo == 0 && p.hi + 1 == c.sig.p && c.heads p).bind c.whole

/-- The merged ranges below the root that start with a rank of this package and are complete: first and last rank, and bytes
(R361, R363). -/
def Collective.toSend (c : Collective) : List (Nat × Nat × List Byte) :=
  (List.range 12).flatMap fun k => (List.range (ceilDiv c.sig.p (2 ^ (k + 1)))).filterMap fun j =>
    let lo := j * 2 ^ (k + 1)
    let hi := min c.sig.p (lo + 2 ^ (k + 1)) - 1
    if lo = hi || hi + 1 - lo = c.sig.p || c.sent.contains (lo, hi) || !(c.contribs.any (·.rank == lo)) then none
    else (treeNode c.sig c.piece (k + 1) j).map fun x => (lo, hi, x.1)

/-- The merged ranges that a package has ready are sent on (R361). -/
def State.sendMerged (s : State) (c : Collective) : State :=
  if c.mismatch then s
  else
    c.toSend.foldl (fun (s : State) x =>
      let d := (s.dev.fabric.colls.find? (·.num == c.num)).getD c
      if d.sent.contains (x.1, x.2.1) then s
      else (s.fabric fun f => f.setUse d (some { d with sent := d.sent ++ [(x.1, x.2.1)] })).sendRange c.domain c.tag c.sig x.1 x.2.1 0 x.2.2)
      s

/-- Every participant of a use completes ABORT (R203, R364). -/
def State.abortUse (s : State) (c : Collective) : State := s.finishUse c (doneWithout 8)

/-- Whether a core lies in a domain (R203). -/
def inDomain (domain core : Nat) : Bool :=
  let k := domain / 2 ^ 32
  (k != 1 || core / 16 == domain % 2 ^ 32) && (k != 2 || dieOf core == domain % 2 ^ 32)

/-- Whether a task that has ended on a core was to contribute to a use and has not (R203, R364; log entry 27). -/
def Collective.lacks (c : Collective) (core task : Nat) : Bool :=
  inDomain c.domain core && Config.participant core task c.num &&
    !(c.contribs.any fun x => x.core == core && x.key / 2 ^ 64 == task)

/-- Whether a participant of a use has ended before contributing. -/
def State.doomed (s : State) (c : Collective) : Bool := s.dev.sched.tasks.any fun t => t.ended.any fun n => c.lacks n t.id

/-- Whether a packet's declaration differs from that of a use, if it is the result, or from that of a participant of this package
(R361). -/
def Collective.differs (c : Collective) : Bool :=
  c.parts.any fun p => (p.final && p.sig != c.sig) || c.contribs.any fun x => p.sig != x.sig

/-- What has arrived for a use takes effect: it ends, or goes on. -/
def State.advanceUse (s : State) (c : Collective) : State :=
  let s := s.fabric fun f => f.setUse c (some c)
  if s.doomed c then s.abortUse c
  else if c.differs then s.mismatchUse c
  else
    match c.result with
    | some b => s.doneUse c b (resultFlags c.sig b ||| Config.remoteFlags c.num % 2 ^ 5)
    | none => if c.complete then s.closeUse c else if isSystem c.domain then s.sendMerged c else s

/-- The use of a tag within a domain that is under way, or a new one. -/
def State.useFor (s : State) (domain : Nat) (tag : Word32) (g : CollSig) : Collective × State :=
  match s.dev.fabric.colls.find? fun c => c.is domain g.blend tag with
  | some c => (c, s)
  | none =>
    (⟨s.dev.fabric.nextUse, domain, tag, g, [], [], []⟩, s.fabric fun f => { f with nextUse := f.nextUse + 1 })

/-- Whether a use that ended in MISMATCH still lacks the contribution of a rank of this package: that one's outcome is the same (R203,
R361; log entry 94). -/
def PastUse.lacks (u : PastUse) (domain : Nat) (tag : Word32) (rank : Nat) : Bool :=
  u.domain == domain && u.tag == tag && u.peer == ownPackage && u.sig.all (rank < ·.p) && !u.had.contains (false, rank, rank, 0)

/-- A package goes on to the next use of a tag: of the last, nothing more comes from it, and every participant has completed (R203; log
entry 94). -/
def State.startNext (s : State) (domain : Nat) (tag : Word32) (peer : Nat) : State :=
  s.fabric fun f => { f with
    late := f.late.filter fun u => !(u.domain == domain && u.tag == tag && (u.peer == peer || u.peer == ownPackage)) }

/-- A contribution to a use that has ended in MISMATCH. -/
def State.contributeLate (s : State) (e : GEntry) (domain rank : Nat) : State :=
  (s.updateEntry { e with started := true, finished := some (doneWithout 7 e) }).fabric fun f =>
    { f with late := f.late.map fun u => if u.lacks domain e.tag rank then { u with had := u.had ++ [(false, rank, rank, 0)] } else u }

/-- A participant contributes (R203, R266): its word waits for the close. -/
def State.contribute (s : State) (e : GEntry) (g : CollSig) : State :=
  match s.payload e g with
  | .error r => afterWork e (.error r)
  | .ok bytes =>
    let dom := s.domainOf e
    let rank := blkField e.block 6 2
    let s := if isSystem dom then s.sendRange dom e.tag g rank rank 0 bytes else s
    if s.dev.fabric.late.any (·.lacks dom e.tag rank) then s.contributeLate e dom rank
    else
      let (c, s) := (s.startNext dom e.tag ownPackage).useFor dom e.tag g
      let s := s.updateEntry { e with started := true }
      s.advanceUse { c with contribs := c.contribs ++ [⟨s.cur, e.key, g, rank, bytes⟩] }

/-- The work of BLEND and COLL. -/
def State.workCollective (s : State) (e : GEntry) : State :=
  match e.collSig? with
  | none => s
  | some g => if e.started then s else s.contribute e g

/-! ### What ends a use early -/

/-- Uses that meet a condition are aborted. -/
def State.abortWhere (s : State) (p : Collective → Bool) : State :=
  (s.dev.fabric.colls.filter p).foldl State.abortUse s

/-- A participant's task ends without contributing (R203, log entry 27). -/
def State.abortFor (s : State) (core task : Nat) : State := s.abortWhere (·.lacks core task)

/-- COLLECTIVE_TIMEOUT (R364): the limit since the first contribution has passed, of the use of the tag that began first. -/
def execCollectiveTimeout (tag : Word32) (s : State) : Next :=
  .next (match s.dev.fabric.colls.find? fun c => isSystem c.domain && c.tag == tag with
    | some c => s.abortUse c
    | none => s)

/-! ### Receipt of COLL packets -/

/-- The domain that a packet belongs to, which names only its tag: of the groups in which its sender is the participant of its first
rank, or else a member, the first with a use of the tag under way, or the first (R361, R363; log entry 94). -/
def State.groupDomain (s : State) (peer lo : Nat) (blend : Bool) (tag : Word32) : Nat :=
  let gs := ((List.range 7).map (· + 1)).filter fun k => (s.dev.fabric.groups.get [] k).contains peer
  let own := gs.filter fun k => (s.dev.fabric.groups.get [] k)[lo]? == some peer
  let l := if own.isEmpty then gs else own
  4 * 2 ^ 32 + ((l.find? fun k => s.dev.fabric.colls.any fun c => c.is (4 * 2 ^ 32 + k) blend tag).getD (l.headD 0))

/-- Whether a packet is one of a use that has ended: its sender declared that use, and has sent it no such packet yet. -/
def PastUse.expects (u : PastUse) (domain : Nat) (tag : Word32) (p : CollPart) : Bool :=
  u.domain == domain && u.tag == tag && u.peer == p.peer && u.sig.all (· == p.sig) && !u.had.contains p.key

/-- A COLL packet's effect (R361, R363): a contribution, a merged range or the final result joins the use of its tag, or begins it. One of
a use that has ended has none, nor has a result for which there is no use. A package's packets come in order, so that after one of the
next use none of the last is expected from it (log entry 94). -/
def State.takeCollPacket (s : State) (peer : Nat) (tag : Word32) (payload : List Byte) : State :=
  let num := fun a n => leNat (((payload.take 16).drop a).take n)
  let g : CollSig := ⟨num 6 1, num 4 2, num 8 4⟩
  let part : CollPart := ⟨num 7 1 != 0, peer, g, num 0 2, num 2 2, num 12 4 * g.item, payload.drop 16⟩
  let dom := s.groupDomain peer part.lo g.blend tag
  if s.dev.fabric.late.any (·.expects dom tag part) then
    s.fabric fun f => { f with late := f.late.map fun u => if u.expects dom tag part then { u with had := u.had ++ [part.key] } else u }
  else if part.final && !(s.dev.fabric.colls.any fun c => c.is dom g.blend tag) then s
  else
    let (c, s) := (s.startNext dom tag peer).useFor dom tag g
    s.advanceUse { c with parts := c.parts ++ [part] }

end Sys2Proof.Machine
end

