-- ==== Sys2Proof/Machine/Assign.lean ====
section
/-!
DEFINITION. The assignment engine: the auction of ASN (R205).
-/
namespace Sys2Proof.Machine

/-- The legal values of an ASN block (R192, R205). -/
def asnOk (b : BitVec 512) : Bool :=
  let rows := blkField b 16 2
  let eps := blkField b 20 4
  1 ≤ rows && rows ≤ 256 && 1 ≤ blkField b 18 1 && blkField b 18 1 ≤ 64 && blkField b 19 1 ≤ 7 &&
  0 < eps && eps < 0x7F800000 && !(f32.val (blkField b 24 4)).isNan && 1 ≤ blkField b 28 4 && blkZero b 32 &&
  blkArea (blkField b 0 4) 256 (256 * rows) && blkArea (blkField b 4 4) 128 128 && blkArea (blkField b 8 4) 64 (2 * rows) &&
  blkArea (blkField b 12 4) 256 256

/-- The checks of ASN at issue. -/
def checkAsn (b : BitVec 512) : Except Stop Unit := do
  need (asnOk b) .eparm

/-- An auction's standing. -/
structure Auction where
  price : List Nat
  /-- The column each row holds, with its bid. -/
  held : List (Option (Nat × Nat))
  active : List Bool
  rounds : Nat
  /-- The flags that its arithmetic has raised (R57, R58). -/
  flags : Nat

/-- What an auction is about: scores, capacities and the block's numbers. -/
structure AuctionTask where
  score : List (List Nat)
  cap : List Nat
  resv : Nat
  maxr : Nat

/-- Negative infinity. -/
def negInf : Nat := 0xFF800000

/-- `a < b` for f32 patterns, false beside a NaN. -/
def fLess (a b : Nat) : Bool := fGreater b a

/-- The largest entry, the first on ties: its index and value. -/
def largest : List (Nat × Nat) → Option (Nat × Nat)
  | [] => none
  | x :: r =>
    match largest r with
    | none => some x
    | some y => if fGreater y.2 x.2 then some y else some x

/-- Columns that take part. -/
def AuctionTask.columns (t : AuctionTask) : List Nat := (List.range t.cap.length).filter fun c => t.cap.getD c 0 != 0

/-- A row's net values by column, with the flags of each subtraction (R205). -/
def AuctionTask.nets (t : AuctionTask) (price : List Nat) (r : Nat) : List (Nat × Nat × Nat) :=
  t.columns.map fun c => (c, fsub f32 ((t.score.getD r []).getD c 0) (price.getD c 0))

/-- A row's bid in a round, the column and the bid, or none where the row retires, with the flags raised (R58, R205). -/
def AuctionTask.bid (t : AuctionTask) (price : List Nat) (e r : Nat) : Option (Nat × Nat) × Nat :=
  let nets := t.nets price r
  let fl := joinAll (nets.map (·.2))
  let net := nets.map fun p => (p.1, p.2.1)
  match largest net with
  | none => (none, fl)
  | some (c1, v1) =>
    if v1 = negInf || fLess v1 t.resv then (none, fl)
    else
      let v2 := match largest (net.filter fun p => p.1 != c1) with
        | some (_, v) => if (f32.val v).isNan || v % 2 ^ 31 = 0x7F800000 then v1 else v
        | none => v1
      let lead := fsub f32 v1 v2
      let up := fadd f32 (price.getD c1 0) lead.1
      let bid := fadd f32 up.1 e
      (some (c1, bid.1), joinFlags fl (joinAll [lead, up, bid]))

/-- Bids by value descending, lower row on ties: an entry put in its place. -/
def placeBid (x : Nat × Nat) : List (Nat × Nat) → List (Nat × Nat)
  | [] => [x]
  | y :: r => if fLess y.2 x.2 then x :: y :: r else y :: placeBid x r

/-- A column keeps its best `cap` bids: who stays, and its new price with the flags raised. -/
def settleColumn (cap : Nat) (bids : List (Nat × Nat)) (price : Nat) : List (Nat × Nat) × Nat × Nat :=
  let kept := (bids.foldl (fun l x => placeBid x l) []).take cap
  match kept.getLast? with
  | some (_, low) => (kept, if kept.length = cap then fmax f32 price low else (price, 0))
  | none => (kept, price, 0)

/-- One round (R205): bids against the prices before it, then every column settles. -/
def AuctionTask.round (t : AuctionTask) (e : Nat) (a : Auction) : Auction :=
  let rows := List.range a.active.length
  let free := fun r => (a.held.getD r none).isNone && a.active.getD r false
  let tried := rows.map fun r => if free r then t.bid a.price e r else (none, 0)
  let bids := tried.map (·.1)
  let active := rows.map fun r => a.active.getD r false && !(free r && (bids.getD r none).isNone)
  let claims := rows.map fun r => if free r then bids.getD r none else a.held.getD r none
  let settled := (List.range t.cap.length).map fun c =>
    if t.cap.getD c 0 = 0 then ([], a.price.getD c 0, 0)
    else
      settleColumn (t.cap.getD c 0)
        (rows.filterMap fun r => (claims.getD r none).bind fun p => if p.1 = c then some (r, p.2) else none) (a.price.getD c 0)
  { price := settled.map (·.2.1)
    held := rows.map fun r => (claims.getD r none).bind fun p =>
      if ((settled.getD p.1 ([], 0, 0)).1.any fun k => k.1 == r) then some p else none
    active := active
    rounds := a.rounds + 1
    flags := joinFlags a.flags (joinFlags (joinAll (tried.map fun x => (0, x.2))) (joinAll (settled.map (·.2)))) }

/-- Whether a row is still unassigned and active. -/
def Auction.open_ (a : Auction) : Bool := (a.held.zip a.active).any fun p => p.1.isNone && p.2

/-- Rounds of one phase; true when the round limit ends the auction. `fuel` is at least the rounds left. -/
def AuctionTask.phase (t : AuctionTask) (e : Nat) : Nat → Auction → Auction × Bool
  | 0, a => (a, a.open_)
  | fuel + 1, a =>
    if !a.open_ then (a, false)
    else if a.rounds = t.maxr then (a, true)
    else t.phase e fuel (t.round e a)

/-- EPS · 2^k, exact but where it overflows. -/
def scaleEps (eps k : Nat) : Nat × Nat := fmul f32 eps ((127 + k) * 2 ^ 23)

/-- The phases from the one with `k` halvings left (R205). -/
def AuctionTask.phases (t : AuctionTask) (eps : Nat) : Nat → Auction → Auction × Bool
  | 0, a => t.phase eps (t.maxr + 1) (fresh t a 0)
  | k + 1, a =>
    match t.phase (scaleEps eps (k + 1)).1 (t.maxr + 1) (fresh t a (scaleEps eps (k + 1)).2) with
    | (b, true) => (b, true)
    | (b, false) => t.phases eps k b
where
  /-- Every row unassigned and active, no bids held. -/
  fresh (t : AuctionTask) (a : Auction) (fl : Nat) : Auction :=
    { a with held := t.score.map fun _ => none, active := t.score.map fun _ => true, flags := joinFlags a.flags fl }

/-- Scores that are NaN or +∞ count as −∞ (R205). -/
def takenScore (x : Nat) : Nat := if (f32.val x).isNan || x = 0x7F800000 then negInf else x

/-- The work of ASN; the flags of its arithmetic join at completion (R58). -/
def State.workAsn (s : State) (e : GEntry) (b : BitVec 512) : EngineM (State × Done) := do
  let rows := blkField b 16 2
  let cols := blkField b 18 1
  let tile ← s.engineVault e (blkField b 0 4) (256 * rows)
  let caps ← s.engineVault e (blkField b 4 4) 128
  let t : AuctionTask :=
    { score := (List.range rows).map fun r =>
        (lanesOf 32 cols (leNat ((tile.drop (256 * r)).take 256))).map takenScore
      cap := lanesOf 16 cols (leNat caps)
      resv := blkField b 24 4
      maxr := blkField b 28 4 }
  let a0 : Auction := ⟨List.replicate cols 0, [], [], 0, 0⟩
  let (a, short) := t.phases (blkField b 20 4) (blkField b 19 1) a0
  let as := a.held.flatMap fun h => leBytes 2 ((h.map (·.1)).getD 0xFFFF)
  return (s, ⟨bit short, a.rounds * 2 ^ 24, [(blkField b 8 4, as), (blkField b 12 4, a.price.flatMap (leBytes 4))], a.flags⟩)

end Sys2Proof.Machine
end

