-- ==== Sys2Proof/Machine/Launch.lean ====
section
/-!
DEFINITION. LAUNCH (R206) and its acceptance, task queues and their scheduler (R296 to R298), gang blocks (R301), the start
of a task (R17, R226, R300, R302), and pre-emption requests (R304).
-/
namespace Sys2Proof.Machine

/-! ### The LAUNCH block -/

/-- The legal values of a LAUNCH block (R192, R206). -/
def launchOk (b : BitVec 512) : Bool :=
  let n := blkField b 34 2
  blkField b 8 8 % 8 == 0 && 1 ≤ blkField b 24 4 && 1 ≤ blkField b 28 2 && blkField b 30 1 ≤ 4 && blkField b 31 1 < 64 &&
  1 ≤ blkField b 32 1 && blkField b 32 1 < 16 && blkField b 33 1 < 128 && n % 64 == 0 && n ≤ 4096 &&
  blkArea (blkField b 36 4) 64 n && (blkField b 33 1 == 0 || blkArea (blkField b 40 4) 16 112) && blkZero b 46

/-- The checks of LAUNCH at issue. -/
def checkLaunch (b : BitVec 512) : Except Stop Unit := do
  need (launchOk b) .eparm

/-- The dies in a mask. -/
def diesOf (mask : Nat) : List Nat := (List.range 4).filter (bitOf mask)

/-! ### Cores and gang blocks -/

/-- Whether a core is a dispatch core (R294). -/
def State.dispatches (s : State) (n : Nat) : Bool := s.dev.sched.dispatch.any (·.1 == n)

/-- The cores of a task. -/
def Task.cores (t : Task) : List Nat := (List.range t.size).map (t.base + ·)

/-- Whether a task that has been pre-empted is to come back onto core `n` (R305). -/
def State.awaited (s : State) (n : Nat) : Bool :=
  s.dev.sched.tasks.any fun t => (t.state == .saved || t.state == .restoring) && t.cores.contains n

/-- Firmware makes core `n` a dispatch core that may name a list of address spaces, or no dispatch core, at a task boundary of the core:
it runs no task, and none is to come back onto it (R294). -/
def State.setDispatch (s : State) (n : Nat) (asids : Option (List Nat)) : State :=
  if (s.coreAt n).ctl.run != .idle || s.awaited n then s
  else s.sched fun d => { d with dispatch := d.dispatch.filter (·.1 != n) ++ (asids.map fun l => (n, l)).toList }

/-- Whether a core or its vault has been retired (R382). -/
def State.coreRetired (s : State) (n : Nat) : Bool :=
  s.dev.health.retired.get false n || s.dev.health.retired.get false (2 ^ 48 + n)

/-- Base cores of the gang blocks of a size on a die, lowest cluster and lowest base first (R301, R382). -/
def State.blocksOf (s : State) (die size : Nat) : List Nat :=
  ((List.range (128 / size)).map fun i => 128 * die + size * i).filter fun b =>
    (List.range size).all fun i => !s.dispatches (b + i) && !s.coreRetired (b + i)

/-- Whether the scheduler is bringing a task back onto core `n` (R305). -/
def State.restoringOn (s : State) (n : Nat) : Bool :=
  s.dev.sched.tasks.any fun t => t.state == .restoring && t.base ≤ n && n < t.base + t.size

/-- Whether core `n` has not failed and is not retired with its vault (R378, R382). -/
def State.usable (s : State) (n : Nat) : Bool := !(s.coreAt n).failed && !s.coreRetired n

/-- Whether core `n` runs no task, ends none, and a task may start on it (R301). -/
def State.coreFree (s : State) (n : Nat) : Bool := (s.coreAt n).ctl.run == .idle && s.usable n && !s.restoringOn n

/-- Whether the block of `size` cores from `base` on is free, and none of them a dispatch core (R294, R301). -/
def State.blockFree (s : State) (base size : Nat) : Bool :=
  (List.range size).all fun i => s.coreFree (base + i) && !s.dispatches (base + i)

/-- The free block that the scheduler takes (R301). -/
def State.freeBlock (s : State) (die size : Nat) : Option Nat := (s.blocksOf die size).find? fun b => s.blockFree b size

/-! ### Acceptance (R206, R296) -/

/-- The loaded kernel of an address space whose entry is at a VA: object, version and kernel index (R206, R316). -/
def State.kernelAt (s : State) (asid kent : Nat) : Option (Obj × Nat) :=
  s.dev.code.objects.findSome? fun o =>
    if o.asid = asid && o.mapped then (o.kernels.findIdx? (·.entry == kent)).map fun k => (o, k) else none

/-- Whether the dispatch core may name an address space (R206, R294). -/
def State.mayName (s : State) (core asid : Nat) : Bool :=
  (s.dev.sched.dispatch.any fun d => d.1 == core && d.2.contains asid) && (s.space asid).isSome

/-- Whether a group has pre-empted tasks that no scheduler has selected yet. -/
def State.hasSaved (s : State) (g : Nat) : Bool := s.dev.sched.tasks.any fun t => t.group == g && t.state == .saved

/-- Whether a group still has a place in its queues (R297). One that has left them and whose task is then pre-empted is at its old place
again: DESIGN CHOICE, log entry 124. -/
def State.inQueue (s : State) (g : Nat) : Bool :=
  match s.group? g with
  | some x => x.remaining != 0 || s.hasSaved g
  | none => false

/-- The groups of a queue, oldest first (R296, R297). -/
def State.queueOf (s : State) (die q : Nat) : List Nat :=
  (s.dev.sched.queued.filter fun e => e.1 == 64 * die + q && s.inQueue e.2).map (·.2)

/-- Whether every queue that a LAUNCH names has a free entry (R296). -/
def State.queueRoom (s : State) (b : BitVec 512) : Bool :=
  (diesOf (blkField b 32 1)).all fun d => (s.queueOf d (blkField b 31 1)).length < 32

/-- The task group of a LAUNCH block, with what is read from the dispatch core's vault before acceptance (R206). E is 1 where no block of
its size exists on its dies (R299): DESIGN CHOICE, log entry 125. -/
def State.newGroup (s : State) (e : GEntry) (b : BitVec 512) (o : Obj) (kernel : Nat) (params tlms : List Byte) : Group :=
  let size := 2 ^ blkField b 30 1
  { id := s.dev.sched.nextGroup, kent := blkField b 0 8, done := blkField b 8 8, dval := BitVec.ofNat 64 (blkField b 16 8),
    count := blkField b 24 4, minch := blkField b 28 2, size := size, queue := blkField b 31 1, dies := blkField b 32 1,
    tenants := BitVec.ofNat 7 (blkField b 33 1), asid := BitVec.ofNat 16 (blkField b 44 2), params := params,
    tlms := (lanesOf 128 7 (leNat tlms)).map (BitVec.ofNat 128), remaining := blkField b 24 4,
    blocks := max 1 ((diesOf (blkField b 32 1)).map fun d => (s.blocksOf d size).length).sum, object := o.handle,
    version := o.current, kernel := kernel, core := e.kcore }

/-- A group enters every queue it names (R296). -/
def State.enqueue (s : State) (g : Group) : State :=
  s.sched fun d =>
    { d with
      groups := d.groups ++ [g]
      queued := d.queued ++ (diesOf g.dies).map fun k => (64 * k + g.queue, g.id)
      nextGroup := (d.nextGroup + 1) % 2 ^ 32 }

/-- The port starts a LAUNCH (R206, R296): a bad kernel entry or address space completes at once; otherwise it waits for
room. -/
def State.launch (s : State) (e : GEntry) (b : BitVec 512) : State :=
  match s.kernelAt (blkField b 44 2) (blkField b 0 8) with
  | none => s.settleCommand e (Done.plain 0x0C e.anyRes)
  | some (o, k) =>
    if !s.mayName s.cur (blkField b 44 2) then s.settleCommand e (Done.plain 0x0D e.anyRes)
    else if !s.queueRoom b then s
    else
      let params := s.engineVault e (blkField b 36 4) (blkField b 34 2)
      let tlms := if blkField b 33 1 = 0 then .ok [] else s.engineVault e (blkField b 40 4) 112
      match params, tlms with
      | .ok p, .ok t => (s.enqueue { s.newGroup e b o k p t with core := s.cur }).settleCommand e (Done.plain 0 e.anyRes)
      | .error x, _ => afterWork e (.error x)
      | .ok _, .error x => afterWork e (.error x)

/-- LAUNCH_ACCEPT (R206, R296): of the LAUNCH at a place of the port. -/
def execLaunchAccept (core ix : Nat) (s : State) : Next :=
  onCore core (fun s =>
    match s.core.port[ix]? with
    | none => s
    | some e =>
      match e.op with
      | .cmd .launch _ b =>
        if e.finished.isSome then s.tryFinish e
        else if !s.cmdReady e then s
        else if e.bad then s.settleCommand e (Done.plain 6 e.anyRes)
        else s.launch e b
      | _ => s) s

/-! ### The start of a task (R17, R300) -/

/-- The banks that a plan names (R226). -/
def planBanks (plan : List PlanEntry) : List Nat :=
  (List.range 64).filter fun k => plan.any fun e => (banksOf e.off e.len).contains k

/-- A set of banks as a mask. -/
def bankMask (ks : List Nat) : BitVec 64 := BitVec.ofNat 64 ((ks.map fun k => 2 ^ k).sum)

/-- g1 to g5 at task entry (R17). -/
def entryRegs (param first cnt member size : Nat) : Table Word64 :=
  ((((Table.set 0 [] 1 (BitVec.ofNat 64 param)).set 0 2 (BitVec.ofNat 64 first)).set 0 3 (BitVec.ofNat 64 cnt)).set 0 4
    (BitVec.ofNat 64 member)).set 0 5 (BitVec.ofNat 64 size)

/-- TLM1 to TLM7 at task entry. -/
def tlmTable (l : List (BitVec 128)) : Table (BitVec 128) :=
  (List.range 7).foldl (fun t i => t.set 0 (i + 1) (l.getD i 0)) []

/-- A core with its vault, its port and what does not belong to a task, and everything else as before any task. -/
def Core.bare (c : Core) : Core :=
  { Core.blank with
    vault := c.vault, poison := c.poison, port := c.port, retained := c.retained, failed := c.failed, perf := c.perf }

/-- The control state of a member at task entry (R22, R226, R302). -/
def entryCtl (g : Group) (t member base : Nat) (o : Obj) (kn : Kernel) (now : Nat) : Ctl :=
  let banks := bankMask (planBanks kn.plan)
  { Ctl.idle with
    run := .running, task := t, cycle0 := now, bound := kn.bound, member := member, size := g.size, base := base,
    group := g.id, queue := g.queue, tenants := g.tenants, asid := g.asid, owned := banks, pendingBanks := banks,
    stack := (kn.plan.find? (·.stack)).map fun e => (e.off, e.len),
    litEnd := BitVec.ofNat 64 (o.lva + o.llen), object := o.handle, version := g.version, kernel := g.kernel }

/-- A register state on core `n` that an ended task still needs for its ring fills is kept with that task when another comes onto the
core (R105, R170). -/
def State.keepEnded (s : State) (n : Nat) : State :=
  let old := s.coreAt n
  s.modTask old.ctl.task fun x =>
    if old.port.any fun e => e.task == x.id then { x with contexts := x.contexts ++ [(n, old.context)] } else x

/-- A member of a new task on core `n` (R17, R300). -/
def State.startMember (s : State) (g : Group) (o : Obj) (kn : Kernel) (t first cnt base i : Nat) : State :=
  let n := base + i
  let old := s.coreAt n
  let s := s.keepEnded n
  let param := ((kn.plan.find? (·.param)).map (·.off)).getD 0
  let c := { old.bare with
    seq := { Seq.entry with
             pc := BitVec.ofNat 64 kn.entry, lpc := BitVec.ofNat 64 kn.lit, streamFrom := BitVec.ofNat 64 kn.entry, streamAt := s.cycle + 1,
             cold := true }
    regs := { Regs.entry with g := entryRegs param first cnt i g.size }
    eng := { Engines.entry with tlm := tlmTable g.tlms }
    ctl := entryCtl g t i (base % 16) o kn s.cycle
    wake := s.cycle + 1 }
  let s := (s.setCore n c).guardBanks t n (planBanks kn.plan)
  (s.settleBanks n).sys (·.acquire (dieOf n) 3)

/-- A task of a group starts on a block with the next chunk (R299, R300). -/
def State.startTask (s : State) (g : Group) (base : Nat) : State :=
  match s.takeChunk g.id, s.dev.code.find g.object with
  | (some (first, cnt), s), some o =>
    match o.kernels[g.kernel]? with
    | none => s
    | some kn =>
      let t := s.dev.sched.tasks.length + 1
      let s := s.sched fun d =>
        { d with tasks := d.tasks ++ [{ id := t, group := g.id, base := base, size := g.size, first := first, cnt := cnt,
                                         state := .running, requested := false, incoming := none, ended := [],
                                         contexts := [], banks := [], held := [], holding := [] }] }
      (List.range g.size).foldl (fun s i => s.startMember g o kn t first cnt base i) s
  | (_, s), _ => s

/-! ### The scheduler (R297, R298) -/

/-- QCTL of a queue. -/
def State.qctl (s : State) (die q : Nat) : Nat := (s.dev.sched.qctl.get qctlReset (64 * die + q)).toNat

/-- The head group of a queue (R297). -/
def State.queueHead (s : State) (die q : Nat) : Option Group := (s.queueOf die q).head?.bind s.group?

/-- What a queue that is ready starts (R297, R305): a pre-empted task whose cores are all free, or a new chunk on a free
block; no chunk starts while the group has a pre-empted task. -/
inductive Start where
  | resume (t : Nat)
  | chunk (g : Group) (base : Nat)

/-- The pre-empted tasks of a group on a die, oldest first. -/
def State.savedOn (s : State) (g die : Nat) : List Task :=
  s.dev.sched.tasks.filter fun t => t.group == g && t.state == .saved && dieOf t.base == die

/-- What queue `q` of a die would start in this cycle, if it is ready (R297). -/
def State.readyStart (s : State) (die q : Nat) : Option Start :=
  if !bitOf (s.qctl die q) 5 then none
  else
    match s.queueHead die q with
    | none => none
    | some g =>
      if s.hasSaved g.id then
        ((s.savedOn g.id die).find? fun t => s.blockFree t.base t.size).map fun t => .resume t.id
      else (s.freeBlock die g.size).map fun b => .chunk g b

/-- The priority of a queue. -/
def State.priority (s : State) (die q : Nat) : Nat := s.qctl die q % 8

/-- The first ready queue of a level in the order of its pointer, and what it starts (R298). -/
def State.pickAt (s : State) (die lvl : Nat) : Option (Nat × Start) :=
  let ptr := s.dev.sched.ptr.get 0 (8 * die + lvl)
  ((List.range 64).map fun i => (ptr + i) % 64).findSome? fun q =>
    if s.priority die q = lvl then (s.readyStart die q).map fun x => (q, x) else none

/-- The queue that starts a task in this cycle, with its level (R298). -/
def State.pick (s : State) (die : Nat) : Option (Nat × Nat × Start) :=
  (List.range 8).findSome? fun i => (s.pickAt die (7 - i)).map fun x => (7 - i, x)

/-- A pre-empted task is selected for resumption. -/
def State.selectTask (s : State) (t : Nat) : State := s.modTask t fun x => { x with state := .restoring }

/-- At most one task started (R298). -/
def State.schedule (s : State) (die : Nat) : State :=
  match s.pick die with
  | none => s
  | some (lvl, q, x) =>
    let s := s.sched fun d => { d with ptr := d.ptr.set 0 (8 * die + lvl) ((q + 1) % 64) }
    match x with
    | .resume t => s.selectTask t
    | .chunk g b => s.startTask g b

/-! ### Pre-emption requests (R304) -/

/-- The cores on which a task has neither ended nor issued END (R304). -/
def State.liveCores (s : State) (t : Task) : List Nat :=
  t.cores.filter fun n => (s.coreAt n).ctl.task == t.id && (s.coreAt n).ctl.run != .idle && !(s.coreAt n).ctl.draining

/-- A core frozen in a trap cycle. -/
def Run.trapped : Run → Bool
  | .frozen _ _ => true
  | _ => false

/-- Whether a request to a task has an effect (R304). -/
def State.mayRequest (s : State) (t : Task) : Bool :=
  t.state == .running && !t.requested && !(s.liveCores t).isEmpty && !((s.liveCores t).any fun n => (s.coreAt n).ctl.run.trapped)

/-- A request to a task: ccr.preempt<0> is set on every member (R304). -/
def State.request (s : State) (t : Task) (incoming : Option Nat) : State :=
  (s.liveCores t).foldl (fun s n => s.modAt n fun c => { c with ctl := { c.ctl with preempt := true, overrun := 0 } })
    (s.modTask t.id fun x => { x with requested := true, incoming := incoming })

/-- The blocks one of which a queue's head group needs: where it is ready but for a free one (R304). -/
def State.wanted (s : State) (die q : Nat) : List (Nat × Nat) :=
  if !bitOf (s.qctl die q) 5 || !bitOf (s.qctl die q) 7 then []
  else
    match s.queueHead die q, s.readyStart die q with
    | some g, none =>
      if s.hasSaved g.id then (s.savedOn g.id die).map fun t => (t.base, t.size)
      else (s.blocksOf die g.size).map fun b => (b, g.size)
    | _, _ => []

/-- The queue that the scheduler serves with a request: the highest priority, then the lowest number (R304). -/
def State.served (s : State) (die : Nat) : Option Nat :=
  (List.range 8).findSome? fun i =>
    (List.range 64).find? fun q => s.priority die q == 7 - i && !(s.wanted die q).isEmpty

/-- Whether task `a` goes before task `b` as the victim: lower priority, then started later (R304). -/
def State.rather (s : State) (die : Nat) (a b : Task) : Bool :=
  let qa := ((s.group? a.group).map (·.queue)).getD 0
  let qb := ((s.group? b.group).map (·.queue)).getD 0
  s.priority die qa < s.priority die qb || (s.priority die qa == s.priority die qb && b.id < a.id)

/-- Whether a running task may make room for a queue (R304). -/
def State.victim (s : State) (die q : Nat) (t : Task) : Bool :=
  let v := ((s.group? t.group).map (·.queue)).getD 0
  t.state == .running && dieOf t.base == die && bitOf (s.qctl die v) 6 && s.priority die v < s.priority die q &&
  !(s.liveCores t).isEmpty && (s.wanted die q).any fun b => t.base ≤ b.1 && b.1 + b.2 ≤ t.base + t.size

/-- The request that a die's scheduler raises in this cycle (R304). -/
def State.schedulerRequest (s : State) (die : Nat) : State :=
  if (s.dev.sched.asked.get none die).isSome then s
  else
    match s.served die with
    | none => s
    | some q =>
      let best := (s.dev.sched.tasks.filter (s.victim die q)).foldl (fun (b : Option Task) t =>
        match b with
        | some x => if s.rather die t x then some t else some x
        | none => some t) none
      match best, s.queueHead die q with
      | some t, some g =>
        if s.mayRequest t then
          (s.request t (some g.id)).sched fun d => { d with asked := d.asked.set none die (some t.id) }
        else s
      | _, _ => s

/-- The scheduler of a die in this cycle, once: the request is raised for what lacks a block as it begins (R298, R304). -/
def State.schedulerTurn (s : State) (die : Nat) : State :=
  if s.dev.sched.turned.get 0 die = s.cycle + 1 then s
  else ((s.schedulerRequest die).schedule die).sched fun d => { d with turned := d.turned.set 0 die (s.cycle + 1) }

/-- SCHEDULER_CYCLE (R298, R304). -/
def execSchedulerCycle (die : Nat) (s : State) : Next := .next (if die < 4 then s.schedulerTurn die else s)

/-- The schedulers that have not had their turn of this cycle have it: with no queued group they have nothing to start or to ask for. -/
def State.schedulers (s : State) : State :=
  if s.dev.sched.queued.isEmpty then s else (List.range 4).foldl State.schedulerTurn s

/-- FIRMWARE_PREEMPT_REQUEST (R304). -/
def execFirmwarePreemptRequest (task : Nat) (s : State) : Next :=
  match s.task? task with
  | some t => if s.mayRequest t then .next (s.request t none) else .next s
  | none => .next s

end Sys2Proof.Machine
end

