-- ==== Sys2Proof/Machine/Preempt.lean ====
section
/-!
DEFINITION. Saving and resuming a task (R24 to R27, R253, R305), its end on a core (R105, R303), and the end of its group
(R206, R316).
-/
namespace Sys2Proof.Machine

/-! ### Saving (R24, R305) -/

/-- A core frozen at a pre-emptible point. -/
def Run.atPoint : Run → Bool
  | .point _ => true
  | _ => false

/-- The banks that the plan of the group a task makes room for names (R305). -/
def State.incomingBanks (s : State) (t : Task) : List Nat :=
  match t.incoming.bind s.group? with
  | none => []
  | some g =>
    match (s.dev.code.find g.object).bind fun o => o.kernels[g.kernel]? with
    | none => []
    | some kn => planBanks kn.plan

/-- The banks whose contents are the task's on a core: owned and not pending. -/
def Core.ownBanks (c : Core) : List Nat :=
  (List.range 64).filter fun k => c.ctl.owned.getLsbD k && !c.ctl.pendingBanks.getLsbD k

/-- A member saved (R305): the banks that the incoming plan names go to the save area, the others are retained in the
vault, and the core is free. -/
def State.saveMember (t : Nat) (out : List Nat) (s : State) (n : Nat) : State :=
  let c := s.coreAt n
  let saved := c.ownBanks.filter out.contains
  let kept := c.ownBanks.filter fun k => !out.contains k
  let s := s.modTask t fun x =>
    { x with contexts := x.contexts ++ [(n, c.context)], banks := x.banks ++ saved.map (c.bankCopy n) }
  s.setCore n { c.bare with retained := kept.foldl (fun r k => r.set none k (some t)) c.retained }

/-- A die's scheduler has no request outstanding for a task any more. -/
def State.unask (s : State) (t : Nat) : State :=
  s.sched fun d => { d with asked := d.asked.filter fun e => e.2 != some t }

/-- Whether a task can be saved (R26, R174, R304, R305): every member that has not issued END stands at a point with its queues
drained, and no multicast of the gang is held. -/
def State.maySave (s : State) (t : Task) : Bool :=
  let live := s.liveCores t
  !(s.dev.sys.multicasts.any fun m => m.members.any t.cores.contains) && t.state == .running && t.requested && !live.isEmpty &&
    live.all fun n => (s.coreAt n).ctl.run.atPoint && (s.coreAt n).drained

/-- PREEMPTION_SAVE (R305). -/
def execPreemptionSave (task : Nat) (s : State) : Next :=
  match s.task? task with
  | none => .next s
  | some t =>
    if s.maySave t then
      let s' := (s.liveCores t).foldl (State.saveMember t.id (s.incomingBanks t)) s
      let s' := s'.fillSaveArea t.id
      .next ((s'.modTask t.id fun x => { x with state := .saved, requested := false, incoming := none }).unask t.id)
    else .next s

/-! ### Resumption (R25, R253, R305) -/

/-- The cycle in which a core froze. -/
def Run.frozenAt : Run → Nat → Nat
  | .frozen _ n, _ => n
  | .point n, _ => n
  | _, now => now

/-- Increments held for a core, in order of arrival (R193). -/
def Core.addHeld (c : Core) (n : Nat) (held : List (Nat × Nat)) : Core :=
  (held.filter (·.1 == n)).foldl (fun (c : Core) h => { c with regs := { c.regs with k := c.regs.k.set 0 h.2 (c.kAt h.2 + 1) } }) c

/-- Non-empty target buffers have their bundles again before the first bundle issues (R25). -/
def Core.refetched (c : Core) (t1 : Nat) : Core :=
  { c with seq := { c.seq with tb := c.seq.tb.map fun x => (x.1, x.2.map fun b => { b with ready := min b.ready t1 }) } }

/-- A member's context restored on its core (R24, R25, R305): retained banks are taken back in place, saved banks are granted again
and written back, what another task retains in a bank still pending is saved first, target buffers take their bundles again, and the
first bundle issues in cycle `t1`. The request that it was saved for
is over, with its count of issue cycles (log entry 96). -/
def State.resumeMember (t : Task) (t1 : Nat) (s : State) (p : Nat × Core) : State :=
  let n := p.1
  let here := s.coreAt n
  let back := (t.banks.filter (·.core == n)).map (·.bank)
  let due := (List.range 64).filter p.2.ctl.pendingBanks.getLsbD
  let s := (s.keepEnded n).guardBanks t.id n (back ++ due)
  let here' := s.coreAt n
  let at_ := p.2.ctl.run.frozenAt t1
  let c := { p.2 with
    vault := here'.vault, poison := here'.poison, port := here'.port, failed := here.failed, perf := here.perf
    retained := here'.retained.filter fun e => e.2 != some t.id
    ctl := { p.2.ctl with
             resumed := true, preempt := false, overrun := 0, cycle0 := p.2.ctl.cycle0 + (t1 - at_),
             pendingBanks := p.2.ctl.pendingBanks ||| bankMask back } }
  let c := ((c.addHeld n t.held).thaw at_ t1).refetched t1
  let s := (s.setCore n { c with seq := { c.seq with stream := [], streamFrom := c.seq.pc, streamAt := t1, cold := false } }).settleBanks n
  s.on n fun s => (List.range 4).foldl (fun s i => s.fillTarget i) s

/-- Whether no other task holds a bank that a task has saved any more, so that all can be written back (R302, R305). -/
def State.mayRestore (s : State) (t : Task) : Bool := t.banks.all fun b => !s.heldByOther b.core t.id b.bank

/-- TASK_RESUME (R305): every member issues its first bundle in the same cycle, after every restore and when all have fetched
theirs; none on a core that has failed or is retired (R378, R382). -/
def execTaskResume (task : Nat) (s : State) : Next :=
  match s.task? task with
  | none => .next s
  | some t =>
    let back := t.contexts.filter fun p => !t.ended.contains p.1
    if t.state == .restoring && s.mayRestore t && back.all fun p => s.usable p.1 then
      let s := s.modTask t.id fun x =>
        { x with state := .running, contexts := x.contexts.filter fun p => x.ended.contains p.1, held := [] }
      .next (back.foldl (State.resumeMember t (back.foldl (fun m p => max m (s.coreAt p.1).supply) (s.cycle + 1))) s)
    else .next s

/-! ### The end on a core (R105, R303) -/

/-- Whether a word of the port is an operation whose delivery its core waits for (R105). -/
def GOp.hasResult : GOp → Bool
  | .tldTile _ _ => true
  | .tldx _ _ _ _ => true
  | .amog _ _ _ _ _ _ _ => true
  | .xlate _ _ _ => true
  | _ => false

/-- Whether everything that an ending core waits for is there (R105). A GATH whose pushed index vectors are still read is not waited for.
DESIGN CHOICE, log entry 106. -/
def Core.spent (c : Core) : Bool :=
  c.ctl.run == .ending && c.drained && c.qs.flight.isEmpty && c.qs.fills.isEmpty && c.qs.nexts.isEmpty && c.eng.mmas.isEmpty &&
  c.eng.exits.isEmpty && c.boundary.isEmpty && !(c.mine.any fun e => e.op.hasResult)

/-- The task ends on core `n` and holds its banks there until its engine commands have completed (R105, R303). A wait that
its end satisfies is over (R106), and a use of a collective that it was to join is aborted (R203). -/
def State.endOn (s : State) (n : Nat) : State :=
  let c := s.coreAt n
  let t := c.ctl.task
  let s := s.modAt n fun c => { c with ctl := { c.ctl with run := .idle }, stall := none, waiting := none }
  let s := s.modTask t fun x =>
    let ended := x.ended ++ [n]
    { x with ended := ended, holding := x.holding.set 0 n c.ctl.owned,
             state := if x.size ≤ ended.length then .ended else x.state }
  let s := if s.isOver t then (s.modTask t fun x => { x with requested := false, incoming := none }).unask t else s
  let s := (s.releaseEnded n).abortFor n t
  match s.task? t with
  | none => s
  | some x =>
    match x.cores.find? fun m => (s.coreAt m).ctl.task == t && (s.coreAt m).ctl.run != .idle with
    | some m => s.on m (·.tryBarrier)
    | none => s

/-- TASK_DRAIN_END (R105). -/
def execTaskDrainEnd (core : Nat) (s : State) : Next :=
  if 512 ≤ core then .fault (.noSuchCore core)
  else if (s.coreAt core).spent then .next (s.endOn core) else .next s

/-! ### The end of a group (R206, R316) -/

/-- Whether a group's tasks have all ended with nothing of theirs in a port, and every write of its dies, and of the die whose port the
DONE write passes, has performed (R206, R260). -/
def State.groupDone (s : State) (g : Group) : Bool :=
  let ts := s.dev.sched.tasks.filter (·.group == g.id)
  g.remaining == 0 && ts.all (·.state == .ended) &&
    s.cores.all (fun c => c.2.port.all fun e => !(ts.any fun t => t.id == e.task)) &&
    (dieOf g.core :: diesOf g.dies).all s.dev.sys.drained

/-- The fault copy of a DONE word that cannot be written (R206, R344). -/
def doneCopy (g : Group) (k : Cause) : List Byte :=
  fieldBytes ([(2, g.core), (2, { cause := k, slot := 10 : TrapInfo }.causeWord), (4, 0), (4, g.id), (1, g.queue), (1, 0),
    (2, g.asid.toNat), (28, 0), (8, g.done), (76, 0)])

/-- DVAL is written to DONE (R206). -/
def State.writeDone (s : State) (g : Group) : State :=
  if g.done = 0 then s
  else
    match s.range g.asid.toNat true g.done 8 with
    | .ok (l, s) => s.flatWrite (dieOf g.core) 0 l (leBytes 8 g.dval.toNat)
    | .error (k, _, s) => s.record 0 4 (doneCopy g k)

/-- The physical pages of an object's versions. -/
def Obj.pageAddrs (o : Obj) : List Nat := o.versions.flatMap fun v => v.pages.map fun p => p.2.1

/-- The versions that an object keeps: the current one while it is loaded, and those that a group has recorded (R316). -/
def State.keptVersions (s : State) (o : Obj) : Obj :=
  { o with versions := o.versions.filter fun v =>
      (o.mapped && v.num == o.current) || s.dev.sched.groups.any fun g => g.object == o.handle && g.version == v.num }

/-- Versions that no group needs any more are freed with the pages that they alone have (R316). -/
def State.freeVersions (s : State) : State :=
  let old := s.dev.code.objects
  let new := (old.map s.keptVersions).filter fun o => o.mapped || !o.versions.isEmpty
  let kept := new.flatMap (·.pageAddrs)
  let gone := (old.flatMap (·.pageAddrs)).eraseDups.filter fun a => !kept.contains a
  let s := { s with dev := { s.dev with code := { s.dev.code with objects := new } } }
  s.sys fun m => gone.foldl (fun m a => { m.free a 65536 with guarded := m.guarded.set false (a / 65536) false }) m

/-- DONE_WRITE (R206). -/
def execDoneWrite (group : Nat) (s : State) : Next :=
  match s.group? group with
  | none => .next s
  | some g =>
    if s.groupDone g then
      .next ((s.writeDone g).sched fun d =>
        { d with groups := d.groups.filter (·.id != g.id), queued := d.queued.filter (·.2 != g.id) }).freeVersions
    else .next s

end Sys2Proof.Machine
end

