-- ==== Sys2Proof/Machine/Commands.lean ====
section
/-!
DEFINITION. The engine commands at issue (R192, R197 to R206) and their completion (R192, R193, R207, R208, R391).
-/
namespace Sys2Proof.Machine

/-! ### Issue -/

/-- A command whose ring lies in a pending bank waits (R192, R302). -/
def Core.commandRing (c : Core) (k : CmdKind) (b : BitVec 512) : Except Stop Unit :=
  match (GOp.cmd k 0 b).ring? with
  | some h => ringWait c (c.ring h)
  | none => .ok ()

/-- An engine command issues (R192): after its stalls, PRIV unless it is `allowed`, the block's address, its fields by `check`, and km
(R81). Its block is read now; a block on a poisoned line is not looked into (R376). -/
def State.command (s : State) (k : CmdKind) (o bb : BitVec 3) (kc km : BitVec 4) (kr : BitVec 1) (blk : BitVec 32)
    (check : State → BitVec 512 → Except Stop Unit) (allowed : Bool := true) : Except Stop State := do
  portRoom s.core
  let a := s.core.ea bb blk.toNat
  s.orderWait 0 .stallg
  s.core.bringWait a 64
  s.core.bankWait a 64
  let b := BitVec.ofNat 512 (s.core.vault.num a 64)
  let bad := s.core.poisoned a 64
  if !bad && blkArea a 64 64 then s.core.commandRing k b
  need allowed .priv
  s.checkLocal a 64 64
  if !bad then check s b
  need (kr = 0 || decide (km.toNat < s.core.ctl.size)) .crange
  let e := s.word o (.cmd k a b) (if kr = 1 then s.member km.toNat else s.cur) kc.toNat
  return s.enter { e with bad := bad }

/-- CPY (R197). -/
def execCpy (o : BitVec 3) (g : Guard) (bb : BitVec 3) (kc km : BitVec 4) (kr : BitVec 1) (blk : BitVec 32) (s : State) :
    Next :=
  execG g (fun s => s.command .cpy o bb kc km kr blk State.checkCpy) s

/-- KAPP (R199). -/
def execKapp (o : BitVec 3) (g : Guard) (bb : BitVec 3) (kc km : BitVec 4) (kr : BitVec 1) (blk : BitVec 32) (s : State) :
    Next :=
  execG g (fun s => s.command .kapp o bb kc km kr blk fun _ => checkKapp) s

/-- PMATCH (R200). -/
def execPmatch (o : BitVec 3) (g : Guard) (bb : BitVec 3) (kc km : BitVec 4) (kr : BitVec 1) (blk : BitVec 32) (s : State) :
    Next :=
  execG g (fun s => s.command .pmatch o bb kc km kr blk fun _ => checkTrellis pmatchOk) s

/-- PINS (R200). -/
def execPins (o : BitVec 3) (g : Guard) (bb : BitVec 3) (kc km : BitVec 4) (kr : BitVec 1) (blk : BitVec 32) (s : State) :
    Next :=
  execG g (fun s => s.command .pins o bb kc km kr blk fun _ => checkTrellis pinsOk) s

/-- PREL (R200). -/
def execPrel (o : BitVec 3) (g : Guard) (bb : BitVec 3) (kc km : BitVec 4) (kr : BitVec 1) (blk : BitVec 32) (s : State) :
    Next :=
  execG g (fun s => s.command .prel o bb kc km kr blk fun _ => checkTrellis prelOk) s

/-- BLEND (R202, R203). -/
def execBlend (o : BitVec 3) (g : Guard) (bb : BitVec 3) (kc km : BitVec 4) (kr : BitVec 1) (blk : BitVec 32) (s : State) :
    Next :=
  execG g (fun s => s.command .blend o bb kc km kr blk fun s => checkCollective blendOk s.core.ctx.scope) s

/-- COLL (R204). -/
def execColl (o : BitVec 3) (g : Guard) (bb : BitVec 3) (kc km : BitVec 4) (kr : BitVec 1) (blk : BitVec 32) (s : State) :
    Next :=
  execG g (fun s => s.command .coll o bb kc km kr blk fun s => checkCollective collOk s.core.ctx.scope) s

/-- ASN (R205). -/
def execAsn (o : BitVec 3) (g : Guard) (bb : BitVec 3) (kc km : BitVec 4) (kr : BitVec 1) (blk : BitVec 32) (s : State) :
    Next :=
  execG g (fun s => s.command .asn o bb kc km kr blk fun _ => checkAsn) s

/-- LAUNCH (R206): only a dispatch core may issue it. -/
def execLaunch (o : BitVec 3) (g : Guard) (bb : BitVec 3) (kc km : BitVec 4) (kr : BitVec 1) (blk : BitVec 32) (s : State) :
    Next :=
  execG g (fun s => s.command .launch o bb kc km kr blk (fun _ => checkLaunch) (s.dispatches s.cur)) s

/-- DECANT (R201). -/
def execDecant (o : BitVec 3) (g : Guard) (bb : BitVec 3) (kc km : BitVec 4) (kr : BitVec 1) (blk : BitVec 32) (s : State) :
    Next :=
  execG g (fun s => s.command .decant o bb kc km kr blk State.checkDecant) s

/-! ### Completion -/

/-- The A and D bits that walks have set in `t` set in `s` too (R341). -/
def State.keepWalks (s t : State) : State :=
  s.dev.sys.asids.foldl (fun s (x : Nat × Option Asid) =>
    match x.2 with
    | none => s
    | some sp =>
      (leavesFrom s.dev.sys.mem walkLevels 0 sp.l0).foldl (fun (s : State) l =>
        s.sys fun m => { m with mem := m.mem.setNum l.2.1 8 (l.2.2.1 ||| (t.dev.sys.homeNum l.2.1 8 &&& 0x30)) }) s) s

/-- Work that is undone where it cannot complete: it starts again from the beginning, and only what peers were asked for and the bits
of its walks stay. -/
def whole (s : State) (r : EngineM (State × Done)) : EngineM (State × Done) :=
  match r with
  | .error (.fault i t) => .error (.fault i (s.keepWalks t))
  | .error (.wait t) =>
    let s := s.keepWalks t
    .error (.wait { s with dev := { s.dev with fabric := t.dev.fabric } })
  | r => r

/-- A trellis command has its effect only once the writes of the one before it are at their homes (R200). -/
def State.inTree (s t : State) : State := if s.treeBusy then s else t

/-- What the engine of a command does with its block. -/
def State.work (s : State) (e : GEntry) (k : CmdKind) (b : BitVec 512) : State :=
  match k with
  | .cpy => afterWork e (s.workCpy e b)
  | .kapp => afterWork e (s.workKapp e b)
  | .pmatch => s.inTree (afterWork e (whole s (s.workPmatch e b)))
  | .pins => s.inTree (afterWork e (whole s (s.workPins e b)))
  | .prel => s.inTree (afterWork e (whole s (s.workPrel e b)))
  | .blend => s.workCollective e
  | .coll => s.workCollective e
  | .asn => afterWork e (s.workAsn e b)
  | .launch => s
  | .decant => afterWork e (s.workDecant e b)

/-- A part of a word's effects, and the others later (log entry 2): the next page of a copy; the work of a command whose results go to
the own vault; the first 64 bytes of what is still to go there; the first line of a TLDX or TSTX; a slot that is filled and not yet
published (R283). -/
def State.partWork (s : State) (ix : Nat) : State :=
  match s.core.port[ix]? with
  | none => s
  | some e =>
    match e.finished with
    | some d =>
      match d.out with
      | [] => s
      | (a, bs) :: r =>
        let rest := (if 64 < bs.length then [(a + 64, bs.drop 64)] else []) ++ r
        (s.engineWrite s.cur e.task a (bs.take 64)).updateEntry { e with finished := some { d with out := rest } }
    | none =>
      let held := fun (r : EngineM (State × Done)) =>
        match r with
        | .ok (t, d) => t.updateEntry { t.current e with finished := some d, faulted := none }
        | .error _ => s
      if e.faulted.isSome then s
      else if e.op.isTransfer then
        match e.op with
        | .tldx va pa n dst => if 64 < n && s.mayTransfer ix e then s.arriveLine e va n dst pa else s
        | .tstx va pa data => if 64 < data.length && s.mayTransfer ix e then s.storeLine e va pa data else s
        | .tldRing h _ =>
          match e.got with
          | some (header, data) =>
            if !e.started && !s.isOver e.task && s.fillTurn ix e h then
              (s.writeSlot e.task h header data).updateEntry { e with started := true }
            else s
          | none => s
        | _ => s
      else if e.bad || !s.cmdReady e then s
      else
        match e.op with
        | .cmd .decant _ b => if s.mayFill e (decantFields b).2.2.2 then s.fillDecant e b false else s
        | .cmd .cpy _ b =>
          let c := cpyBlock b
          if c.rg then (if s.mayFill e c.dst then s.fillCpy e b false else s)
          else if c.len ≤ e.copied then s
          else
            match s.copyStep e c e.copied with
            | .ok (t, _) => t
            | .error _ => s
        | .cmd .asn _ b => held (s.workAsn e b)
        | .cmd .pmatch _ b => s.inTree (held (s.workPmatch e b))
        | _ => s

/-- A command on a poisoned block has done nothing (R376); a CPY reports its bytes copied, none (R197). -/
def poisonRes (e : GEntry) (k : CmdKind) : Nat := if k = .cpy then 0 else e.anyRes

/-- A record of the provenance log (R391), SEQ and the rest. -/
def provRecord (digest task core asid ten emits bytes seq : Nat) : List Byte :=
  fieldBytes [(32, digest), (4, task), (2, core), (2, asid), (1, ten), (1, 0), (2, emits), (4, bytes), (8, seq), (8, 0)]

/-- Entries of the provenance ring (R392). -/
def provEntries : Nat := 2 ^ 20

/-- Where record `seq` stands: after the line that the host writes (R392, log entry 29). -/
def Trust.provAt (t : Trust) (seq : Nat) : Nat := t.provBase + 64 + 64 * (seq % provEntries)

/-- A change to boot and trust. -/
def State.trust (s : State) (f : Trust → Trust) : State := { s with dev := { s.dev with trust := f s.dev.trust } }

/-- The first 32 bytes of SHAKE256 over a chain head and an entry (R390, R391). -/
def chain (h : BitVec 256) (entry : List Byte) : BitVec 256 := digest256 (leBytes 32 h.toNat ++ entry)

/-- A record is appended to the provenance log (R391). -/
def State.appendProvenance (s : State) (bytes : List Byte) : State :=
  (s.physWrite (s.dev.trust.provAt s.dev.trust.pcnt) bytes).trust fun t =>
    { t with phead := chain t.phead bytes, pcnt := t.pcnt + 1, unsigned := t.unsigned + 1 }

/-- A DGST emit completes (R208, R391, R392): emits of one core in order, and none over a record not yet archived. -/
def State.emit (s : State) (ix : Nat) (e : GEntry) (digest : BitVec 256) (off bytes emits : Nat) : State :=
  let t := s.dev.trust
  let earlier := (s.core.port.take ix).any fun x => match x.op with
    | .emit _ _ _ _ => true
    | _ => false
  if earlier || t.archived + provEntries ≤ t.pcnt || (wideScope e.scope && !s.dev.sys.drained (dieOf s.cur)) then s
  else
    let g := (s.task? e.task).bind fun x => s.group? x.group
    let s := s.engineWrite s.cur e.task off (leBytes 32 digest.toNat)
    let s := s.appendProvenance (provRecord digest.toNat ((g.map (·.id)).getD 0) s.cur e.asid
      ((g.map (·.tenants.toNat)).getD 0) emits bytes t.pcnt)
    (s.increment e.kcore e.kc e.task).retire e

/-- ENGINE_COMMAND_COMPLETION (R192): the word at a place of the port. -/
def execEngineCommandCompletion (core ix : Nat) (s : State) : Next :=
  onCore core (fun s =>
    match s.core.port[ix]? with
    | none => s
    | some e =>
      if e.finished.isSome then s.tryFinish e
      else if e.faulted.isSome then s
      else
        match e.op with
        | .cmd k _ b =>
          if k == .launch || !s.cmdReady e then s
          else if e.bad then s.settleCommand e (Done.plain 6 (poisonRes e k))
          else s.work e k b
        | .icinv va len => if s.wordOrdered e then ((s.discardCode va len).increment e.kcore e.kc e.task).retire e else s
        | .emit d off n k => if s.wordOrdered e then s.emit ix e d off n k else s
        | _ => s) s

end Sys2Proof.Machine
end

