-- ==== Sys2Proof/Machine/Traps.lean ====
section
/-!
DEFINITION. Stalls end (R87), faults and traps take effect at bundle boundaries (R90, R250, R252), and fault service and the
debug agent resume or end what is frozen (R107, R247, R249, R345, R377).
-/
namespace Sys2Proof.Machine

/-! ### At a boundary -/

/-- STALL_END (R83, R87): the stalled bundle may try to issue again. -/
def execStallEnd (core : Nat) (s : State) : Next := onCore core (fun s => s.mod fun c => { c with stall := none }) s

/-- What is reported at the boundary (R250): the oldest fault or data error, then TRAP or BRK. -/
def Core.boundaryCause (c : Core) : Option TrapInfo :=
  match c.boundary.find? fun t => t.cause.cls != 1 with
  | some t => some t
  | none => c.boundary.head?

/-- A cause taken no longer waits; several data errors at one boundary are one (R377). -/
def dropCause (t : TrapInfo) (l : List TrapInfo) : List TrapInfo :=
  let r := l.erase t
  if t.cause.cls = 3 then r.filter fun x => x.cause.cls != 3 else r

/-- Whether a core stands at a bundle boundary: its next bundle could issue now, or it issues none any more. -/
def State.atBoundary (s : State) : Bool := s.core.delivers && s.core.wake ≤ s.cycle

/-- The core freezes for a cause that takes effect at this boundary. -/
def State.takeBoundary (s : State) : State :=
  match s.core.boundaryCause with
  | none => s
  | some t => takeTrap t s.cycle (s.mod fun c => { c with boundary := dropCause t c.boundary })

/-- BOUNDARY_FAULT (R90, R187, R250). -/
def execBoundaryFault (core : Nat) (s : State) : Next :=
  onCore core (fun s => if s.atBoundary then s.takeBoundary else s) s

/-- Whether a task has issued more cycles since a request than its bound allows (R252). -/
def Core.overran (c : Core) : Bool := c.ctl.preempt && c.ctl.bound < c.ctl.overrun && c.ctl.run == .running

/-- PREOVR (R250, R252). -/
def execPreovr (core : Nat) (s : State) : Next :=
  onCore core (fun s =>
    if s.atBoundary && s.core.overran && s.core.boundaryCause.isNone then takeTrap { cause := .preovr, slot := 15 } s.cycle s
    else s) s

/-! ### Service -/

/-- Whether the data-error policy of the core's tenants ends the task (R377). -/
def State.endsOnError (s : State) : Bool :=
  let h := s.dev.health
  let ten := s.core.ctl.tenants
  if ten = 0 then h.defaultPolicy
  else (List.range 7).any fun k => ten.getLsbD k && h.policy.get true (k + 1)

/-- Whether a debug session is attached to the current core's task (R107). -/
def State.debugged (s : State) : Bool := s.dev.mgmt.sessions.contains s.core.ctl.task

/-- A debug session attached to a task, or ended (R107). -/
def State.attachDebug (s : State) (task : Nat) (on : Bool) : State :=
  s.mgmt fun m => { m with sessions := if on then task :: m.sessions else m.sessions.filter (· != task) }

/-- The fate of a trap or fault at fault service (R247): the core resumes, its task ends, or service is not done; a BRK with a debug
session attached is none of its affair (R107). -/
def State.fate (s : State) (t : TrapInfo) (tier : Nat) : Served :=
  match t.cause with
  | .trap => if t.code < 0x8000 then .done s else .never
  | .brk => if s.debugged then .later else .done s
  | .rnschk => if s.endsOnError then .never else .done s
  | .dpoison => if s.endsOnError then .never else .done s
  | .fetch => s.serve s.core.ctl.asid.toNat s.core.ctl.object s.core.ctl.version t tier
  | .trans => s.serve s.core.ctl.asid.toNat s.core.ctl.object s.core.ctl.version t tier
  | _ => .never

/-- The word that faulted, where the fault is a transfer's. -/
def State.faultedWord (s : State) (t : TrapInfo) : Option GEntry :=
  t.port.bind fun o => s.core.port.find? fun e => e.order == o && e.task == s.core.ctl.task

/-- The word that faulted is made again (R240). -/
def State.retryWord (s : State) (t : TrapInfo) : State :=
  match s.faultedWord t with
  | some e => s.updateEntry { e with faulted := none }
  | none => s

/-- The task ends on a trap as it ends on END, without the check of RAB (R105, R249): what is in flight is still delivered,
and a transfer that faulted is given up. -/
def State.endOnTrap (s : State) (t : TrapInfo) (at_ : Nat) : State :=
  let s := match s.faultedWord t with
    | some e => s.retire { e with acquire := false }
    | none => s
  s.mod fun c => { c with ctl := { c.ctl with draining := true }, boundary := [] }.thaw at_ (s.cycle + 1)

/-- The cycle in which a resumed core issues (R249): 6 cycles on, or as soon as the bundle at PC has been fetched. -/
def State.resumption (s : State) : Nat :=
  if s.inBuffer s.core.seq.pc.toNat then s.cycle + 6 else max (s.cycle + 6) s.core.supply

/-- Fault service is done with a frozen core (R249, R345): it resumes, or its task ends and the host is told. -/
def State.served? (s : State) (tier : Nat) : State :=
  match s.core.ctl.run with
  | .frozen t at_ =>
    match s.fate t tier with
    | .done s' => returnFromTrap s.resumption (s'.retryWord t)
    | .never => (s.hostCopy t).endOnTrap t at_
    | .full => s
    | .later => s
  | _ => s

/-- FAULT_SERVICE_RESUME (R249). -/
def execFaultServiceResume (core : Nat) (tier : BitVec 2) (s : State) : Next := onCore core (·.served? tier.toNat) s

/-- DEBUG_AGENT_RESUME (R107): a core frozen by BRK while a debug session is attached to its task. -/
def execDebugAgentResume (core : Nat) (s : State) : Next :=
  onCore core (fun s =>
    match s.core.ctl.run with
    | .frozen t _ => if t.cause = .brk && s.debugged then returnFromTrap s.resumption s else s
    | _ => s) s

end Sys2Proof.Machine
end

