-- ==== Sys2Proof/Machine/Object.lean ====
section
/-!
DEFINITION. Code objects as byte strings (R307 to R309): their sections and entries, the loader's checks (R311, R312), bank
placement (R314) and relocation (R310).
-/
namespace Sys2Proof.Machine

/-! ### Sections -/

/-- The little-endian number of `n` bytes at `at_` of a byte string. -/
def numAt (b : List Byte) (at_ n : Nat) : Nat := leNat ((b.drop at_).take n)

/-- Whether bytes `at_` to `at_ + n - 1` are zero. -/
def zeroAt (b : List Byte) (at_ n : Nat) : Bool := numAt b at_ n == 0

/-- A section table entry (R307). -/
structure Section where
  type : Nat
  off : Nat
  bytes : Nat
  count : Nat
  deriving DecidableEq, Repr

/-- The section table (R307). -/
def sections (b : List Byte) : List Section :=
  (List.range (numAt b 6 2)).map fun i =>
    let a := 64 + 16 * i
    ⟨numAt b a 2, numAt b (a + 4) 4, numAt b (a + 8) 4, numAt b (a + 12) 4⟩

/-- The bytes of the section of a type; empty where there is none. -/
def sectionBytes (b : List Byte) (type : Nat) : List Byte :=
  match (sections b).find? (·.type == type) with
  | some x => (b.drop x.off).take x.bytes
  | none => []

/-- Bytes of an entry of a section of fixed-size entries whose COUNT counts them (R307, R308). -/
def entrySize (type : Nat) : Nat :=
  match type with
  | 1 => 32 | 2 => 64 | 5 => 32 | 7 => 24 | 9 => 16 | 10 => 64 | _ => 0

/-- The entries of a section. -/
def entries (b : List Byte) (type : Nat) : List (List Byte) :=
  let x := sectionBytes b type
  cut (entrySize type) (x.length + 1) x

/-- FLAGS. -/
def objFlags (b : List Byte) : Nat := numAt b 8 4
/-- PORTABLE. -/
def isPortable (b : List Byte) : Bool := bitOf (objFlags b) 0
/-- ADAPTER. -/
def isAdapter (b : List Byte) : Bool := bitOf (objFlags b) 1
/-- SEALREQ. -/
def isSealReq (b : List Byte) : Bool := bitOf (objFlags b) 2

/-- Neighbouring sections in ascending order without overlap (R308). -/
def ascending : List Section → Bool
  | x :: y :: r => x.off + x.bytes ≤ y.off && x.off < y.off && ascending (y :: r)
  | _ => true

/-- Whether COUNT agrees with BYTES. A literal section may count its words or not. -/
def Section.countOk (x : Section) : Bool :=
  if entrySize x.type ≠ 0 then x.bytes == entrySize x.type * x.count
  else if x.type = 4 then x.bytes % 64 == 0 && (x.count == 0 || 64 * x.count == x.bytes)
  else x.count == 0

/-- Reserved fields of the entries (R308, R310, R323). -/
def reservedOk (b : List Byte) : Bool :=
  (entries b 1).all (fun e => zeroAt e 28 4 && numAt e 24 4 != 0) &&
  (entries b 2).all (fun e => zeroAt e 36 28 && numAt e 18 2 < 2) &&
  (entries b 5).all (fun e => zeroAt e 28 4 && numAt e 3 1 < 8) &&
  (entries b 7).all (fun e => zeroAt e 5 1) && (entries b 9).all (fun e => zeroAt e 2 2) &&
  (entries b 10).all (fun e => zeroAt e 60 4)

/-- Check 1 (R311): MAGIC, FMT, SIZE, the section layout of R308 and reserved fields. -/
def formOk (b : List Byte) : Bool :=
  let ss := sections b
  let n := numAt b 6 2
  128 ≤ b.length && numAt b 0 4 == 0x314F5A45 && numAt b 4 2 == 1 && 2 ≤ n && n ≤ 11 && numAt b 16 8 == b.length &&
  objFlags b < 8 && zeroAt b 24 8 && (isAdapter b || zeroAt b 32 32) && 64 + 16 * n ≤ b.length &&
  (List.range n).all (fun i => zeroAt b (64 + 16 * i + 2) 2) &&
  ss.all (fun x => 1 ≤ x.type && x.type ≤ 11 && x.off % 64 == 0 && 64 + 16 * n ≤ x.off && x.off + x.bytes ≤ b.length &&
    x.countOk) &&
  decide (ss.map (·.type)).Nodup && ascending ss && ss.any (·.type == 3) &&
  (ss.getLast?.map fun x => x.type == 11 && x.bytes == 32 && x.off + 32 == b.length).getD false &&
  numAt b 12 4 == (entries b 2).length && reservedOk b

/-- The digest of an object (R308). -/
def objDigest (b : List Byte) : BitVec 256 := digest256 (b.take (b.length - 32))

/-- The device's features and versions (R312), in the ASCII of their names. -/
def features : List (String × Nat) :=
  [("isa.core", 1), ("isa.weight", 1), ("isa.tile", 1), ("eng.asn", 1), ("eng.trellis", 1), ("eng.blend", 1), ("fmt.q4", 1)]

/-- An ASCII string as bytes. -/
def ascii (x : String) : List Byte := x.toList.map fun c => BitVec.ofNat 8 c.toNat

/-- The 24 bytes of a feature name, zero-padded. -/
def nameBytes (x : String) : List Byte := ascii x ++ List.replicate (24 - (ascii x).length) 0

/-- The device's version of a feature. -/
def versionOf (name : List Byte) : Option Nat := (features.find? fun f => nameBytes f.1 == name).map (·.2)

/-- Check 3: every required feature exists. -/
def featuresExist (b : List Byte) : Bool := (entries b 1).all fun e => (versionOf (e.take 24)).isSome

/-- Check 4: no required version is above the device's. -/
def versionsMet (b : List Byte) : Bool := (entries b 1).all fun e => numAt e 24 4 ≤ (versionOf (e.take 24)).getD 0

/-! ### Kernels, plans and symbols -/

/-- A kernel table entry (R308). -/
structure KernEntry where
  name : Nat
  entry : Nat
  lit0 : Nat
  bound : Nat
  pbsz : Nat
  remap : Bool
  planFirst : Nat
  planCount : Nat
  hookFirst : Nat
  hookCount : Nat
  deriving DecidableEq, Repr

/-- The kernel table. -/
def kernels (b : List Byte) : List KernEntry :=
  (entries b 2).map fun e =>
    ⟨numAt e 0 4, numAt e 4 4, numAt e 8 4, numAt e 12 4, numAt e 16 2, bitOf (numAt e 18 2) 0, numAt e 20 4, numAt e 24 4,
     numAt e 28 4, numAt e 32 4⟩

/-- Check 5 (R222, R308). -/
def boundsOk (b : List Byte) : Bool :=
  (kernels b).all fun k => 1 ≤ k.bound && k.bound ≤ 65536 && k.pbsz % 64 == 0 && k.pbsz ≤ 4096

/-- A scratchpad plan entry (R308). -/
structure RawPlan where
  kern : Nat
  bank : Nat
  fl : Nat
  off : Nat
  len : Nat
  first : Nat
  last : Nat
  img : Nat
  imgLen : Nat
  deriving DecidableEq, Repr

/-- The scratchpad plan. -/
def rawPlan (b : List Byte) : List RawPlan :=
  (entries b 5).map fun e =>
    ⟨numAt e 0 2, numAt e 2 1, numAt e 3 1, numAt e 4 4, numAt e 8 4, numAt e 12 4, numAt e 16 4, numAt e 20 4, numAt e 24 4⟩

/-- Two entries whose bytes overlap in a bank and whose live ranges share a bundle (R216, R311): bundles are numbered through the object,
so that entries of two kernels clash only at a bundle of both (log entry 115). -/
def RawPlan.clashes (x y : RawPlan) : Bool :=
  x.bank == y.bank && x.off < y.off + y.len && y.off < x.off + x.len && x.first ≤ y.last && y.first ≤ x.last

/-- Check 6 (R216, R308). -/
def planOk (b : List Byte) : Bool :=
  let ps := rawPlan b
  ps.all (fun p => p.bank < 64 && p.off % 128 == 0 && 1 ≤ p.len && p.off + p.len ≤ 65536 && p.first ≤ p.last &&
    (!bitOf p.fl 2 || p.imgLen ≤ p.len)) &&
  (List.range ps.length).all fun i => (List.range i).all fun j =>
    match ps[i]?, ps[j]? with
    | some x, some y => !x.clashes y
    | _, _ => true

/-- A symbol entry (R308). -/
structure RawSymbol where
  name : Nat
  kind : Nat
  kern : Nat
  value : Nat
  deriving DecidableEq, Repr

/-- The symbol table. -/
def rawSymbols (b : List Byte) : List RawSymbol :=
  (entries b 7).map fun e => ⟨numAt e 0 4, numAt e 4 1, numAt e 6 2, numAt e 8 8⟩

/-- The zero-terminated string at an offset of the string section. -/
def stringAt (b : List Byte) (off : Nat) : List Byte := ((sectionBytes b 8).drop off).takeWhile (· != 0)

/-- A relocation entry (R310). -/
structure Reloc where
  kind : Nat
  sec : Nat
  at_ : Nat
  sym : Nat
  add : Int
  deriving DecidableEq, Repr

/-- The relocations, in table order. -/
def relocs (b : List Byte) : List Reloc :=
  (entries b 9).map fun e => ⟨numAt e 0 1, numAt e 1 1, numAt e 4 4, numAt e 8 4, signedOf 32 (numAt e 12 4)⟩

/-- Bytes of the field that a relocation patches. -/
def Reloc.size (r : Reloc) : Nat := if r.kind = 1 then 4 else 8

/-- A relocation's kind, field and symbol (R310). -/
def Reloc.ok (b : List Byte) (r : Reloc) : Bool :=
  let kind := ((rawSymbols b)[r.sym]?).map (·.kind)
  (r.sec == 3 || r.sec == 4 || r.sec == 6) && r.at_ % r.size == 0 && r.at_ + r.size ≤ (sectionBytes b r.sec).length &&
  (if r.kind = 1 then kind == some 1 || kind == some 2
   else if r.kind = 2 then kind == some 0 || kind == some 3 || kind == some 4
   else r.kind == 3 && r.sym == 0 && r.add == 0)

/-- Check 7 (R308, R310): indices and fields lie within their sections. -/
def indicesOk (b : List Byte) : Bool :=
  let syms := rawSymbols b
  let ks := kernels b
  let nplan := (rawPlan b).length
  let nhook := (entries b 10).length
  ks.all (fun k => k.name < syms.length && k.entry % 4 == 0 && k.entry < (sectionBytes b 3).length &&
    64 * k.lit0 ≤ (sectionBytes b 4).length && k.planFirst + k.planCount ≤ nplan && k.hookFirst + k.hookCount ≤ nhook) &&
  (rawPlan b).all (fun p => p.kern < ks.length && (!bitOf p.fl 2 || p.img + p.imgLen ≤ (sectionBytes b 6).length)) &&
  syms.all (fun x => x.name < (sectionBytes b 8).length && ((sectionBytes b 8).drop x.name).contains 0 && x.kind ≤ 7 &&
    (x.kern == 0xFFFF || x.kern < ks.length)) &&
  (relocs b).all (Reloc.ok b)

/-- The load checks that need nothing but the object's bytes, 1 to 7: the status of the first that fails, or 0 (R311). -/
def objectStatus (b : List Byte) : Nat :=
  if !formOk b then 1
  else if BitVec.ofNat 256 (numAt b (b.length - 32) 32) ≠ objDigest b then 2
  else if !featuresExist b then 3
  else if !versionsMet b then 4
  else if !boundsOk b then 5
  else if !planOk b then 6
  else if !indicesOk b then 7
  else 0

/-! ### Bank placement (R314) -/

/-- The plan entries of kernel `i`. -/
def planOf (b : List Byte) (k : KernEntry) : List RawPlan := ((rawPlan b).drop k.planFirst).take k.planCount

/-- The banks that a kernel's plan names, ascending. -/
def namedBanks (b : List Byte) (k : KernEntry) : List Nat :=
  (List.range 64).filter fun n => (planOf b k).any (·.bank == n)

/-- The identity map. -/
def idMap : List Nat := List.range 64

/-- The bank that the next named bank maps to: the lowest that no earlier kernel and no bank of this one takes, or the one
with the least use. -/
def nextBank (used : List Nat) (taken : List Nat) : Nat :=
  let free := (List.range 64).filter fun c => !taken.contains c
  match free.find? fun c => used.getD c 0 == 0 with
  | some c => c
  | none => free.foldl (fun m c => if used.getD c 0 < used.getD m 0 then c else m) (free.headD 0)

/-- The images of the named banks in order. -/
def placeBanks (used : List Nat) : List Nat → List Nat → List (Nat × Nat)
  | [], _ => []
  | n :: r, taken =>
    let c := nextBank used taken
    (n, c) :: placeBanks used r (c :: taken)

/-- π of a kernel (R314). -/
def bankMapOf (used : List Nat) (named : List Nat) : List Nat :=
  let m := placeBanks used named []
  let rest := (List.range 64).filter fun c => !(m.map (·.2)).contains c
  let others := (List.range 64).filter fun n => !named.contains n
  (List.range 64).map fun n =>
    match m.find? (·.1 == n), (others.zip rest).find? (·.1 == n) with
    | some p, _ => p.2
    | none, some p => p.2
    | none, none => n

/-- The use counts with a kernel's banks added. -/
def addUse (used : List Nat) (banks : List Nat) : List Nat :=
  (List.range 64).map fun n => used.getD n 0 + (if banks.contains n then 1 else 0)

/-- The bank maps of the kernels of one load command, object by object (R314): the kernels without REMAP count first. -/
def bankMaps (objs : List (List Byte)) : List (List (List Nat)) :=
  let fixed := objs.foldl (fun u b => (kernels b).foldl (fun u k => if k.remap then u else addUse u (namedBanks b k)) u)
    (List.replicate 64 0)
  (objs.foldl (fun (x : List Nat × List (List (List Nat))) b =>
    let y := (kernels b).foldl (fun (y : List Nat × List (List Nat)) k =>
      if k.remap then
        let m := bankMapOf y.1 (namedBanks b k)
        (addUse y.1 ((namedBanks b k).map fun n => m.getD n n), y.2 ++ [m])
      else (y.1, y.2 ++ [idMap])) (x.1, [])
    (y.1, x.2 ++ [y.2])) (fixed, [])).2

/-! ### Relocation (R310) -/

/-- A vault offset with its bank mapped. -/
def mapOffset (m : List Nat) (a : Nat) : Nat := m.getD (a / 65536 % 64) 0 * 65536 + a % 65536

/-- Where an object stands: its bytes, its section addresses and its kernels' bank maps. -/
structure Placed where
  bytes : List Byte
  bva : Nat
  lva : Nat
  maps : List (List Nat)

/-- The vault offset of the parameter block of kernel `k`. -/
def Placed.paramAt (p : Placed) (k : Nat) : Nat :=
  match ((kernels p.bytes)[k]?).bind fun e => (planOf p.bytes e).find? fun x => bitOf x.fl 0 with
  | some x => mapOffset (p.maps.getD k idMap) (65536 * x.bank + x.off)
  | none => 0

/-- The value of a symbol after loading: a VA, a vault offset, or the value as it stands (R211, R310). -/
def Placed.value (p : Placed) (x : RawSymbol) : Nat :=
  let entry := (((kernels p.bytes)[x.kern]?).map (·.entry)).getD 0
  match x.kind with
  | 0 => p.bva + entry
  | 1 => p.paramAt x.kern + x.value
  | 2 => mapOffset (p.maps.getD x.kern idMap) x.value
  | 3 => p.bva + entry + x.value
  | 4 => p.lva + 64 * x.value
  | _ => x.value

/-- The kernel that a field at `at_` of a section belongs to: the last that starts at or before it, or whose plan entry's
image holds it. -/
def Placed.owner (p : Placed) (sec at_ : Nat) : Nat :=
  if sec = 6 then (((rawPlan p.bytes).find? fun x => bitOf x.fl 2 && x.img ≤ at_ && at_ < x.img + x.imgLen).map (·.kern)).getD 0
  else
    let ks := (List.range (kernels p.bytes).length).zip (kernels p.bytes)
    (ks.foldl (fun (m : Nat × Nat) k =>
      let start := if sec = 3 then k.2.entry else 64 * k.2.lit0
      if start ≤ at_ && m.2 ≤ start then (k.1, start) else m) (0, 0)).1

/-- A bank mask with each bit moved (R310). -/
def mapMask (m : List Nat) (x : Nat) : Nat := ((List.range 64).map fun n => if bitOf x n then 2 ^ m.getD n n else 0).sum

/-- Bytes with `new` at `at_`. -/
def patch (l : List Byte) (at_ : Nat) (new : List Byte) : List Byte := l.take at_ ++ new ++ l.drop (at_ + new.length)

/-- One relocation applied to its section, with the value of its symbol and the bank map of its kernel given. -/
def applyReloc (value : Reloc → Nat) (map : Reloc → List Nat) (sec : Nat) (l : List Byte) (r : Reloc) : List Byte :=
  if r.sec ≠ sec then l
  else if r.kind = 1 then patch l r.at_ (leBytes 4 (wrapTo 32 ((value r : Int) + r.add)))
  else if r.kind = 2 then patch l r.at_ (leBytes 8 (wrapTo 57 ((value r : Int) + r.add)))
  else patch l r.at_ (leBytes 8 (mapMask (map r) (numAt l r.at_ 8)))

/-- The value of a relocation's symbol in its own object. -/
def Placed.ownValue (p : Placed) (r : Reloc) : Nat := (((rawSymbols p.bytes)[r.sym]?).map p.value).getD 0

/-- A section of an object after relocation, in table order (R310). -/
def relocated (b : List Byte) (value : Reloc → Nat) (map : Reloc → List Nat) (sec : Nat) : List Byte :=
  (relocs b).foldl (applyReloc value map sec) (sectionBytes b sec)

/-- A section of the object in its place. -/
def Placed.sectionOf (p : Placed) (sec : Nat) : List Byte :=
  relocated p.bytes p.ownValue (fun r => p.maps.getD (p.owner sec r.at_) idMap) sec

/-- A section's pages of 65,536 bytes, the last padded with zeros (R313). -/
def pagesOf (l : List Byte) : List (List Byte) :=
  (cut 65536 (l.length / 65536 + 1) l).map fun p => p ++ List.replicate (65536 - p.length) 0

/-- Pages of 65,536 bytes that a section needs. -/
def pageCount (n : Nat) : Nat := ceilDiv n 65536

/-- A kernel's plan after placement: absolute vault offsets and images (R308, R314). -/
def Placed.planEntries (p : Placed) (images : List Byte) (m : List Nat) (k : KernEntry) : List PlanEntry :=
  (planOf p.bytes k).map fun x =>
    { bank := m.getD x.bank x.bank, off := mapOffset m (65536 * x.bank + x.off), len := x.len, param := bitOf x.fl 0,
      stack := bitOf x.fl 1, image := if bitOf x.fl 2 then (images.drop x.img).take x.imgLen else [] }

/-- The loaded kernels (R308, R313). -/
def Placed.loadedKernels (p : Placed) (images : List Byte) : List Kernel :=
  ((kernels p.bytes).zip (p.maps ++ List.replicate (kernels p.bytes).length idMap)).map fun k =>
    { entry := p.bva + k.1.entry, lit := p.lva + 64 * k.1.lit0, bound := k.1.bound, pbsz := k.1.pbsz,
      plan := p.planEntries images k.2 k.1, bankMap := k.2 }

/-- The hooks that a base object's own entries fix (R323). -/
def hookDefs (b : List Byte) : List (Nat × Nat) := (entries b 10).map fun e => (numAt e 56 2, numAt e 58 2)

end Sys2Proof.Machine
end

