-- ==== Sys2Proof/Machine/Transport.lean ====
section
/-!
DEFINITION. Moves and integer operations of the transport slots (R112 to R119).
-/
namespace Sys2Proof.Machine

/-- The 30 bits of the long-immediate word on the partner bus, if the bundle holds one (R42). -/
def partnerLong (m : BitVec 2) : List Instr → Option (BitVec 30)
  | [] => none
  | .longImmediate k i :: r => if k = m ^^^ 1 then some i else partnerLong m r
  | _ :: r => partnerLong m r

/-- The signed value of an immediate move: 15 bits, or 45 with a long word (R42, R112). -/
def immediateValue (words : List Instr) (m : BitVec 2) (i : BitVec 15) : Int :=
  match partnerLong m words with
  | some hi => signedOf 45 (hi.toNat * 2 ^ 15 + i.toNat)
  | none => signedOf 15 i.toNat

/-- A value moved to a destination: visible to the next bundle (R78, R112). -/
def State.moveTo (s : State) (m : BitVec 2) (d : BitVec 9) (x : Nat) : State :=
  let (dest, w) := s.core.destOf d
  s.result (1 + m.toNat) 1 dest (x % 2 ^ w) (ones w) 0

/-- MOVE (R112, R113). -/
def execMove (m : BitVec 2) (d src : BitVec 9) (g : BitVec 6) (s : State) : Next :=
  issueIf (1 + m.toNat) (s.core.guardP g) (fun s => do
    let (x, s) ← s.source src
    return s.moveTo m d x) s

/-- MOVE_IMMEDIATE (R42, R112): the immediate is sign-extended to the destination's width. -/
def execMoveImmediate (m : BitVec 2) (d : BitVec 9) (i : BitVec 15) (g : BitVec 6) (s : State) : Next :=
  issueIf (1 + m.toNat) (s.core.guardP g)
    (fun s => .ok (s.moveTo m d (wrapTo 1024 (immediateValue s.core.ctx.words m i)))) s

/-- LONG_IMMEDIATE (R42): it has no effect of its own; the partner's word takes its bits. -/
def execLongImmediate (_m : BitVec 2) (_i : BitVec 30) (s : State) : Next := .next s

/-- The integer unit of a trigger (R47). -/
def intUnit (u : BitVec 1) : FUnit := if u = 0 then .ia else .ib

/-- The first cycle in which an integer unit is free (R15, R119). -/
def Core.intFree (c : Core) (u : BitVec 1) : Nat := if u = 0 then c.qs.iaFree else c.qs.ibFree

/-- A divide takes its unit for 34 cycles (R119). -/
def Core.occupyInt (c : Core) (u : BitVec 1) (till : Nat) : Core :=
  if u = 0 then { c with qs := { c.qs with iaFree := till } } else { c with qs := { c.qs with ibFree := till } }

/-- The result of an integer operation as it is delivered: sign-extended from 32 bits under type 001 (R117). -/
def intResult (t : BitVec 1) (x : Nat) : Nat := if t = 1 then wrapTo 64 (signedOf 32 x) else x % 2 ^ 64

/-- The width of an integer operation (R117). -/
def intWidth (t : BitVec 1) : Nat := if t = 1 then 32 else 64

/-- The effect of an integer trigger (R116, R117): a busy unit stalls even a guarded-off trigger. `op` takes the width
and a, t and b at that width. -/
def intTrigger (m : BitVec 2) (u t : BitVec 1) (src : BitVec 9) (g : BitVec 6) (lat : Nat) (divides : Bool)
    (op : Nat → Nat → Nat → Nat → Nat) (s : State) : Except Stop State := do
  waitWhile (s.cycle < s.core.intFree u) .unitbusy
  if s.core.guardP g then
    let w := intWidth t
    let p := s.core.ports
    let (x, s) ← s.source src
    let r := op w (p.a (intUnit u) % 2 ^ w) (x % 2 ^ w) (p.b (intUnit u) % 2 ^ w)
    let s := if divides then s.mod (·.occupyInt u (s.cycle + 34)) else s
    return s.result (1 + m.toNat) lat (.res (intUnit u)) (intResult t r) (ones 64) 0
  else return s

/-- An integer trigger issues. -/
def execInt (m : BitVec 2) (u t : BitVec 1) (src : BitVec 9) (g : BitVec 6) (lat : Nat) (divides : Bool)
    (op : Nat → Nat → Nat → Nat → Nat) (s : State) : Next :=
  issue (1 + m.toNat) (intTrigger m u t src g lat divides op) s

/-- The shift count of an integer operation (R118). -/
def shiftCount (w t : Nat) : Nat := t % w

/-- pos and len of bfx and bfi (R118). -/
def fieldPos (t : Nat) : Nat := fieldOf t 5 0
/-- len, at most 64. -/
def fieldLen (t : Nat) : Nat := min 64 (fieldOf t 12 6)

/-- Leading zeros within `w` bits (R118). -/
def leadingZeros (w t : Nat) : Nat := if t = 0 then w else w - 1 - Nat.log2 t

/-- The 1 bits among the low `w` (R118). -/
def popCount (w t : Nat) : Nat := ((List.range w).filter (bitOf t)).length

/-- Division as R118 defines it. -/
def divuOf (w a t : Nat) : Nat := if t = 0 then 2 ^ w - 1 else a / t
/-- Remainder as R118 defines it. -/
def remuOf (a t : Nat) : Nat := if t = 0 then a else a % t
/-- bfx (R118). -/
def bfxOf (w a t : Nat) : Nat :=
  if fieldLen t = 0 || w ≤ fieldPos t then 0 else a / 2 ^ fieldPos t % 2 ^ fieldLen t
/-- bfi (R118). -/
def bfiOf (w a t b : Nat) : Nat :=
  let m := (ones (fieldLen t) * 2 ^ fieldPos t) % 2 ^ w
  if fieldLen t = 0 then a else (a &&& (ones w ^^^ m)) ||| ((b * 2 ^ fieldPos t) % 2 ^ w &&& m)

/-- ADD (R118). -/
def execAdd (m : BitVec 2) (u t : BitVec 1) (src : BitVec 9) (g : BitVec 6) (s : State) : Next :=
  execInt m u t src g 1 false (fun w a t _ => wrapTo w (a + t : Int)) s

/-- SUB (R118). -/
def execSub (m : BitVec 2) (u t : BitVec 1) (src : BitVec 9) (g : BitVec 6) (s : State) : Next :=
  execInt m u t src g 1 false (fun w a t _ => wrapTo w ((a : Int) - t)) s

/-- MUL (R118). -/
def execMul (m : BitVec 2) (u t : BitVec 1) (src : BitVec 9) (g : BitVec 6) (s : State) : Next :=
  execInt m u t src g 3 false (fun w a t _ => wrapTo w (signedOf w a * signedOf w t)) s

/-- MULH (R118). -/
def execMulh (m : BitVec 2) (u t : BitVec 1) (src : BitVec 9) (g : BitVec 6) (s : State) : Next :=
  execInt m u t src g 3 false (fun w a t _ => wrapTo w (signedOf w a * signedOf w t / (2 ^ w : Int))) s

/-- MULHU (R118). -/
def execMulhu (m : BitVec 2) (u t : BitVec 1) (src : BitVec 9) (g : BitVec 6) (s : State) : Next :=
  execInt m u t src g 3 false (fun w a t _ => a * t / 2 ^ w) s

/-- AND (R118). -/
def execAnd (m : BitVec 2) (u t : BitVec 1) (src : BitVec 9) (g : BitVec 6) (s : State) : Next :=
  execInt m u t src g 1 false (fun _ a t _ => a &&& t) s

/-- OR (R118). -/
def execOr (m : BitVec 2) (u t : BitVec 1) (src : BitVec 9) (g : BitVec 6) (s : State) : Next :=
  execInt m u t src g 1 false (fun _ a t _ => a ||| t) s

/-- XOR (R118). -/
def execXor (m : BitVec 2) (u t : BitVec 1) (src : BitVec 9) (g : BitVec 6) (s : State) : Next :=
  execInt m u t src g 1 false (fun _ a t _ => a ^^^ t) s

/-- ANDN (R118). -/
def execAndn (m : BitVec 2) (u t : BitVec 1) (src : BitVec 9) (g : BitVec 6) (s : State) : Next :=
  execInt m u t src g 1 false (fun w a t _ => a &&& (ones w ^^^ t)) s

/-- SHL (R118). -/
def execShl (m : BitVec 2) (u t : BitVec 1) (src : BitVec 9) (g : BitVec 6) (s : State) : Next :=
  execInt m u t src g 1 false (fun w a t _ => a * 2 ^ shiftCount w t % 2 ^ w) s

/-- SHR (R118). -/
def execShr (m : BitVec 2) (u t : BitVec 1) (src : BitVec 9) (g : BitVec 6) (s : State) : Next :=
  execInt m u t src g 1 false (fun w a t _ => a / 2 ^ shiftCount w t) s

/-- SAR (R118). -/
def execSar (m : BitVec 2) (u t : BitVec 1) (src : BitVec 9) (g : BitVec 6) (s : State) : Next :=
  execInt m u t src g 1 false (fun w a t _ => wrapTo w (signedOf w a / (2 ^ shiftCount w t : Int))) s

/-- ROTL (R118). -/
def execRotl (m : BitVec 2) (u t : BitVec 1) (src : BitVec 9) (g : BitVec 6) (s : State) : Next :=
  execInt m u t src g 1 false (fun w a t _ => (a * 2 ^ shiftCount w t % 2 ^ w) ||| (a / 2 ^ (w - shiftCount w t))) s

/-- MIN (R118). -/
def execMin (m : BitVec 2) (u t : BitVec 1) (src : BitVec 9) (g : BitVec 6) (s : State) : Next :=
  execInt m u t src g 1 false (fun w a t _ => if signedOf w t < signedOf w a then t else a) s

/-- MAX (R118). -/
def execMax (m : BitVec 2) (u t : BitVec 1) (src : BitVec 9) (g : BitVec 6) (s : State) : Next :=
  execInt m u t src g 1 false (fun w a t _ => if signedOf w a < signedOf w t then t else a) s

/-- MINU (R118). -/
def execMinu (m : BitVec 2) (u t : BitVec 1) (src : BitVec 9) (g : BitVec 6) (s : State) : Next :=
  execInt m u t src g 1 false (fun _ a t _ => min a t) s

/-- MAXU (R118). -/
def execMaxu (m : BitVec 2) (u t : BitVec 1) (src : BitVec 9) (g : BitVec 6) (s : State) : Next :=
  execInt m u t src g 1 false (fun _ a t _ => max a t) s

/-- CLZ (R118). -/
def execClz (m : BitVec 2) (u t : BitVec 1) (src : BitVec 9) (g : BitVec 6) (s : State) : Next :=
  execInt m u t src g 1 false (fun w _ t _ => leadingZeros w t) s

/-- POPC (R118). -/
def execPopc (m : BitVec 2) (u t : BitVec 1) (src : BitVec 9) (g : BitVec 6) (s : State) : Next :=
  execInt m u t src g 1 false (fun w _ t _ => popCount w t) s

/-- SEL (R118). -/
def execSel (m : BitVec 2) (u t : BitVec 1) (src : BitVec 9) (g : BitVec 6) (s : State) : Next :=
  execInt m u t src g 1 false (fun _ a t b => if t = 0 then b else a) s

/-- CEQ (R118). -/
def execCeq (m : BitVec 2) (u t : BitVec 1) (src : BitVec 9) (g : BitVec 6) (s : State) : Next :=
  execInt m u t src g 1 false (fun _ a t _ => bit (a == t)) s

/-- CNE (R118). -/
def execCne (m : BitVec 2) (u t : BitVec 1) (src : BitVec 9) (g : BitVec 6) (s : State) : Next :=
  execInt m u t src g 1 false (fun _ a t _ => bit (a != t)) s

/-- CLT (R118). -/
def execClt (m : BitVec 2) (u t : BitVec 1) (src : BitVec 9) (g : BitVec 6) (s : State) : Next :=
  execInt m u t src g 1 false (fun w a t _ => bit (signedOf w a < signedOf w t)) s

/-- CLE (R118). -/
def execCle (m : BitVec 2) (u t : BitVec 1) (src : BitVec 9) (g : BitVec 6) (s : State) : Next :=
  execInt m u t src g 1 false (fun w a t _ => bit (signedOf w a ≤ signedOf w t)) s

/-- CLTU (R118). -/
def execCltu (m : BitVec 2) (u t : BitVec 1) (src : BitVec 9) (g : BitVec 6) (s : State) : Next :=
  execInt m u t src g 1 false (fun _ a t _ => bit (a < t)) s

/-- CLEU (R118). -/
def execCleu (m : BitVec 2) (u t : BitVec 1) (src : BitVec 9) (g : BitVec 6) (s : State) : Next :=
  execInt m u t src g 1 false (fun _ a t _ => bit (a ≤ t)) s

/-- DIVU (R118). -/
def execDivu (m : BitVec 2) (u t : BitVec 1) (src : BitVec 9) (g : BitVec 6) (s : State) : Next :=
  execInt m u t src g 34 true (fun w a t _ => divuOf w a t) s

/-- REMU (R118). -/
def execRemu (m : BitVec 2) (u t : BitVec 1) (src : BitVec 9) (g : BitVec 6) (s : State) : Next :=
  execInt m u t src g 34 true (fun _ a t _ => remuOf a t) s

/-- MADD (R118). -/
def execMadd (m : BitVec 2) (u t : BitVec 1) (src : BitVec 9) (g : BitVec 6) (s : State) : Next :=
  execInt m u t src g 3 false (fun w a t b => wrapTo w (signedOf w a * signedOf w t + b)) s

/-- BFX (R118). -/
def execBfx (m : BitVec 2) (u t : BitVec 1) (src : BitVec 9) (g : BitVec 6) (s : State) : Next :=
  execInt m u t src g 1 false (fun w a t _ => bfxOf w a t) s

/-- BFI (R118). -/
def execBfi (m : BitVec 2) (u t : BitVec 1) (src : BitVec 9) (g : BitVec 6) (s : State) : Next :=
  execInt m u t src g 1 false (fun w a t b => bfiOf w a t b) s

end Sys2Proof.Machine
end

