-- ==== Sys2Proof/Machine/Vector.lean ====
section
/-!
DEFINITION. Special functions (R120 to R124) and vector operations (R125 to R138). An operation forms its whole result
at issue, and the result is delivered into the bypass register under the guard's lanes.
-/
namespace Sys2Proof.Machine

/-- The floating format of a type code (R44). -/
def fmtOf (t : Nat) : Fmt := if t = 0 then f32 else if t = 1 then f16 else bf16

/-- Floating type codes. -/
def isF (t : Nat) : Bool := t ≤ 2

/-- Lane width of a type code (R125). -/
def typeWidth (t : Nat) : Nat := if t = 0 || t = 3 then 32 else if t = 5 || t = 6 then 8 else 16

/-- The integer that a lane of an integer type holds (R128): ui8 alone is unsigned. -/
def laneInt (t x : Nat) : Int := if t = 6 then (x : Int) else signedOf (typeWidth t) x

/-- The range of an integer type. -/
def typeLo (t : Nat) : Int := if t = 6 then 0 else -(2 ^ (typeWidth t - 1) : Nat)
/-- Its largest value. -/
def typeHi (t : Nat) : Int := if t = 6 then 255 else (2 ^ (typeWidth t - 1) : Nat) - 1

/-- A value clamped to a range, with SAT where that changes it (R52). -/
def satTo (lo hi v : Int) : Int × Nat := if v < lo then (lo, flagSAT) else if hi < v then (hi, flagSAT) else (v, 0)

/-- What a vector operation works on (R125): type, lane width, lane count, and a, t and b. -/
structure VArgs where
  ty : Nat
  s : Nat
  n : Nat
  a : Nat
  t : Nat
  b : Nat
  deriving DecidableEq, Repr

/-- Lanes of a. -/
def VArgs.as (v : VArgs) : List Nat := lanesOf v.s v.n v.a
/-- Lanes of t. -/
def VArgs.ts (v : VArgs) : List Nat := lanesOf v.s v.n v.t
/-- Lanes of b. -/
def VArgs.bs (v : VArgs) : List Nat := lanesOf v.s v.n v.b
/-- P, bits 31:0 of b (R125, R132). -/
def VArgs.p (v : VArgs) : Nat := v.b % 2 ^ 32

/-- A result: lane width and the lanes with their flags. -/
structure VResult where
  d : Nat
  lanes : List (Nat × Nat)
  deriving DecidableEq, Repr

/-- A vector operation: from its arguments and the included lanes of its result to a result; none where it writes
nothing (R136); VPARM where the parameter word is illegal (R132). -/
abbrev VOp := VArgs → (Nat → List Bool) → Except Stop (Option VResult)

/-- The bits of a result's excluded lanes. -/
def excludedBits (d : Nat) : List Bool → Nat
  | [] => 0
  | b :: r => (if b then 0 else ones d) + 2 ^ d * excludedBits d r

/-- The flags of the included lanes (R127). -/
def includedFlags : List Bool → List (Nat × Nat) → Nat
  | b :: bs, x :: xs => joinFlags (if b then x.2 else 0) (includedFlags bs xs)
  | _, _ => 0

/-- A vector result sent to its bypass register (R126): included lanes take their values, excluded lanes keep what the
register holds, and the bits above the last lane are cleared. -/
def State.vecResult (s : State) (slot lat : Nat) (u : FUnit) (r : VResult) (incl : List Bool) : State :=
  s.result slot lat (.res u) (ofLanes r.d (r.lanes.map (·.1))) (ones 1024 - excludedBits r.d incl)
    (includedFlags incl r.lanes)

/-- The lane groups that a trigger of width code `w` claims, held for `hold` cycles (R14, R86). -/
def State.claim (s : State) (w : BitVec 2) (hold : Nat) : State :=
  s.mod fun c => { c with qs := { c.qs with lanes := (2 ^ w.toNat, s.cycle + hold) :: c.qs.lanes } }

/-- The vector unit of a trigger (R47). -/
def vecUnit (u : BitVec 1) : FUnit := if u = 0 then .va else .vb

/-- The effect of a trigger of unit `u` on lanes of `w` bits, once its guard lets it execute (R125 to R127). -/
def trigger (m : BitVec 2) (u : FUnit) (t : BitVec 3) (w : BitVec 2) (src : BitVec 9) (g : BitVec 6) (lat : Nat)
    (op : VOp) (s : State) : Except Stop State := do
  let width := 256 * 2 ^ w.toNat
  let p := s.core.ports
  let c := s.core
  let (x, s) ← s.source src
  let sw := typeWidth t.toNat
  let v : VArgs := { ty := t.toNat, s := sw, n := width / sw, a := p.a u % 2 ^ width, t := x % 2 ^ width,
                     b := p.b u % 2 ^ width }
  match ← op v (c.guardLanes g) with
  | some r => return s.vecResult (1 + m.toNat) lat u r (c.guardLanes g r.lanes.length)
  | none => return s

/-- A vector trigger issues: it claims its lane groups whatever its guard says (R86, R127). -/
def execVec (m : BitVec 2) (u : BitVec 1) (t : BitVec 3) (w : BitVec 2) (src : BitVec 9) (g : BitVec 6)
    (lat hold : Nat) (op : VOp) (s : State) : Next :=
  issue (1 + m.toNat) (fun s =>
    if s.core.guardV g then trigger m (vecUnit u) t w src g lat op (s.claim w hold) else .ok (s.claim w hold)) s

/-- A special-function trigger issues: it claims no lane groups (R14, R120). -/
def execSf (m : BitVec 2) (w : BitVec 2) (src : BitVec 9) (g : BitVec 6) (lat : Nat) (f : Nat → Nat → Nat × Nat)
    (s : State) : Next :=
  issueIf (1 + m.toNat) (s.core.guardV g)
    (trigger m .sf 0 w src g lat fun v _ => .ok (some ⟨32, (v.as.zip v.ts).map fun (a, t) => f a t⟩)) s

/-! ### Special functions -/

/-- EXP2 (R121). -/
def execExp2 (m w : BitVec 2) (src : BitVec 9) (g : BitVec 6) (s : State) : Next :=
  execSf m w src g 8 (fun a t =>
    let (x, f) := fsub f32 t a
    let (y, h) := exp2H x
    (y, joinFlags f h)) s

/-- LOG2 (R122, R123). -/
def execLog2 (m w : BitVec 2) (src : BitVec 9) (g : BitVec 6) (s : State) : Next :=
  execSf m w src g 8 (fun _ t => fpLog2 t) s

/-- RCP (R122, R123). -/
def execRcp (m w : BitVec 2) (src : BitVec 9) (g : BitVec 6) (s : State) : Next :=
  execSf m w src g 8 (fun _ t => fpRcp t) s

/-- RSQRT (R122, R123). -/
def execRsqrt (m w : BitVec 2) (src : BitVec 9) (g : BitVec 6) (s : State) : Next :=
  execSf m w src g 8 (fun _ t => fpRsqrt t) s

/-- SQRT (R122, R123). -/
def execSqrt (m w : BitVec 2) (src : BitVec 9) (g : BitVec 6) (s : State) : Next :=
  execSf m w src g 12 (fun _ t => fpSqrt t) s

/-- TANH (R122, R123). -/
def execTanh (m w : BitVec 2) (src : BitVec 9) (g : BitVec 6) (s : State) : Next :=
  execSf m w src g 8 (fun _ t => fpTanh t) s

/-! ### Element-wise operations -/

/-- A result of lanes of the operation's own width. -/
def VArgs.own (v : VArgs) (l : List (Nat × Nat)) : Except Stop (Option VResult) := .ok (some ⟨v.s, l⟩)

/-- Three lists walked lane by lane. -/
def zip3 (f : Nat → Nat → Nat → Nat × Nat) : List Nat → List Nat → List Nat → List (Nat × Nat)
  | a :: as, t :: ts, b :: bs => f a t b :: zip3 f as ts bs
  | _, _, _ => []

/-- An element-wise operation (R128): one function for floating types and one for integers, whose result wraps. -/
def elementwise (fl : Fmt → Nat → Nat → Nat → Nat × Nat) (int : Int → Int → Int → Int) : VOp := fun v _ =>
  v.own (zip3 (fun a t b =>
    if isF v.ty then fl (fmtOf v.ty) a t b
    else (wrapTo v.s (int (laneInt v.ty a) (laneInt v.ty t) (laneInt v.ty b)), 0)) v.as v.ts v.bs)

/-- A bit-moving element-wise operation, the same on every type (R127). -/
def bitwise (f : Nat → Nat → Nat → Nat) : VOp := fun v _ =>
  v.own (zip3 (fun a t _ => (f v.s a t, 0)) v.as v.ts v.bs)

/-- The shifts of R128: the count is t unsigned at full lane width. -/
def vshlOf (s a t : Nat) : Nat := if s ≤ t then 0 else a * 2 ^ t % 2 ^ s
/-- Logical right shift. -/
def vshrOf (s a t : Nat) : Nat := if s ≤ t then 0 else a / 2 ^ t
/-- Arithmetic right shift. -/
def vsarOf (s a t : Nat) : Nat := wrapTo s (signedOf s a / (2 ^ (min t s) : Nat))

/-- A compare (R130): floating relation with its flags, integer relation. -/
def compareOp (fl : FpVal → FpVal → Bool) (anyNan : Bool) (int : Int → Int → Bool) : VOp := fun v _ =>
  .ok (some ⟨1, (v.as.zip v.ts).map fun (a, t) =>
    if isF v.ty then
      let x := (fmtOf v.ty).val a
      let y := (fmtOf v.ty).val t
      (bit (fl x y), flagIf (if anyNan then x.isNan || y.isNan else x.isSig || y.isSig) flagNV)
    else (bit (int (laneInt v.ty a) (laneInt v.ty t)), 0)⟩)

/-- Selection by the mask in bits 127:0 of t (R131). -/
def vselOp : VOp := fun v _ =>
  v.own ((List.range v.n).map fun (i : Nat) =>
    (if bitOf (v.t % 2 ^ 128) i then laneOf v.s v.a i else laneOf v.s v.b i, 0))

/-! ### Conversions -/

/-- VPARM unless the parameter word is legal (R132). -/
def parm (ok : Bool) : Except Stop Unit := need ok .vparm

/-- Bits of P outside `used` are zero. -/
def onlyBits (p used : Nat) : Bool := p &&& (ones 32 - used) == 0

/-- One lane converted from type `t` to type `d` (R133, R56). Whole numbers saturate in every type, ui8 to i8 too. DESIGN CHOICE, log
entry 107. -/
def convertLane (t d : Nat) (mode : RMode) (x : Nat) : Nat × Nat :=
  if isF t then
    if isF d then cvtFmt (fmtOf t) (fmtOf d) mode x
    else
      let (v, fl) := cvtToInt (fmtOf t) mode (typeLo d) (typeHi d) x
      (wrapTo (typeWidth d) v, fl)
  else if isF d then ofInt (fmtOf d) mode (laneInt t x)
  else
    let (v, fl) := satTo (typeLo d) (typeHi d) (laneInt t x)
    (wrapTo (typeWidth d) v, fl)

/-- VCVT's operation (R132, R133). -/
def vcvtOp : VOp := fun v _ => do
  let d := fieldOf v.p 6 4
  let mode := fieldOf v.p 1 0
  parm (onlyBits v.p 0x73 && d != 7 && mode != 3)
  let n := v.n * v.s / max v.s (typeWidth d)
  return some ⟨typeWidth d, (lanesOf v.s n v.t).map (convertLane v.ty d (RMode.ofCode mode))⟩

/-- One lane quantised (R134): the exact product rounded once to an integer and saturated to ±lim. -/
def quantLane (f : Fmt) (mode : RMode) (lim : Int) (t a : Nat) : Int × Nat :=
  match f.val t, f.val a with
  | .fin tn tm te, .fin an am ae =>
    let (v, inexact) := toInt mode (tn != an) (tm * am) 1 (te + ae)
    let (q, fl) := satTo (-lim) lim v
    (q, joinFlags fl (flagIf inexact flagNX))
  | .inf a, .inf b => (if a != b then -lim else lim, flagSAT)
  | .inf a, .fin b m _ => if m = 0 then (0, flagNV) else (if a != b then -lim else lim, flagSAT)
  | .fin a m _, .inf b => if m = 0 then (0, flagNV) else (if a != b then -lim else lim, flagSAT)
  | _, _ => (0, flagNV)

/-- VQNT's operation (R132, R134). -/
def vqntOp : VOp := fun v _ => do
  let mode := fieldOf v.p 1 0
  parm (onlyBits v.p 0x13 && mode != 3)
  let q4 := bitOf v.p 4
  let d := if q4 then 4 else 8
  return some ⟨d, (v.as.zip v.ts).map fun (a, t) =>
    let (q, fl) := quantLane (fmtOf v.ty) (RMode.ofCode mode) (if q4 then 7 else 127) t a
    (wrapTo d q, fl)⟩

/-- VDQNT's operation (R132, R134): a zero times a negative multiplier is -0. DESIGN CHOICE, log entry 109. -/
def vdqntOp : VOp := fun v _ => do
  parm (onlyBits v.p 0x10)
  let d := if bitOf v.p 4 then 4 else 8
  let f := fmtOf v.ty
  return some ⟨v.s, ((lanesOf d v.n v.t).zip v.as).map fun (q, a) => fmul f (ofInt f .even (signedOf d q)).1 a⟩

/-- VROUND's operation (R132, R135). -/
def vroundOp : VOp := fun v _ => do
  let mode := fieldOf v.p 1 0
  parm (onlyBits v.p 0x3 && mode != 3)
  return some ⟨v.s, v.ts.map (roundIntegral (fmtOf v.ty) (RMode.ofCode mode))⟩

/-- A floating lane clamped (R135): beside a quiet NaN `t` a signalling bound raises no NV. DESIGN CHOICE, log entry 110. -/
def clampF (f : Fmt) (a t b : Nat) : Nat × Nat :=
  if (f.val t).isNan then nanResult f [f.val t]
  else
    let (x, fl) := fmax f t a
    let (y, fm) := fmin f x b
    (y, joinFlags fl fm)

/-! ### Reductions and scans -/

/-- The included values of a list. -/
def included : List Bool → List Nat → List Nat
  | b :: bs, x :: xs => if b then x :: included bs xs else included bs xs
  | _, _ => []

/-- The values with the excluded ones as zero. -/
def zeroed : List Bool → List Nat → List Nat
  | b :: bs, x :: xs => (if b then x else 0) :: zeroed bs xs
  | _, _ => []

/-- One value in every lane, its flags raised once; nothing where no lane is included (R136). -/
def reduced (v : VArgs) (incl : List Bool) (r : Nat × Nat) : Option VResult :=
  if incl.any id then some ⟨v.s, (List.range v.n).map fun _ => r⟩ else none

/-- VREDADD's operation (R75, R136). -/
def vredaddOp : VOp := fun v mask =>
  let incl := mask v.n
  let r := if isF v.ty then treeSum (fmtOf v.ty) (Nat.log2 v.n) (zeroed incl v.ts)
    else ((zeroed incl v.ts).sum % 2 ^ v.s, 0)
  .ok (reduced v incl r)

/-- The extreme of floating values by Fmax or Fmin, canonical where all are NaN (R129, R136). -/
def extremeF (f : Fmt) (op : Fmt → Nat → Nat → Nat × Nat) (l : List Nat) : Nat × Nat :=
  let x := (l.drop 1).foldl (fun acc y => (op f acc y).1) (l.headD 0)
  (if (f.val x).isNan then f.nan else x, flagIf (l.any fun y => (f.val y).isSig) flagNV)

/-- A reduction to an extreme (R136). -/
def extremeOp (op : Fmt → Nat → Nat → Nat × Nat) (int : Int → Int → Int) : VOp := fun v mask =>
  let incl := mask v.n
  let l := included incl v.ts
  let r := if isF v.ty then extremeF (fmtOf v.ty) op l
    else (wrapTo v.s (((l.drop 1).map (laneInt v.ty)).foldl int (laneInt v.ty (l.headD 0))), 0)
  .ok (reduced v incl r)

/-- The running sums of VSCAN (R136), `first` giving the sum that one lane alone makes: excluded lanes are passed over. -/
def scanLanes (first : Nat → Nat × Nat) (add : Nat → Nat → Nat × Nat) : Option Nat → List Bool → List Nat → List (Nat × Nat)
  | sum, b :: bs, x :: xs =>
    if b then
      let r := match sum with
        | none => first x
        | some y => add y x
      r :: scanLanes first add (some r.1) bs xs
    else (0, 0) :: scanLanes first add sum bs xs
  | _, _, _ => []

/-- VSCAN's operation (R136). A NaN is delivered canonical, a signalling one with NV (R55). -/
def vscanOp : VOp := fun v mask =>
  let incl := mask v.n
  let add := if isF v.ty then fadd (fmtOf v.ty) else fun x y => ((x + y) % 2 ^ v.s, 0)
  let first := fun x => if isF v.ty && ((fmtOf v.ty).val x).isNan then nanResult (fmtOf v.ty) [(fmtOf v.ty).val x] else (x, 0)
  .ok (if incl.any id then some ⟨v.s, scanLanes first add none incl v.ts⟩ else none)

/-! ### Moving lanes (R137) -/

/-- VBCAST's operation. -/
def vbcastOp : VOp := fun v _ => do
  let j := fieldOf v.p 6 0
  parm (onlyBits v.p 0x7F && j < v.n)
  return some ⟨v.s, (List.range v.n).map fun _ => (laneOf v.s v.t j, 0)⟩

/-- VPERM's operation. -/
def vpermOp : VOp := fun v _ => v.own (v.as.map fun a => (laneOf v.s v.t (a % v.n), 0))

/-- VSHIFT's operation. -/
def vshiftOp : VOp := fun v _ => do
  parm (onlyBits v.p 0xFF)
  let d := signedOf 8 v.p
  return some ⟨v.s, (List.range v.n).map fun (i : Nat) =>
    let j : Int := (i : Int) - d
    (if 0 ≤ j && j < v.n then laneOf v.s v.t j.toNat else 0, 0)⟩

/-- VCOMP's operation. -/
def vcompOp : VOp := fun v _ =>
  let kept := ((List.range v.n).filter (bitOf v.a)).map (laneOf v.s v.t)
  v.own ((List.range v.n).map fun i => (kept.getD i 0, 0))

/-- VIOTA's operation. On a floating type +0 is added to lane 0, so that -0 there gives +0: DESIGN CHOICE, log entry 118. -/
def viotaOp : VOp := fun v _ =>
  let t := laneOf v.s v.t 0
  v.own ((List.range v.n).map fun (i : Nat) =>
    if isF v.ty then fadd (fmtOf v.ty) t (ofInt (fmtOf v.ty) .even (i : Int)).1 else ((t + i) % 2 ^ v.s, 0))

/-- VPACK's operation. -/
def vpackOp : VOp := fun v _ =>
  let d := v.s / 2
  let f := fun x =>
    let (y, fl) := satTo (-(2 ^ (d - 1) : Nat)) ((2 ^ (d - 1) : Nat) - 1) (signedOf v.s x)
    (wrapTo d y, fl)
  .ok (some ⟨d, (v.as ++ v.ts).map f⟩)

/-- VUNPK's operation. -/
def vunpkOp : VOp := fun v _ => do
  parm (onlyBits v.p 0x1)
  let h := v.n / 2
  return some ⟨2 * v.s, (List.range h).map fun i =>
    (wrapTo (2 * v.s) (laneInt v.ty (laneOf v.s v.t (i + v.p * h))), 0)⟩

/-! ### The instructions -/

/-- VADD (R128). -/
def execVadd (m : BitVec 2) (u : BitVec 1) (t : BitVec 3) (w : BitVec 2) (src : BitVec 9) (g : BitVec 6) (s : State) : Next :=
  execVec m u t w src g (if isF t.toNat then 3 else 2) 1 (elementwise (fun f a t _ => fadd f a t) (fun a t _ => a + t)) s

/-- VSUB (R128). -/
def execVsub (m : BitVec 2) (u : BitVec 1) (t : BitVec 3) (w : BitVec 2) (src : BitVec 9) (g : BitVec 6) (s : State) : Next :=
  execVec m u t w src g (if isF t.toNat then 3 else 2) 1 (elementwise (fun f a t _ => fsub f a t) (fun a t _ => a - t)) s

/-- VMUL (R128). -/
def execVmul (m : BitVec 2) (u : BitVec 1) (t : BitVec 3) (w : BitVec 2) (src : BitVec 9) (g : BitVec 6) (s : State) : Next :=
  execVec m u t w src g 5 1 (elementwise (fun f a t _ => fmul f a t) (fun a t _ => a * t)) s

/-- VFMA (R128). -/
def execVfma (m : BitVec 2) (u : BitVec 1) (t : BitVec 3) (w : BitVec 2) (src : BitVec 9) (g : BitVec 6) (s : State) : Next :=
  execVec m u t w src g 6 1 (elementwise (fun f a t b => ffma f a t b) (fun a t b => a * t + b)) s

/-- VFMS (R128). -/
def execVfms (m : BitVec 2) (u : BitVec 1) (t : BitVec 3) (w : BitVec 2) (src : BitVec 9) (g : BitVec 6) (s : State) : Next :=
  execVec m u t w src g 6 1 (elementwise (fun f a t b => ffms f a t b) (fun a t b => a * t - b)) s

/-- VMIN (R128, R129). -/
def execVmin (m : BitVec 2) (u : BitVec 1) (t : BitVec 3) (w : BitVec 2) (src : BitVec 9) (g : BitVec 6) (s : State) : Next :=
  execVec m u t w src g (if isF t.toNat then 3 else 2) 1 (elementwise (fun f a t _ => fmin f a t) (fun a t _ => min a t)) s

/-- VMAX (R128, R129). -/
def execVmax (m : BitVec 2) (u : BitVec 1) (t : BitVec 3) (w : BitVec 2) (src : BitVec 9) (g : BitVec 6) (s : State) : Next :=
  execVec m u t w src g (if isF t.toNat then 3 else 2) 1 (elementwise (fun f a t _ => fmax f a t) (fun a t _ => max a t)) s

/-- VABS (R128). -/
def execVabs (m : BitVec 2) (u : BitVec 1) (t : BitVec 3) (w : BitVec 2) (src : BitVec 9) (g : BitVec 6) (s : State) : Next :=
  execVec m u t w src g (if isF t.toNat then 3 else 2) 1 (elementwise (fun f _ t _ => fabs f t) (fun _ t _ => (t.natAbs : Int))) s

/-- VNEG (R128). -/
def execVneg (m : BitVec 2) (u : BitVec 1) (t : BitVec 3) (w : BitVec 2) (src : BitVec 9) (g : BitVec 6) (s : State) : Next :=
  execVec m u t w src g (if isF t.toNat then 3 else 2) 1 (elementwise (fun f _ t _ => fneg f t) (fun _ t _ => -t)) s

/-- VCEQ (R130). -/
def execVceq (m : BitVec 2) (u : BitVec 1) (t : BitVec 3) (w : BitVec 2) (src : BitVec 9) (g : BitVec 6) (s : State) : Next :=
  execVec m u t w src g 2 1 (compareOp FpVal.eqv false (fun a t => a == t)) s

/-- VCNE (R130). -/
def execVcne (m : BitVec 2) (u : BitVec 1) (t : BitVec 3) (w : BitVec 2) (src : BitVec 9) (g : BitVec 6) (s : State) : Next :=
  execVec m u t w src g 2 1 (compareOp (fun x y => !x.eqv y) false (fun a t => a != t)) s

/-- VCLT (R130). -/
def execVclt (m : BitVec 2) (u : BitVec 1) (t : BitVec 3) (w : BitVec 2) (src : BitVec 9) (g : BitVec 6) (s : State) : Next :=
  execVec m u t w src g 2 1 (compareOp FpVal.lt true (fun a t => a < t)) s

/-- VCLE (R130). -/
def execVcle (m : BitVec 2) (u : BitVec 1) (t : BitVec 3) (w : BitVec 2) (src : BitVec 9) (g : BitVec 6) (s : State) : Next :=
  execVec m u t w src g 2 1 (compareOp (fun x y => x.lt y || x.eqv y) true (fun a t => a ≤ t)) s

/-- VCUN (R130). -/
def execVcun (m : BitVec 2) (u : BitVec 1) (t : BitVec 3) (w : BitVec 2) (src : BitVec 9) (g : BitVec 6) (s : State) : Next :=
  execVec m u t w src g 2 1 (compareOp (fun x y => x.isNan || y.isNan) false (fun _ _ => false)) s

/-- VSEL (R131). -/
def execVsel (m : BitVec 2) (u : BitVec 1) (t : BitVec 3) (w : BitVec 2) (src : BitVec 9) (g : BitVec 6) (s : State) : Next :=
  execVec m u t w src g 2 1 vselOp s

/-- VAND (R128). -/
def execVand (m : BitVec 2) (u : BitVec 1) (t : BitVec 3) (w : BitVec 2) (src : BitVec 9) (g : BitVec 6) (s : State) : Next :=
  execVec m u t w src g 2 1 (bitwise fun _ a t => a &&& t) s

/-- VOR (R128). -/
def execVor (m : BitVec 2) (u : BitVec 1) (t : BitVec 3) (w : BitVec 2) (src : BitVec 9) (g : BitVec 6) (s : State) : Next :=
  execVec m u t w src g 2 1 (bitwise fun _ a t => a ||| t) s

/-- VXOR (R128). -/
def execVxor (m : BitVec 2) (u : BitVec 1) (t : BitVec 3) (w : BitVec 2) (src : BitVec 9) (g : BitVec 6) (s : State) : Next :=
  execVec m u t w src g 2 1 (bitwise fun _ a t => a ^^^ t) s

/-- VSHL (R128). -/
def execVshl (m : BitVec 2) (u : BitVec 1) (t : BitVec 3) (w : BitVec 2) (src : BitVec 9) (g : BitVec 6) (s : State) : Next :=
  execVec m u t w src g 2 1 (bitwise vshlOf) s

/-- VSHR (R128). -/
def execVshr (m : BitVec 2) (u : BitVec 1) (t : BitVec 3) (w : BitVec 2) (src : BitVec 9) (g : BitVec 6) (s : State) : Next :=
  execVec m u t w src g 2 1 (bitwise vshrOf) s

/-- VSAR (R128). -/
def execVsar (m : BitVec 2) (u : BitVec 1) (t : BitVec 3) (w : BitVec 2) (src : BitVec 9) (g : BitVec 6) (s : State) : Next :=
  execVec m u t w src g 2 1 (bitwise vsarOf) s

/-- VCVT (R133). -/
def execVcvt (m : BitVec 2) (u : BitVec 1) (t : BitVec 3) (w : BitVec 2) (src : BitVec 9) (g : BitVec 6) (s : State) : Next :=
  execVec m u t w src g 3 1 vcvtOp s

/-- VQNT (R134). -/
def execVqnt (m : BitVec 2) (u : BitVec 1) (t : BitVec 3) (w : BitVec 2) (src : BitVec 9) (g : BitVec 6) (s : State) : Next :=
  execVec m u t w src g 3 1 vqntOp s

/-- VDQNT (R134). -/
def execVdqnt (m : BitVec 2) (u : BitVec 1) (t : BitVec 3) (w : BitVec 2) (src : BitVec 9) (g : BitVec 6) (s : State) : Next :=
  execVec m u t w src g 3 1 vdqntOp s

/-- VREDADD (R136). -/
def execVredadd (m : BitVec 2) (u : BitVec 1) (t : BitVec 3) (w : BitVec 2) (src : BitVec 9) (g : BitVec 6) (s : State) : Next :=
  execVec m u t w src g 6 2 vredaddOp s

/-- VREDMAX (R136). -/
def execVredmax (m : BitVec 2) (u : BitVec 1) (t : BitVec 3) (w : BitVec 2) (src : BitVec 9) (g : BitVec 6) (s : State) : Next :=
  execVec m u t w src g 6 2 (extremeOp fmax max) s

/-- VREDMIN (R136). -/
def execVredmin (m : BitVec 2) (u : BitVec 1) (t : BitVec 3) (w : BitVec 2) (src : BitVec 9) (g : BitVec 6) (s : State) : Next :=
  execVec m u t w src g 6 2 (extremeOp fmin min) s

/-- VBCAST (R137). -/
def execVbcast (m : BitVec 2) (u : BitVec 1) (t : BitVec 3) (w : BitVec 2) (src : BitVec 9) (g : BitVec 6) (s : State) : Next :=
  execVec m u t w src g 3 1 vbcastOp s

/-- VPERM (R137). -/
def execVperm (m : BitVec 2) (u : BitVec 1) (t : BitVec 3) (w : BitVec 2) (src : BitVec 9) (g : BitVec 6) (s : State) : Next :=
  execVec m u t w src g 3 1 vpermOp s

/-- VSCAN (R136). -/
def execVscan (m : BitVec 2) (u : BitVec 1) (t : BitVec 3) (w : BitVec 2) (src : BitVec 9) (g : BitVec 6) (s : State) : Next :=
  execVec m u t w src g 6 2 vscanOp s

/-- VIOTA (R137). -/
def execViota (m : BitVec 2) (u : BitVec 1) (t : BitVec 3) (w : BitVec 2) (src : BitVec 9) (g : BitVec 6) (s : State) : Next :=
  execVec m u t w src g 3 1 viotaOp s

/-- VCOMP (R137). -/
def execVcomp (m : BitVec 2) (u : BitVec 1) (t : BitVec 3) (w : BitVec 2) (src : BitVec 9) (g : BitVec 6) (s : State) : Next :=
  execVec m u t w src g 3 1 vcompOp s

/-- VSHIFT (R137). -/
def execVshift (m : BitVec 2) (u : BitVec 1) (t : BitVec 3) (w : BitVec 2) (src : BitVec 9) (g : BitVec 6) (s : State) : Next :=
  execVec m u t w src g 3 1 vshiftOp s

/-- VPACK (R137). -/
def execVpack (m : BitVec 2) (u : BitVec 1) (t : BitVec 3) (w : BitVec 2) (src : BitVec 9) (g : BitVec 6) (s : State) : Next :=
  execVec m u t w src g 3 1 vpackOp s

/-- VUNPK (R137). -/
def execVunpk (m : BitVec 2) (u : BitVec 1) (t : BitVec 3) (w : BitVec 2) (src : BitVec 9) (g : BitVec 6) (s : State) : Next :=
  execVec m u t w src g 3 1 vunpkOp s

/-- VCLAMP (R135). -/
def execVclamp (m : BitVec 2) (u : BitVec 1) (t : BitVec 3) (w : BitVec 2) (src : BitVec 9) (g : BitVec 6) (s : State) : Next :=
  execVec m u t w src g 3 1 (elementwise (fun f a t b => clampF f a t b) (fun a t b => min b (max a t))) s

/-- VROUND (R135). -/
def execVround (m : BitVec 2) (u : BitVec 1) (t : BitVec 3) (w : BitVec 2) (src : BitVec 9) (g : BitVec 6) (s : State) : Next :=
  execVec m u t w src g 3 1 vroundOp s

end Sys2Proof.Machine
end

