-- ==== Sys2Proof/Machine/Weight.lean ====
section
/-!
DEFINITION. The weight engine (R139 to R143): W-slot words act on 128 lanes of residue elements. Results are visible to
the next bundle.
-/
namespace Sys2Proof.Machine

/-- TLM`k`, bit `l`. -/
def Core.tlmBit (c : Core) (k l : Nat) : Bool := bitOf (c.eng.tlm.get 0 k).toNat l

/-- Sel(L) (R110, R139). -/
def Core.sel (c : Core) (lm : BitVec 3) (l : Nat) : Bool :=
  (lm == 0 || c.tlmBit lm.toNat l) && (c.seq.adapter == 0 || c.tlmBit c.seq.adapter.toNat l)

/-- a`n` as a number of 128 elements. -/
def Core.accA (c : Core) (n : Nat) : Nat := (c.eng.a.get 0 n).toNat
/-- y`n`. -/
def Core.accY (c : Core) (n : Nat) : Nat := (c.eng.y.get 0 n).toNat
/-- Element `l` of x`n`: the residue of a Q8 value (R20). -/
def Core.elemX (c : Core) (n l : Nat) : Residue := res (signedOf 8 (laneOf 8 (c.eng.x.get 0 n).toNat l))
/-- The bound register with a key: c0-c3 at 0, a0-a63 at 4, y0-y15 at 68 (R66). -/
def Core.boundAt (c : Core) (key : Nat) : Nat := (c.eng.bound.get 0 key).toNat
/-- Key of a`n`'s bound. -/
def keyA (n : Nat) : Nat := 4 + n
/-- Key of y`n`'s bound. -/
def keyY (n : Nat) : Nat := 68 + n

/-- The signed value of an imm8 field. -/
def imm8 (i : BitVec 8) : Int := signedOf 8 i.toNat

/-- imm8 is legal under the weight pair of WFMT (R71). -/
def Core.immOk (c : Core) (i : BitVec 8) : Bool :=
  !bitOf c.eng.wfmt.toNat 0 || (decide (-8 ≤ imm8 i) && decide (imm8 i ≤ 7))

/-- The lanes of an accumulator with `f` applied in the selected ones (R139). -/
def Core.lanesWith (c : Core) (lm : BitVec 3) (old : Nat) (f : Nat → Residue → Residue) : Nat :=
  ofElems ((List.range 128).map fun l => if c.sel lm l then f l (elemAt old l) else elemAt old l)

/-- A word that adds to an accumulator (R66, R140): ACCRANGE past the largest bound, and otherwise the new lanes and the
new bound, visible to the next bundle. -/
def accumulate (w : BitVec 1) (dest : Dest) (key : Nat) (old : Nat) (lm : BitVec 3) (grow : Nat)
    (f : Nat → Residue → Residue) (s : State) : Except Stop State := do
  let c := s.core
  let b := c.boundAt key + grow
  need (b ≤ boundMax) .accrange
  let s := s.result (5 + w.toNat) 1 dest (c.lanesWith lm old f) (ones 6784) 0
  return s.result (5 + w.toNat) 1 (.bound key) b (ones 64) 0

/-- A W word that adds to an a register issues. -/
def execAcc (w : BitVec 1) (a : BitVec 6) (lm : BitVec 3) (i : BitVec 8) (grow : Core → Nat)
    (f : Core → Nat → Residue → Residue) (s : State) : Next :=
  issue (5 + w.toNat) (fun s => do
    need (s.core.immOk i) .illop
    accumulate w (.a a.toNat) (keyA a.toNat) (s.core.accA a.toNat) lm (grow s.core) (f s.core) s) s

/-- A W word that adds to a y register issues. -/
def execAccY (w : BitVec 1) (a : BitVec 4) (lm : BitVec 3) (i : BitVec 8) (grow : Core → Nat)
    (f : Core → Nat → Residue → Residue) (s : State) : Next :=
  issue (5 + w.toNat) (fun s => do
    need (s.core.immOk i) .illop
    accumulate w (.y a.toNat) (keyY a.toNat) (s.core.accY a.toNat) lm (grow s.core) (f s.core) s) s

/-- WMAC (R140). -/
def execWmac (w : BitVec 1) (a x : BitVec 6) (i : BitVec 8) (lm : BitVec 3) (s : State) : Next :=
  execAcc w a lm i (fun _ => 128 * (imm8 i).natAbs)
    (fun c l r => rAdd r (rMul (res (imm8 i)) (c.elemX x.toNat l))) s

/-- WMACY (R140). -/
def execWmacy (w : BitVec 1) (a : BitVec 6) (y : BitVec 4) (i : BitVec 8) (lm : BitVec 3) (s : State) : Next :=
  execAcc w a lm i (fun c => (imm8 i).natAbs * c.boundAt (keyY y.toNat))
    (fun c l r => rAdd r (rMul (res (imm8 i)) (elemAt (c.accY y.toNat) l))) s

/-- WADD (R140). -/
def execWadd (w : BitVec 1) (a x : BitVec 6) (lm : BitVec 3) (s : State) : Next :=
  execAcc w a lm 0 (fun _ => 128) (fun c l r => rAdd r (c.elemX x.toNat l)) s

/-- WSUB (R140). -/
def execWsub (w : BitVec 1) (a x : BitVec 6) (lm : BitVec 3) (s : State) : Next :=
  execAcc w a lm 0 (fun _ => 128) (fun c l r => rSub r (c.elemX x.toNat l)) s

/-- WADDY (R140). -/
def execWaddy (w : BitVec 1) (a : BitVec 6) (y : BitVec 4) (lm : BitVec 3) (s : State) : Next :=
  execAcc w a lm 0 (fun c => c.boundAt (keyY y.toNat)) (fun c l r => rAdd r (elemAt (c.accY y.toNat) l)) s

/-- WSUBY (R140). -/
def execWsuby (w : BitVec 1) (a : BitVec 6) (y : BitVec 4) (lm : BitVec 3) (s : State) : Next :=
  execAcc w a lm 0 (fun c => c.boundAt (keyY y.toNat)) (fun c l r => rSub r (elemAt (c.accY y.toNat) l)) s

/-- YMAC (R140). -/
def execYmac (w : BitVec 1) (a : BitVec 4) (x : BitVec 6) (i : BitVec 8) (lm : BitVec 3) (s : State) : Next :=
  execAccY w a lm i (fun _ => 128 * (imm8 i).natAbs)
    (fun c l r => rAdd r (rMul (res (imm8 i)) (c.elemX x.toNat l))) s

/-- YADD (R140). -/
def execYadd (w : BitVec 1) (a : BitVec 4) (x : BitVec 6) (lm : BitVec 3) (s : State) : Next :=
  execAccY w a lm 0 (fun _ => 128) (fun c l r => rAdd r (c.elemX x.toNat l)) s

/-- YSUB (R140). -/
def execYsub (w : BitVec 1) (a : BitVec 4) (x : BitVec 6) (lm : BitVec 3) (s : State) : Next :=
  execAccY w a lm 0 (fun _ => 128) (fun c l r => rSub r (c.elemX x.toNat l)) s

/-- YCLR (R141): all 128 lanes, whatever is selected. -/
def execYclr (w : BitVec 1) (a : BitVec 4) (_lm : BitVec 3) (s : State) : Next :=
  issue (5 + w.toNat) (fun s =>
    .ok ((s.result (5 + w.toNat) 1 (.y a.toNat) 0 (ones 6784) 0).result (5 + w.toNat) 1 (.bound (keyY a.toNat)) 0
      (ones 64) 0)) s

/-- WCLR (R141). -/
def execWclr (w : BitVec 1) (a : BitVec 6) (_lm : BitVec 3) (s : State) : Next :=
  issue (5 + w.toNat) (fun s =>
    .ok ((s.result (5 + w.toNat) 1 (.a a.toNat) 0 (ones 6784) 0).result (5 + w.toNat) 1 (.bound (keyA a.toNat)) 0
      (ones 64) 0)) s

/-- WCPY (R141): unselected lanes are cleared, and the bound goes with the value. -/
def execWcpy (w : BitVec 1) (a src : BitVec 6) (lm : BitVec 3) (s : State) : Next :=
  issue (5 + w.toNat) (fun s =>
    let c := s.core
    let x := ofElems ((List.range 128).map fun l => if c.sel lm l then elemAt (c.accA src.toNat) l else res 0)
    .ok ((s.result (5 + w.toNat) 1 (.a a.toNat) x (ones 6784) 0).result (5 + w.toNat) 1 (.bound (keyA a.toNat))
      (c.boundAt (keyA src.toNat)) (ones 64) 0)) s

/-- The value and flags of lane `l` in a WFLUSH (R143). -/
def Core.flushLane (c : Core) (a scale l : Nat) : Nat × Nat :=
  let f := c.eng.wfmt.toNat
  scaleExit (elemAt (c.accA a) l).val (laneOf 16 c.eng.wls.toNat l) scale (outFmt f) (bitOf f 2)

/-- The first selected lane of a WFLUSH whose element fails its check, as the fault record names it (R65, R143, R375). -/
def Core.flushCheck (c : Core) (w : BitVec 1) (a : Nat) (lm : BitVec 3) : Option TrapInfo :=
  match (List.range 128).find? fun l => c.sel lm l && !(elemAt (c.accA a) l).passes (c.boundAt (keyA a)) with
  | some l => some { cause := .rnschk, slot := 5 + w.toNat, coords := [a, l] }
  | none => none

/-- One of the vector registers that a WFLUSH writes: `per` lanes of width `d`, the register's place `j` (R143). -/
def State.flushTo (s : State) (w : BitVec 1) (a d : Nat) (dest : BitVec 5) (lm : BitVec 3) (scale : Nat)
    (err : Option TrapInfo) (j : Nat) : State :=
  let c := s.core
  let per := 1024 / d
  let ls := (List.range per).map (per * j + ·)
  let vals := ls.map (c.flushLane a scale)
  let incl := ls.map (c.sel lm)
  s.result (5 + w.toNat) 12 (.v (c.vKey (dest.toNat + j))) (ofLanes d (vals.map (·.1)))
    (ones 1024 - excludedOf d incl) (flagsOf incl vals) (if j = 0 then err else none)
where
  /-- The bits of excluded lanes. -/
  excludedOf (d : Nat) : List Bool → Nat
    | [] => 0
    | b :: r => (if b then 0 else ones d) + 2 ^ d * excludedOf d r
  /-- The flags of included lanes. -/
  flagsOf : List Bool → List (Nat × Nat) → Nat
    | b :: bs, x :: xs => joinFlags (if b then x.2 else 0) (flagsOf bs xs)
    | _, _ => 0

/-- WFLUSH (R143). -/
def execWflush (w : BitVec 1) (a : BitVec 6) (dest : BitVec 5) (lm : BitVec 3) (s : State) : Next :=
  issue (5 + w.toNat) (fun s => do
    let c := s.core
    let wide := outFmt c.eng.wfmt.toNat = f32
    let regs := if wide then 4 else 2
    let (sc, s) ← s.popScales 1
    need (dest.toNat % regs == 0) .illop
    let err := c.flushCheck w a.toNat lm
    let s := (List.range regs).foldl
      (fun s j => s.flushTo w a.toNat (if wide then 32 else 16) dest lm (sc.headD 0) err j) s
    return s.mod fun c => { c with eng := { c.eng with busyPairs := (s.cycle + 12, 4) :: c.eng.busyPairs } }) s

end Sys2Proof.Machine
end

