-- ==== Sys2Proof/Machine/Tile.lean ====
section
/-!
DEFINITION. The tile engine (R144 to R160): the MMA forms, MFLUSH, format registers and drains, masks, and the shuffle
and quantising operations; and the deliveries of MMA and MFLUSH.
-/
namespace Sys2Proof.Machine

/-! ### Parts and formats -/

/-- The first cycle in which a part is free (R146). -/
def Core.partFree (c : Core) : XPart → Nat
  | .array => c.eng.arrayFree
  | .exit => c.eng.exitFree
  | .shuffle => c.eng.shuffleFree

/-- A part occupied until a cycle. -/
def Core.occupy (c : Core) (p : XPart) (till : Nat) : Core :=
  match p with
  | .array => { c with eng := { c.eng with arrayFree := till } }
  | .exit => { c with eng := { c.eng with exitFree := till } }
  | .shuffle => { c with eng := { c.eng with shuffleFree := till } }

/-- XBUSY while a part is occupied (R84, R146). -/
def State.partReady (s : State) (p : XPart) : Except Stop Unit := need (s.core.partFree p ≤ s.cycle) .xbusy

/-- An X operation in flight until `due`, naming format register `n` (R72). -/
def Core.inFlight (c : Core) (due n : Nat) : Core :=
  { c with eng := { c.eng with busyPairs := (due, n) :: c.eng.busyPairs } }

/-- MFMT`n`. -/
def Core.fmtAt (c : Core) (n : Nat) : Nat := (c.eng.mfmt.get 0 n).toNat
/-- The operand formats that MFMT`n` selects (R70). -/
def Core.pairOf (c : Core) (n : Nat) : Nat := c.fmtAt n % 4

/-- c`n` as a number of 4,096 elements. -/
def Core.accC (c : Core) (n : Nat) : Nat := (c.eng.c.get 0 n).toNat
/-- c`n` written. -/
def Core.setC (c : Core) (n x : Nat) : Core := { c with eng := { c.eng with c := c.eng.c.set 0 n (BitVec.ofNat 217088 x) } }
/-- A bound register written. -/
def Core.setBound (c : Core) (key x : Nat) : Core :=
  { c with eng := { c.eng with bound := c.eng.bound.set 0 key (BitVec.ofNat 64 x) } }

/-- An X word with a guard that names p0 to p15 issues (R145). -/
def execX (g : BitVec 6) (act : State → Except Stop State) (s : State) : Next := issueIf 7 (s.core.guardP g) act s

/-! ### The MMA forms -/

/-- The MMA count of c`n` set (log entry 81). -/
def Core.setCount (c : Core) (n k : Nat) : Core :=
  { c with eng := { c.eng with mmaCount := c.eng.mmaCount.set 0 n (BitVec.ofNat 64 k) } }

/-- The bound of c`n` after an MMA form under MFMT`f` (R66). -/
def Core.mmaNext (c : Core) (f n : Nat) : Nat := c.boundAt n + mmaBound (c.pairOf f)

/-- What an MMA form checks at issue, before it takes literals: the array is free (R146) and the bound allows it (R66, R148). -/
def State.mmaReady (s : State) (f c : BitVec 2) : Except Stop Unit := do
  s.partReady .array
  need (s.core.mmaNext f.toNat c.toNat ≤ boundMax) .accrange

/-- What an MMA form does at issue (R66, R146 to R151): the array is free, the bound allows it, and its operands are
read. -/
def State.startMma (s : State) (f c : BitVec 2) (tr sp skip : Bool) (a0 a1 b : TileBits) (meta_ : BitVec 512) :
    Except Stop State := do
  s.mmaReady f c
  let pair := s.core.pairOf f.toNat
  let bound := s.core.mmaNext f.toNat c.toNat
  let occ := if pair = 3 then 32 else 64
  let job : MmaJob :=
    { due := s.cycle + occ + 8, order := s.core.orderOf 7, c := c.toNat, pair := pair, transposed := tr, sparse := sp,
      skip := skip, a0 := a0, a1 := a1, b := b, metaWord := meta_, inc := mmaBound pair }
  return s.mod fun k =>
    let k := ((k.occupy .array (s.cycle + occ)).setBound c.toNat bound).setCount c.toNat
      ((k.eng.mmaCount.get 0 c.toNat).toNat + 1)
    ({ k with eng := { k.eng with mmas := k.eng.mmas ++ [job] } }).inFlight job.due f.toNat

/-- MMA (R148, R151). -/
def execMma (f c : BitVec 2) (a b : BitVec 4) (g : BitVec 6) (s : State) : Next :=
  execX g (fun s => do
    let x ← s.core.readTile a.toNat
    let y ← s.core.readTile b.toNat
    s.startMma f c false false (x.zero || y.zero) x.data 0 y.data 0) s

/-- MMAT (R148, R151). -/
def execMmat (f c : BitVec 2) (a b : BitVec 4) (g : BitVec 6) (s : State) : Next :=
  execX g (fun s => do
    let x ← s.core.readTile a.toNat
    let y ← s.core.readTile b.toNat
    s.startMma f c true false (x.zero || y.zero) x.data 0 y.data 0) s

/-- Literal words that a B operand takes (R149). -/
def literalCount (pair : Nat) : Nat := if pairB4 pair then 32 else 64

/-- The tile of consecutive literal words (R149). -/
def tileOfWords (ws : List (List Byte)) : TileBits := BitVec.ofNat 32768 (leNat ws.flatten)

/-- The first literal word of a B operand is waited for (R149, R315; log entry 87). -/
def State.literalsReady (s : State) : Except Stop Unit := waitWhile (decide (s.cycle < s.core.qs.litReady)) .fetchstall

/-- MMAL (R148, R149, R151). -/
def execMmal (f c : BitVec 2) (a : BitVec 4) (g : BitVec 6) (s : State) : Next :=
  execX g (fun s => do
    let x ← s.core.readTile a.toNat
    s.literalsReady
    s.mmaReady f c
    let (ws, s) ← s.literals (literalCount (s.core.pairOf f.toNat))
    s.startMma f c false false x.zero x.data 0 (tileOfWords ws) 0) s

/-- MMALS (R150, R151): an odd source traps ILLOP; a metadata word comes before the values. -/
def execMmals (f c : BitVec 2) (a : BitVec 4) (g : BitVec 6) (s : State) : Next :=
  execX g (fun s => do
    let x ← s.core.readTile a.toNat
    let y ← s.core.readTile ((a.toNat + 1) % 16)
    s.literalsReady
    need (a.toNat % 2 == 0) .illop
    s.mmaReady f c
    let (ws, s) ← s.literals (1 + literalCount (s.core.pairOf f.toNat))
    s.startMma f c false true (x.zero && y.zero) x.data y.data (tileOfWords (ws.drop 1))
      (BitVec.ofNat 512 (leNat (ws.headD [])))) s

/-- The 64 rows of 64 elements of a tile. -/
def tileRows (q4 : Bool) (t : TileBits) : List (List Int) := rowsOf 64 (tileElems q4 t.toNat)

/-- Index `u` of the metadata for column group `h` (R150). -/
def sparseIndex (m : Nat) (u h : Nat) : Nat :=
  let nib := laneOf 4 m (4 * (u / 2) + h)
  if u % 2 = 0 then nib % 4 else nib / 4

/-- One output of MMALS (R150): row of A, column of values, column group. -/
def sparseDot (m : Nat) (row col : List Int) (h : Nat) : Int :=
  ((List.range 64).map fun u => row.getD (4 * (u / 2) + sparseIndex m u h) 0 * col.getD u 0).sum

/-- The 4,096 sums of products of a job, row by row (R148, R150). -/
def MmaJob.sums (j : MmaJob) : List Int :=
  let b := columns 64 (tileRows (pairB4 j.pair) j.b)
  if j.sparse then
    let lo := tileRows (pairA4 j.pair) j.a0
    let hi := tileRows (pairA4 j.pair) j.a1
    (lo.zip hi).flatMap fun (x, y) =>
      (b.zip (List.range 64)).map fun (col, n) => sparseDot j.metaWord.toNat (x ++ y) col (n / 16)
  else
    let a := tileRows (pairA4 j.pair) j.a0
    (if j.transposed then columns 64 a else a).flatMap fun r => b.map (dot r)

/-- The product of a job joins its accumulator (R147, R151). -/
def Core.landMma (c : Core) (j : MmaJob) : Core :=
  if j.skip then c
  else c.setC j.c (ofElems ((lanesOf 53 4096 (c.accC j.c)).zip j.sums |>.map fun (x, v) => addSum (Residue.unpack x) v))

/-- Every MMA due by cycle `t` is delivered, in issue order (R147). -/
def Core.deliverMmas (c : Core) (t : Nat) : Core :=
  let due := c.eng.mmas.filter fun j => j.due ≤ t
  let rest := c.eng.mmas.filter fun j => !(j.due ≤ t)
  due.foldl Core.landMma { c with eng := { c.eng with mmas := rest } }

/-- MMA_DELIVERY (R147). -/
def execMmaDelivery (core : Nat) (s : State) : Next :=
  onCore core (fun s => if s.core.delivers then s.mod (·.deliverMmas s.cycle) else s) s

/-- MCLR's effect: c is zero, and its bound and count are what is still in flight into it (R66, R147; log entry 81). -/
def Core.clearC (c : Core) (n : Nat) : Core :=
  let under := c.eng.mmas.filter (·.c == n)
  ((c.setC n 0).setBound n (under.map (·.inc)).sum).setCount n under.length

/-- MCLR (R147). -/
def execMclr (c : BitVec 2) (g : BitVec 6) (s : State) : Next :=
  execX g (fun s => .ok (s.mod (·.clearC c.toNat))) s

/-! ### Leaving the accumulators -/

/-- Masked(i, j) under a mask block (R155). -/
def maskedBy (mk : Nat) (i j : Nat) : Bool :=
  !bitOf mk j || !bitOf mk (64 + i) || bitOf mk (168 + j / 16) ||
    (bitOf mk 160 && decide (signedOf 32 (mk / 2 ^ 128) + (i : Int) < (j : Int)))

/-- What an exit-unit word waits for: a pending bank of the new task (R302), earlier acquires (R164), and what a TLDX is to bring to
the ranges that it reads (R184). -/
def State.exitWait (s : State) (reads ranges : List (Nat × Nat)) : Except Stop Unit := do
  waitWhile (ranges.any fun r => r.1 + r.2 ≤ vaultSize && s.core.pendingIn r.1 r.2) .stallld
  waitWhile (s.core.acquirePending s.core.bundles) .stallld
  waitWhile (reads.any fun r => s.core.mine.any (·.landsIn r.1 r.2)) .stallg

/-- VRANGE unless every range lies in the vault (R153). -/
def inVault (ranges : List (Nat × Nat)) : Except Stop Unit := need (ranges.all fun r => r.1 + r.2 ≤ vaultSize) .vrange

/-- Ranges owned by an exit operation until `due` (R153). -/
def Core.own (c : Core) (ranges : List (Nat × Nat)) (due : Nat) : Core :=
  { c with eng := { c.eng with hazards := ranges.map (fun r => ⟨r.1, r.1 + r.2, due⟩) ++ c.eng.hazards } }

/-- Bytes of a row of output (R152). -/
def rowBytes (fmt : Nat) : Nat := if outFmt fmt = f32 then 256 else 128

/-- The rows that an MFLUSH writes: addresses are exact and never wrap (R152). -/
def flushRows (base pitch fmt : Nat) : List (Nat × Nat) :=
  (List.range 64).map fun i => (base + 64 * pitch * i, rowBytes fmt)

/-- The bytes that an MFLUSH writes and owns (R152, R153): whole rows, or under mk = 01 the elements that the mask does not leave
unwritten. -/
def flushBytes (base pitch fmt mk mask : Nat) : List (Nat × Nat) :=
  if mk = 1 then
    let w := rowBytes fmt / 64
    (List.range 4096).filterMap fun e =>
      if maskedBy mask (e / 64) (e % 64) then none else some (base + 64 * pitch * (e / 64) + w * (e % 64), w)
  else flushRows base pitch fmt

/-- MFLUSH (R152, R153). A pitch below the row size depends on the format register: it is one of the checks at issue, after the stalls
and QIMB (R81, R145, R160; log entry 85). The mask register is read at issue (log entry 13). -/
def execMflush (f c : BitVec 2) (bb : BitVec 3) (md : BitVec 1) (mk : BitVec 2) (pitch : BitVec 12) (cl : BitVec 1)
    (off : BitVec 16) (g : BitVec 6) (s : State) : Next :=
  execX g (fun s => do
    let fmt := s.core.fmtAt f.toNat
    let base := s.core.bAt bb.toNat + 64 * off.toNat
    let rows := flushRows base pitch.toNat fmt
    let out := flushBytes base pitch.toNat fmt mk.toNat s.core.eng.mask.toNat
    s.exitWait (if md = 1 then rows else []) rows
    let (sc, s) ← s.popScales 128
    need (rowBytes fmt ≤ 64 * pitch.toNat) .illop
    s.partReady .exit
    inVault rows
    let due := s.cycle + 24
    let word := fun x => BitVec.ofNat 16 x
    let job := ExitJob.mflush due (s.core.orderOf 7) c.toNat (BitVec.ofNat 217088 (s.core.accC c.toNat)) (s.core.boundAt c.toNat)
      ((sc.take 64).map word) ((sc.drop 64).map word) base pitch.toNat (md == 1) mk.toNat s.core.eng.mask
      (BitVec.ofNat 8 fmt)
    return (s.guardRanges out).mod fun k =>
      let k := if cl = 1 then k.clearC c.toNat else k
      let k := ((k.occupy .exit (s.cycle + 8)).own out due).inFlight due f.toNat
      { k with eng := { k.eng with exits := k.eng.exits ++ [job] } }) s

/-- What an MFLUSH writes for one element, with the flags it raises: nothing where the mask leaves it unwritten (R69, R152). -/
def flushElem (r : Residue) (rs cs fmt d : Nat) (add : Bool) (mk : Nat) (masked : Bool) : Option (Nat × Nat) :=
  let f := outFmt fmt
  if mk ≠ 0 && masked then (if mk = 2 then some (f.sign true + f.infBits, 0) else none)
  else some (if add then addExit r.val rs cs d f (bitOf fmt 2) else scaleExit r.val rs cs f (bitOf fmt 2))

/-- The element in row `i` and column `j` written to the vault in cycle `t` (R152). A mismatch, of an element left unwritten too,
is reported once, with the first failing element, and poisons the lines that the element was written to (R65). -/
def landElem (c : Core) (t n i j a w : Nat) (e : Option (Nat × Nat)) (bad seen : Bool) : Core × Bool :=
  let c :=
    match e with
    | none => c
    | some (y, fl) =>
      let c := (c.storeNum a w y).addFlags t fl
      if bad then c.markPoison (linesOf a w) else c
  (if bad && !seen then c.note { cause := .rnschk, slot := 7, coords := [n, i, j] } else c, seen || bad)

/-- The lines that row `i` of an MFLUSH, written from `a` on with elements of `w` bytes, covers whole (R376). -/
def flushedLines (a w i mk mask : Nat) : List Nat :=
  (wholeLines a (64 * w)).filter fun l =>
    mk != 1 || (List.range 64).all fun j => !(decide (a + w * j < 64 * l + 64) && decide (64 * l < a + w * j + w) && maskedBy mask i j)

/-- An exit operation's delivery in cycle `t` (R152, R153, R159). -/
def Core.landExit (t : Nat) (c : Core) : ExitJob → Core
  | .mflush _ _ n acc bnd rs cs base pitch add md mask fmt =>
    let f := fmt.toNat
    let w := rowBytes f / 64
    let c := (List.range 64).foldl (fun c i => c.healPoison (flushedLines (base + 64 * pitch * i) w i md mask.toNat)) c
    ((List.range 4096).foldl (fun (p : Core × Bool) e =>
      let i := e / 64
      let j := e % 64
      let a := base + 64 * pitch * i + w * j
      let d := if add then p.1.vault.num a w else 0
      let r := elemAt acc.toNat e
      landElem p.1 t n i j a w
        (flushElem r (rs.getD i 0).toNat (cs.getD j 0).toNat f d add md (maskedBy mask.toNat i j)) (!r.passes bnd) p.2)
      (c, false)).1
  | .tqnt _ _ base scales => c.store base (scales.flatMap fun x => leBytes 2 x.toNat)

/-- Whether an exit operation is due. -/
def ExitJob.dueBy (t : Nat) : ExitJob → Bool
  | .mflush due _ _ _ _ _ _ _ _ _ _ _ _ => due ≤ t
  | .tqnt due _ _ _ => due ≤ t

/-- Every exit operation due by cycle `t` is delivered, in issue order. -/
def Core.deliverExits (c : Core) (t : Nat) : Core :=
  let due := c.eng.exits.filter (·.dueBy t)
  let rest := c.eng.exits.filter fun j => !j.dueBy t
  due.foldl (Core.landExit t) { c with eng := { c.eng with exits := rest } }

/-- MFLUSH_DELIVERY (R152). -/
def execMflushDelivery (core : Nat) (s : State) : Next :=
  onCore core (fun s => if s.core.delivers then s.mod (·.deliverExits s.cycle) else s) s

/-! ### Formats, drains and masks -/

/-- Whether an operation that names format register `n` is in flight (R72); 4 stands for WFMT. -/
def State.fmtBusy (s : State) (n : Nat) : Bool := s.core.eng.busyPairs.any fun p => p.2 == n && s.cycle < p.1

/-- MFMT (R154). -/
def execMfmt (f : BitVec 2) (tw : BitVec 1) (v : BitVec 8) (g : BitVec 6) (s : State) : Next :=
  execX g (fun s => do
    need (!s.fmtBusy (if tw = 1 then 4 else f.toNat)) .fmtbusy
    return s.result 7 1 (if tw = 1 then .wfmt else .mfmt f.toNat) v.toNat (ones 8) 0) s

/-- The last delivery of every X operation in flight (R154). -/
def Core.lastX (c : Core) : Nat := (c.eng.busyPairs.filter (·.2 != 4)).foldl (fun m p => max m p.1) 0

/-- MDRAIN (R154). -/
def execMdrain (g : BitVec 6) (s : State) : Next :=
  execX g (fun s => do
    s.partReady .array
    s.partReady .exit
    s.partReady .shuffle
    let till := max (s.cycle + 1) s.core.lastX
    return s.mod fun c => ((c.occupy .array till).occupy .exit till).occupy .shuffle till) s

/-- A mask block without a non-zero reserved bit (R155). -/
def maskOk (x : Nat) : Bool := x / 2 ^ 172 == 0 && fieldOf x 167 161 == 0

/-- MASKLD (R155). -/
def execMaskld (a : BitVec 4) (g : BitVec 6) (s : State) : Next :=
  execX g (fun s => do
    let t ← s.core.readTile a.toNat
    let x := t.data.toNat % 2 ^ 512
    need (maskOk x) .xparm
    return s.result 7 1 .maskReg x (ones 512) 0) s

/-! ### The shuffle unit and quantisation -/

/-- TZERO (R156). -/
def execTzero (d : BitVec 4) (g : BitVec 6) (s : State) : Next :=
  execX g (fun s => do
    s.core.tileWait d.toNat
    s.core.writeTileOk d.toNat
    return s.result 7 1 (.tile d.toNat) 0 (ones 32768) 0) s

/-- A tile written `lat` cycles after issue by a part that it occupies for `occ` (R146). -/
def State.writeTile (s : State) (p : XPart) (occ lat : Nat) (dest : Dest) (x flags : Nat) : State :=
  (s.result 7 lat dest x (ones 32768) flags).mod fun c =>
    (c.occupy p (s.cycle + occ)).inFlight (s.cycle + lat) 5

/-- The transpose of a tile's elements (R156). -/
def transposed (q4 : Bool) (t : Nat) : Nat :=
  let w := if q4 then 4 else 8
  ofLanes w ((columns 64 (rowsOf 64 ((lanesOf w 4096 t).map Int.ofNat))).flatten.map Int.toNat)

/-- TTRN (R156): the zero flag is its source's (R151). -/
def execTtrn (d a : BitVec 4) (qf : BitVec 1) (g : BitVec 6) (s : State) : Next :=
  execX g (fun s => do
    let t ← s.core.readTile a.toNat
    s.core.tileWait d.toNat
    s.partReady .shuffle
    s.core.writeTileOk d.toNat
    return s.writeTile .shuffle 4 8 (.tileFlag d.toNat) (transposed (qf == 1) t.data.toNat + bit t.zero * 2 ^ 32768) 0) s

/-- `x` ranks strictly above `y` (R76). -/
def ranksAbove (x y : Nat) : Bool :=
  let a := f32.val x
  let b := f32.val y
  !a.isNan && (b.isNan || b.lt a)

/-- A candidate put among ranked ones, after those that it does not rank above. -/
def insertRanked (c : Nat × Nat) : List (Nat × Nat) → List (Nat × Nat)
  | [] => [c]
  | e :: r => if ranksAbove c.2 e.2 then c :: e :: r else e :: insertRanked c r

/-- The candidates of a row, with their indices: unmasked ones among the first `n` (R157). -/
def candidates (t mk : Nat) (useMask : Bool) (n r : Nat) : List (Nat × Nat) :=
  ((List.range n).filter fun j => !(useMask && maskedBy mk r j)).map fun j => (j, laneOf 32 t (64 * r + j))

/-- One row of TOPK's output, 256 bytes (R157). -/
def topkRow (k : Nat) (cs : List (Nat × Nat)) : Nat :=
  let best := (cs.foldl (fun l c => insertRanked c l) []).take k
  let fill := List.replicate (k - best.length) (0xFFFF, 0xFF800000)
  let all := best ++ fill
  ofLanes 16 (all.map (·.1)) + 2 ^ 512 * ofLanes 32 (all.map (·.2))

/-- TOPK (R157). -/
def execTopk (d a : BitVec 4) (k : BitVec 6) (n : BitVec 7) (rows : BitVec 5) (mk : BitVec 1) (g : BitVec 6) (s : State) :
    Next :=
  execX g (fun s => do
    let t ← s.core.readTile a.toNat
    s.core.tileWait d.toNat
    s.partReady .shuffle
    s.core.writeTileOk d.toNat
    let out := (List.range rows.toNat).map fun r =>
      topkRow k.toNat (candidates t.data.toNat s.core.eng.mask.toNat (mk == 1) n.toNat r)
    return s.writeTile .shuffle 16 24 (.tile d.toNat) (ofLanes 2048 out) 0) s

/-- The maximum of a row's candidates (R158). -/
def rowMax (l : List Nat) : Nat × Nat := if l.isEmpty then (0xFF800000, 0) else extremeF f32 fmax l

/-- ROWMAX (R158). -/
def execRowmax (d a : BitVec 4) (n : BitVec 7) (rows : BitVec 5) (mk : BitVec 1) (g : BitVec 6) (s : State) : Next :=
  execX g (fun s => do
    let t ← s.core.readTile a.toNat
    s.core.tileWait d.toNat
    s.partReady .shuffle
    s.core.writeTileOk d.toNat
    let out := (List.range rows.toNat).map fun r =>
      rowMax ((candidates t.data.toNat s.core.eng.mask.toNat (mk == 1) n.toNat r).map (·.2))
    return s.writeTile .shuffle 4 12 (.tile d.toNat) (ofLanes 32 (out.map (·.1))) (joinAll out)) s

/-- The smallest E8M7 word with exponent at least 1 whose value is at least m·2^e / lim, for a positive finite m·2^e
(R159). With m·2^e = q · 2^(x−7) and q in [128, 256), the word is found by rounding q / lim up. -/
def scaleFor (lim m : Nat) (e : Int) : Nat :=
  -- exponent of m·2^e / lim
  let lg := floorLog m lim + e
  let x : Int := max lg (-126)
  -- ⌈(m / lim) · 2^(e − x + 7)⌉, from 128 to 256 when x = lg, smaller below the least exponent
  let (q, r, _) := scaleDiv m lim (e - x + 7)
  let f := if r = 0 then q else q + 1
  let f := max f 128
  if 256 ≤ f then ((x + 128).toNat * 128) else ((x + 127).toNat * 128 + (f - 128))

/-- A row's largest magnitude among its elements that are no NaN (R159). -/
def rowAmax (l : List Nat) : FpVal :=
  l.foldl (fun best x =>
    match f32.val x with
    | .nan _ => best
    | .inf _ => .inf false
    | .fin _ m e => if best.lt (.fin false m e) then .fin false m e else best) (.fin false 0 0)

/-- The scale of a row (R159). -/
def rowScale (lim : Nat) (amax : FpVal) : Nat :=
  match amax with
  | .fin _ m e => if m = 0 then 0 else min 0x7F80 (scaleFor lim m e)
  | _ => 0x7F80

/-- One element quantised (R159). -/
def tqntElem (lim sc x : Nat) : Int × Nat :=
  match f32.val x with
  | .nan _ => (0, flagNV)
  | .inf n => if sc = 0 then (0, 0) else (if n then -(lim : Int) else lim, 0)
  | .fin n m e =>
    if sc = 0 || isInfScale sc then (0, 0)
    else
      let (v, inexact) := toInt .even n m (scaleMant sc) (e - scaleShift sc)
      (v, flagIf inexact flagNX)

/-- A row quantised: its scale and its elements with their flags (R159). -/
def tqntRow (lim : Nat) (l : List Nat) : Nat × List (Int × Nat) :=
  let sc := rowScale lim (rowAmax l)
  (sc, l.map (tqntElem lim sc))

/-- TQNT (R153, R159): the source is read at issue; the tile and the scales are written 40 cycles later. -/
def execTqnt (d : BitVec 4) (bb : BitVec 3) (qf : BitVec 1) (bs : BitVec 3) (soff : BitVec 15) (off : BitVec 16)
    (g : BitVec 6) (s : State) : Next :=
  execX g (fun s => do
    let src := s.core.bAt bb.toNat + 64 * off.toNat
    let dst := s.core.bAt bs.toNat + 128 * soff.toNat
    s.exitWait [(src, 16384)] [(src, 16384), (dst, 128)]
    s.core.tileWait d.toNat
    s.partReady .exit
    inVault [(src, 16384), (dst, 128)]
    s.core.writeTileOk d.toNat
    let lim := if qf = 1 then 7 else 127
    let x := s.core.vault.num src 16384
    let rows := (List.range 64).map fun r => tqntRow lim (lanesOf 32 64 (x / 2 ^ (2048 * r)))
    let q := if qf = 1 then 4 else 8
    let elems := rows.flatMap fun r => r.2
    let tile := ofLanes q (elems.map fun p => wrapTo q p.1)
    let job := ExitJob.tqnt (s.cycle + 40) (s.core.orderOf 7) dst (rows.map fun r => BitVec.ofNat 16 r.1)
    let s' := s.writeTile .exit 32 40 (.tile d.toNat) tile (elems.foldl (fun f p => joinFlags f p.2) 0)
    return (s'.guardRanges [(src, 16384), (dst, 128)]).mod fun c =>
      let c := c.own [(src, 16384), (dst, 128)] (s.cycle + 40)
      { c with eng := { c.eng with exits := c.eng.exits ++ [job] } }) s

end Sys2Proof.Machine
end

