-- ==== Sys2Proof/Machine/Abette.lean ====
section
/-!
DEFINITION. The Abette weight compiler (R320 to R322, R365 to R367): what it reads of a request, the weight-slot form panel by panel,
the literal form's literals, and the object it writes. What these rules leave open of it is in log entry 11.
-/
namespace Sys2Proof.Machine

/-! ### The matrix (R51, R320) -/

/-- A quantised matrix with its row scales, and the rows that a request asks for. -/
structure Matrix where
  rows : Nat
  cols : Nat
  q4 : Bool
  /-- The weights, row by row at the pitch of R320. -/
  weights : List Byte
  scales : List Byte
  row0 : Nat
  nrow : Nat

/-- Bytes of a row of weights, rounded up to 64 (R320, R51). -/
def abettePitch (cols fmt : Nat) : Nat := ceilDiv (if fmt = 0 then cols else ceilDiv cols 2) 64 * 64

/-- W[n][c] (R51); zero outside the matrix. -/
def Matrix.at (m : Matrix) (n c : Nat) : Int :=
  if m.rows ≤ n || m.cols ≤ c then 0
  else
    let row := n * abettePitch m.cols (bit m.q4)
    if m.q4 then signedOf 4 (numAt m.weights (row + c / 2) 1 / 16 ^ (c % 2) % 16) else signedOf 8 (numAt m.weights (row + c) 1)

/-- The matrix of a request (R320). -/
def matrixOf (q weights scales : List Byte) : Matrix :=
  { rows := numAt q 16 4, cols := numAt q 20 4, q4 := numAt q 24 1 == 1, weights := weights, scales := scales,
    row0 := numAt q 40 4, nrow := numAt q 44 4 }

/-- The numbers of the panels of 64 rows that hold rows asked for (R320). -/
def Matrix.panels (m : Matrix) : List Nat :=
  (List.range (ceilDiv m.rows 64)).filter fun p => m.row0 < 64 * p + 64 && 64 * p < m.row0 + m.nrow

/-- The rows asked for of a panel. -/
def Matrix.panelRows (m : Matrix) (p : Nat) : List Nat :=
  ((List.range 64).map (64 * p + ·)).filter fun n => m.row0 ≤ n && n < m.row0 + m.nrow

/-- The literal words that hold a panel's row scales, zero beyond its last row (R366, R367). -/
def Matrix.scaleWords (m : Matrix) (rows : List Nat) : List Byte :=
  (List.range (32 * ceilDiv rows.length 32)).flatMap fun i =>
    match rows[i]? with
    | some n => leBytes 2 (numAt m.scales (2 * n) 2)
    | none => [0, 0]

/-! ### Term sets and their costs (R321) -/

/-- A pair (c, w) of a term set. -/
abbrev Term := Nat × Int

/-- The non-zero terms of a row, in column order: step 1. -/
def Matrix.terms (m : Matrix) (n : Nat) : List Term :=
  ((List.range m.cols).map fun c => (c, m.at n c)).filter (·.2 != 0)

/-- The distinct weights of a term set, ascending. -/
def weightsOf (s : List Term) : List Int := ((List.range 256).map fun (i : Nat) => (i : Int) - 128).filter fun w => s.any (·.2 == w)

/-- The terms of a set with a given weight. -/
def termsWith (s : List Term) (w : Int) : List Term := s.filter (·.2 == w)

/-- Cost(S): what a term set costs when it goes into an accumulator. -/
def cost (s : List Term) : Nat :=
  ((weightsOf s).map fun w =>
    let n := (termsWith s w).length
    if w.natAbs = 1 then n else if n = 1 then 2 else n + 2).sum

/-- CostY(S): what it costs when it goes into a y register. -/
def costY (s : List Term) : Nat := (s.map fun t => if t.2.natAbs = 1 then 1 else 2).sum

/-! ### Shared sums (R321, R365) -/

/-- The terms that two sets share. -/
def common (s t : List Term) : List Term := s.filter t.contains

/-- The places of the sets that contain another. -/
def users (ts : List (List Term)) (s : List Term) : List Nat :=
  (List.range ts.length).filter fun k => s.all (ts.getD k []).contains

/-- The gain of taking out a sum: one WADDY per user. -/
def gain (s : List Term) (u : List Nat) : Int := (u.length * cost s : Int) - costY s - u.length

/-- The pairs of places below `n`, lowest first. -/
def pairsBelow (n : Nat) : List (Nat × Nat) := (List.range n).flatMap fun i => ((List.range n).filter (i < ·)).map fun j => (i, j)

/-- The sum with the largest gain, the first of equal ones, with its users and the gain. -/
def bestSum (ts : List (List Term)) : Option (List Term × List Nat × Int) :=
  (pairsBelow ts.length).foldl (fun best p =>
    let s := common (ts.getD p.1 []) (ts.getD p.2 [])
    let u := users ts s
    let g := gain s u
    if s.length < 2 || g ≤ 0 || (best.map fun b => decide (g ≤ b.2.2)).getD false then best else some (s, u, g)) none

/-- The terms that are left in each set once a sum is taken out of its users. -/
def without (ts : List (List Term)) (s : List Term) (u : List Nat) : List (List Term) :=
  (List.range ts.length).map fun k => if u.contains k then (ts.getD k []).filter fun t => !s.contains t else ts.getD k []

/-- Step 3: at most `n` sums taken out, each with its users, and the sets that remain. -/
def shareSums : Nat → List (List Term) → List (List Term × List Nat) × List (List Term)
  | 0, ts => ([], ts)
  | n + 1, ts =>
    match bestSum ts with
    | none => ([], ts)
    | some (s, u, _) =>
      let (sums, left) := shareSums n (without ts s u)
      ((s, u) :: sums, left)

/-- The place of the lowest row with the same terms as row `k`, where that is an earlier one. -/
def originalOf (ts : List (List Term)) (k : Nat) : Option Nat := (List.range k).find? fun j => ts.getD j [] == ts.getD k []

/-! ### Weight-slot words (R321, R365) -/

/-- A weight-slot word as it is emitted: the word in slot W0 or W1, the register it has as its destination, and those it reads; a
y register is numbered from 64. -/
structure WWord where
  word : BitVec 1 → Instr
  dest : Option Nat
  reads : List Nat

/-- Registers as fields of words. -/
def regA (n : Nat) : BitVec 6 := BitVec.ofNat 6 n
/-- A y register. -/
def regY (n : Nat) : BitVec 4 := BitVec.ofNat 4 n
/-- imm8. -/
def termImm (w : Int) : BitVec 8 := BitVec.ofInt 8 w

/-- WCLR of a row's accumulator. -/
def clearRow (n : Nat) : WWord := ⟨fun s => .wclr s (regA n) 0, some (n % 64), []⟩
/-- YCLR. -/
def clearSum (y : Nat) : WWord := ⟨fun s => .yclr s (regY y) 0, some (64 + y), []⟩

/-- The word that adds a term into a y register. -/
def intoSum (y : Nat) (t : Term) : WWord :=
  { word := fun s => if t.2 = 1 then .yadd s (regY y) (regA t.1) 0 else if t.2 = -1 then .ysub s (regY y) (regA t.1) 0
      else .ymac s (regY y) (regA t.1) (termImm t.2) 0
    dest := some (64 + y), reads := [64 + y] }

/-- The words of one weight of a row's terms: single terms into the accumulator, or their inputs summed in register `y` and multiplied
once. -/
def weightWords (n y : Nat) (w : Int) (s : List Term) : List WWord :=
  let into := fun (f : BitVec 1 → Term → Instr) => s.map fun t => (⟨fun k => f k t, some (n % 64), [n % 64]⟩ : WWord)
  if w = 1 then into fun k t => .wadd k (regA n) (regA t.1) 0
  else if w = -1 then into fun k t => .wsub k (regA n) (regA t.1) 0
  else if s.length = 1 then into fun k t => .wmac k (regA n) (regA t.1) (termImm w) 0
  else clearSum y :: (s.map fun t => intoSum y (t.1, 1)) ++
    [⟨fun k => .wmacy k (regA n) (regY y) (termImm w) 0, some (n % 64), [n % 64, 64 + y]⟩]

/-- The words of a row's terms in a block, weight by weight. -/
def rowWords (n y : Nat) (s : List Term) : List WWord := (weightsOf s).flatMap fun w => weightWords n y w (termsWith s w)

/-- WADDY of a shared sum into a row. -/
def sumInto (n y : Nat) : WWord := ⟨fun k => .waddy k (regA n) (regY y) 0, some (n % 64), [n % 64, 64 + y]⟩
/-- WCPY of a row's accumulator into that of its copy. -/
def copyRow (n from_ : Nat) : WWord := ⟨fun k => .wcpy k (regA n) (regA from_) 0, some (n % 64), [from_ % 64]⟩
/-- WFLUSH of a row into v0 to v3. -/
def flushRow (n : Nat) : WWord := ⟨fun k => .wflush k (regA n) 0 0, none, [n % 64]⟩

/-- Whether a word goes beside the one in W0 (R45, R321). -/
def WWord.beside (w1 w0 : WWord) : Bool :=
  match w0.dest with
  | none => true
  | some d => w1.dest != some d && !w1.reads.contains d

/-- Words put into bundles: W0, and W1 where the next word may go there. -/
def pairWords : List WWord → List (List Instr)
  | [] => []
  | [x] => [[x.word 0]]
  | x :: y :: r => if y.beside x then [x.word 0, y.word 1] :: pairWords r else [x.word 0] :: pairWords (y :: r)

/-! ### A panel's bundles (R321, R365 to R367) -/

/-- A bundle as the words of its slots, or idle cycles. -/
abbrev AbetteBundle := List Instr

/-- An idle bundle of `n` cycles. -/
def idleBundle (n : Nat) : AbetteBundle := [.idle 0 (BitVec.ofNat 6 (n - 1))]

/-- XLD of an input. -/
def loadInput (c : Nat) : Instr := .xld 0 0 0 (regA c) (BitVec.ofNat 32 (128 * c))

/-- VST of quarter `k` of a row. -/
def storeRow (n k : Nat) : Instr := .vst 0 0 1 (BitVec.ofNat 5 k) (BitVec.ofNat 32 (512 * n + 128 * k))

/-- The panel as step 3 leaves it: its rows, the shared sums with the places of their users, the terms each row keeps, and the original
of each copy. -/
structure Panel where
  rows : List Nat
  cols : Nat
  sums : List (List Term × List Nat)
  terms : List (List Term)
  copies : List (Nat × Nat)

/-- Steps 1 to 3 for a panel (R321): copies take no further part, and the grouping register is one of the 16 (R365). -/
def Matrix.panel (m : Matrix) (p : Nat) : Panel :=
  let rows := m.panelRows p
  let all := rows.map m.terms
  let copies := (List.range rows.length).filterMap fun k => (originalOf all k).map fun j => (k, j)
  let kept := (List.range rows.length).map fun k => if copies.any (·.1 == k) then [] else all.getD k []
  let (sums, left) := shareSums 15 kept
  ⟨rows, m.cols, sums, left, copies⟩

/-- The terms of a block of 64 columns. -/
def inBlock (b : Nat) (s : List Term) : List Term := s.filter fun t => t.1 / 64 == b

/-- The row number at a place. -/
def Panel.row (p : Panel) (k : Nat) : Nat := p.rows.getD k 0

/-- The clears at the start of a panel: of every row, and of every shared sum. -/
def Panel.clears (p : Panel) : List WWord := p.rows.map clearRow ++ (List.range p.sums.length).map clearSum

/-- The words of a block: the terms of the shared sums, then those of the rows. -/
def Panel.blockWords (p : Panel) (b : Nat) : List WWord :=
  ((List.range p.sums.length).flatMap fun y => (inBlock b (p.sums.getD y ([], [])).1).map (intoSum y)) ++
    (List.range p.rows.length).flatMap fun k => rowWords (p.row k) p.sums.length (inBlock b (p.terms.getD k []))

/-- The words after the last block, up to the first row's WFLUSH. -/
def Panel.lastWords (p : Panel) : List WWord :=
  ((List.range p.sums.length).flatMap fun y => (p.sums.getD y ([], [])).2.map fun k => sumInto (p.row k) y) ++
    p.copies.map (fun x => copyRow (p.row x.1) (p.row x.2)) ++ (p.rows.head?.map flushRow).toList

/-- The clears that ride in `n` bundles, bundle by bundle, and those that are left. -/
def ride : Nat → List WWord → List (List Instr) × List WWord
  | 0, ws => ([], ws)
  | n + 1, ws =>
    match ws with
    | [] => let (l, r) := ride n []; ([] :: l, r)
    | [x] => let (l, r) := ride n []; ([x.word 0] :: l, r)
    | x :: y :: t =>
      if y.beside x then let (l, r) := ride n t; ([x.word 0, y.word 1] :: l, r)
      else let (l, r) := ride n (y :: t); ([x.word 0] :: l, r)

/-- The bundles of a block that load its inputs, each with what rides in its W slots; in the first block MFMT and SLDL stand among
them (R366). -/
def Panel.loads (p : Panel) (q4 : Bool) (b : Nat) (riders : List (List Instr)) : List AbetteBundle :=
  let n := min 64 (p.cols - 64 * b)
  (List.range n).map fun i =>
    riders.getD i [] ++ [loadInput (64 * b + i)] ++
      (if b = 0 && i = 0 && q4 then [.mfmt 0 1 1 0] else []) ++
      (if b = 0 && i = min 3 (n - 1) then [.sldl 0 (BitVec.ofNat 5 (ceilDiv p.rows.length 32 - 1))] else [])

/-- A block's bundles: its inputs, the wait until they are there, and its words. Clears that found no place beside an XLD come first
among the words. DESIGN CHOICE, log entry 11. -/
def Panel.block (p : Panel) (q4 : Bool) (b : Nat) : List AbetteBundle :=
  let n := min 64 (p.cols - 64 * b)
  let (riders, left) := ride n (if b = 0 then p.clears else [])
  let words := left ++ p.blockWords b ++ (if p.cols ≤ 64 * b + 64 then p.lastWords else [])
  p.loads q4 b riders ++ (if words.isEmpty then [] else idleBundle 5 :: pairWords words)

/-- The bundles of a row's stores; the last holds the WFLUSH of the next row, or the LOOP over the padding words after the last
row. -/
def Panel.stores (p : Panel) (k : Nat) : List AbetteBundle :=
  let n := p.row k
  let pad := 32 * ceilDiv p.rows.length 32 - p.rows.length
  let with_ : List Instr := match p.rows[k + 1]? with
    | some r => [(flushRow r).word 0]
    | none => if pad = 0 then [] else [.loopImm (BitVec.ofNat 13 pad) 2]
  [idleBundle 11, [storeRow n 0], [storeRow n 1], [storeRow n 2], storeRow n 3 :: with_]

/-- The routine of a panel: its blocks, the stores of its rows, the drain of the padding words, and RET. -/
def Panel.routine (p : Panel) (q4 : Bool) : List AbetteBundle :=
  let last := p.row (p.rows.length - 1)
  (List.range (ceilDiv p.cols 64)).flatMap (p.block q4) ++ (List.range p.rows.length).flatMap p.stores ++
    (if p.rows.length % 32 = 0 then [] else [[(flushRow last).word 0]]) ++ [[.ret 0]]

/-- A bundle's bytes: the header, then its words by slot (R28, R31). -/
def bundleBytes (b : AbetteBundle) : List Byte :=
  match b with
  | [.idle f c] => (encode (.idle f c)).flatMap fun w => leBytes 4 w.toNat
  | _ =>
    let ws := (List.range 12).filterMap fun n => b.find? fun i => slotOf i == some n
    leBytes 4 ((ws.map fun i => 2 ^ (slotOf i).getD 0).sum) ++ (ws.flatMap encode).flatMap fun w => leBytes 4 w.toNat

/-- The bytes of a panel's routine in the weight-slot form. -/
def Matrix.slotCode (m : Matrix) (p : Nat) : List Byte := ((m.panel p).routine m.q4).flatMap bundleBytes

/-- Whether a routine has a word in one of the slots named. -/
def usesSlot (l : List AbetteBundle) (slots : List Nat) : Bool := l.any fun b => b.any fun i => slots.any fun n => slotOf i == some n

/-! ### The literal form (R149, R150, R322) -/

/-- A row of 64 weights as a literal tile holds it. -/
def Matrix.packRow (m : Matrix) (l : List Int) : List Byte :=
  if m.q4 then leBytes 32 ((List.range 64).map fun j => wrapTo 4 (l.getD j 0) * 16 ^ j).sum
  else l.map fun w => BitVec.ofNat 8 (wrapTo 8 w)

/-- The outputs of a panel at input `c`: a row of the transposed matrix. -/
def Matrix.column (m : Matrix) (rows : List Nat) (c : Nat) : List Int :=
  (List.range 64).map fun j => (rows[j]?.map fun n => m.at n c).getD 0

/-- The literal words of the dense tile of K-step `k`. -/
def Matrix.denseTile (m : Matrix) (rows : List Nat) (k : Nat) : List Byte :=
  (List.range 64).flatMap fun i => m.packRow (m.column rows (64 * k + i))

/-- The indices of a group of four inputs from `c` on at which one of 16 outputs from `16 * h` on has a weight. -/
def Matrix.usedIn (m : Matrix) (rows : List Nat) (c h : Nat) : List Nat :=
  (List.range 4).filter fun i => (List.range 16).any fun j => (m.column rows (c + i)).getD (16 * h + j) 0 != 0

/-- The two indices of such a group, the lowest that take in those used. -/
def twoIndices (used : List Nat) : Nat × Nat :=
  ((pairsBelow 4).find? fun p => used.all fun i => i == p.1 || i == p.2).getD (0, 1)

/-- Whether K-steps `2 * k` and `2 * k + 1` go out as an MMALS: each group of four inputs holds at most two non-zeros in every column
(R322). -/
def Matrix.sparse (m : Matrix) (rows : List Nat) (k : Nat) : Bool :=
  (List.range 32).all fun g => (List.range 64).all fun j =>
    ((List.range 4).filter fun i => (m.column rows (128 * k + 4 * g + i)).getD j 0 != 0).length ≤ 2

/-- Whether 16 columns of such a pair use more than the two indices of a group that an MMALS has for them (R150). -/
def Matrix.spreads (m : Matrix) (rows : List Nat) (k : Nat) : Bool :=
  (List.range 32).any fun g => (List.range 4).any fun h => 2 < (m.usedIn rows (128 * k + 4 * g) h).length

/-- The metadata word and the value tile of an MMALS that takes, of the indices used in a group by 16 columns, those that `part` says. -/
def Matrix.sparseTile (m : Matrix) (rows : List Nat) (k : Nat) (part : List Nat → List Nat) : List Byte :=
  let used := fun (g h : Nat) => part (m.usedIn rows (128 * k + 4 * g) h)
  let ix := fun (g h : Nat) => twoIndices (used g h)
  let word := ((List.range 32).flatMap fun g => (List.range 4).map fun h =>
    ((ix g h).1 + 4 * (ix g h).2) * 16 ^ (4 * g + h)).sum
  leBytes 64 word ++ (List.range 64).flatMap fun u => m.packRow ((List.range 64).map fun j =>
    let i := if u % 2 = 0 then (ix (u / 2) (j / 16)).1 else (ix (u / 2) (j / 16)).2
    if (used (u / 2) (j / 16)).contains i then (m.column rows (128 * k + 4 * (u / 2) + i)).getD j 0 else 0)

/-- The words of a panel's K-steps in ascending order: of each pair an MMALS, or an MMAL for each step; with a list that says which. Where
16 columns spread over more than two indices of a group a second MMALS has those that the first, with the lowest, leaves: DESIGN CHOICE,
log entry 132. -/
def Matrix.literalSteps (m : Matrix) (rows : List Nat) : List (Bool × List Byte) :=
  let steps := ceilDiv m.cols 64
  (List.range (ceilDiv steps 2)).flatMap fun k =>
    if 2 * k + 1 < steps && m.sparse rows k then
      (true, m.sparseTile rows k (·.take 2)) :: if m.spreads rows k then [(true, m.sparseTile rows k (·.drop 2))] else []
    else ((List.range 2).filter fun i => 2 * k + i < steps).map fun i => (false, m.denseTile rows (2 * k + i))

/-! ### The literal form's bundles (R320, R322)

R322 gives the products, their order and the SLDL words, R320 what the routine reads, writes and leaves. The words around the products
are free among those below, none of which writes a g or b register. DESIGN CHOICE, log entry 11. -/

/-- The scale words that the queue holds after a word, where the word is one that may stand around the products: it reads the
activations at b0, or bytes at b1, and writes bytes at b1, v0 to v3 or a register of the weight or tile engine; it finds the scale
words it pops, and leaves room for the row scales. -/
def literalWord (q : Nat) (i : Instr) : Option Nat :=
  let keep := fun (ok : Bool) => if ok then some q else none
  match i with
  | .mma _ _ _ _ g | .mmat _ _ _ _ g | .mclr _ g | .mdrain g | .tzero _ g | .ttrn _ _ _ g => keep (g == 0)
  | .mflush _ _ bb _ _ _ _ _ g => if bb = 1 ∧ g = 0 ∧ 128 ≤ q then some (q - 128) else none
  | .tqnt _ bb _ _ _ _ g => keep (bb == 1 && g == 0)
  | .vld o g bb d _ => keep (o == 0 && g == 0 && decide (bb.toNat ≤ 1) && decide (d.toNat < 4))
  | .vst o g bb _ _ | .tstl o g bb _ _ => keep (o == 0 && g == 0 && bb == 1)
  | .tldl o g bb _ _ => keep (o == 0 && g == 0 && decide (bb.toNat ≤ 1))
  | .xld o g bb _ _ => keep (o == 0 && g == 0 && bb == 0)
  | .wmac _ _ _ _ _ | .wmacy _ _ _ _ _ | .wadd _ _ _ _ | .wsub _ _ _ _ | .waddy _ _ _ _ | .wsuby _ _ _ _ | .ymac _ _ _ _ _
  | .yadd _ _ _ _ | .ysub _ _ _ _ | .yclr _ _ _ | .wclr _ _ _ | .wcpy _ _ _ _ => some q
  | .wflush _ _ d _ => if d = 0 ∧ 1 ≤ q then some (q - 1) else none
  | .sld g bb n _ => if bb.toNat ≤ 1 ∧ g = 0 ∧ q + n.toNat + 1 ≤ 192 then some (q + n.toNat + 1) else none
  | _ => none

/-- The words that stay of a bundle's candidates, one a slot, with the scale words in the queue after them. -/
def literalBundle (q : Nat) (ws : List (Nat × Nat)) : Nat × AbetteBundle :=
  ws.foldl (fun x w =>
    match readSlot w.1 w.2 with
    | none => x
    | some i =>
      if w.1 = 6 || x.2.any fun j => slotOf j == slotOf i then x
      else ((literalWord x.1 i).map fun q' => (q', x.2 ++ [i])).getD x) (q, [])

/-- The bundles before a product, with the scale words in the queue after them. -/
def literalGap (q : Nat) (g : List (Nat × List (Nat × Nat))) : Nat × List AbetteBundle :=
  g.foldl (fun x b =>
    let (q', ws) := literalBundle x.1 b.2
    (q', x.2 ++ [if ws.isEmpty then idleBundle (b.1 % 64 + 1) else ws])) (q, [])

/-- The product of a step: an MMALS takes its A from two tile registers, the first of them even (R150). -/
def literalProduct (sparse : Bool) (r : Nat × Nat) : Instr :=
  if sparse then .mmals 0 (BitVec.ofNat 2 r.1) (BitVec.ofNat 4 (2 * r.2)) 0 else .mmal 0 (BitVec.ofNat 2 r.1) (BitVec.ofNat 4 r.2) 0

/-- One-bundle LOOP whose flushes pop the scale words that are left (R367). -/
def literalDrain (q : Nat) : List AbetteBundle := if q = 0 then [] else [[.loopImm (BitVec.ofNat 13 q) 2], [.wflush 0 0 0 0]]

/-- The bytes that a word of the literal form reads of the activations: from b0, first byte and bytes (R167, R168, R320). -/
def literalReads (i : Instr) : List (Nat × Nat) :=
  match i with
  | .xld _ _ bb _ off => if bb = 0 then [(off.toNat, 128)] else []
  | .vld _ _ bb _ off => if bb = 0 then [(off.toNat, 128)] else []
  | .tldl _ _ bb _ off => if bb = 0 then [(off.toNat, 4096)] else []
  | _ => []

/-- The bytes that a word of the literal form writes of the output: from b1, first byte and bytes (R152, R167, R320). -/
def literalWrites (q4 : Bool) (i : Instr) : List (Nat × Nat) :=
  match i with
  | .vst _ _ bb _ off => if bb = 1 then [(off.toNat, 128)] else []
  | .tstl _ _ bb _ off => if bb = 1 then [(off.toNat, 4096)] else []
  | .mflush _ _ bb _ mk pitch _ off _ => if bb = 1 ∧ mk = 0 then flushRows (64 * off.toNat) pitch.toNat (bit q4) else []
  | _ => []

/-- Whether each 64 bytes of a range lie in one of some ranges. -/
def takenIn (l : List (Nat × Nat)) (a n : Nat) : Bool :=
  (List.range (n / 64)).all fun i => l.any fun r => r.1 ≤ a + 64 * i && a + 64 * i + 64 ≤ r.1 + r.2

/-- Inputs that no word so far has read, loaded before the product that needs them (R320). -/
def missingInputs (l : List AbetteBundle) (from_ n : Nat) : List AbetteBundle :=
  (((List.range n).map (from_ + ·)).filter fun c => !takenIn (l.flatten.flatMap literalReads) (128 * c) 128).map fun c => [loadInput c]

/-- Output bytes that no word has written, stored before RET (R320). -/
def missingOutputs (q4 : Bool) (l : List AbetteBundle) (rows : List Nat) : List AbetteBundle :=
  rows.flatMap fun n => ((List.range 4).filter fun k => !takenIn (l.flatten.flatMap (literalWrites q4)) (512 * n + 128 * k) 128).map
    fun k => [storeRow n k]

/-- The routine of a panel in the literal form: MFMT of the weights' format pair (R71), the SLDL words of the column scales, each step's
product in order behind a read of each of its inputs, a write of each output, and RET with the scale queue empty (R320). -/
def literalRoutine (p : Nat) (rows : List Nat) (cols : Nat) (q4 : Bool) (steps : List Bool) : List AbetteBundle :=
  let gap := fun (q k : Nat) => literalGap q (Config.literalGap p rows.length q4 steps k)
  let scales := ceilDiv rows.length 32
  let (q, first) := gap 0 0
  let (q, body, _) := (List.range steps.length).foldl (fun x k =>
    let (q, g) := gap x.1 (k + 1)
    let sparse := steps.getD k false
    let n := if sparse then 128 else 64
    let l := x.2.1 ++ g
    (q, l ++ missingInputs l x.2.2 (min n (cols - x.2.2)) ++
        [[literalProduct sparse (Config.literalOperands p rows.length q4 steps k)]], x.2.2 + n))
    (q + 32 * scales, first ++ [[.sldl 0 (BitVec.ofNat 5 (scales - 1))]], 0)
  let (q, last) := gap q (steps.length + 1)
  [.mfmt 0 0 (BitVec.ofNat 8 (bit q4)) 0] :: body ++ last ++ missingOutputs q4 (body ++ last) rows ++ literalDrain q ++ [[.ret 0]]

/-! ### The object (R307, R308, R320, R322) -/

/-- Parts of a section, each from a code page of its own (R320). -/
def onPages : List (List Byte) → List Byte
  | [] => []
  | [x] => x
  | x :: r => x ++ List.replicate (65536 * ceilDiv x.length 65536 - x.length) 0 ++ onPages r

/-- The bundles and the literals of each panel in a form: the weight-slot form, or the literal form. -/
def Matrix.form (m : Matrix) (literal : Bool) : List (List AbetteBundle × List Byte) :=
  m.panels.map fun p =>
    let rows := m.panelRows p
    if literal then
      let steps := m.literalSteps rows
      (literalRoutine p rows m.cols m.q4 (steps.map (·.1)), m.scaleWords rows ++ steps.flatMap (·.2))
    else ((m.panel p).routine m.q4, m.scaleWords rows)

/-- A number rounded up to a multiple of 64. -/
def up64 (n : Nat) : Nat := ceilDiv n 64 * 64

/-- An object of sections in ascending order: type, bytes and COUNT; the digest section follows them (R307, R308). -/
def objectOf (nkern : Nat) (secs : List (Nat × List Byte × Nat)) : List Byte :=
  let n := secs.length + 1
  let head := up64 (64 + 16 * n)
  let placed := secs.foldl (fun (x : Nat × List (Nat × Nat × Nat × Nat)) s =>
    (up64 (x.1 + s.2.1.length), x.2 ++ [(s.1, x.1, s.2.1.length, s.2.2)])) (head, [])
  let table := placed.2 ++ [(11, placed.1, 32, 0)]
  let h := fieldBytes ([(4, 0x314F5A45), (2, 1), (2, n), (4, 0), (4, nkern), (8, placed.1 + 32), (8, 0), (32, 0)] ++
    table.flatMap fun t => [(2, t.1), (2, 0), (4, t.2.1), (4, t.2.2.1), (4, t.2.2.2)])
  let body := secs.foldl (fun (b : List Byte) s => b ++ s.2.1 ++ List.replicate (up64 s.2.1.length - s.2.1.length) 0)
    (h ++ List.replicate (head - h.length) 0)
  body ++ leBytes 32 (digest256 body).toNat

/-- A requirement entry of version 1. -/
def requirement (name : String) : List Byte := nameBytes name ++ fieldBytes [(4, 1), (4, 0)]

/-- The kernels of an object: whether each is the literal form, with its bundles and literals. -/
def Matrix.kernels (m : Matrix) (form : Nat) : List (Bool × List (List AbetteBundle × List Byte)) :=
  (if bitOf form 0 then [(false, m.form false)] else []) ++ if bitOf form 1 then [(true, m.form true)] else []

/-- The object that Abette writes for a request (R320 to R322): one kernel, or wslot and wlit. Requirements follow the words as R220 has
it; the offsets are all relative to b0 and b1, so that no plan entry and no relocation is needed. DESIGN CHOICE, log entry 11. -/
def abetteObject (q weights scales : List Byte) : List Byte :=
  let m := matrixOf q weights scales
  let ks := m.kernels (numAt q 25 1)
  let code := fun (x : List AbetteBundle × List Byte) => x.1.flatMap bundleBytes
  let panels := ks.flatMap (·.2)
  let before := fun (i : Nat) (f : List AbetteBundle × List Byte → List Byte) =>
    65536 * (((ks.take i).flatMap (·.2)).map fun x => ceilDiv (f x).length 65536).sum
  let names := ks.map fun k => ascii (if k.1 then "wlit" else "wslot") ++ [0]
  let reqs := ["isa.core"] ++ (if panels.any fun x => usesSlot x.1 [5, 6] then ["isa.weight"] else []) ++
    (if panels.any fun x => usesSlot x.1 [7] then ["isa.tile"] else []) ++ if m.q4 then ["fmt.q4"] else []
  let kern := fun (i : Nat) => fieldBytes [(4, i), (4, before i code), (4, before i (·.2) / 64),
    (4, 1 + Config.abetteBound q weights scales i % 65536), (2, 0), (2, 1), (4, 0), (4, 0), (4, 0), (4, 0), (28, 0)]
  let symbol := fun (i : Nat) => fieldBytes [(4, ((names.take i).map List.length).sum), (1, 0), (1, 0), (2, i), (8, 0), (8, 0)]
  let ix := List.range ks.length
  objectOf ks.length
    [(1, reqs.flatMap requirement, reqs.length), (2, ix.flatMap kern, ks.length), (3, onPages (panels.map code), 0),
     (4, onPages (panels.map (·.2)), 0), (7, ix.flatMap symbol, ks.length), (8, names.flatten, 0)]

end Sys2Proof.Machine
end

