-- ==== Sys2Proof/Machine/Loader.lean ====
section
/-!
DEFINITION. The loader and the management commands that act on code objects and translations (R311, R313, R316 to R323, R342,
R352 to R354), the attestation log and quotes (R389, R390).
-/
namespace Sys2Proof.Machine

/-! ### The command under way (R352 to R354) -/

/-- A change to the code objects. -/
def State.code (s : State) (f : Code → Code) : State := { s with dev := { s.dev with code := f s.dev.code } }

/-- `n` bytes at `at_` of MCMD as firmware read it. -/
def State.cmd (s : State) (at_ n : Nat) : Nat := fieldOf s.dev.mgmt.taken.toNat (8 * (at_ + n) - 1) (8 * at_)

/-- The bytes of MCMD that a command lists: first and last (R354). -/
def cmdFields (code : Nat) : List (Nat × Nat) :=
  match code with
  | 1 => [(8, 17)]
  | 2 => [(8, 15)]
  | 3 => [(8, 32), (36, 43)]
  | 4 => [(8, 15)]
  | 5 => [(8, 31)]
  | 6 => [(8, 8), (16, 43)]
  | 7 => [(8, 15)]
  | 8 => [(16, 63)]
  | _ => []

/-- Whether MCMD holds a command of R353 whose reserved bytes are zero (R354). -/
def State.cmdOk (s : State) : Bool :=
  let code := s.cmd 0 1
  1 ≤ code && code ≤ 8 &&
    ((List.range 64).all fun i => i = 0 || i = 4 || i = 5 || (cmdFields code).any (fun f => f.1 ≤ i && i ≤ f.2) || s.cmd i 1 == 0)

/-- A command completes: MSTAT takes its SEQ and CODE, BUSY is cleared and vector 0 is signalled (R353). -/
def State.completeCmd (s : State) (code : Nat) : State :=
  (s.mgmt fun m => { m with doneSeq := BitVec.ofNat 32 m.mseq.toNat, doneCode := BitVec.ofNat 8 code, busy := false }).signal 0

/-- The status of a command that R353 and R354 reject. -/
def badCmd : Nat := 0x0D

/-- Host memory as the control complex reads it (R348): zeros while the host link is down, and of a line whose read fails (R349). -/
def State.hostRead (s : State) (a n : Nat) : List Byte :=
  if s.reachable (hostAddr 0) then s.dev.sys.fetched (hostAddr a) n else List.replicate n 0

/-- The host memory that the command under way names to be read, as physical ranges (R353, R354). -/
def State.cmdReads (s : State) : List (Nat × Nat) :=
  let l := match s.cmd 0 1 with
    | 1 => (List.range (s.cmd 16 2)).flatMap fun i =>
        let at_ := s.cmd 8 8 + 32 * i
        let e := s.hostRead at_ 32
        [(at_, 32), (numAt e 0 8, numAt e 8 8)]
    | 3 => [(s.cmd 16 8, s.cmd 24 8)]
    | 5 => [(s.cmd 8 8, s.cmd 16 8)]
    | _ => []
  l.map fun r => (hostAddr r.1, r.2)

/-- A management command executes if it is the one under way (R353). -/
def manage (code : Nat) (seq : Word64) (act : State → State) (s : State) : Next :=
  if s.dev.mgmt.busy && s.dev.mgmt.mseq == seq && s.dev.trust.running && s.cmd 0 1 == code then
    .next (if s.cmdOk then (act s).endReads s.cmdReads else s.completeCmd badCmd)
  else .next s

/-- BADCMD (R353): a command that names none of R353's, or whose reserved bytes are not zero. -/
def execBadcmd (seq : Word64) (s : State) : Next :=
  if s.dev.mgmt.busy && s.dev.mgmt.mseq == seq && s.dev.trust.running && !s.cmdOk then .next (s.completeCmd badCmd)
  else .next s

/-- Host memory as the control complex writes it. -/
def State.hostStore (s : State) (a : Nat) (bs : List Byte) : State := s.physWrite (hostAddr a) bs

/-! ### Code pages (R313, R339) -/

/-- A level-3 entry written (R313, R340). -/
def State.mapPage (s : State) (asid va pte : Nat) : Option State :=
  match (s.space asid).map fun a => s.leafPlace a.l0 va with
  | some (.ok (at_, s)) => some (s.sys fun m => { m with mem := m.mem.setNum at_ 8 pte })
  | _ => none

/-- Fresh VA for `n` pages in an address space, from `from_` on or behind a page that is mapped: none where there is no room (R311,
R313). -/
def State.freshVa (s : State) (asid from_ n : Nat) : Option Nat := do
  let a ← s.space asid
  let used := (leavesFrom s.dev.sys.mem walkLevels 0 a.l0).map fun l => (l.1, mapBytes l.2.2.2)
  let free := fun (va : Nat) => va + 65536 * n ≤ 2 ^ 57 && used.all fun u => u.1 + u.2 ≤ va || va + 65536 * n ≤ u.1
  (from_ :: (used.map fun u => u.1 + u.2).filter (from_ ≤ ·)).find? free

/-- The PTE of a code page: V, X and P set, W clear (R313). -/
def codePte (pa : Nat) : Nat := pa + 0x105

/-- Pages written to fresh frames and mapped from `va` upward, each with its digest (R313). -/
def State.loadPages (s : State) (asid : Nat) : Nat → List (List Byte) → Option (List (Nat × Nat × BitVec 256) × State)
  | _, [] => some ([], s)
  | va, p :: r => do
    let (a, s) ← s.takeFrame 65536 0
    let s := s.sys fun m => m.fill a 65536 p
    let s ← s.mapPage asid va (codePte a)
    let (l, s) ← State.loadPages s asid (va + 65536) r
    return ((va, a, digest256 p) :: l, s)

/-! ### Loading (R311) -/

/-- An object mapped into an address space (R313, R314). -/
def State.loadObject (s : State) (asid : Nat) (b : List Byte) (maps : List (List Nat)) (portable : Option (BitVec 256)) :
    Option (Obj × State) := do
  let lits := (sectionBytes b 4).length
  let count := pageCount (sectionBytes b 3).length
  let bva ← s.freshVa asid s.dev.code.nextVa (count + pageCount lits)
  let lva := if lits = 0 then 0 else bva + 65536 * count
  let p : Placed := ⟨b, bva, lva, maps⟩
  let bundles := p.sectionOf 3
  let (bp, s) ← s.loadPages asid bva (pagesOf bundles)
  let (lp, s) ← s.loadPages asid lva (pagesOf (p.sectionOf 4))
  let o : Obj :=
    { handle := s.dev.code.nextHandle, asid := asid, digest := objDigest b, portable := portable, bva := bva,
      blen := bundles.length, lva := lva, llen := lits, kernels := p.loadedKernels (p.sectionOf 6),
      hookDefs := hookDefs b, symbols := (rawSymbols b).map fun x => (stringAt b x.name, x.kind, p.value x),
      versions := [⟨1, bp ++ lp, []⟩], sealed := false, mapped := true }
  return (o, s.code fun c => { c with objects := c.objects ++ [o], nextHandle := c.nextHandle + 1,
                                       nextVa := bva + 65536 * (bp.length + lp.length) })

/-- A loaded object of an address space by its digest. -/
def State.byDigest (s : State) (asid : Nat) (d : BitVec 256) : Option Obj :=
  s.dev.code.objects.find? fun o => o.asid == asid && o.mapped && o.digest == d

/-- What the translator's output must be for a portable object `b` (R309, R318, R319): a native object that passes checks 1 to 7, among
them its bound and its plan in the vault, with REMAP set for every kernel, and with what the object asks for: its seal, its base, its
kernels by name and their parameter blocks. -/
def nativeOk (b n : List Byte) : Bool :=
  let names := fun (o : List Byte) => (kernels o).map fun k => (((rawSymbols o)[k.name]?).map fun x => stringAt o x.name, k.pbsz)
  objectStatus n == 0 && !isPortable n && (kernels n).all (·.remap) && isSealReq n == isSealReq b && isAdapter n == isAdapter b &&
  numAt n 32 32 == numAt b 32 32 && names n == names b

/-- Checks 1 to 9 of an object (R311, R319): the status, and the native object. -/
def State.loadStatus (s : State) (asid : Nat) (b : List Byte) : Nat × List Byte :=
  let st := objectStatus b
  if st ≠ 0 then (st, b)
  else if isAdapter b && (s.byDigest asid (BitVec.ofNat 256 (numAt b 32 32))).isNone then (8, b)
  else if isPortable b then
    match Config.ezost b with
    | none => (9, b)
    | some n => if nativeOk b n then (0, n) else (9, b)
  else (0, b)

/-- An entry of the attestation log (R390). -/
def State.attest (s : State) (type asid arg : Nat) (dig : BitVec 256) : State :=
  let e := fieldBytes [(8, s.dev.trust.alog.length), (1, type), (1, 0), (2, asid), (4, 0), (8, arg), (8, 0), (32, dig.toNat)]
  s.trust fun t => { t with alog := t.alog ++ [BitVec.ofNat 512 (leNat e)], ahead := chain t.ahead e }

/-- Whether a code page lies in an object's own sections. -/
def Obj.ownsPage (o : Obj) (va : Nat) : Bool :=
  (o.bva ≤ va && va < o.bva + 65536 * pageCount o.blen) || (o.lva ≤ va && va < o.lva + 65536 * pageCount o.llen)

/-- The code pages of an object's current version, in VA order. -/
def Obj.ownPages (o : Obj) : List (Nat × Nat × BitVec 256) :=
  match o.versions with
  | v :: _ => v.pages.filter fun p => o.ownsPage p.1
  | [] => []

/-- An object replaced. -/
def State.setObj (s : State) (o : Obj) : State :=
  s.code fun c => { c with objects := c.objects.map fun x => if x.handle = o.handle then o else x }

/-- An object sealed (R318, R390): S in every PTE of its code pages, host writes to their frames refused, and the log
written. -/
def State.sealObject (s : State) (o : Obj) : State :=
  let ps := o.ownPages
  let s := ps.foldl (fun s p => (s.changePte o.asid p.1 fun e => if bitOf e 3 then e else e + 8).sys fun m =>
    { m with guarded := m.guarded.set false (p.2.1 / 65536) true }) s
  let s := (s.setObj { o with sealed := true }).attest 1 o.asid ps.length o.digest
  ps.foldl (fun s p => s.attest 2 o.asid p.1 p.2.2) s

/-- A load entry: OBJ, LEN and RES (R354). -/
def State.loadEntry (s : State) (i : Nat) : Nat × Nat × Nat :=
  let e := s.hostRead (s.cmd 8 8 + 32 * i) 32
  (numAt e 0 8, numAt e 8 8, numAt e 16 8)

/-- The objects of a command loaded one after the other; none where one finds no room, with the number that fitted. -/
def State.loadAll (asid : Nat) : List (List Byte × List (List Nat) × Option (BitVec 256)) → Nat → State → Except Nat (List Obj × State)
  | [], _, s => .ok ([], s)
  | x :: r, i, s =>
    match s.loadObject asid x.1 x.2.1 x.2.2 with
    | none => .error i
    | some (o, s) =>
      match State.loadAll asid r (i + 1) s with
      | .error j => .error j
      | .ok (os, s) => .ok (o :: os, s)

/-- A load result (R354). -/
def loadResult (o : Option Obj) (status : Nat) (digest : BitVec 256) : List Byte :=
  fieldBytes [(8, (o.map (·.handle)).getD 0), (8, (o.map (·.bva)).getD 0), (8, (o.map (·.lva)).getD 0), (32, digest.toNat),
    (1, status), (7, 0)]

/-- Load results written to host memory. -/
def State.putResults (s : State) : List (Nat × List Byte) → State
  | [] => s
  | x :: r => State.putResults (s.hostStore x.1 x.2) r

/-- LOAD's work (R311, R314, R354): every object is checked before any is mapped. -/
def State.loadObjects (s : State) : State :=
  let asid := s.cmd 4 2
  let n := s.cmd 16 2
  let es := (List.range n).map s.loadEntry
  let pad := (List.range n).all fun i => zeroAt (s.hostRead (s.cmd 8 8 + 32 * i) 32) 24 8
  if n = 0 || 64 < n || !pad then s.completeCmd badCmd
  else
    let raw := es.map fun e => s.hostRead e.1 e.2.1
    let st := raw.map (s.loadStatus asid)
    let natives := st.map (·.2)
    let none_ := fun (codes : List Nat) =>
      let rs := (es.zip (codes.zip natives)).map fun x => (x.1.2.2, loadResult none x.2.1 (objDigest x.2.2))
      (s.putResults rs).completeCmd ((codes.find? (· != 0)).getD 0)
    if st.any (·.1 != 0) then none_ (st.map (·.1))
    else
      let portable := raw.map fun b => if isPortable b then some (objDigest b) else none
      match State.loadAll asid (natives.zip ((bankMaps natives).zip portable)) 0 s with
      | .error i => none_ ((List.range n).map fun j => if j = i then 0x0A else 0)
      | .ok (os, s) =>
        let s := (os.zip natives).foldl (fun s x => if isSealReq x.2 then s.sealObject x.1 else s) s
        (s.putResults ((es.zip os).map fun x => (x.1.2.2, loadResult (some x.2) 0 x.2.digest))).completeCmd 0

/-- LOAD (R307 to R311, R313, R314, R354). -/
def execLoad (seq : Word64) (s : State) : Next := manage 1 seq State.loadObjects s

/-- A loaded object that MCMD's HANDLE names. -/
def State.target (s : State) : Option Obj := (s.dev.code.find (s.cmd 8 8)).bind fun o => if o.mapped then some o else none

/-- UNLOAD's work: the object's pages are unmapped, and unmapping a vintage is logged (R354, R390). Groups accepted earlier
run on (R316). -/
def State.unloadObject (s : State) (o : Obj) : State :=
  let s := o.ownPages.foldl (fun s p => s.changePte o.asid p.1 fun e => if bitOf e 0 then e - 1 else e) s
  let s := if o.sealed then s.attest 6 o.asid 0 o.digest else s
  (s.setObj { o with mapped := false }).freeVersions

/-- UNLOAD (R354). -/
def execUnload (seq : Word64) (s : State) : Next :=
  manage 2 seq (fun s =>
    match s.target with
    | some o => (s.unloadObject o).completeCmd 0
    | none => s.completeCmd badCmd) s

/-- SEAL (R318). -/
def execSeal (seq : Word64) (s : State) : Next :=
  manage 4 seq (fun s =>
    match s.target with
    | some o => (s.sealObject o).completeCmd 0
    | none => s.completeCmd badCmd) s

/-! ### SWAPCODE (R317) -/

/-- A symbol of the target by the name and kind it has in the replacement. -/
def Obj.symbol (o : Obj) (b : List Byte) (x : RawSymbol) : Option Nat :=
  (o.symbols.find? fun y => y.1 == stringAt b x.name && y.2.1 == x.kind).map (·.2.2)

/-- Whether the replacement's relocations refer only to symbols that the target defines (R317). -/
def Obj.defines (o : Obj) (b : List Byte) : Bool :=
  (relocs b).all fun r => r.kind == 3 || (((rawSymbols b)[r.sym]?).bind (o.symbol b)).isSome

/-- The first VA of a section of an object, and its pages. -/
def Obj.sectionPages (o : Obj) (sec : Nat) : Nat × Nat :=
  if sec = 3 then (o.bva, pageCount o.blen) else (o.lva, pageCount o.llen)

/-- The first failing check of SWAPCODE, or 0 (R317). Its status and the order of the checks: DESIGN CHOICE, log entry 127. -/
def State.swapStatus (s : State) (o : Obj) (b : List Byte) : Nat :=
  let sec := s.cmd 32 1
  let n := s.cmd 40 4
  if o.sealed then 0x0B
  else if !(sec == 3 || sec == 4) || n = 0 || (o.sectionPages sec).2 < s.cmd 36 4 + n then 0x0C
  else if !formOk b then 1
  else if BitVec.ofNat 256 (numAt b (b.length - 32) 32) ≠ objDigest b then 2
  else if !featuresExist b then 3
  else if !versionsMet b then 4
  else if !(relocs b).all (Reloc.ok b) || !o.defines b then 7
  else if pageCount (sectionBytes b sec).length ≠ n then 0x0C
  else 0

/-- The bank map of the target's kernel that a VA of a section belongs to: the last that starts at or before it (R314). -/
def Obj.mapAt (o : Obj) (sec va : Nat) : List Nat :=
  (o.kernels.foldl (fun (m : Nat × List Nat) k =>
    let start := if sec = 3 then k.entry else k.lit
    if start ≤ va && m.1 ≤ start then (start, k.bankMap) else m) (0, idMap)).2

/-- New pages for a range of a section from `va` on, with the relocations resolved against the target. -/
def Obj.newPages (o : Obj) (b : List Byte) (sec va : Nat) : List (List Byte) :=
  let value := fun (r : Reloc) => ((((rawSymbols b)[r.sym]?).bind (o.symbol b))).getD 0
  pagesOf (relocated b value (fun r => o.mapAt sec (va + r.at_)) sec)

/-- A version that follows the current one of an object, made current with one write (R316, R317). -/
def State.newVersion (s : State) (o : Obj) (f : Version → Version) : State :=
  match o.versions with
  | v :: r => (s.setObj { o with versions := { f v with num := v.num + 1 } :: v :: r }).freeVersions
  | [] => s

/-- Pages of a map replaced by those of another. -/
def mergePages (old new : List (Nat × Nat × BitVec 256)) : List (Nat × Nat × BitVec 256) :=
  old.map fun p => (new.find? (·.1 == p.1)).getD p

/-- SWAPCODE's work. -/
def State.swapCode (s : State) (o : Obj) : State :=
  let b := s.hostRead (s.cmd 16 8) (s.cmd 24 8)
  let st := s.swapStatus o b
  if st ≠ 0 then s.completeCmd st
  else
    let sec := s.cmd 32 1
    let va := (o.sectionPages sec).1 + 65536 * s.cmd 36 4
    match s.loadPages o.asid va (o.newPages b sec va) with
    | none => s.completeCmd 0x0A
    | some (ps, s) => (s.newVersion o fun v => { v with pages := mergePages v.pages ps }).completeCmd 0

/-- SWAPCODE (R316, R317). -/
def execSwapcode (seq : Word64) (s : State) : Next :=
  manage 3 seq (fun s =>
    match s.target with
    | some o => s.swapCode o
    | none => s.completeCmd badCmd) s

/-! ### Adapters (R323) -/

/-- The segments of an adapter's hook entry: slot, bundle offset and literal word. -/
def hookSegments (e : List Byte) : List (Nat × Nat × Nat) :=
  ((List.range 7).map fun i => (i + 1, numAt e (8 * i) 4, numAt e (8 * i + 4) 4)).filter (·.2.1 != 0xFFFFFFFF)

/-- Whether an adapter's entries name hooks that the base defines and segments within its sections. -/
def hooksFit (base : Obj) (b : List Byte) : Bool :=
  (entries b 10).all fun e =>
    base.hookDefs.contains (numAt e 56 2, numAt e 58 2) &&
    (hookSegments e).all fun g => g.2.1 % 4 == 0 && g.2.1 < (sectionBytes b 3).length && 64 * g.2.2 ≤ (sectionBytes b 4).length

/-- The live hook table with an adapter's segments written into it. -/
def installHooks (a : Obj) (b : List Byte) (old : List (Nat × Nat × Nat × Nat × Nat)) : List (Nat × Nat × Nat × Nat × Nat) :=
  let new := (entries b 10).flatMap fun e => (hookSegments e).map fun g =>
    (numAt e 56 2, numAt e 58 2, g.1, a.bva + g.2.1, a.lva + 64 * g.2.2)
  (old.filter fun h => !(new.any fun n => n.1 == h.1 && n.2.1 == h.2.1 && n.2.2.1 == h.2.2.1)) ++ new

/-- The log entries of an install (R390). -/
def State.attestAdapter (s : State) (base a : Obj) (b : List Byte) : State :=
  let es := entries b 10
  let s := (s.attest 3 a.asid es.length a.digest).attest 4 a.asid 0 base.digest
  es.foldl (fun s e => s.attest 5 a.asid
    (numAt e 56 2 + numAt e 58 2 * 2 ^ 16 + ((hookSegments e).map fun g => 2 ^ (g.1 - 1)).sum * 2 ^ 32) 0) s

/-- The adapter install's work: the segments take effect at a swap point of the base (R317, R323). The status of an object that is no
adapter, or does not fit its base: DESIGN CHOICE, log entry 128. -/
def State.installAdapter (s : State) : State :=
  let asid := s.cmd 4 2
  let raw := s.hostRead (s.cmd 8 8) (s.cmd 16 8)
  let (st, b) := s.loadStatus asid raw
  if st ≠ 0 then s.completeCmd st
  else if !isAdapter b then s.completeCmd 1
  else
    match s.byDigest asid (BitVec.ofNat 256 (numAt b 32 32)) with
    | none => s.completeCmd 8
    | some base =>
      if !hooksFit base b then s.completeCmd 7
      else
        match s.loadObject asid b ((bankMaps [b]).headD []) (if isPortable raw then some (objDigest raw) else none) with
        | none => s.completeCmd 0x0A
        | some (a, s) =>
          let s := if isSealReq b then s.sealObject a else s
          let pages := (a.versions.map (·.pages)).flatten
          let s := s.newVersion base fun v => { v with pages := v.pages ++ pages, hooks := installHooks a b v.hooks }
          ((s.attestAdapter base a b).hostStore (s.cmd 24 8) (leBytes 8 a.handle)).completeCmd 0

/-- ADAPTER_INSTALL (R323). -/
def execAdapterInstall (seq : Word64) (s : State) : Next := manage 5 seq State.installAdapter s

/-! ### Invalidation (R189, R342) -/

/-- The operands of an invalidation (R354); a tensor range covers nothing that a core holds. It completes once every write that a
port has accepted has performed at its home (R342; log entry 93). -/
def State.invalidate (s : State) : State :=
  let kind := s.cmd 8 1
  let every := bitOf kind 2
  let ok := kind < 8 && (every || (if bitOf kind 0 then s.cmd 32 4 < 2 ^ 24 && s.cmd 40 4 != 0
    else s.cmd 16 8 % 65536 == 0 && s.cmd 24 8 != 0 && s.cmd 24 8 % 65536 == 0))
  if !ok then s.completeCmd badCmd
  else if !s.dev.sys.wbuf.isEmpty then s
  else if bitOf kind 0 && !every then s.completeCmd 0
  else (s.shoot ⟨every, bitOf kind 1, s.cmd 4 2, s.cmd 16 8, s.cmd 24 8⟩).completeCmd 0

/-- TRANSLATION_INVALIDATION (R342, R354). -/
def execTranslationInvalidation (seq : Word64) (s : State) : Next := manage 6 seq State.invalidate s

/-! ### Abette (R320 to R322) -/

/-- Global memory of an address space as firmware reads it. -/
def State.spaceRead (s : State) (asid va n : Nat) : Option (List Byte × State) :=
  match s.range asid false va n with
  | .ok (l, s) => some (l.flatMap fun p => s.dev.sys.fetched p.1 p.2, s.endReads l)
  | .error _ => none

/-- Global memory of an address space as firmware writes it. -/
def State.spaceWrite (s : State) (asid va : Nat) (bs : List Byte) : Option State :=
  match s.range asid true va bs.length with
  | .ok (l, s) => some ((l.foldl (fun (x : State × List Byte) p =>
      (x.1.sys fun m => m.settle { die := 0, addr := p.1, data := x.2.take p.2, tiles := s.marksAt p.1 p.2 }, x.2.drop p.2)) (s, bs)).1)
  | .error _ => none

/-- The legal values of an Abette request. -/
def abetteOk (q : List Byte) : Bool :=
  let rows := numAt q 16 4
  let cols := numAt q 20 4
  let row0 := numAt q 40 4
  let nrow := numAt q 44 4
  1 ≤ rows && rows ≤ 65536 && 1 ≤ cols && cols ≤ 65536 && numAt q 24 1 < 2 && 1 ≤ numAt q 25 1 && numAt q 25 1 ≤ 3 &&
  zeroAt q 26 2 && zeroAt q 48 8 && row0 + nrow ≤ rows && ((row0 % 64 == 0 && nrow % 64 == 0) || row0 + nrow == rows)

/-- A request compiled: its status, the bytes of the object, and the state with the object written. -/
def State.compile (s : State) (asid : Nat) (q : List Byte) : Option (Nat × Nat × State) := do
  if !abetteOk q then return (1, 0, s)
  let (w, s) ← s.spaceRead asid (numAt q 0 8) (numAt q 16 4 * abettePitch (numAt q 20 4) (numAt q 24 1))
  let (r, s) ← s.spaceRead asid (numAt q 8 8) (2 * numAt q 16 4)
  let b := abetteObject (q.take 56) w r
  if numAt q 28 4 < b.length then return (2, b.length, s)
  let s ← s.spaceWrite asid (numAt q 32 8) b
  return (0, b.length, s)

/-- The Abette compile's work: STATUS holds the object's bytes (R320). -/
def State.abette (s : State) : State :=
  let asid := s.cmd 4 2
  let done := do
    let (q, s) ← s.spaceRead asid (s.cmd 8 8) 64
    let (st, n, s) ← s.compile asid q
    s.spaceWrite asid (s.cmd 8 8 + 56) (leBytes 8 (st + n * 2 ^ 32))
  match done with
  | some s => s.completeCmd 0
  | none => s.completeCmd badCmd

/-- ABETTE_COMPILE (R320 to R322, R354). -/
def execAbetteCompile (seq : Word64) (s : State) : Next := manage 7 seq State.abette s

/-! ### Quotes (R389) -/

/-- DEVID (R352). -/
def devId : Nat := 0x0C29 + Config.stepping.toNat * 2 ^ 16

/-- The signed part of a quote (R389). -/
def State.quoteBody (s : State) : List Byte :=
  let t := s.dev.trust
  fieldBytes ([(4, 0x4F515A43), (4, 1), (8, devId), (32, s.cmd 16 32)] ++ ((List.range 8).map fun i => (32, (t.mr.get 0 i).toNat)) ++
    [(32, t.ahead.toNat), (8, t.alog.length), (32, t.phead.toNat), (8, t.pcnt)])

/-- A signature of 114 bytes. -/
def signature (context : String) (body : List Byte) : List Byte :=
  let g := Config.ed448Sign (ascii context) body
  g.take 114 ++ List.replicate (114 - g.length) 0

/-- The quote, and log entries asked for: those past the log's end are zero (R354, R389). A copy of the certificate is returned with it
(R388; log entry 72). -/
def State.quote (s : State) : State :=
  let body := s.quoteBody
  let q := body ++ signature "CZ9-QUOTE" body ++ List.replicate 14 0
  let log := (List.range (s.cmd 60 4)).flatMap fun i => leBytes 64 (s.dev.trust.alog.getD (s.cmd 56 4 + i) 0).toNat
  ((s.hostStore (s.cmd 48 8) (q ++ log)).mgmt fun m => { m with certs := m.certs ++ [Config.certificate] }).completeCmd 0

/-- ATTESTATION_QUOTE (R388, R389). -/
def execAttestationQuote (seq : Word64) (s : State) : Next := manage 8 seq State.quote s

end Sys2Proof.Machine
end

