-- ==== Sys2Proof/Machine/Manage.lean ====
section
/-!
DEFINITION. Host reads of and writes to the management window (R10, R296, R312, R352 to R356).
-/
namespace Sys2Proof.Machine

/-- CTL of event queue `n` written (R356): a write that sets EN from 0 to 1 also sets WIDX to RIDX, and leaves EN clear
where BASE or LOG2N is illegal. The blocks above EVQ8 ignore writes. -/
def State.writeCtl (s : State) (n : Nat) (v : Byte) : State :=
  let e := s.evq n
  if 9 ≤ n then s
  else if !v.getLsbD 0 then s.setEvq n { e with en := false }
  else if e.en || !(e.base.toNat % 64 == 0 && 4 ≤ e.log2n.toNat && e.log2n.toNat ≤ 20) then s
  else s.setEvq n { e with en := true, widx := e.ridx }

/-- EVQ_CTL_WRITE (R356). -/
def execEvqCtlWrite (n : Nat) (v : Byte) (s : State) : Next := .next (s.writeCtl n v)

/-- Eight bytes of the register block of event queue `n` written: WIDX and RSZ keep their values (R356). -/
def State.writeEvq (s : State) (n part : Nat) (v : Word64) : State :=
  let e := s.evq n
  if 9 ≤ n then s
  else if part = 0 then s.setEvq n { e with base := v }
  else if part = 1 then (s.setEvq n { e with log2n := v.setWidth 8 }).writeCtl n (BitVec.ofNat 8 (fieldOf v.toNat 23 16))
  else if part = 2 then s.setEvq n { e with ridx := v.setWidth 32, drop := BitVec.ofNat 32 (fieldOf v.toNat 63 32) }
  else s

/-- Eight bytes of MCMD written (R352). -/
def State.writeMcmd (s : State) (part : Nat) (v : Word64) : State :=
  s.mgmt fun m => { m with mcmd := overlay m.mcmd (ones 64 * 2 ^ (64 * part)) (v.toNat * 2 ^ (64 * part)) }

/-! ### The URL that the host gives the ROM (R385) -/

/-- A boot step fails: the ROM waits to start again. -/
def Trust.failBoot (t : Trust) : Trust := { t with bootFailed := true }

/-- The ROM in step 2 goes on to the fetch once it knows the URL: the host's, or DHCPv6's when the host's time is over. -/
def Trust.learnUrl (t : Trust) : Trust :=
  if t.bootStep ≠ 2 || t.bootFailed then t
  else if t.bootUrl.isSome then { t with bootStep := 3 }
  else if t.urlWindow then t
  else if t.dhcpUrl.isSome then { t with bootStep := 3 }
  else t.failBoot

/-- Whether a URL is one that the host may give: http, and short enough to end in a zero within MCMD. -/
def urlOk (url : List Byte) : Bool := url.length ≤ 63 && (ascii "http://").isPrefixOf url && url.all (· != 0)

/-- The bytes of MCMD before its first zero. -/
def Mgmt.url (m : Mgmt) : List Byte := (leBytes 64 m.mcmd.toNat).takeWhile (· != 0)

/-- The ROM takes the URL in MCMD while the host's time lasts. -/
def Trust.takeUrl (t : Trust) (url : List Byte) : Trust :=
  if t.running || !t.urlWindow || !urlOk url then t else Trust.learnUrl { t with bootUrl := some url }

/-- MSEQ written (R353): ignored while BUSY; a new value has firmware read MCMD and set BUSY. Before firmware runs, any value gives the
ROM the URL in MCMD (R385). -/
def State.writeMseq (s : State) (v : Word64) : State :=
  if s.dev.trust.running then
    s.mgmt fun m =>
      if m.busy then m
      else if v ≠ m.mseq then { m with mseq := v, taken := m.mcmd, busy := true }
      else m
  else
    let url := s.dev.mgmt.url
    (s.mgmt fun m => { m with mseq := v }).trust fun t => t.takeUrl url

/-- The bits of QCTL that hold a value: PEN, PVIC, EN and PRI (R296). -/
def qctlMask : Word64 := 0xE7

/-- REGISTER_WRITE (R10, R352): eight aligned bytes of the management window. Read-only and reserved registers ignore
writes, and reserved bits keep zero. -/
def execRegisterWrite (off : Nat) (v : Word64) (s : State) : Next :=
  .next (
    if off % 8 ≠ 0 then s
    else if 0x200 ≤ off && off < 0x240 then s.writeMcmd ((off - 0x200) / 8) v
    else if off = 0x240 then s.writeMseq v
    else if 0x400 ≤ off && off < 0x600 then s.writeEvq ((off - 0x400) / 32) ((off - 0x400) % 32 / 8) v
    else if 0x1000 ≤ off && off < 0x1800 then
      s.sched fun d => { d with qctl := d.qctl.set qctlReset ((off - 0x1000) / 8) (v &&& qctlMask) }
    else s)

/-! ### Reads of the window (R10, R312, R352, R356) -/

/-- STATE: firmware running, a cellar, and the four dies present. -/
def State.stateWord (s : State) : Nat := bit s.dev.trust.running + 2 * bit s.dev.trust.cellar + 0xF0

/-- FEAT: the features of R312 in the requirement layout of R308, then one zero entry. -/
def featImage : List Byte :=
  (features.flatMap fun f => nameBytes f.1 ++ fieldBytes [(4, f.2), (4, 0)]) ++
    List.replicate 32 0

/-- MSTAT. -/
def Mgmt.statusWord (m : Mgmt) : Nat := bit m.busy + m.doneCode.toNat * 2 ^ 8 + m.doneSeq.toNat * 2 ^ 16

/-- The register block of event queue `n`. -/
def State.evqImage (s : State) (n : Nat) : List Byte :=
  let e := s.evq n
  if 9 ≤ n then List.replicate 32 0
  else fieldBytes [(8, e.base.toNat), (1, e.log2n.toNat), (1, recordSize n / 16), (1, bit e.en), (1, 0), (4, e.widx.toNat),
    (4, e.ridx.toNat), (4, e.drop.toNat), (8, 0)]

/-- The byte that a read of the management window finds at an offset. Reserved bytes read zero. -/
def State.windowByte (s : State) (off : Nat) : Byte :=
  let m := s.dev.mgmt
  let at_ := fun (base : Nat) (bs : List Byte) => bs.getD (off - base) 0
  if off < 0x10 then at_ 0 (leBytes 8 devId ++ leBytes 8 s.stateWord)
  else if 0x40 ≤ off && off < 0x140 then at_ 0x40 featImage
  else if 0x200 ≤ off && off < 0x250 then
    at_ 0x200 (leBytes 64 m.mcmd.toNat ++ leBytes 8 m.mseq.toNat ++ leBytes 8 m.statusWord)
  else if 0x400 ≤ off && off < 0x600 then at_ (0x400 + (off - 0x400) / 32 * 32) (s.evqImage ((off - 0x400) / 32))
  else if 0x1000 ≤ off && off < 0x1800 then
    at_ (off / 8 * 8) (leBytes 8 (s.dev.sched.qctl.get qctlReset ((off - 0x1000) / 8)).toNat)
  else 0

/-- The host reads bytes of the management window. -/
def State.windowRead (s : State) (off len : Nat) : State :=
  s.mgmt fun m => { m with reads := m.reads ++ [(List.range len).map fun i => s.windowByte (off + i)] }

/-- MSI_X_HOLDOFF_EXPIRY (R355): the limit on a source's vector has passed, and a signal held back is sent. -/
def execMsiXHoldoffExpiry (source : Nat) (s : State) : Next :=
  let m := s.dev.mgmt
  if !m.holdoff.get false source then .next s
  else
    let s := s.mgmt fun m => { m with holdoff := m.holdoff.set false source false, owed := m.owed.set false source false }
    .next (if m.owed.get false source then s.signalSource source else s)

end Sys2Proof.Machine
end

