-- ==== Sys2Proof/Machine/HostLink.lean ====
section
/-!
DEFINITION. The host link and the far-tier links (R346 to R350, R357): BAR2, snoops, the archive line of the provenance log,
failed reads, links that go down and come up, and far regions withdrawn.
-/
namespace Sys2Proof.Machine

/-! ### BAR2 (R347, R392) -/

/-- The record of a host write dropped at a guarded frame (R347, R344): TPERM at the physical address. -/
def guardRecord (a : Nat) : List Byte :=
  fieldBytes [(2, 0), (2, { cause := .tperm, slot := 10 : TrapInfo }.causeWord), (44, 0), (8, a), (72, 0)]

/-- Whether a byte lies in the region of the provenance log (R392). -/
def State.inProvenance (s : State) (a : Nat) : Bool :=
  let t := s.dev.trust
  t.running && t.provBase ≤ a && a < t.provBase + 64 + 64 * provEntries

/-- The archived count as the log's first line gives it (R392). -/
def State.readArchived (s : State) : State :=
  s.trust fun t => { t with archived := s.dev.sys.mem.num t.provBase 8 + 1 }

/-- A host write as the host port has it (R268). -/
def State.hostEntry (s : State) (a : Nat) (bs : List Byte) : WEntry := { die := 4, addr := a, data := bs, tiles := s.marksAt a bs.length }

/-- A host write performed at its home behind those that the link delivered before it (R268, R347). -/
def State.hostPerform (s : State) (a : Nat) (bs : List Byte) : State :=
  s.sys fun m => (m.settleHost.inOrder (s.hostEntry a bs)).settle (s.hostEntry a bs)

/-- A peer's WRITE performed at its home, which its acknowledgement waits for (R360): no posted write of the host holds it back. -/
def State.peerPerform (s : State) (a : Nat) (bs : List Byte) : State :=
  s.sys fun m => (m.inOrder (s.hostEntry a bs)).settle (s.hostEntry a bs)

/-- A host write accepted by the host port: it performs at once, or, while the port's writes take time, later (R268, R394; log
entry 89). -/
def State.hostAccept (s : State) (a : Nat) (bs : List Byte) : State :=
  if s.dev.sys.lag.get false 4 then
    s.sys fun m =>
      let m := m.inOrder (s.hostEntry a bs)
      { m with hostq := m.hostq ++ [s.hostEntry a bs] }
  else s.hostPerform a bs

/-- A waiting host write performs: no earlier one toward another home waits, nor one to its bytes (R268). A home is the controller of a
stack (R256). -/
def State.drainHost (s : State) (ix : Nat) : State :=
  let q := s.dev.sys.hostq
  match q[ix]? with
  | none => s
  | some w =>
    if (q.take ix).all fun x => memUnit x.addr == memUnit w.addr && !w.touches x.addr x.data.length then
      s.sys fun m => { m with hostq := q.eraseIdx ix }.settle w
    else s

/-- The part of a host write that lies in one frame (R347, R392): dropped beyond HBM, dropped and logged at a guarded
frame; of the provenance region only the first line takes writes. `accept` is what the writing agent's port does with the bytes. -/
def State.hostWritePart (accept : State → Nat → List Byte → State) (s : State) (a : Nat) (bs : List Byte) : State :=
  if bs.isEmpty || hbmEnd ≤ a then s
  else if s.dev.sys.guarded.get false (a / 65536) then s.record 0 4 (guardRecord a)
  else if s.inProvenance a || s.inProvenance (a + bs.length - 1) then
    let b := s.dev.trust.provBase
    if b ≤ a && a + bs.length ≤ b + 64 then
      let s := s.hostPerform a bs
      if a < b + 8 then s.readArchived else s
    else s
  else accept s a bs

/-- A host write, frame by frame; `fuel` is at least the number of frames. -/
def State.hostWrite (accept : State → Nat → List Byte → State) : Nat → Nat → List Byte → State → State
  | 0, _, _, s => s
  | fuel + 1, a, bs, s =>
    let n := 65536 - a % 65536
    if bs.isEmpty then s else State.hostWrite accept fuel (a + n) (bs.drop n) (s.hostWritePart accept a (bs.take n))

/-- HOST_BAR2_WRITE (R347). -/
def execHostBar2Write (addr : Nat) (data : List Byte) (s : State) : Next :=
  .next (State.hostWrite State.hostAccept (data.length / 65536 + 2) addr data s)

/-- HOST_BAR2_READ (R347): served by the home, behind the host's writes; beyond HBM all ones. -/
def execHostBar2Read (addr len : Nat) (s : State) : Next :=
  let s := s.sys (·.settleHost)
  let bs := (List.range len).map fun i => if addr + i < hbmEnd then s.dev.sys.mem.read (addr + i) else 0xFF
  .next (s.mgmt fun m => { m with reads := m.reads ++ [bs] })

/-- HOST_ARCHIVE_WRITE (R392): a host write to the first line of the log that gives the last SEQ archived. -/
def execHostArchiveWrite (seq : Word64) (s : State) : Next :=
  .next (if s.dev.trust.running then s.hostWritePart State.hostAccept s.dev.trust.provBase (leBytes 8 seq.toNat) else s)

/-! ### Host lines (R348) -/

/-- HOST_SNOOP (R348): the line leaves the host-line cache of an I/O die. Where the host writes it, the bytes change and no
cache keeps the old ones. -/
def execHostSnoop (iod line : Nat) (data : List Byte) (s : State) : Next :=
  let a := 64 * line
  .next (
    if !isHost a then s
    else if data.isEmpty then s.sys fun m => { m with hostLines := m.hostLines.set false (lineKey iod a) false }
    else s.sys fun m => m.reachHome a (data.take 64))

/-! ### Reads that fail (R349) -/

/-- The virtual ranges that a word reads in global memory: first VA and bytes. -/
def GEntry.readRanges (e : GEntry) : List (Nat × Nat) :=
  match e.op with
  | .tldx va _ n _ => [(va, n)]
  | .cmd .cpy _ b => if (cpyBlock b).sk then [] else [((cpyBlock b).src, (cpyBlock b).len)]
  | .cmd .pmatch _ b => [(blkField b 0 8, 4 * blkField b 8 4)]
  | .cmd .pins _ b => [(blkField b 0 8, 4 * blkField b 8 4)]
  | .cmd .kapp _ b => [(blkField b 0 8, 8)]
  | _ => []

/-- The tile that a DECANT reads next from the place that its entry names, if it is not in HBM (R201). -/
def State.decantReads (s : State) (e : GEntry) : Option TileEntry :=
  match e.op with
  | .cmd .decant _ b =>
    let (td, list, n, _) := decantFields b
    if n ≤ e.progress.length then none
    else
      match s.reach (s.decantRef e td list (e.nextTile n)) with
      | .ok x => if bitOf x.bits 1 && !x.here && !s.dev.sys.moving x.at_ then some x else none
      | .error _ => none
  | _ => none

/-- Whether a word reads memory that a condition on physical addresses picks out. -/
def State.readsWhere (s : State) (e : GEntry) (p : Nat → Bool) : Bool :=
  (e.readRanges.any fun r =>
    match s.range e.asid false r.1 r.2 with
    | .ok (l, _) => l.any fun x => p x.1
    | .error _ => false) || (s.decantReads e).any fun x => p x.addr

/-- The elements of the head job of the gather engine, as ranges. -/
def Core.gatherRanges (c : Core) : List (Nat × Nat) :=
  match c.qs.gathers, c.qs.addr with
  | j :: _, idx :: _ => (lanesOf 32 16 idx.toNat).map fun i => ((j.base + i * j.size) % 2 ^ 57, j.size)
  | _, _ => []

/-- The event of a failed read logged (R349): a fault copy with the cause that the task receives and the VA of the read. DESIGN
CHOICE, log entry 97. -/
def State.logFailed (s : State) (va : Nat) : State := s.hostCopy { cause := .dpoison, slot := 10, va := va }

/-- The head job's read fails if it reads such memory. -/
def State.failGather (s : State) (p : Nat → Bool) : State :=
  let hit := s.core.gatherRanges.find? fun r =>
    match s.range s.core.ctl.asid.toNat false r.1 r.2 with
    | .ok (l, _) => l.any fun x => p x.1
    | .error _ => false
  match hit with
  | some r => (s.mod fun c => { c with qs := { c.qs with gathers := match c.qs.gathers with
      | j :: r => { j with failed := true } :: r
      | [] => [] } }).logFailed r.1
  | none => s

/-- The line that the WAITM of the stalled bundle watches. -/
def Core.waitmLine (c : Core) : Option Nat :=
  c.ctx.words.findSome? fun w =>
    match w with
    | .waitm _ _ _ a _ => (c.readG a.toNat).toOption.map fun x => x.toNat % 2 ^ 57
    | _ => none

/-- WAITM's read under way fails if it reads such memory (R196, R349). -/
def State.failWait (s : State) (p : Nat → Bool) : State :=
  match s.core.waiting, s.core.waitmLine with
  | some w, some va =>
    match s.translate s.core.ctl.asid.toNat va false with
    | .ok (x, _) =>
      if s.core.stall.isSome && !w.failed && p x.addr then
        (s.mod fun c => { c with waiting := some { w with failed := true } }).logFailed va
      else s
    | .error _ => s
  | _, _ => s

/-- Memory behind the host link or a far-tier port. -/
def behindLink (a : Nat) : Bool := (linkOf a).isSome

/-- The read of a word under way completes with an error or not at all (R349): its data is delivered zeroed and poisoned.
Past the end of the port first the gather engine's read is meant, and then WAITM's. -/
def State.failRead (s : State) (ix : Nat) (p : Nat → Bool) : State :=
  match s.core.port[ix]? with
  | some e =>
    if e.finished.isNone && !e.failed && s.readsWhere e p then
      (s.updateEntry { e with failed := true }).logFailed ((e.readRanges.head?.map (·.1)).getD 0)
    else s
  | none => if ix = s.core.port.length then s.failGather p else s.failWait p

/-- A read by firmware (the control complex, fault service or the tier manager) of a line behind a link completes with an error or not
at all: the next that firmware makes of the line (R349; log entry 131). -/
def State.failFirmware (s : State) (line : Nat) : State :=
  if behindLink (64 * line) then s.sys fun m => { m with failing := some line } else s

/-- A read behind a link fails: a core's, of the word at place `ix` of its port, or with no such core firmware's, of line `ix`. -/
def failedRead (core ix : Nat) (s : State) : Next :=
  if core < 512 then onCore core (·.failRead ix behindLink) s else .next (s.failFirmware ix)

/-- HOST_READ_ERROR (R349, R357). -/
def execHostReadError (core ix : Nat) (s : State) : Next := failedRead core ix s

/-- HOST_READ_TIMEOUT (R349, R357): not answered within 50 ms. -/
def execHostReadTimeout (core ix : Nat) (s : State) : Next := failedRead core ix s

/-! ### Links (R349, R384) -/

/-- Every read outstanding at a core behind a link fails. -/
def State.failReadsAt (p : Nat → Bool) (s : State) (n : Nat) : State :=
  s.on n fun s => (List.range (s.core.port.length + 2)).foldl (fun s ix => s.failRead ix p) s

/-- The ROM in step 1 brings up the lowest-numbered port of I/O die 0 that has a link, if it has none yet (R385). -/
def State.bringUp (s : State) : State :=
  let t := s.dev.trust
  if !t.running && !t.bootFailed && t.bootStep == 1 && t.bootPort.isNone then
    s.trust fun t => { t with bootPort := (List.range 12).find? fun n => !s.dev.fabric.down.get false (2 ^ 16 + n) }
  else s

/-- Whether the port that the ROM has brought up has its link. -/
def State.portUp (s : State) : Bool := s.dev.trust.bootPort.any fun n => !s.dev.fabric.down.get false (2 ^ 16 + n)

/-- The loss of the port that the ROM has brought up fails its step (R385). -/
def State.losePort (s : State) : State := s.trust fun t => if !t.running && t.bootPort.isSome && !s.portUp then t.failBoot else t

/-- LINK_DOWN (R349, R384): outstanding reads behind the link are delivered zeroed and poisoned. -/
def execLinkDown (kind unit : Nat) (s : State) : Next :=
  let key := kind * 2 ^ 16 + unit
  if 4 ≤ kind || 2 ^ 16 ≤ unit || s.dev.fabric.down.get false key then .next s
  else
    let s := (s.cores.map (·.1)).foldl (State.failReadsAt fun a => linkOf a == some key) s
    let s := (s.bringUp.fabric fun f => { f with down := f.down.set false key true }).losePort
    .next (s.linkRecord 3 kind unit 0 (s.linkCount kind unit))

/-- LINK_UP (R384). -/
def execLinkUp (kind unit : Nat) (s : State) : Next :=
  let key := kind * 2 ^ 16 + unit
  if s.dev.fabric.down.get false key then
    let s := (s.bringUp.fabric fun f => { f with down := f.down.set false key false }).bringUp
    .next (s.linkRecord 6 kind unit 0 (s.linkCount kind unit))
  else .next s

/-! ### Memory withdrawn (R357, R362, R382) -/

/-- P cleared in every page-table leaf that maps a range of physical addresses, whose bytes are lost, and every translation
through such a leaf invalidated. -/
def State.withdrawPages (s : State) (a n : Nat) : State :=
  s.dev.sys.asids.foldl (fun s (x : Nat × Option Asid) =>
    match x.2 with
    | none => s
    | some sp =>
      (leavesFrom s.dev.sys.mem walkLevels 0 sp.l0).foldl (fun (s : State) l =>
        let (va, at_, e, k) := l
        if bitOf e 8 && frameAddr e < a + n && a < frameAddr e + mapBytes k then
          (s.sys fun m => { m with mem := m.mem.setNum at_ 8 (e - 2 ^ 8), lost := m.lost.set false at_ true }).shoot
            ⟨false, false, x.1, va, mapBytes k⟩
        else s) s) s

/-- P cleared in every entry that maps a range of physical addresses (R357, R362). -/
def State.withdraw (s : State) (a n : Nat) : State :=
  let s := (s.entriesAt a n).foldl (fun (s : State) e =>
    let b := s.dev.sys.homeNum e.at_ 8
    if bitOf b 1 then
      (s.setEntry e (b - 2)).sys fun m => { m with lost := m.lost.set false e.at_ true }
    else s) s
  s.withdrawPages a n

/-- FAR_REGION_WITHDRAWN (R357): a region of far memory, aligned or not, but within a far-tier port's range. -/
def execFarRegionWithdrawn (base size : Nat) (s : State) : Next :=
  .next (if 0x4000000000000 ≤ base && base + size ≤ 0x6000000000000 then s.withdraw base size else s)

end Sys2Proof.Machine
end

