-- ==== Sys2Proof/Machine/Fabric.lean ====
section
/-!
DEFINITION. Write buffers drain (R256, R394), and the Yelvin transport: packets, acknowledgements, retransmission, connections
that open and fail, and per-hop retry (R358 to R363, R384).
-/
namespace Sys2Proof.Machine

/-! ### Write buffers (R256, R360, R394) -/

/-- Whether an L-slot word or a FENCE is a release, which waits in its bundle (R164, R195, R260). -/
def holdsRelease : Instr → Bool
  | .fence _ => true
  | .ld o _ _ _ _ _ _ => isRelease o
  | .st o _ _ _ _ _ => isRelease o
  | .vld o _ _ _ _ => isRelease o
  | .vst o _ _ _ _ => isRelease o
  | .tldl o _ _ _ _ => isRelease o
  | .tstl o _ _ _ _ => isRelease o
  | .xld o _ _ _ _ => isRelease o
  | .xsc o _ _ _ => isRelease o
  | .amol o _ _ _ _ _ _ _ => isRelease o
  | .tdl o _ _ _ _ => isRelease o
  | .vlds o _ _ _ _ _ _ => isRelease o
  | _ => false

/-- The fault with which a task ends whose release depends on a dropped write (R362, log entry 42). -/
def droppedFault (a : Nat) : TrapInfo := { cause := .tperm, slot := 10, va := a }

/-- Releases at package or system scope of the current core never complete once a write they wait for is dropped: what waits in a queue
or the port goes, and fault service ends the task. A command whose work is done completes FAULT (R362). -/
def State.dropReleases (a : Nat) (s : State) : State :=
  let c := s.core
  let stuck := c.stall.isSome && wideScope c.ctx.scope && c.ctx.words.any holdsRelease
  let late := fun (e : CEntry) => e.release && wideScope e.scope
  let s := (c.port.filter fun e => wideScope e.scope && e.finished.isSome).foldl (fun (s : State) e =>
    s.finishCommand e (Done.plain 4 e.anyRes)) s
  let c := s.core
  let dead := fun (e : GEntry) => wideScope e.scope && e.release
  let tasks := ((c.port.filter dead).map (·.task) ++
    (if stuck || c.qs.loads.any late || c.qs.stores.any late then [c.ctl.task] else [])).eraseDups
  let s := s.mod fun c => { c with
    port := c.port.filter fun e => !dead e
    qs := { c.qs with loads := c.qs.loads.filter fun e => !late e, stores := c.qs.stores.filter fun e => !late e } }
  (tasks.foldl (fun s t => s.raise t (droppedFault a)) s).releaseEnded s.cur

/-- Whether a write can travel as a WRITE packet: whole aligned units of 64 bytes (R361). -/
def WEntry.sendable (w : WEntry) : Bool := w.addr % 64 == 0 && w.data.length % 64 == 0

/-- The lines that a write to a peer lies in, as a range. -/
def WEntry.lines (w : WEntry) : Nat × Nat := peerRange w.addr w.data.length

/-- The buffered write at a place among those of a die. -/
def MemSys.buffered (m : MemSys) (d ix : Nat) : Option WEntry := (m.wbuf.filter fun w => w.die == d)[ix]?

/-- The first entry equal to `w` replaced by what stands in its place. -/
def replaceFirst (w : WEntry) (new : List WEntry) : List WEntry → List WEntry
  | [] => []
  | x :: r => if x = w then new ++ r else x :: replaceFirst w new r

/-- Whether an earlier write of the die to a byte of a range has yet to leave the buffer (R256): over a connection the order of SEQ
keeps the order of whole lines, but lines that are read first must have been acknowledged. -/
def MemSys.behind (m : MemSys) (d ix : Nat) (w : WEntry) : Bool :=
  ((m.wbuf.filter fun x => x.die == d).take ix).any fun x =>
    if isPeer w.addr && !w.sendable then x.touches w.lines.1 w.lines.2
    else w.parts.any fun p => x.touches p.1 p.2.length && x.sent.isNone

/-- Whether the DONE write of a group, which is a release, waits on a write: one of its tasks' own, or one of a die whose port its ended
tasks wait for (R206, R260, R268). -/
def State.doneAwaits (s : State) (g : Group) (w : WEntry) : Bool :=
  let ts := s.dev.sched.tasks.filter (·.group == g.id)
  (ts.any fun t => t.id == w.task) || (g.remaining == 0 && ts.all (·.state == .ended) && (diesOf g.dies).contains w.die)

/-- A release that never completes: DONE is not written of a group that waits on a dropped write (R362). -/
def State.spoilDone (s : State) (w : WEntry) : State :=
  s.sched fun d => { d with groups := d.groups.map fun g => if s.doneAwaits g w then { g with done := 0 } else g }

/-- Writes dropped, with the releases of their dies that wait on them (R362). -/
def State.dropEntries (s : State) (gone : WEntry → Bool) : State :=
  let out := s.dev.sys.wbuf.filter gone
  let s := (out.foldl State.spoilDone s).sys fun m => { m with wbuf := m.wbuf.filter fun w => !gone w }
  out.foldl (fun s w =>
    ((s.cores.map (·.1)).filter fun n => dieOf n == w.die).foldl (fun (s : State) n => s.on n (State.dropReleases w.addr)) s) s

/-- The reader that stands for a die's port, and its key for a write at an address. -/
def portReader (die : Nat) : Nat := 1024 + die

/-- A write to part of a peer's lines: the port reads the lines first and then sends them whole, since a WRITE carries no less (R361).
Where the peer refuses the lines the write is dropped. DESIGN CHOICE, log entry 98. -/
def State.widenWrite (s : State) (w : WEntry) : State :=
  let (a, n) := w.lines
  let f := s.dev.fabric
  let got := (List.range n).map fun i => f.broughtFor (portReader w.die) w.addr (a + i)
  if f.refused (portReader w.die) w.addr then
    (s.fabric (·.forgetFor (portReader w.die) w.addr)).dropEntries (· == w)
  else if got.all (·.isSome) then
    let old := got.map (·.getD 0)
    let data := old.take (w.addr - a) ++ w.data ++ old.drop (w.addr - a + w.data.length)
    (s.fabric (·.forgetFor (portReader w.die) w.addr)).sys fun m =>
      { m with wbuf := replaceFirst w [{ w with addr := a, data := data }] m.wbuf }
  else s.ask (portReader w.die) w.addr a n

/-- A buffered write to a peer leaves as a WRITE packet and stays until it is acknowledged (R259, R360). -/
def State.sendWrite (s : State) (w : WEntry) : State :=
  match s.dev.fabric.connTo (sliceOf w.addr) with
  | none => s
  | some c =>
    if w.sent.isSome || !c.room then s
    else if !w.sendable then s.widenWrite w
    else
      let s := s.fabric fun f => f.send c 2 (w.addr % 2 ^ 40) 0 w.data.length w.data
      s.sys fun m => { m with wbuf := replaceFirst w [{ w with sent := some (c.id, c.txSeq) }] m.wbuf }

/-- A buffered write reaches its home, or is dropped and logged while its link is down (R349). -/
def State.deliverWrite (s : State) (w : WEntry) : State :=
  let s := s.sys fun m => { m with wbuf := replaceFirst w [] m.wbuf }
  if s.reachable w.addr then s.sys (·.settle w) else s.logDropped w.addr

/-- WRITE_BUFFER_DRAIN (R394): the write at a place of a die's remote write buffer passes on. -/
def execWriteBufferDrain (die ix : Nat) (s : State) : Next :=
  match s.dev.sys.buffered die ix with
  | none => .next s
  | some w =>
    if s.dev.sys.behind die ix w then .next s
    else if isPeer w.addr then .next (s.sendWrite w)
    else .next (s.deliverWrite w)

/-! ### Acknowledgements (R358, R359) -/

/-- A connection by its number. -/
def Fabric.conn (f : Fabric) (id : Nat) : Option Conn := f.conns.find? fun c => c.id == id && c.up

/-- The bytes of a packet: its Yelvin header and its payload (R358, R361). CONN is the number that the two ends give the connection. -/
def OutPacket.bytes (p : OutPacket) : List Byte :=
  fieldBytes [(1, 1), (1, 0), (1, p.type), (1, p.flg.toNat), (8, 0), (4, p.conn), (4, p.seq.toNat), (4, p.ackSeq.toNat), (4, p.len),
    (4, p.tag.toNat), (8, p.addr)] ++ p.payload

/-- A packet sent again. -/
def OutPacket.again (p : OutPacket) : OutPacket := { p with sends := p.sends + 1 }

/-- Unacknowledged packets of a connection sent again, where eight sends have not been made (R359). -/
def Fabric.resend (f : Fabric) (c : Conn) (which : OutPacket → Bool) : Fabric :=
  let go := fun (p : OutPacket) => which p && p.sends < 8
  { f.setConn { c with unacked := c.unacked.map fun p => if go p then p.again else p } with
    wire := f.wire ++ (c.unacked.filter go).map OutPacket.again }

/-- Events counted for a unit (R381, R384). -/
def State.countMore (s : State) (key n : Nat) : State :=
  { s with dev := { s.dev with health := { s.dev.health with
      corrected := s.dev.health.corrected.set 0 key (s.dev.health.corrected.get 0 key + n) } } }

/-- One more event counted for a unit (R381, R384). -/
def State.countFor (s : State) (key : Nat) : State := s.countMore key 1

/-- The Ethernet port that carries a connection, of 24 (log entry 46). -/
def portOf (conn : Nat) : Nat := Config.connPort conn % 24

/-- Unacknowledged packets of a connection sent again, which its port counts (R359, R384). -/
def State.resend (s : State) (c : Conn) (which : OutPacket → Bool) : State :=
  (s.fabric fun f => f.resend c which).countMore (17 * 2 ^ 48 + portOf c.id)
    (c.unacked.filter fun p => which p && p.sends < 8).length

/-- What a header's acknowledgement does (R358 to R360): packets below ACK have arrived, and writes they carried have
performed; ECE halves the window; NAK has the rest sent again at once. -/
def State.takeAck (s : State) (c : Conn) (p : Packet) : State :=
  let window := if p.flg.getLsbD 2 then max 1 (c.window / 2) else c.window
  let c := { c with window := window, unacked := c.unacked.filter fun x => !seqBefore x.seq p.ackSeq }
  let s := s.sys fun m => { m with wbuf := m.wbuf.filter fun w =>
    match w.sent with
    | some (k, q) => !(k == c.id && seqBefore q p.ackSeq)
    | none => true }
  let s := s.fabric (·.setConn c)
  (if p.flg.getLsbD 1 then s.resend c fun _ => true else s).fabric Fabric.pump

/-- An ACK packet sent: it takes no SEQ of its own, so that nothing waits for its acknowledgement; with NAK where packets are missing,
and with ECE where the packet it answers was marked CE (R358; log entry 98). -/
def State.reply (s : State) (id : Nat) (nak ce : Bool) : State :=
  match s.dev.fabric.conn id with
  | none => s
  | some c => s.fabric fun f => { f with wire := f.wire ++
      [{ conn := id, type := 5, seq := c.txSeq, ackSeq := c.rxNext, flg := BitVec.ofNat 4 (2 * bit nak + 4 * bit ce), addr := 0, tag := 0, len := 0,
         payload := [], sends := 1 }] }

/-! ### Receipt (R359, R360) -/

/-- The next SEQ expected after `n` has arrived, given those that came early; `fuel` is at least their number. -/
def advance (early : List Word32) : Nat → Word32 → Word32
  | 0, n => n
  | fuel + 1, n => if early.contains n then advance early fuel (n + 1) else n

/-- A packet's SEQ taken by its connection. -/
def Conn.take (c : Conn) (seq : Word32) : Conn :=
  if seq = c.rxNext then
    let n := advance c.early (c.early.length + 1) (c.rxNext + 1)
    { c with rxNext := n, early := c.early.filter fun q => seqBefore n q }
  else { c with early := c.early ++ [seq] }

/-- Whether a packet has arrived before (R359). -/
def Conn.hasSeen (c : Conn) (seq : Word32) : Bool := seqBefore seq c.rxNext || c.early.contains seq

/-- A packet received: its acknowledgement counts, a duplicate is discarded, and otherwise it has its effect once and is
acknowledged. Packets that must keep their order wait for those before them, by a NAK (R359, R360). `can` says whether the
effect is possible now; where it is not the packet is lost, and comes again. -/
def State.receivePacket (s : State) (p : Packet) (inOrder legal : Bool) (can : State → Conn → Bool)
    (effect : Conn → State → State) : State :=
  match s.dev.fabric.conn p.conn with
  | none => s
  | some c =>
    if p.ver ≠ 1 || !legal || p.payload.length > 8192 then s
    else
      let s := s.takeAck c p
      let c := (s.dev.fabric.conn p.conn).getD c
      if c.hasSeen p.seq then s.reply c.id false p.ce
      else if inOrder && p.seq != c.rxNext then s.reply c.id true p.ce
      else if !can s c then s
      else
        let c := c.take p.seq
        (effect c (s.fabric (·.setConn c))).reply c.id false p.ce

/-- MSG (R360, R361): firmware's bytes. -/
def execMsg (p : Packet) (s : State) : Next :=
  .next (s.receivePacket p false (p.len == p.payload.length && p.len != 0) (fun _ _ => true) fun c s =>
    s.fabric fun f => { f with msgs := f.msgs ++ [(c.id, p.payload)] })

/-- Whether the peer asks for bytes of this package's HBM (R350, R361). -/
def inMap (a n : Nat) : Bool := a + n ≤ hbmEnd

/-- The rule of a WRITE's or READ's ADDR and LEN (R361). -/
def blockOk (a n : Nat) : Bool := a % 64 == 0 && n % 64 == 0 && 64 ≤ n && n ≤ 8192

/-- Whether firmware has withdrawn a frame that a range touches (R361, R382). -/
def MemSys.gone (m : MemSys) (a n : Nat) : Bool := m.withdrawn.any fun e => e.2 && 65536 * e.1 < a + n && a < 65536 * e.1 + 65536

/-- WRITE (R360, R361): performed at its home in the order of SEQ before it is acknowledged, as a write of an agent beyond the package
(R318). One outside the map, or to a frame that is withdrawn, has no effect. -/
def execWrite (p : Packet) (s : State) : Next :=
  .next (s.receivePacket p true (p.len == p.payload.length && blockOk p.addr p.len) (fun _ _ => true) fun _ s =>
    if inMap p.addr p.len && !s.dev.sys.gone p.addr p.len then State.hostWrite State.peerPerform 3 p.addr p.payload s else s)

/-- READ (R361): answered with the bytes at their home, or with ERR and none. -/
def execRead (p : Packet) (s : State) : Next :=
  .next (s.receivePacket p false (p.payload.isEmpty && blockOk p.addr p.len) (fun _ c => c.room) fun c s =>
    let bad := !inMap p.addr p.len || s.dev.sys.gone p.addr p.len || s.dev.sys.badFrames.get false (p.addr / 65536) ||
      s.dev.sys.badFrames.get false ((p.addr + p.len - 1) / 65536) || (s.entriesAt p.addr p.len).any (·.poisoned)
    let data := if bad then [] else s.dev.sys.homeBytes p.addr p.len
    s.fabric fun f =>
      let q : OutPacket := { conn := c.id, type := 4, seq := c.txSeq, ackSeq := c.rxNext, flg := ackReq ||| (if bad then 8 else 0),
                             addr := p.addr, tag := p.tag, len := data.length, payload := data, sends := 1 }
      { f.setConn { c with txSeq := c.txSeq + 1, unacked := c.unacked ++ [q] } with wire := f.wire ++ [q] })

/-- RDRESP (R361): the bytes are there for the word that asked, or its read has failed. -/
def execRdresp (p : Packet) (s : State) : Next :=
  .next (s.receivePacket p false (p.len == p.payload.length) (fun _ _ => true) fun c s =>
    match c.readsOut.find? fun r => r.1 == p.tag with
    | none => s
    | some (tag, core, key, a) => s.fabric fun f =>
        { f.setConn { c with readsOut := c.readsOut.filter fun r => r.1 != tag } with
          arrived := f.arrived ++ [⟨core, key, a, p.payload, p.flg.getLsbD 3⟩] })

/-- ACK (R359, R361). -/
def execAck (p : Packet) (s : State) : Next :=
  match s.dev.fabric.conn p.conn with
  | none => .next s
  | some c => .next (if p.ver = 1 && p.payload.isEmpty then s.takeAck c p else s)

/-- COLL_PACKET (R361, R363): a contribution, a merged subtree or the final result. -/
def execCollPacket (p : Packet) (s : State) : Next :=
  .next (s.receivePacket p false (p.len == p.payload.length && 16 ≤ p.len) (fun _ _ => true) fun c s =>
    s.takeCollPacket c.peer p.tag p.payload)

/-! ### Connections (R359, R362, R384) -/

/-- CONNECTION_OPEN (R359, R384): between packages that share a system group. -/
def execConnectionOpen (conn peer : Nat) (s : State) : Next :=
  let f := s.dev.fabric
  let shared := f.groups.any fun (g : Nat × List Nat) => peer < 512 && g.2.contains peer
  if !s.dev.trust.running || !shared || (f.connTo peer).isSome || (f.conn conn).isSome then .next s
  else
    let c : Conn := { id := conn, peer := peer, up := true, txSeq := 0, rxNext := 0, window := 256, unacked := [], early := [],
                      nextTag := 0, readsOut := [] }
    let s := s.fabric fun f => Fabric.pump { f with conns := (f.conns.filter fun x => x.id != conn) ++ [c] }
    .next (s.linkRecord 5 1 (portOf conn) (conn % 2 ^ 32 + peer % 2 ^ 16 * 2 ^ 32) (s.linkCount 1 (portOf conn)))

/-- A connection ends: reads in flight are answered with an error, packets that wait for room and writes in flight are dropped, and
collectives with the peer end in ABORT (R362, R364). -/
def State.closeConn (s : State) (c : Conn) : State :=
  let s := s.fabric fun f =>
    { f.setConn { c with up := false, unacked := [], early := [], readsOut := [] } with
      outbox := f.outbox.filter (·.1 != c.peer)
      arrived := f.arrived ++ (c.readsOut.filter (·.2.1 < 512)).map fun r => ⟨r.2.1, r.2.2.1, r.2.2.2, [], true⟩ }
  (s.dropEntries fun w => isPeer w.addr && sliceOf w.addr == c.peer).abortWhere fun x => isSystem x.domain && (s.peersOf x.domain).contains c.peer

/-- A connection fails (R362): firmware clears P in every entry that maps the peer's slice and logs the event. -/
def State.failConn (s : State) (c : Conn) : State :=
  let s := (s.closeConn c).withdraw (0x6000000000000 + c.peer * 2 ^ 40) (2 ^ 40)
  s.linkRecord 4 1 (portOf c.id) (c.id % 2 ^ 32 + c.peer % 2 ^ 16 * 2 ^ 32) (s.linkCount 1 (portOf c.id))

/-- RETRANSMIT_TIMEOUT (R359): the oldest unacknowledged packet is sent again; after eight sends the connection fails. -/
def execRetransmitTimeout (conn : Nat) (s : State) : Next :=
  match s.dev.fabric.conn conn with
  | none => .next s
  | some c =>
    match c.unacked with
    | [] => .next s
    | p :: _ => .next (if 8 ≤ p.sends then s.failConn c else s.resend c fun x => x.seq == p.seq)

/-! ### Links of the fabric (R359, R374, R384) -/

/-- PER_HOP_REPLAY (R359): on a link whose both ends announce per-hop retry the frame is replayed and arrives, and the port
counts the replay; otherwise the frame is dropped. -/
def execPerHopReplay (port : Nat) (s : State) : Next :=
  .next (if port < 24 && s.dev.fabric.announced.get false port then s.countFor (17 * 2 ^ 48 + port) else s)

/-- LLDP_ANNOUNCEMENT (R359, R384). -/
def execLldpAnnouncement (port : Nat) (announced : Bool) (s : State) : Next :=
  if 24 ≤ port then .next s
  else
    let s := s.fabric fun f => { f with announced := f.announced.set false port announced }
    .next (if announced then s else s.linkRecord 7 1 port 0 (s.linkCount 1 port))

/-- FLIT_CRC_REPLAY (R374, R381, R384): the flit arrives by replay, and the lane of a Phoulaip link counts it toward its wear indicator. A
flit of the host link or of a far-tier port, with 2^16 times the link's kind plus its number in the place of the lane, counts for its link
(log entry 46). -/
def execFlitCrcReplay (lane : Nat) (s : State) : Next :=
  .next (
    if lane < serdesBase then s.countFor (4 * 2 ^ 48 + lane)
    else if lane / 2 ^ 16 = 2 || lane / 2 ^ 16 = 3 then s.countFor ((16 + lane / 2 ^ 16) * 2 ^ 48 + lane % 2 ^ 16)
    else s)

end Sys2Proof.Machine
end

