-- ==== Sys2Proof/Machine/Assure.lean ====
section
/-!
DEFINITION. Years in service: scrubbers and scrub repair (R376, R379, R380), the control checker (R378), spares and retirement
(R381, R382), power windows and the conditions of R374 (R2, R384).
-/
namespace Sys2Proof.Machine

/-! ### Counts (R381) -/

/-- The unit kinds of R383. -/
def unitKey (kind unit : Nat) : Nat := kind * 2 ^ 48 + unit

/-- A change to the health of the package. -/
def State.health (s : State) (f : Health → Health) : State := { s with dev := { s.dev with health := f s.dev.health } }

/-- Corrected errors of a resource. -/
def State.corrections (s : State) (kind unit : Nat) : Nat := s.dev.health.corrected.get 0 (unitKey kind unit)

/-- Where uncorrectable errors and checker detections of a resource are counted. -/
def hardKey (kind unit : Nat) : Nat := (40 + kind) * 2 ^ 48 + unit

/-- Where parity detections of a core are counted. -/
def parityKey (core : Nat) : Nat := 50 * 2 ^ 48 + core

/-- The row that holds a line of HBM, by its stack and its number there (log entry 46). -/
def dramRow (a : Nat) : Nat := (memUnit a).2 * 2 ^ 32 + Config.hbmRow (a / 64) % 2 ^ 32

/-- The bank of a row. -/
def dramBank (row : Nat) : Nat := row / 2 ^ 32 * 2 ^ 32 + Config.hbmBank row % 2 ^ 32

/-- The pseudo-channel of a bank. -/
def dramChannel (bank : Nat) : Nat := bank / 2 ^ 32 * 2 ^ 32 + Config.hbmChannel bank % 2 ^ 32

/-- A corrected error of a line of HBM or of the cellar, counted for its unit and its row (R381). -/
def State.countLine (s : State) (a : Nat) : State :=
  let u := memUnit a
  let s := s.countFor (unitKey u.1 u.2)
  if a < hbmEnd then s.countFor (unitKey 6 (dramRow a)) else s

/-- A record of the repair source (R383). -/
def State.repairRecord (s : State) (kind task unitKind unit addr count : Nat) : State :=
  s.careRecord 6 kind task unitKind unit addr count

/-! ### Scrubbers (R379) -/

/-- What the vault scrubber does at a line: a corrected line has its bytes as before. -/
def State.scrubVault (s : State) (core line : Nat) (r : ScrubResult) : State :=
  let s := match r with
    | .clean => s
    | .corrected =>
      let s := s.countFor (unitKey 1 core)
      s.careRecord 5 1 0 1 core 0 (s.corrections 1 core)
    | .uncorrectable =>
      let s := (s.countFor (hardKey 1 core)).modAt core fun c => { c with poison := c.poison.set false line true }
      s.careRecord 5 2 0 1 core 0 (s.corrections 1 core)
  if core % 128 = 127 && line = 65535 then s.careRecord 5 7 0 1 core 0 (s.corrections 1 core) else s

/-- VAULT_SCRUB (R376, R379). -/
def execVaultScrub (core line : Nat) (r : ScrubResult) (s : State) : Next :=
  if 512 ≤ core then .fault (.noSuchCore core)
  else .next (if line < vaultSize / 64 then s.scrubVault core line r else s)

/-- An uncorrectable line of HBM or the cellar (R376): PSN in every tile-table entry whose tile holds it, and the frame
poisoned for flat access. -/
def State.poisonLine (s : State) (a : Nat) : State :=
  let s := (s.entriesAt a 64).foldl (fun (s : State) e =>
    s.setEntry e (poisonBits (s.dev.sys.homeNum e.at_ 8))) s
  s.sys fun m => { m with badFrames := m.badFrames.set false (a / 65536) true }

/-- The last line of HBM or of the cellar, where a pass of its scrubber ends. -/
def lastLine (a : Nat) : Bool := a + 64 == hbmEnd || a + 64 == 0x120000000000

/-- A line corrected in the tile whose entry stands at an address (R380). -/
def State.fixTile (s : State) (at_ : Nat) : State :=
  s.health fun h => { h with tileFixes := h.tileFixes.set 0 at_ (h.tileFixes.get 0 at_ + 1) }

/-- What a patrol scrubber does at a line. -/
def State.scrubMemory (s : State) (a : Nat) (r : ScrubResult) : State :=
  let u := memUnit a
  let s := match r with
    | .clean => s
    | .corrected =>
      let s := (s.entriesAt a 64).foldl (fun (s : State) e => s.fixTile e.at_) (s.countLine a)
      s.scrubRecord 1 a
    | .uncorrectable => ((s.countFor (hardKey u.1 u.2)).poisonLine a).scrubRecord 2 a
  if lastLine a then s.careRecord 5 7 0 u.1 u.2 0 (s.corrections u.1 u.2) else s

/-- MEMORY_SCRUB (R376, R379): a line of HBM or of the cellar. -/
def execMemoryScrub (addr : Nat) (r : ScrubResult) (s : State) : Next :=
  .next (match s.tier addr with
    | some 0 => s.scrubMemory (addr / 64 * 64) r
    | some 1 => s.scrubMemory (addr / 64 * 64) r
    | _ => s)

/-- KV_SCRUB (R379): a page whose checksum disagrees is poisoned; a check that a write under way would change is
discarded. -/
def execKvScrub (asid tid tile : Nat) (s : State) : Next :=
  match s.lookup asid tid tile with
  | .error _ => .next s
  | .ok x =>
    let side := x.dir.side x.tile
    let m := s.dev.sys
    if !x.dir.kv || !bitOf x.bits 1 || m.wbuf.any (fun w => w.touches x.addr 4096 || w.touches side 512) then .next s
    else if pageCrc (m.homeBytes x.addr 4096) (m.homeNum side 1) (m.homeNum (side + 1) 1) = m.homeNum (side + 8) 4 then .next s
    else .next ((s.setEntry x (poisonBits x.bits)).scrubRecord 3 x.addr)

/-- SCRUB_REPAIR (R380): the tile is rewritten with its bytes and GEN advances, behind the writes whose place is settled; a side entry stays
as it is. -/
def execScrubRepair (asid tid tile : Nat) (s : State) : Next :=
  match s.lookup asid tid tile with
  | .error _ => .next s
  | .ok x =>
    if bitOf x.bits 1 && 2 ≤ s.dev.health.tileFixes.get 0 x.at_ then
      let w : WEntry := { die := 4, addr := x.addr, data := [], tiles := [x.mark false] }
      .next ((s.sys fun m => (m.inOrder w).bump (x.mark false)).health fun h => { h with tileFixes := h.tileFixes.set 0 x.at_ 0 })
    else .next s

/-! ### Errors met on a read (R374, R376) -/

/-- A read of a vault line of the current core meets an ECC error: corrected and counted, or the line is poisoned before its data is
delivered. -/
def State.vaultError (s : State) (line : Nat) (bad : Bool) : State :=
  if vaultSize / 64 ≤ line then s
  else if bad then (s.countFor (hardKey 1 s.cur)).mod fun c => { c with poison := c.poison.set false line true }
  else s.countFor (unitKey 1 s.cur)

/-- A read of a line of HBM or the cellar meets an ECC error: corrected and counted, or the line is poisoned (R376). -/
def State.memError (s : State) (a : Nat) (bad : Bool) : State :=
  let u := memUnit a
  if s.tier a == some 0 || s.tier a == some 1 then
    if bad then (s.countFor (hardKey u.1 u.2)).poisonLine (a / 64 * 64) else s.countLine a
  else s

/-- What serves memory behind a link marks a line poisoned, or no longer does (R346, R349): reads then deliver it as stored, with
DPOISON. -/
def State.linkPoison (s : State) (a : Nat) (on : Bool) : State :=
  if behindLink a then s.sys fun m => { m with badLines := m.badLines.set false (a / 64) on } else s

/-! ### The control checker (R378) -/

/-- The running task of the current core ends without a cause (R249, R378). -/
def State.endWithout (s : State) : State :=
  match s.core.ctl.run with
  | .idle => s
  | .frozen t at_ => s.endOnTrap t at_
  | .point at_ => s.endOnTrap { cause := .preovr, slot := 15 } at_
  | .running => s.endOnTrap { cause := .preovr, slot := 15 } s.cycle
  | .ending => s

/-- A task that the scheduler is bringing back onto core `n`, which has its saved context there still (R305): the member. -/
def State.returning (s : State) (n : Nat) : Option (Task × Core) :=
  s.dev.sched.tasks.findSome? fun t =>
    if t.state == .restoring && !t.ended.contains n then (t.contexts.find? (·.1 == n)).map fun p => (t, p.2) else none

/-- A member that is being brought back onto core `n` is there at once, so that its task can end there as on any other core (R249,
R378). -/
def State.bringBack (s : State) (n : Nat) : State :=
  match s.returning n with
  | none => s
  | some (t, c) =>
    (s.modTask t.id fun x =>
      { x with contexts := x.contexts.filter (·.1 != n), held := x.held.filter (·.1 != n) }).resumeMember t s.cycle (n, c)

/-- A fault of a core is detected, by its checker or by parity (R378, R381): the task on the core, or coming back onto it, ends, the core
is marked failed, and a repair record names the task. -/
def State.detected (s : State) (core : Nat) (parity : Bool) : Next :=
  if 512 ≤ core then .fault (.noSuchCore core)
  else
    let s := s.bringBack core
    let c := s.coreAt core
    let task := if c.ctl.run == .idle then 0 else c.ctl.group
    let s := ((s.on core State.endWithout).modAt core fun c => { c with failed := true }).countFor
      (if parity then parityKey core else hardKey 0 core)
    .next (s.repairRecord 4 task 0 core 0 (s.corrections 0 core))

/-- CHECKER_DETECTION (R378). -/
def execCheckerDetection (core : Nat) (s : State) : Next := s.detected core false

/-- The checker of a control core detects a fault (R381). -/
def State.controlCheck (s : State) (n : Nat) : State :=
  let s := s.countFor (hardKey 5 n)
  s.repairRecord 4 0 5 n 0 (s.corrections 5 n)

/-- What the FEC of a SerDes lane has counted in the last 24 h: symbols corrected, of symbols (R381, R384). -/
def State.fecCounts (s : State) (lane errors symbols : Nat) : State :=
  if serdesBase ≤ lane && lane < 2 ^ 16 then
    s.health fun h => { h with corrected := h.corrected.set 0 (unitKey 4 lane) errors, symbols := h.symbols.set 0 lane symbols }
  else s

/-- A corrected error, a replay or a retransmission of a resource lies 24 h back and is counted no more (R381, R384). What the
count of uncorrectable errors and of detections holds stays. -/
def State.ageOne (s : State) (kind unit : Nat) : State :=
  if kind < 40 && unit < 2 ^ 48 then
    s.health fun h =>
      { h with corrected := h.corrected.set 0 (unitKey kind unit) (h.corrected.get 0 (unitKey kind unit) - 1) }
  else s

/-- A line corrected in a tile lies 24 h back and is counted no more (R380). -/
def State.ageTile (s : State) (at_ : Nat) : State :=
  s.health fun h => { h with tileFixes := h.tileFixes.set 0 at_ (h.tileFixes.get 0 at_ - 1) }

/-! ### Spares (R381)

The kinds of resources are those of a record (R383), with 6 for an HBM bank and 7 for an HBM pseudo-channel. A row, a bank or a
pseudo-channel of HBM is named by a line in it, and its records have kind 2 (log entry 46). -/

/-- The pool that a resource's spares come from and how many it holds (R381). None where the table names no spare. -/
def sparePool (kind unit : Nat) : Option (Nat × Nat) :=
  let row := dramRow (64 * unit)
  match kind with
  | 0 => some (unitKey 0 (unit / 16), 2)
  | 1 => some (unitKey 1 (unit / 16), 2)
  | 2 => some (unitKey 2 (dramBank row), Config.rowSpares)
  | 4 => if unit < serdesBase then some (unitKey 4 (unit / 16), 1) else some (unitKey 4 (2 ^ 24 + (unit - serdesBase) / 48), 2)
  | 5 => some (unitKey 5 0, 1)
  | 6 => some (unitKey 6 (row / 2 ^ 32), Config.bankSpares)
  | 7 => some (unitKey 7 (row / 2 ^ 32), 1)
  | _ => none

/-- The banks that have been spared in a pseudo-channel. -/
def channelKey (channel : Nat) : Nat := unitKey 8 channel

/-- Spares taken from a pool, or exchanged within a bank or pseudo-channel. -/
def State.spares (s : State) (key : Nat) : Nat := s.dev.health.sparesUsed.get 0 key

/-- Whether a resource has crossed its wear indicator (R381), or is a core that has failed (R378). -/
def State.worn (s : State) (kind unit : Nat) : Bool :=
  let n := s.dev.health.corrected
  let row := dramRow (64 * unit)
  let hbm := decide (64 * unit < hbmEnd)
  match kind with
  | 0 => (s.coreAt unit).failed || 1 ≤ n.get 0 (hardKey 0 unit) || 2 ≤ n.get 0 (parityKey unit)
  | 1 => 64 ≤ s.corrections 1 unit || 1 ≤ n.get 0 (hardKey 1 unit)
  | 2 => hbm && 4 ≤ s.corrections 6 row
  | 4 => if unit < serdesBase then 100 ≤ s.corrections 4 unit else s.dev.health.symbols.get 0 unit < 10 ^ 6 * s.corrections 4 unit
  | 5 => 1 ≤ n.get 0 (hardKey 5 unit)
  | 6 => hbm && 3 ≤ s.spares (unitKey 2 (dramBank row))
  | 7 => hbm && 2 ≤ s.spares (channelKey (dramChannel (dramBank row)))
  | _ => false

/-- Whether a spare is there for a resource: of a vault within the cluster and the SRAM die. -/
def State.hasSpare (s : State) (kind unit : Nat) : Bool :=
  match sparePool kind unit with
  | none => false
  | some (key, n) =>
    decide (s.spares key < n) && (kind != 1 || ((List.range 8).map fun i => s.spares (unitKey 1 (unit / 128 * 8 + i))).sum < 16)

/-- Whether a core or vault may be exchanged now: its gang block is free, with every member of a task that it has a part in (R301,
R378, R381). -/
def State.unitIdle (s : State) (n : Nat) : Bool :=
  n < 512 && (s.coreAt n).ctl.run == .idle && !s.restoringOn n &&
    s.dev.sched.tasks.all fun t => !t.cores.contains n || t.cores.all fun m => !s.onCore? m t.id

/-- A spare core takes the identity of core `n`, which may run tasks again. -/
def State.newCore (s : State) (n : Nat) : State := s.modAt n fun c => { c with failed := false }

/-- A spare vault serves core `n`: what pre-empted tasks retain there is saved first, and nothing else is carried over. -/
def State.newVault (s : State) (n : Nat) : State :=
  (s.guardBanks 0 n (List.range 64)).modAt n fun c => { c with vault := [], poison := [] }

/-- The record of a lane taken out of use (R374, R384): Phoulaip or Ethernet. -/
def State.laneRecord (s : State) (unit : Nat) : State :=
  if unit < serdesBase then s.linkRecord 1 0 (unit / 16) (unit % 256) (s.linkCount 0 (unit / 16))
  else
    let p := (unit - serdesBase) / 4
    s.linkRecord 2 1 p ((unit - serdesBase) % 256) (s.linkCount 1 p)

/-- A repair record of a resource: of HBM with the stack, the line and what its row has counted (R383). -/
def State.resourceRecord (s : State) (kind what unit : Nat) : State :=
  if what = 2 || what = 6 || what = 7 then
    let a := 64 * unit
    s.repairRecord kind 0 2 (memUnit a).2 a (s.corrections 6 (dramRow a))
  else s.repairRecord kind 0 what unit 0 (s.corrections what unit)

/-- Counts begun afresh for a resource that a spare has taken the place of: of a bank, those of its rows, and of a pseudo-channel those of
its banks too. What a lane has counted stays in the count of its link (R384). -/
def State.renew (s : State) (kind unit : Nat) : State :=
  let bank := dramBank (dramRow (64 * unit))
  let channel := dramChannel bank
  let old := fun (row : Nat) => if kind = 2 then row == dramRow (64 * unit) else if kind = 6 then dramBank row == bank
    else dramChannel (dramBank row) == channel
  if kind = 2 || kind = 6 || kind = 7 then
    s.health fun h =>
      { h with
        corrected := h.corrected.filter fun e => !(e.1 / 2 ^ 48 == 6 && old (e.1 % 2 ^ 48))
        sparesUsed := h.sparesUsed.filter fun e =>
          !((kind == 6 && e.1 == unitKey 2 bank) ||
            (kind == 7 && (e.1 == channelKey channel || (e.1 / 2 ^ 48 == 2 && dramChannel (e.1 % 2 ^ 48) == channel)))) }
  else
    let also := if kind = 0 then parityKey unit else hardKey kind unit
    let s := if kind = 4 then s.countMore (linkOfLane unit) (s.corrections 4 unit) else s
    s.health fun h =>
      { h with corrected := ((h.corrected.set 0 (unitKey kind unit) 0).set 0 (hardKey kind unit) 0).set 0 also 0 }

/-- A spare taken from a resource's pool, and the resource's counts begun afresh. A bank counts as spared in its pseudo-channel. -/
def State.useSpare (s : State) (kind unit : Nat) : State :=
  let took := ((sparePool kind unit).map (·.1)).toList ++ (if kind = 6 then [channelKey (dramChannel (dramBank (dramRow (64 * unit))))] else [])
  (s.renew kind unit).health fun h =>
    { h with sparesUsed := took.foldl (fun (t : Table Nat) k => t.set 0 k (t.get 0 k + 1)) h.sparesUsed }

/-- A spare brought in and recorded. -/
def State.substitute (s : State) (kind unit : Nat) : State :=
  let s := if kind = 4 then s.laneRecord unit else s
  let s := s.resourceRecord 5 kind unit
  let s := match kind with
    | 0 => s.newCore unit
    | 1 => s.newVault unit
    | _ => s
  s.useSpare kind unit

/-- The key of a retired resource: of HBM the frame of 64 KiB. -/
def retiredKey (kind unit : Nat) : Nat := if kind = 2 || kind = 6 || kind = 7 then unitKey 2 (unit / 1024) else unitKey kind unit

/-- SPARE_SUBSTITUTION (R381). -/
def execSpareSubstitution (kind unit : Nat) (s : State) : Next :=
  .next (if 8 ≤ kind || 2 ^ 34 ≤ unit || !s.worn kind unit || !s.hasSpare kind unit || (kind < 2 && !s.unitIdle unit) ||
      s.dev.health.retired.get false (retiredKey kind unit) then s
    else s.substitute kind unit)

/-! ### Tables in a frame (R336 to R340, R382) -/

/-- The entries of page tables from the table at `base` on that name a further table: the entry's address and its bits. -/
def tablePointers (m : Memory) : List (Nat × Nat × Option Nat) → Nat → List (Nat × Nat)
  | [], _ => []
  | (_, n, _) :: rest, base =>
    (tableEntries m base (2 ^ n)).flatMap fun i =>
      let e := m.num (base + 8 * i) 8
      if !bitOf e 0 || rest.isEmpty || bitOf e 11 then [] else (base + 8 * i, e) :: tablePointers m rest (frameAddr e)

/-- The address spaces in use. -/
def State.spaces (s : State) : List Asid := s.dev.sys.asids.filterMap (·.2)

/-- The entries of page tables that name a further table. -/
def State.pointers (s : State) : List (Nat × Nat) := s.spaces.flatMap fun x => tablePointers s.dev.sys.mem walkLevels x.l0

/-- The tensor directory's entries: the address of each and what it says. -/
def State.directories (s : State) : List (Nat × DirEntry) :=
  s.dev.sys.asids.flatMap fun (x : Nat × Option Asid) =>
    match x.2 with
    | none => []
    | some sp => (List.range sp.dirLen).filterMap fun tid => (s.dirEntry x.1 tid).map fun d => (sp.dir + 32 * tid, d)

/-- The tables of every address space: first byte and bytes. -/
def State.tables (s : State) : List (Nat × Nat) :=
  (s.spaces.flatMap fun x => [(x.l0, 32), (x.dir, 32 * x.dirLen)]) ++ (s.pointers.map fun p => (frameAddr p.2, 65536)) ++
    s.directories.flatMap fun d => [(d.2.ttb, 8 * d.2.len), (d.2.sbase, if d.2.kv then 512 * d.2.len else 0)]

/-- A range of memory made wider by the tables that it cuts. -/
def widen (l : List (Nat × Nat)) (r : Nat × Nat) : Nat × Nat :=
  l.foldl (fun r x => if x.2 ≠ 0 && x.1 < r.2 && r.1 < x.1 + x.2 then (min r.1 x.1, max r.2 (x.1 + x.2)) else r) r

/-- Keys in a range moved with it. -/
def moveKeys {α : Type} [DecidableEq α] (d : α) (f : Nat → Nat) (t : Table α) : Table α :=
  t.foldl (fun (r : Table α) e => r.set d (f e.1) e.2) []

/-- The tables that have a byte in a frame go to fresh memory, each whole, with what names them: entries of page tables and of
directories, and firmware's own record of an address space. None where no memory is free for them. -/
def State.moveTables (s : State) (a : Nat) : Option State :=
  let l := s.tables
  if !(l.any fun x => x.2 ≠ 0 && x.1 < a + 65536 && a < x.1 + x.2) then some s
  else
    let (lo, hi) := (List.range l.length).foldl (fun r _ => widen l r) (a, a + 65536)
    let first := lo / 65536 * 65536
    let n := ceilDiv (hi - first) 65536 * 65536
    match (s.sys (·.flush 0 (2 ^ 52))).takeRun 65536 n 0 with
    | none => none
    | some (b, s) =>
      let f := fun p => if lo ≤ p && p < hi then p - first + b else p
      let ps := s.pointers
      let ds := s.directories
      some ((s.sys fun m =>
        let m := m.fill b n (m.homeBytes first n)
        let mem := ps.foldl (fun (t : Memory) p => t.setNum (f p.1) 8 (p.2 - frameAddr p.2 + f (frameAddr p.2))) m.mem
        let mem := ds.foldl (fun (t : Memory) d => (t.setNum (f d.1) 8 (f d.2.ttb)).setNum (f d.1 + 16) 8 (f d.2.sbase)) mem
        { m with
          mem := mem
          asids := m.asids.map fun x => (x.1, x.2.map fun sp => { sp with l0 := f sp.l0, dir := f sp.dir })
          guarded := (List.range (n / 65536)).foldl (fun t i => t.set false (b / 65536 + i) true) m.guarded
          tileCopies := []
          lost := moveKeys false f m.lost
          records := moveKeys [] f m.records }).health fun h => { h with tileFixes := moveKeys 0 f h.tileFixes })

/-! ### Firmware's own areas in a frame (R305, R382, R392) -/

/-- Bytes that the save area of a queue can take: the contexts and banks of a task of 16 members, but no more than lie before the next
area (R24, R305; log entry 79). -/
def State.saveSpan (s : State) (base : Nat) : Nat :=
  s.dev.sched.saveAreas.foldl (fun (n : Nat) e => if base < e.2 then min n (e.2 - base) else n) (16 * (contextBytes + 64 * 65536))

/-- Firmware's areas of memory: the save areas of the queues, the provenance log and the checkpoint, as first byte and bytes. -/
def State.areas (s : State) : List (Nat × Nat) :=
  let t := s.dev.trust
  (s.dev.sched.saveAreas.filter (·.2 != 0)).map (fun e => (e.2, s.saveSpan e.2)) ++
    if t.running then [(t.provBase, 64 + 64 * provEntries), (t.ckptBase, 160)] else []

/-- The areas that have a byte in a frame go to fresh memory, each whole, and firmware uses them there. None where no memory is free for
them. -/
def State.moveAreas (s : State) (a : Nat) : Option State :=
  let l := s.areas
  if !(l.any fun x => x.1 < a + 65536 && a < x.1 + x.2) then some s
  else
    let (lo, hi) := (List.range l.length).foldl (fun r _ => widen l r) (a, a + 65536)
    let first := lo / 65536 * 65536
    let n := ceilDiv (hi - first) 65536 * 65536
    match (s.sys (·.flush first n)).takeRun 65536 n 0 with
    | none => none
    | some (b, s) =>
      let f := fun p => if lo ≤ p && p < hi then p - first + b else p
      some (((s.sys fun m => m.fill b n (m.homeBytes first n)).sched fun d => { d with
        saveAreas := d.saveAreas.map fun e => (e.1, f e.2) }).trust fun t =>
          if t.running then { t with provBase := f t.provBase, ckptBase := f t.ckptBase } else t)

/-! ### Retirement (R382) -/

/-- The code pages that lie in a frame: address space and VA. -/
def State.codeIn (s : State) (a : Nat) : List (Nat × Nat) :=
  (s.dev.code.objects.flatMap fun o => o.versions.flatMap fun v =>
    (v.pages.filter fun p => p.2.1 == a).map fun p => (o.asid, p.1)).eraseDups

/-- The pages of 64 KiB that a frame of code or of trellis nodes is mapped as: address space, VA and the entry's address. -/
def State.leavesIn (s : State) (a : Nat) : List (Nat × Nat × Nat × Nat) :=
  s.dev.sys.asids.flatMap fun (x : Nat × Option Asid) =>
    match x.2 with
    | none => []
    | some sp => ((leavesFrom s.dev.sys.mem walkLevels 0 sp.l0).filter fun l => l.2.2.2 == 0 && bitOf l.2.2.1 8 && frameAddr l.2.2.1 == a).map
        fun l => (x.1, l.1, l.2.1, l.2.2.1)

/-- A frame's extents leave the free pool. -/
def removeFrame (a : Nat) (l : List (Nat × Nat)) : List (Nat × Nat) :=
  l.flatMap fun x =>
    if x.1 + x.2 ≤ a || a + 65536 ≤ x.1 then [x]
    else (if x.1 < a then [(x.1, a - x.1)] else []) ++
      (if a + 65536 < x.1 + x.2 then [(a + 65536, x.1 + x.2 - (a + 65536))] else [])

/-- A frame that holds code or trellis nodes goes to a fresh one with its guard, and its pages' entries and every code version name that
(R316, R335, R347). None where no frame is free. -/
def State.moveGuarded (s : State) (a : Nat) : Option State :=
  if (s.codeIn a).isEmpty && !s.dev.sys.guarded.get false (a / 65536) then some s
  else
    match s.takeFrame 65536 0 with
    | none => none
    | some (b, s) =>
      let guard := s.dev.sys.guarded.get false (a / 65536)
      let bad := s.dev.sys.badFrames.get false (a / 65536)
      let s := s.sys fun m =>
        { m.fill b 65536 (m.homeBytes a 65536) with
          guarded := (m.guarded.set false (b / 65536) guard).set false (a / 65536) false
          badFrames := m.badFrames.set false (b / 65536) bad }
      let s := (s.leavesIn a).foldl (fun (s : State) l =>
        (s.sys fun m => { m with mem := m.mem.setNum l.2.2.1 8 (l.2.2.2 - a + b) }).shoot ⟨false, false, l.1, l.2.1, 65536⟩) s
      some (s.code fun c => { c with objects := c.objects.map (·.placed a b) })

/-- A frame of HBM withdrawn after its data has been moved (R382): tables, firmware's areas, code and trellis nodes to fresh memory,
tiles and pages to firmware's record with P cleared. None where no memory is free for what stays in HBM, or while a tile of the frame is
being read or moved (R335). -/
def State.retireFrame (s : State) (a : Nat) : Option State := do
  let s := s.sys fun m => { m with frames := removeFrame a m.frames }
  let s := s.sys (·.flush a 65536)
  if (s.entriesAt a 65536).any fun x => s.dev.sys.moving x.at_ || s.tileInUse x.at_ then none
  let s ← s.moveTables a
  let s ← s.moveAreas a
  let s ← s.moveGuarded a
  let s := (s.entriesAt a 65536).foldl (fun (s : State) x => s.moveTile { x with bits := s.dev.sys.homeNum x.at_ 8 } none 0) s
  return (s.unmapFlat a 65536).sys fun m =>
    { m with frames := removeFrame a m.frames, withdrawn := m.withdrawn.set false (a / 65536) true }

/-- Whether a frame of HBM holds a line of a row, a bank or a pseudo-channel that is worn and has no spare left (R381, R382). -/
def State.frameWorn (s : State) (frame : Nat) : Bool :=
  (List.range 1024).any fun i => [2, 6, 7].any fun k => s.worn k (1024 * frame + i) && !s.hasSpare k (1024 * frame + i)

/-- A retirement recorded. -/
def State.retired (s : State) (kind unit line : Nat) : State :=
  (s.health fun h => { h with retired := h.retired.set false (unitKey kind unit) true }).resourceRecord 6 kind line

/-- RESOURCE_RETIREMENT (R382): a worn resource without a spare. HBM is named by its frame of 64 KiB. -/
def execResourceRetirement (kind unit : Nat) (s : State) : Next :=
  .next (
    if 6 ≤ kind || s.dev.health.retired.get false (unitKey kind unit) then s
    else if kind = 2 then
      if hbmEnd ≤ 65536 * unit || !s.frameWorn unit then s
      else
        match s.retireFrame (65536 * unit) with
        | none => s
        | some s => s.retired 2 unit (1024 * unit)
    else if 2 ^ 16 ≤ unit || !s.worn kind unit || s.hasSpare kind unit || (kind < 2 && !s.unitIdle unit) then s
    else (if kind = 4 then s.laneRecord unit else s).retired kind unit unit)

/-! ### Power, temperature and supplies (R2, R374, R384) -/

/-- Microseconds pass within a window of 1 ms (R384). -/
def State.elapse (s : State) (n : Nat) : State :=
  s.health fun h => { h with micros := min (h.micros + n) (h.micros / 1000 * 1000 + 999) }

/-- POWER_WINDOW (R2): the end of a window of 1 ms. -/
def execPowerWindow (mean : Nat) (temp : Int) (s : State) : Next :=
  let s := s.health fun h => { h with mean := mean, micros := h.micros / 1000 * 1000 + 1000 }
  let c := s.dev.health.clock
  .next (
    if 2400 < mean && 1500 < c then (s.health fun h => { h with clock := c - 50 }).powerRecord 1 temp
    else if mean < 2300 && c < 1900 then (s.health fun h => { h with clock := c + 50 }).powerRecord 2 temp
    else s)

/-- THERMAL_SUPPLY_EVENT (R374, R384): a crossing of 105 °C, in eighths of a degree, or of a supply's limit. -/
def execThermalSupplyEvent (kind : Nat) (temp : Int) (s : State) : Next :=
  let h := s.dev.health
  .next (match kind with
    | 3 => if !h.tempHigh && 840 < temp then (s.health fun h => { h with tempHigh := true }).powerRecord 3 temp else s
    | 4 => if h.tempHigh && temp ≤ 840 then (s.health fun h => { h with tempHigh := false }).powerRecord 4 temp else s
    | 5 => if !h.supplyOut then (s.health fun h => { h with supplyOut := true }).powerRecord 5 temp else s
    | 6 => if h.supplyOut then (s.health fun h => { h with supplyOut := false }).powerRecord 6 temp else s
    | _ => s)

end Sys2Proof.Machine
end

