-- ==== Sys2Proof/Machine/Boot.lean ====
section
/-!
DEFINITION. Resets (R351, R385), the boot ROM's steps (R385, R386), measurement (R387), firmware's configuration (R294, R296,
R336, R363, R377), and the signing unit's checkpoints (R388, R392).
-/
namespace Sys2Proof.Machine

/-! ### Function level reset (R351) -/

/-- The report of a member's end from its saved context (R249, R351). -/
def State.endSavedCopy (s : State) (x : Nat × Core) : State :=
  let seen := { s with cur := x.1, core := x.2 }
  s.record 0 4 (noCause (seen.faultRecord { cause := .preovr, slot := 15 }))

/-- A task that is saved ends on every member (R249, R351): the host is told, what is retained for it is given up, and its collectives
end (R364). -/
def State.endSaved (s : State) (t : Task) : State :=
  let s := t.contexts.foldl State.endSavedCopy s
  let s := t.cores.foldl (fun (s : State) n => s.abortFor n t.id) s
  let s := s.modTask t.id fun x =>
    { x with state := .ended, requested := false, incoming := none, ended := x.cores, contexts := [], banks := [], held := [] }
  t.cores.foldl (fun (s : State) n => s.modAt n fun c => { c with retained := c.retained.filter fun e => e.2 != some t.id })
    (s.unask t.id)

/-- The task of the current core ends on a function level reset, and the host is told (R249, R351). -/
def State.endReported (s : State) : State :=
  match s.core.ctl.run with
  | .idle => s
  | .ending => s
  | _ => s.endCopy.endWithout

/-- Every task ends, and every task queue is discarded; dispatch programs run on with firmware (log entry 45). -/
def State.endTasks (s : State) : State :=
  let s := ((s.cores.map (·.1)).filter fun n => !s.dispatches n).foldl (fun (s : State) n => s.on n State.endReported) s
  let s := (s.dev.sched.tasks.filter fun t => t.state == .saved || t.state == .restoring).foldl State.endSaved s
  s.sched fun d =>
    { d with
      queued := []
      groups := (d.groups.filter fun g => d.tasks.any fun t => t.group == g.id).map fun g => { g with remaining := 0 } }

/-- Every code object is unloaded; a dispatch program goes on in the version that it has recorded (R316, log entry 45). -/
def State.unloadAll (s : State) : State := (s.dev.code.objects.filter (·.mapped)).foldl State.unloadObject s

/-- FUNCTION_LEVEL_RESET (R351). -/
def execFunctionLevelReset (s : State) : Next :=
  let s := s.endTasks.unloadAll
  let s := (s.dev.fabric.conns.filter (·.up)).foldl State.closeConn s
  .next (s.fabric fun f => { f with conns := [], outbox := [] })

/-! ### Conventional reset (R385) -/

/-- CONVENTIONAL_RESET (R385): the machine starts afresh, with the fused minimum version, what is retired or spared, and
memory outside the package as they were. -/
def execConventionalReset (cellar : Bool) (s : State) : Next :=
  let r := State.reset
  let outside := List.filter (fun (x : Nat × Byte) => 0x4000000000000 ≤ x.1) s.dev.sys.mem
  .next { r with
    agenda := s.agenda
    cycle := s.cycle
    dev := { r.dev with
      sys := { r.dev.sys with mem := outside, withdrawn := s.dev.sys.withdrawn }
      trust := { r.dev.trust with cellar := cellar, minVersion := s.dev.trust.minVersion }
      health := { r.dev.health with sparesUsed := s.dev.health.sparesUsed, retired := s.dev.health.retired } } }

/-! ### The ROM's steps (R385) -/

/-- Whether the ROM is in a step and has not failed. The model's step 11 is step 1 after the ROM has turned to DHCPv6. -/
def Trust.inStep (t : Trust) (n : Nat) : Bool := !t.running && !t.bootFailed && t.bootStep == n

/-- ROUTER_ADVERTISEMENT (R385): an address by SLAAC. -/
def execRouterAdvertisement (addr : BitVec 128) (s : State) : Next :=
  let s := s.bringUp
  .next (if s.dev.trust.inStep 1 && s.portUp then
      s.trust fun t => Trust.learnUrl { t with bootAddr := some addr, bootStep := 2 }
    else s)

/-- ROUTER_ADVERT_TIMEOUT (R385): no advertisement within 2 s; without a link the step fails. -/
def execRouterAdvertTimeout (s : State) : Next :=
  let s := s.bringUp
  .next (if s.dev.trust.inStep 1 then
      s.trust fun t => if s.portUp then { t with bootStep := 11 } else t.failBoot
    else s)

/-- DHCPV6_REPLY (R385): an address where the ROM has none, and the Boot File URL if the reply holds it. It comes by the port that the
ROM has brought up. -/
def execDhcpv6Reply (addr : BitVec 128) (url : Option (List Byte)) (s : State) : Next :=
  let t := s.dev.trust
  .next (
    if !s.portUp then s
    else if t.inStep 11 then s.trust fun t => Trust.learnUrl { t with bootAddr := some addr, bootStep := 2, dhcpUrl := url }
    else if t.inStep 2 then s.trust fun t => Trust.learnUrl { t with dhcpUrl := if url.isSome then url else t.dhcpUrl }
    else s)

/-- BOOT_URL_WRITE (R385): the host writes its URL into MCMD and any value into MSEQ, and the ROM takes the URL. -/
def execBootUrlWrite (url : List Byte) (s : State) : Next :=
  let t := s.dev.trust
  .next (if t.running || !t.urlWindow || !urlOk url then s
    else (s.mgmt fun m => { m with mcmd := BitVec.ofNat 512 (leNat url) }).writeMseq (BitVec.ofNat 64 (Config.openChoice s.cycle)))

/-- The ROM's step fails by itself: no link trains, no DHCPv6 server answers, or no image is got. -/
def State.bootFails (s : State) : State := if s.dev.trust.running then s else s.trust Trust.failBoot

/-- BOOT_URL_WINDOW_EXPIRY (R385). -/
def execBootUrlWindowExpiry (s : State) : Next :=
  .next (if s.dev.trust.running then s else s.trust fun t => Trust.learnUrl { t with urlWindow := false })

/-- BOOT_RETRY_TIMEOUT (R385): 10 s after a failed step the ROM starts again. -/
def execBootRetryTimeout (s : State) : Next :=
  .next (if s.dev.trust.bootFailed then
      s.trust fun t => { t with bootFailed := false, bootStep := 1, bootPort := none, bootAddr := none, dhcpUrl := none, bootUrl := none,
                                urlWindow := true }
    else s)

/-! ### The image (R386, R387) -/

/-- A stage of an image: offset, length and load address. -/
def imageStage (b : List Byte) (i : Nat) : Nat × Nat × Nat :=
  (numAt b (80 + 16 * i) 4, numAt b (84 + 16 * i) 4, numAt b (88 + 16 * i) 8)

/-- The bytes of a stage. -/
def stageBytes (b : List Byte) (i : Nat) : List Byte := (b.drop (imageStage b i).1).take (imageStage b i).2.1

/-- Whether the ROM accepts an image (R386). -/
def imageOk (minVersion : BitVec 32) (b : List Byte) : Bool :=
  let n := numAt b 8 4
  let len := b.length
  let key := (b.drop 16).take 57
  numAt b 0 4 == 0x57465A43 && 1 ≤ n && n ≤ 8 && numAt b 12 4 == len && len ≤ 2 ^ 26 && 80 + 16 * n + 114 ≤ len &&
  digest256 key == Config.fusedKeyHash && minVersion.toNat ≤ numAt b 4 4 &&
  Config.ed448Verify key (ascii "CZ9-FW") (b.take (len - 114)) (b.drop (len - 114)) &&
  (List.range n).all fun i => 80 + 16 * n ≤ (imageStage b i).1 && (imageStage b i).1 + (imageStage b i).2.1 ≤ len - 114

/-- A measurement register extended (R387). -/
def Trust.extend (t : Trust) (n : Nat) (data : List Byte) : Trust :=
  { t with mr := t.mr.set 0 n (digest256 (leBytes 32 (t.mr.get 0 n).toNat ++ leBytes 32 (digest256 data).toNat)) }

/-- The ROM's 16-byte version string. -/
def romVersion : List Byte := Config.romVersion.take 16 ++ List.replicate (16 - Config.romVersion.length) 0

/-- The ROM's measurements (R387). -/
def Trust.measure (t : Trust) (b : List Byte) : Trust :=
  (List.range (numAt b 8 4)).foldl (fun (t : Trust) i => t.extend 1 (stageBytes b i)) ((t.extend 0 romVersion).extend 0 (b.take 80))

/-- The stages of an image loaded, each at its load address in the control complex (R385, R386; log entry 61). -/
def Trust.load (t : Trust) (b : List Byte) : Trust :=
  { t with stages := (List.range (numAt b 8 4)).map fun i => ((imageStage b i).2.2, stageBytes b i) }

/-! ### Firmware starts -/

/-- Values put into a table. -/
def setAll {α : Type} [DecidableEq α] (d : α) (t : Table α) (l : List (Nat × α)) : Table α :=
  l.foldl (fun (t : Table α) x => t.set d x.1 x.2) t

/-- The scheduler as firmware configures it (R294, R296, R305). -/
def Sched.configure (d : Sched) (cfg : FirmwareConfig) : Sched :=
  { d with dispatch := if cfg.dispatch.isEmpty then defaultDispatch else cfg.dispatch
           qctl := setAll qctlReset d.qctl (cfg.qctl.map fun x => (x.1, x.2 &&& qctlMask))
           saveAreas := setAll 0 d.saveAreas cfg.saveAreas }

/-- The memory system as firmware configures it (R201, R330, R336, R345, R347). -/
def MemSys.configure (m : MemSys) (cfg : FirmwareConfig) : MemSys :=
  { m with asids := setAll none m.asids (cfg.asids.map fun x => (x.1, some ⟨x.2.1, x.2.2.1, x.2.2.2⟩))
           touch := cfg.touch
           frames := cfg.frames.map fun a => (a, 65536)
           roots := setAll none m.roots (cfg.roots.map fun x => (x.1 * 2 ^ 32 + x.2.1, some (x.2.2.1, x.2.2.2)))
           nodes := cfg.nodes
           guarded := setAll false m.guarded (cfg.guarded.map fun a => (a / 65536, true)) }

/-- Firmware's configuration applied. -/
def State.configure (s : State) (cfg : FirmwareConfig) : State :=
  let s := (s.sched fun d => d.configure cfg).sys fun m => m.configure cfg
  let s := (s.trust fun t => { t with provBase := cfg.provBase, ckptBase := cfg.ckptBase }).fabric fun f =>
    { f with groups := setAll [] f.groups cfg.groups, collLimit := cfg.collLimit }
  s.health fun h =>
    { h with policy := setAll true h.policy cfg.policy, defaultPolicy := cfg.defaultPolicy
             intervals := (List.range 3).map fun i => min (cfg.intervals.getD i (defaultIntervals.getD i 0)) (defaultIntervals.getD i 0) }

/-- The configuration block as firmware has it: dispatch cores with their ASIDs, QCTL values, scrub intervals, the policy of each tenant
and the default policy (R387). -/
def State.configBytes (s : State) : List Byte :=
  let h := s.dev.health
  Config.configBlock s.dev.sched.dispatch s.dev.sched.qctl h.intervals h.policy h.defaultPolicy

/-- Firmware measures its configuration before it sets STATE<0> (R387). -/
def State.measureConfig (s : State) : State := s.trust fun t => t.extend 2 s.configBytes

/-- The group that stands for a dispatch program (R294, log entry 45). -/
def programGroup (n kent asid : Nat) (o : Obj) (kernel : Nat) : Group :=
  { id := 2 ^ 32 + n, kent := kent, done := 0, dval := 0, count := 1, minch := 1, size := 1, queue := 0, dies := 2 ^ dieOf n,
    tenants := 0, asid := BitVec.ofNat 16 asid, params := [], tlms := [], remaining := 1, blocks := 1, object := o.handle,
    version := o.current, kernel := kernel, core := n }

/-- A dispatch program loaded and started on its core (R294). -/
def State.startProgram (s : State) (p : Nat × Nat × List Byte × Nat) : State :=
  let (n, asid, raw, k) := p
  let (st, b) := s.loadStatus asid raw
  if st ≠ 0 || 512 ≤ n || !s.dispatches n || !s.coreFree n then s
  else
    match s.loadObject asid b ((bankMaps [b]).headD []) (if isPortable raw then some (objDigest raw) else none) with
    | none => s
    | some (o, s) =>
      match o.kernels[k]? with
      | none => s
      | some kn =>
        let g := programGroup n kn.entry asid o k
        (s.sched fun d => { d with groups := d.groups ++ [g] }).startTask g n

/-- IMAGE_FETCH_COMPLETE (R385 to R387): the image is checked, measured and loaded, and firmware starts with its configuration, which it
measures; an image that fails a check fails the step. -/
def execImageFetchComplete (image : List Byte) (cfg : FirmwareConfig) (s : State) : Next :=
  let t := s.dev.trust
  if !t.inStep 3 || !s.portUp then .next s
  else if !imageOk t.minVersion image then .next (s.trust Trust.failBoot)
  else
    let s := s.trust fun t => { (t.measure image).load image with bootStep := 5 }
    let s := (s.configure cfg).measureConfig.trust fun t => { t with running := true }
    .next (cfg.programs.foldl State.startProgram s)

/-! ### Running firmware (R386, R392) -/

/-- MINIMUM_VERSION_RAISE (R386): by a signed request, and never lower. -/
def execMinimumVersionRaise (svn : Word32) (request : List Byte) (s : State) : Next :=
  let t := s.dev.trust
  .next (if t.running && Config.svnRequestSigned svn request && t.minVersion.toNat < svn.toNat then
      s.trust fun t => { t with minVersion := svn }
    else s)

/-- The bytes of a checkpoint (R392): the last SEQ, PH and the signing unit's signature over them. -/
def Trust.checkpoint (t : Trust) : List Byte :=
  let body := leBytes 8 (t.pcnt - 1) ++ leBytes 32 t.phead.toNat
  body ++ signature "CZ9-PROV" body ++ List.replicate 6 0

/-- Records after which a checkpoint is due (R392). -/
def checkpointEvery : Nat := 4096

/-- Whether 4,096 records have been appended since the last checkpoint (R392). -/
def State.checkpointDue (s : State) : Bool := s.dev.trust.running && decide (checkpointEvery ≤ s.dev.trust.unsigned)

/-- PROVENANCE_CHECKPOINT (R388, R392): after 4,096 records, or after a second in which a record has been appended. -/
def execProvenanceCheckpoint (s : State) : Next :=
  let t := s.dev.trust
  .next (if t.running && t.unsigned ≠ 0 then
      (s.physWrite t.ckptBase t.checkpoint).trust fun t => { t with unsigned := 0 }
    else s)

end Sys2Proof.Machine
end

