-- ==== Sys2Proof/Machine/Dispatch.lean ====
section
/-!
DEFINITION. The one place where an instruction meets its meaning: one arm for each constructor of Instr.
-/
namespace Sys2Proof.Machine

/-- One instruction, or one step that comes about outside a bundle, carried out. -/
def exec (i : Instr) (s : State) : Host.Outcome State Fault Refusal :=
  match i with
  | .idle f c => Sys2Proof.Machine.execIdle f c s
  | .br t => Sys2Proof.Machine.execBr t s
  | .brp t j p => Sys2Proof.Machine.execBrp t j p s
  | .brv t j q l => Sys2Proof.Machine.execBrv t j q l s
  | .prep t k p l => Sys2Proof.Machine.execPrep t k p l s
  | .prepi t k p l => Sys2Proof.Machine.execPrepi t k p l s
  | .call t => Sys2Proof.Machine.execCall t s
  | .ret k => Sys2Proof.Machine.execRet k s
  | .loopImm c l => Sys2Proof.Machine.execLoopImm c l s
  | .loopReg x l => Sys2Proof.Machine.execLoopReg x l s
  | .loopmImm x c l => Sys2Proof.Machine.execLoopmImm x c l s
  | .loopmReg x g l => Sys2Proof.Machine.execLoopmReg x g l s
  | .exitl t v => Sys2Proof.Machine.execExitl t v s
  | .exitlCond t j p v => Sys2Proof.Machine.execExitlCond t j p v s
  | .setstrImm b x => Sys2Proof.Machine.execSetstrImm b x s
  | .setstrReg b g => Sys2Proof.Machine.execSetstrReg b g s
  | .endTask => Sys2Proof.Machine.execEndTask s
  | .endHold m => Sys2Proof.Machine.execEndHold m s
  | .barc => Sys2Proof.Machine.execBarc s
  | .trap c => Sys2Proof.Machine.execTrap c s
  | .brk c => Sys2Proof.Machine.execBrk c s
  | .ccrr d c => Sys2Proof.Machine.execCcrr d c s
  | .ccrw x c => Sys2Proof.Machine.execCcrw x c s
  | .waite r e d t => Sys2Proof.Machine.execWaite r e d t s
  | .adapt h => Sys2Proof.Machine.execAdapt h s
  | .move m d x g => Sys2Proof.Machine.execMove m d x g s
  | .moveImmediate m d j g => Sys2Proof.Machine.execMoveImmediate m d j g s
  | .longImmediate m j => Sys2Proof.Machine.execLongImmediate m j s
  | .add m u t x g => Sys2Proof.Machine.execAdd m u t x g s
  | .sub m u t x g => Sys2Proof.Machine.execSub m u t x g s
  | .mul m u t x g => Sys2Proof.Machine.execMul m u t x g s
  | .mulh m u t x g => Sys2Proof.Machine.execMulh m u t x g s
  | .mulhu m u t x g => Sys2Proof.Machine.execMulhu m u t x g s
  | .and m u t x g => Sys2Proof.Machine.execAnd m u t x g s
  | .or m u t x g => Sys2Proof.Machine.execOr m u t x g s
  | .xor m u t x g => Sys2Proof.Machine.execXor m u t x g s
  | .andn m u t x g => Sys2Proof.Machine.execAndn m u t x g s
  | .shl m u t x g => Sys2Proof.Machine.execShl m u t x g s
  | .shr m u t x g => Sys2Proof.Machine.execShr m u t x g s
  | .sar m u t x g => Sys2Proof.Machine.execSar m u t x g s
  | .rotl m u t x g => Sys2Proof.Machine.execRotl m u t x g s
  | .min m u t x g => Sys2Proof.Machine.execMin m u t x g s
  | .max m u t x g => Sys2Proof.Machine.execMax m u t x g s
  | .minu m u t x g => Sys2Proof.Machine.execMinu m u t x g s
  | .maxu m u t x g => Sys2Proof.Machine.execMaxu m u t x g s
  | .clz m u t x g => Sys2Proof.Machine.execClz m u t x g s
  | .popc m u t x g => Sys2Proof.Machine.execPopc m u t x g s
  | .sel m u t x g => Sys2Proof.Machine.execSel m u t x g s
  | .ceq m u t x g => Sys2Proof.Machine.execCeq m u t x g s
  | .cne m u t x g => Sys2Proof.Machine.execCne m u t x g s
  | .clt m u t x g => Sys2Proof.Machine.execClt m u t x g s
  | .cle m u t x g => Sys2Proof.Machine.execCle m u t x g s
  | .cltu m u t x g => Sys2Proof.Machine.execCltu m u t x g s
  | .cleu m u t x g => Sys2Proof.Machine.execCleu m u t x g s
  | .divu m u t x g => Sys2Proof.Machine.execDivu m u t x g s
  | .remu m u t x g => Sys2Proof.Machine.execRemu m u t x g s
  | .madd m u t x g => Sys2Proof.Machine.execMadd m u t x g s
  | .bfx m u t x g => Sys2Proof.Machine.execBfx m u t x g s
  | .bfi m u t x g => Sys2Proof.Machine.execBfi m u t x g s
  | .vadd m u t w x g => Sys2Proof.Machine.execVadd m u t w x g s
  | .vsub m u t w x g => Sys2Proof.Machine.execVsub m u t w x g s
  | .vmul m u t w x g => Sys2Proof.Machine.execVmul m u t w x g s
  | .vfma m u t w x g => Sys2Proof.Machine.execVfma m u t w x g s
  | .vfms m u t w x g => Sys2Proof.Machine.execVfms m u t w x g s
  | .vmin m u t w x g => Sys2Proof.Machine.execVmin m u t w x g s
  | .vmax m u t w x g => Sys2Proof.Machine.execVmax m u t w x g s
  | .vabs m u t w x g => Sys2Proof.Machine.execVabs m u t w x g s
  | .vneg m u t w x g => Sys2Proof.Machine.execVneg m u t w x g s
  | .vceq m u t w x g => Sys2Proof.Machine.execVceq m u t w x g s
  | .vcne m u t w x g => Sys2Proof.Machine.execVcne m u t w x g s
  | .vclt m u t w x g => Sys2Proof.Machine.execVclt m u t w x g s
  | .vcle m u t w x g => Sys2Proof.Machine.execVcle m u t w x g s
  | .vcun m u t w x g => Sys2Proof.Machine.execVcun m u t w x g s
  | .vsel m u t w x g => Sys2Proof.Machine.execVsel m u t w x g s
  | .vand m u t w x g => Sys2Proof.Machine.execVand m u t w x g s
  | .vor m u t w x g => Sys2Proof.Machine.execVor m u t w x g s
  | .vxor m u t w x g => Sys2Proof.Machine.execVxor m u t w x g s
  | .vshl m u t w x g => Sys2Proof.Machine.execVshl m u t w x g s
  | .vshr m u t w x g => Sys2Proof.Machine.execVshr m u t w x g s
  | .vsar m u t w x g => Sys2Proof.Machine.execVsar m u t w x g s
  | .vcvt m u t w x g => Sys2Proof.Machine.execVcvt m u t w x g s
  | .vqnt m u t w x g => Sys2Proof.Machine.execVqnt m u t w x g s
  | .vdqnt m u t w x g => Sys2Proof.Machine.execVdqnt m u t w x g s
  | .vredadd m u t w x g => Sys2Proof.Machine.execVredadd m u t w x g s
  | .vredmax m u t w x g => Sys2Proof.Machine.execVredmax m u t w x g s
  | .vredmin m u t w x g => Sys2Proof.Machine.execVredmin m u t w x g s
  | .vbcast m u t w x g => Sys2Proof.Machine.execVbcast m u t w x g s
  | .vperm m u t w x g => Sys2Proof.Machine.execVperm m u t w x g s
  | .vscan m u t w x g => Sys2Proof.Machine.execVscan m u t w x g s
  | .viota m u t w x g => Sys2Proof.Machine.execViota m u t w x g s
  | .vcomp m u t w x g => Sys2Proof.Machine.execVcomp m u t w x g s
  | .vshift m u t w x g => Sys2Proof.Machine.execVshift m u t w x g s
  | .vpack m u t w x g => Sys2Proof.Machine.execVpack m u t w x g s
  | .vunpk m u t w x g => Sys2Proof.Machine.execVunpk m u t w x g s
  | .vclamp m u t w x g => Sys2Proof.Machine.execVclamp m u t w x g s
  | .vround m u t w x g => Sys2Proof.Machine.execVround m u t w x g s
  | .exp2 m w x g => Sys2Proof.Machine.execExp2 m w x g s
  | .log2 m w x g => Sys2Proof.Machine.execLog2 m w x g s
  | .rcp m w x g => Sys2Proof.Machine.execRcp m w x g s
  | .rsqrt m w x g => Sys2Proof.Machine.execRsqrt m w x g s
  | .sqrt m w x g => Sys2Proof.Machine.execSqrt m w x g s
  | .tanh m w x g => Sys2Proof.Machine.execTanh m w x g s
  | .wmac w a x j l => Sys2Proof.Machine.execWmac w a x j l s
  | .wmacy w a x j l => Sys2Proof.Machine.execWmacy w a x j l s
  | .wadd w a x l => Sys2Proof.Machine.execWadd w a x l s
  | .wsub w a x l => Sys2Proof.Machine.execWsub w a x l s
  | .waddy w a x l => Sys2Proof.Machine.execWaddy w a x l s
  | .wsuby w a x l => Sys2Proof.Machine.execWsuby w a x l s
  | .ymac w a x j l => Sys2Proof.Machine.execYmac w a x j l s
  | .yadd w a x l => Sys2Proof.Machine.execYadd w a x l s
  | .ysub w a x l => Sys2Proof.Machine.execYsub w a x l s
  | .yclr w a l => Sys2Proof.Machine.execYclr w a l s
  | .wclr w a l => Sys2Proof.Machine.execWclr w a l s
  | .wflush w a d l => Sys2Proof.Machine.execWflush w a d l s
  | .wcpy w a x l => Sys2Proof.Machine.execWcpy w a x l s
  | .mma f c a b g => Sys2Proof.Machine.execMma f c a b g s
  | .mmal f c a g => Sys2Proof.Machine.execMmal f c a g s
  | .mmals f c a g => Sys2Proof.Machine.execMmals f c a g s
  | .mmat f c a b g => Sys2Proof.Machine.execMmat f c a b g s
  | .mflush f c bb md mk pitch cl off g => Sys2Proof.Machine.execMflush f c bb md mk pitch cl off g s
  | .mclr c g => Sys2Proof.Machine.execMclr c g s
  | .mfmt f tw v g => Sys2Proof.Machine.execMfmt f tw v g s
  | .mdrain g => Sys2Proof.Machine.execMdrain g s
  | .tzero d g => Sys2Proof.Machine.execTzero d g s
  | .ttrn d a qf g => Sys2Proof.Machine.execTtrn d a qf g s
  | .topk d a k n rows mk g => Sys2Proof.Machine.execTopk d a k n rows mk g s
  | .rowmax d a n rows mk g => Sys2Proof.Machine.execRowmax d a n rows mk g s
  | .tqnt d bb qf bs soff off g => Sys2Proof.Machine.execTqnt d bb qf bs soff off g s
  | .maskld a g => Sys2Proof.Machine.execMaskld a g s
  | .ld o g bb sz sx d off => Sys2Proof.Machine.execLd o g bb sz sx d off s
  | .st o g bb sz x off => Sys2Proof.Machine.execSt o g bb sz x off s
  | .vld o g bb d off => Sys2Proof.Machine.execVld o g bb d off s
  | .vst o g bb x off => Sys2Proof.Machine.execVst o g bb x off s
  | .tldl o g bb d off => Sys2Proof.Machine.execTldl o g bb d off s
  | .tstl o g bb x off => Sys2Proof.Machine.execTstl o g bb x off s
  | .xld o g bb d off => Sys2Proof.Machine.execXld o g bb d off s
  | .xsc o g bb off => Sys2Proof.Machine.execXsc o g bb off s
  | .amol o g bb sz aop x d off => Sys2Proof.Machine.execAmol o g bb sz aop x d off s
  | .acqb g m => Sys2Proof.Machine.execAcqb g m s
  | .relb g m => Sys2Proof.Machine.execRelb g m s
  | .tdl o g bb d off => Sys2Proof.Machine.execTdl o g bb d off s
  | .vlds o g bb es d x off => Sys2Proof.Machine.execVlds o g bb es d x off s
  | .ldc o g bb sz sx d off => Sys2Proof.Machine.execLdc o g bb sz sx d off s
  | .stc o g bb sz x off => Sys2Proof.Machine.execStc o g bb sz x off s
  | .vldc o g bb d off => Sys2Proof.Machine.execVldc o g bb d off s
  | .vstc o g bb x off => Sys2Proof.Machine.execVstc o g bb x off s
  | .tldc o g bb d off => Sys2Proof.Machine.execTldc o g bb d off s
  | .tldm o g bb d m off => Sys2Proof.Machine.execTldm o g bb d m off s
  | .arm g d => Sys2Proof.Machine.execArm g d s
  | .amoc o g bb sz aop x d off => Sys2Proof.Machine.execAmoc o g bb sz aop x d off s
  | .mark g => Sys2Proof.Machine.execMark g s
  | .tld o g td d ba bb off => Sys2Proof.Machine.execTld o g td d ba bb off s
  | .tldRing o g td h ba bb off => Sys2Proof.Machine.execTldRing o g td h ba bb off s
  | .tst o g td x ba bb off => Sys2Proof.Machine.execTst o g td x ba bb off s
  | .tldx o g xt bb ln off => Sys2Proof.Machine.execTldx o g xt bb ln off s
  | .tstx o g xt bb ln off => Sys2Proof.Machine.execTstx o g xt bb ln off s
  | .xlate g xt v acc => Sys2Proof.Machine.execXlate g xt v acc s
  | .cpy o g bb kc km kr blk => Sys2Proof.Machine.execCpy o g bb kc km kr blk s
  | .gath g b es n => Sys2Proof.Machine.execGath g b es n s
  | .kapp o g bb kc km kr blk => Sys2Proof.Machine.execKapp o g bb kc km kr blk s
  | .pmatch o g bb kc km kr blk => Sys2Proof.Machine.execPmatch o g bb kc km kr blk s
  | .pins o g bb kc km kr blk => Sys2Proof.Machine.execPins o g bb kc km kr blk s
  | .prel o g bb kc km kr blk => Sys2Proof.Machine.execPrel o g bb kc km kr blk s
  | .blend o g bb kc km kr blk => Sys2Proof.Machine.execBlend o g bb kc km kr blk s
  | .coll o g bb kc km kr blk => Sys2Proof.Machine.execColl o g bb kc km kr blk s
  | .asn o g bb kc km kr blk => Sys2Proof.Machine.execAsn o g bb kc km kr blk s
  | .launch o g bb kc km kr blk => Sys2Proof.Machine.execLaunch o g bb kc km kr blk s
  | .waitm o g d a t => Sys2Proof.Machine.execWaitm o g d a t s
  | .amog o g xt sz aop x d off => Sys2Proof.Machine.execAmog o g xt sz aop x d off s
  | .fence g => Sys2Proof.Machine.execFence g s
  | .icinv g a l kc => Sys2Proof.Machine.execIcinv g a l kc s
  | .dgstAbsorb g f r => Sys2Proof.Machine.execDgstAbsorb g f r s
  | .dgstEmit g bb kc off => Sys2Proof.Machine.execDgstEmit g bb kc off s
  | .dgstReset g => Sys2Proof.Machine.execDgstReset g s
  | .decant o g bb kc km kr blk => Sys2Proof.Machine.execDecant o g bb kc km kr blk s
  | .cwait o g kc v => Sys2Proof.Machine.execCwait o g kc v s
  | .sld g b n o => Sys2Proof.Machine.execSld g b n o s
  | .sldl g w => Sys2Proof.Machine.execSldl g w s
  | .ixp g v h => Sys2Proof.Machine.execIxp g v h s
  | .nextChunk g => Sys2Proof.Machine.execNextChunk g s
  | .rngk g k c => Sys2Proof.Machine.execRngk g k c s
  | .rwait g h n => Sys2Proof.Machine.execRwait g h n s
  | .radv g h n => Sys2Proof.Machine.execRadv g h n s
  | .rpub g h n => Sys2Proof.Machine.execRpub g h n s
  | .rcfg g h x => Sys2Proof.Machine.execRcfg g h x s
  | .mmaDelivery core => Sys2Proof.Machine.execMmaDelivery core s
  | .mflushDelivery core => Sys2Proof.Machine.execMflushDelivery core s
  | .cQueuePerform core store => Sys2Proof.Machine.execCQueuePerform core store s
  | .multicastDelivery core d => Sys2Proof.Machine.execMulticastDelivery core d s
  | .transferArrival core ix => Sys2Proof.Machine.execTransferArrival core ix s
  | .gatherPush core => Sys2Proof.Machine.execGatherPush core s
  | .engineCommandCompletion core ix => Sys2Proof.Machine.execEngineCommandCompletion core ix s
  | .ringSlotFill core ix => Sys2Proof.Machine.execRingSlotFill core ix s
  | .unitResultDelivery core => Sys2Proof.Machine.execUnitResultDelivery core s
  | .scalePush core => Sys2Proof.Machine.execScalePush core s
  | .nextResult core => Sys2Proof.Machine.execNextResult core s
  | .stallEnd core => Sys2Proof.Machine.execStallEnd core s
  | .barrierPass core => Sys2Proof.Machine.execBarrierPass core s
  | .boundaryFault core => Sys2Proof.Machine.execBoundaryFault core s
  | .preovr core => Sys2Proof.Machine.execPreovr core s
  | .faultServiceResume core tier => Sys2Proof.Machine.execFaultServiceResume core tier s
  | .taskDrainEnd core => Sys2Proof.Machine.execTaskDrainEnd core s
  | .launchAccept core ix => Sys2Proof.Machine.execLaunchAccept core ix s
  | .schedulerCycle die => Sys2Proof.Machine.execSchedulerCycle die s
  | .firmwarePreemptRequest task => Sys2Proof.Machine.execFirmwarePreemptRequest task s
  | .preemptionSave task => Sys2Proof.Machine.execPreemptionSave task s
  | .taskResume task => Sys2Proof.Machine.execTaskResume task s
  | .doneWrite group => Sys2Proof.Machine.execDoneWrite group s
  | .writeBufferDrain die ix => Sys2Proof.Machine.execWriteBufferDrain die ix s
  | .tierMove asid tid tile tier p => Sys2Proof.Machine.execTierMove asid tid tile tier p s
  | .groupEviction iod root node remove => Sys2Proof.Machine.execGroupEviction iod root node remove s
  | .load seq => Sys2Proof.Machine.execLoad seq s
  | .unload seq => Sys2Proof.Machine.execUnload seq s
  | .swapcode seq => Sys2Proof.Machine.execSwapcode seq s
  | .seal seq => Sys2Proof.Machine.execSeal seq s
  | .adapterInstall seq => Sys2Proof.Machine.execAdapterInstall seq s
  | .translationInvalidation seq => Sys2Proof.Machine.execTranslationInvalidation seq s
  | .abetteCompile seq => Sys2Proof.Machine.execAbetteCompile seq s
  | .attestationQuote seq => Sys2Proof.Machine.execAttestationQuote seq s
  | .evqCtlWrite n v => Sys2Proof.Machine.execEvqCtlWrite n v s
  | .registerWrite off v => Sys2Proof.Machine.execRegisterWrite off v s
  | .hostBar2Write addr data => Sys2Proof.Machine.execHostBar2Write addr data s
  | .hostBar2Read addr len => Sys2Proof.Machine.execHostBar2Read addr len s
  | .hostSnoop iod line data => Sys2Proof.Machine.execHostSnoop iod line data s
  | .hostArchiveWrite seq => Sys2Proof.Machine.execHostArchiveWrite seq s
  | .hostReadError core ix => Sys2Proof.Machine.execHostReadError core ix s
  | .hostReadTimeout core ix => Sys2Proof.Machine.execHostReadTimeout core ix s
  | .linkDown kind unit => Sys2Proof.Machine.execLinkDown kind unit s
  | .functionLevelReset => Sys2Proof.Machine.execFunctionLevelReset s
  | .conventionalReset cellar => Sys2Proof.Machine.execConventionalReset cellar s
  | .routerAdvertTimeout => Sys2Proof.Machine.execRouterAdvertTimeout s
  | .bootRetryTimeout => Sys2Proof.Machine.execBootRetryTimeout s
  | .msg p => Sys2Proof.Machine.execMsg p s
  | .write p => Sys2Proof.Machine.execWrite p s
  | .read p => Sys2Proof.Machine.execRead p s
  | .rdresp p => Sys2Proof.Machine.execRdresp p s
  | .ack p => Sys2Proof.Machine.execAck p s
  | .collPacket p => Sys2Proof.Machine.execCollPacket p s
  | .retransmitTimeout conn => Sys2Proof.Machine.execRetransmitTimeout conn s
  | .collectiveTimeout tag => Sys2Proof.Machine.execCollectiveTimeout tag s
  | .farRegionWithdrawn base size => Sys2Proof.Machine.execFarRegionWithdrawn base size s
  | .powerWindow mean temp => Sys2Proof.Machine.execPowerWindow mean temp s
  | .thermalSupplyEvent kind temp => Sys2Proof.Machine.execThermalSupplyEvent kind temp s
  | .vaultScrub core line r => Sys2Proof.Machine.execVaultScrub core line r s
  | .memoryScrub addr r => Sys2Proof.Machine.execMemoryScrub addr r s
  | .kvScrub asid tid tile => Sys2Proof.Machine.execKvScrub asid tid tile s
  | .scrubRepair asid tid tile => Sys2Proof.Machine.execScrubRepair asid tid tile s
  | .checkerDetection core => Sys2Proof.Machine.execCheckerDetection core s
  | .spareSubstitution kind unit => Sys2Proof.Machine.execSpareSubstitution kind unit s
  | .resourceRetirement kind unit => Sys2Proof.Machine.execResourceRetirement kind unit s
  | .provenanceCheckpoint => Sys2Proof.Machine.execProvenanceCheckpoint s
  | .engineFaultResolution core ix tier => Sys2Proof.Machine.execEngineFaultResolution core ix tier s
  | .debugAgentResume core => Sys2Proof.Machine.execDebugAgentResume core s
  | .badcmd seq => Sys2Proof.Machine.execBadcmd seq s
  | .minimumVersionRaise svn request => Sys2Proof.Machine.execMinimumVersionRaise svn request s
  | .linkUp kind unit => Sys2Proof.Machine.execLinkUp kind unit s
  | .connectionOpen conn peer => Sys2Proof.Machine.execConnectionOpen conn peer s
  | .perHopReplay port => Sys2Proof.Machine.execPerHopReplay port s
  | .lldpAnnouncement port announced => Sys2Proof.Machine.execLldpAnnouncement port announced s
  | .flitCrcReplay lane => Sys2Proof.Machine.execFlitCrcReplay lane s
  | .msiXHoldoffExpiry source => Sys2Proof.Machine.execMsiXHoldoffExpiry source s
  | .routerAdvertisement addr => Sys2Proof.Machine.execRouterAdvertisement addr s
  | .dhcpv6Reply addr url => Sys2Proof.Machine.execDhcpv6Reply addr url s
  | .bootUrlWrite url => Sys2Proof.Machine.execBootUrlWrite url s
  | .bootUrlWindowExpiry => Sys2Proof.Machine.execBootUrlWindowExpiry s
  | .imageFetchComplete image cfg => Sys2Proof.Machine.execImageFetchComplete image cfg s

end Sys2Proof.Machine
end

