-- ==== Sys2Proof/Machine/Bundle.lean ====
section
/-!
DEFINITION. A core's turn: the bundle at PC is fetched and checked (R28 to R38, R45, R48, R49), its slots have their effects in one
cycle and it commits, stalls or traps (R77 to R91, R250), loops go round (R92, R100 to R104, R241 to R245), and pre-emption
lands (R251, R252); and what comes about next in the machine (log entry 1).
-/
namespace Sys2Proof.Machine

/-! ### Fetch (R28, R29, R315) -/

/-- The bundle at PC; a word of it that is not there is a fetch fault of the whole bundle (R29). -/
def State.fetch (s : State) : Except TrapInfo RawBundle :=
  match s.codeWords s.core.seq.pc.toNat 1 with
  | none => .error (bundleFault s.core.seq.pc.toNat)
  | some h =>
    let n := bundleLength (leNat h)
    match s.codeWords s.core.seq.pc.toNat n with
    | none => .error (bundleFault s.core.seq.pc.toNat)
    | some bs =>
      match decodeBundle bs with
      | .ok b => .ok b
      | .error _ => .error { cause := .illb, slot := 15 }

/-! ### Iteration ends (R101, R103, R242, R243) -/

/-- Strides added to b0 to b7 (R101). -/
def Core.addStrides (c : Core) (t : Table Word32) : Core :=
  { c with regs := { c.regs with b := (List.range 8).foldl (fun (b : Table Word32) j =>
      b.set 0 j (b.get 0 j + t.get 0 j)) c.regs.b } }

/-- The step of a LOOPM level's registers at an iteration end (R103): LC, SV, rotation, p8. -/
def Core.rotate (c : Core) (l : Level) : Core :=
  let more := c.seq.lc != 0
  let sv := (2 * c.seq.sv.toNat + bit more) % 2 ^ l.stages.toNat
  let c := { c with seq := { c.seq with
    lc := if more then c.seq.lc - 1 else 0, sv := BitVec.ofNat 16 sv, rrb := c.seq.rrb + 1 } }
  { c with regs := { c.regs with p := c.regs.p.set false (c.pKey 8) more } }

/-- Whether PC stands at the end of the innermost level's body, at its call depth (R242). Of a level whose body an inner one reaches past
no iteration ends here while the inner level is active. DESIGN CHOICE, log entry 105. -/
def Seq.atEnd (q : Seq) : Bool :=
  match q.levels with
  | l :: _ => l.stop == q.pc && l.depth == q.depth
  | [] => false

/-- The ends of the iterations of which PC is the end, innermost first: a level goes round or pops (R101, R103). `fuel` is
at least the number of levels. -/
def Core.endIterations : Nat → Core → Core
  | 0, c => c
  | fuel + 1, c =>
    if !c.seq.atEnd then c
    else
      match c.seq.levels with
      | [] => c
      | l :: outer =>
        let c := (if l.modulo then c.rotate l else c).addStrides l.strides
        let again := if l.modulo then c.seq.sv != 0 else (l.index + 1).toNat < l.count.toNat
        if again then
          { c with seq := { c.seq with pc := l.start, levels := { l with index := l.index + 1, issued := false } :: outer } }
        else Core.endIterations fuel { c with seq := { c.seq with levels := outer } }

/-- The iteration ends at PC, and the point that they offer (R251), from which PREOVR's cycles count anew (R252). -/
def Core.endAll (c : Core) (offers : Bool) : Core :=
  let d := c.endIterations (c.seq.levels.length + 1)
  { d with
    ctx := { d.ctx with point := d.ctx.point || offers }
    ctl := { d.ctl with overrun := if offers then 0 else d.ctl.overrun } }

/-! ### Bundles skipped by FL (R33, R242) -/

/-- Whether a header selects the iteration that is going on (R33, R243). -/
def Seq.selects (q : Seq) (h : Nat) : Bool :=
  fieldOf h 31 30 == 0 || (bitOf h 30 && q.first) || (bitOf h 31 && q.last)

/-- The length of the bundle at PC, if it is skipped. -/
def State.skips (s : State) : Option Nat :=
  let q := s.core.seq
  if q.levels.isEmpty then none
  else
    match s.codeWords q.pc.toNat 1 with
    | none => none
    | some h => if q.selects (leNat h) then none else some (bundleLength (leNat h))

/-- PC `n` words further on. -/
def Core.advance (c : Core) (n : Nat) : Core :=
  { c with seq := { c.seq with pc := BitVec.ofNat 64 ((c.seq.pc.toNat + 4 * n) % 2 ^ 57), cold := false } }

/-- Skipped bundles passed over, with the iteration ends they hold, which are points unless the bundle that issued last is an EXITL
(R251); true where no bundle can be tried in this step: an iteration
of which no bundle issued has taken the cycle, which only happens where it `may` (R242), or the run of skipped bundles goes
on. -/
def State.skipOver (may : Bool) : Nat → State → State × Bool
  | 0, s => (s, true)
  | fuel + 1, s =>
    match s.skips with
    | none => (s, false)
    | some n =>
      let t := s.mod (·.advance n)
      if !t.core.seq.atEnd then State.skipOver may fuel t
      else if (s.core.seq.levels.head?.map (·.issued)).getD true then State.skipOver may fuel (t.mod fun c => c.endAll (!c.ctx.noPoint))
      else if may then (t.mod fun c => { c.endAll true with wake := s.cycle + 1 }, true)
      else (s, false)

/-- The skipped bundles that one step passes over; a longer run goes on in the next step, in the same cycle. -/
def skipFuel : Nat := 2 ^ 16

/-! ### The checks of a bundle (R34, R36, R45, R48, R49, R100) -/

/-- The slots of a bundle that have an INC bit: bit number and slot (R28). -/
def incSlots : List (Nat × Nat) := [(27, 8), (28, 9), (29, 10)]

/-- The increment field of slot 8, 9 or 10 (R28). -/
def incField (w n : Nat) : Nat := fieldOf w (10 * (n - 8) + 9) (10 * (n - 8))

/-- The slot that the first failing check of the header and the increment word reports (R48, R49). -/
def headerTrap (noLevel : Bool) (b : RawBundle) : Option Nat :=
  let h := b.header
  if headerIdle h then (if fieldOf h 31 30 ≠ 0 && noLevel then some 15 else none)
  else if bitOf h 12 then some 0
  else
    match (List.range 12).find? fun n => bitOf h n && bitOf h (12 + n) with
    | some n => some n
    | none =>
      if 5 ≤ fieldOf h 26 24 then some 15
      else
        match incSlots.find? fun x => bitOf h x.1 && !bitOf h (12 + x.2) with
        | some x => some x.2
        | none =>
          match incSlots.find? fun x => !bitOf h x.1 && incField b.inc x.2 != 0 with
          | some x => some x.2
          | none =>
            if fieldOf b.inc 31 30 ≠ 0 then some 15
            else if fieldOf h 31 30 ≠ 0 && noLevel then some 15
            else none

/-- The access unit of an instruction with an address offset (R36). -/
def accessUnit : Instr → Option Nat
  | .ld _ _ _ sz _ _ _ => some (2 ^ sz.toNat)
  | .st _ _ _ sz _ _ => some (2 ^ sz.toNat)
  | .vld _ _ _ _ _ => some 128
  | .vst _ _ _ _ _ => some 128
  | .tldl _ _ _ _ _ => some 4096
  | .tstl _ _ _ _ _ => some 4096
  | .xld _ _ _ _ _ => some 128
  | .xsc _ _ _ _ => some 256
  | .amol _ _ _ sz _ _ _ _ => some (4 * 2 ^ sz.toNat)
  | .tdl _ _ _ _ _ => some 64
  | .vlds _ _ _ _ _ _ _ => some 128
  | .ldc _ _ _ sz _ _ _ => some (2 ^ sz.toNat)
  | .stc _ _ _ sz _ _ => some (2 ^ sz.toNat)
  | .vldc _ _ _ _ _ => some 128
  | .vstc _ _ _ _ _ => some 128
  | .tldc _ _ _ _ _ => some 4096
  | .tldm _ _ _ _ _ _ => some 4096
  | .amoc _ _ _ sz _ _ _ _ => some (4 * 2 ^ sz.toNat)
  | .tld _ _ _ _ _ _ _ => some 1
  | .tldRing _ _ _ _ _ _ _ => some 1
  | .tst _ _ _ _ _ _ _ => some 1
  | .tldx _ _ _ _ ln _ => some (64 * 2 ^ ln.toNat)
  | .tstx _ _ _ _ ln _ => some (64 * 2 ^ ln.toNat)
  | .amog _ _ _ sz _ _ _ _ => some (4 * 2 ^ sz.toNat)
  | _ => none

/-- A repeated word with its increment applied to bits 31:0 (R36). -/
def incremented (w unit f : Nat) : Nat := w / 2 ^ 32 * 2 ^ 32 + (w + wrapTo 32 (signedOf 10 f * unit)) % 2 ^ 32

/-- A word that a bundle executes: its slot, its bits and the instruction. -/
structure BWord where
  slot : Nat
  bits : Nat
  instr : Instr

/-- The word that slot `n` executes, new or repeated, or why it is none (R34, R36, R38, R49). -/
def Core.slotWord (c : Core) (b : RawBundle) (n : Nat) : Except TrapInfo (Option BWord) :=
  let read := fun (w : Nat) => match decodeSlot n w with
    | .ok i => .ok (some ⟨n, w, i⟩)
    | .error _ => .error { cause := .illop, slot := n : TrapInfo }
  match b.words.find? (·.1 == n) with
  | some w => read w.2.1
  | none =>
    if !bitOf b.header (12 + n) then .ok none
    else
      match c.prev.get none n with
      | none => .error { cause := .illb, slot := n }
      | some w =>
        if bitOf b.header (19 + n) && 8 ≤ n && n ≤ 10 then
          match (decodeSlot n w.toNat).toOption.bind accessUnit with
          | none => .error { cause := .illb, slot := n }
          | some u => read (incremented w.toNat u (incField b.inc n))
        else read w.toNat

/-- The words of a bundle in ascending slot index. -/
def Core.slotWords (c : Core) (b : RawBundle) : List Nat → Except TrapInfo (List BWord)
  | [] => .ok []
  | n :: r => do
    let w ← c.slotWord b n
    let l ← c.slotWords b r
    return w.toList ++ l

/-- The unit that an M word triggers, if it is a trigger (R41). -/
def triggered (w : BWord) : Option Nat :=
  if 1 ≤ w.slot && w.slot ≤ 4 && fieldOf w.bits 31 30 = 1 then some (fieldOf w.bits 29 27) else none

/-- The register of the weight engine that a W word writes: its file and number (R45, R46). -/
def weightDest (w : BWord) : Option (Nat × Nat) :=
  if w.slot = 5 || w.slot = 6 then
    let op := fieldOf w.bits 31 27
    if op = 12 then none
    else if 7 ≤ op && op ≤ 10 then some (1, fieldOf w.bits 26 21)
    else some (0, fieldOf w.bits 26 21)
  else none

/-- Whether an M word is a long immediate, and whether it is a plain one (R42). -/
def BWord.form (w : BWord) : Nat := fieldOf w.bits 31 30

/-- The lower slot of the first pair of words that break a limit of R45. -/
def crossTrap (ws : List BWord) : Option Nat :=
  let clash := fun (x y : BWord) =>
    x.slot < y.slot && ((triggered x).isSome && triggered x == triggered y || (weightDest x).isSome && weightDest x == weightDest y)
  let alone := fun (x : BWord) =>
    1 ≤ x.slot && x.slot ≤ 4 && x.form == 3 && !(ws.any fun y => y.slot == (if x.slot % 2 = 1 then x.slot + 1 else x.slot - 1) && y.form == 2)
  (ws.find? fun x => alone x || ws.any (clash x)).map (·.slot)

/-- Whether a bundle at PC is one of a level's body and runs past the body's end (R100). -/
def Level.crossed (l : Level) (q : Seq) (b : RawBundle) : Bool :=
  l.depth == q.depth && l.inBody q.pc && decide (l.stop.toNat < q.pc.toNat + 4 * b.length)

/-- The slot reported where a body's bundle runs past the body's end (R100): of any level opened at the current call depth, an
enclosing one too. -/
def Seq.pastEnd (q : Seq) (b : RawBundle) : Option Nat :=
  match (q.levels.filter (·.crossed q b)).map (·.stop.toNat) with
  | [] => none
  | x :: r =>
    let stop := r.foldl min x
    some (((b.words.find? fun w => stop < q.pc.toNat + 4 * (w.2.2 + slotWidth w.1 / 32)).map (·.1)).getD 15)

/-- An ILLB of slot `n`. -/
def illb (n : Option Nat) : Except TrapInfo Unit :=
  match n with
  | some n => .error { cause := .illb, slot := n }
  | none => .ok ()

/-- The words that a bundle executes, or the trap of its first failing check before issue (R49). An idle bundle executes
its header. -/
def Core.checked (c : Core) (b : RawBundle) : Except TrapInfo (List BWord) := do
  illb (headerTrap c.seq.levels.isEmpty b)
  let ws ← if headerIdle b.header then .ok [⟨12, b.header, decodeIdle b.header⟩] else c.slotWords b (List.range 12)
  illb (crossTrap ws)
  illb (c.seq.pastEnd b)
  return ws

/-! ### Issue (R77, R80, R81, R86) -/

/-- What the bundle gives its slots: the scope, its place, and registers as they stood before it (R32, R77). -/
def State.context (s : State) (b : RawBundle) (ws : List BWord) : Ctx :=
  let c := s.core
  { scope := if headerIdle b.header then 0 else fieldOf b.header 26 24, pc := c.seq.pc,
    next := BitVec.ofNat 64 ((c.seq.pc.toNat + 4 * b.length) % 2 ^ 57), words := ws.map (·.instr), lits := 0, xfer := none,
    lines := [], cold := false, skip := 0, prevails := false, opened := false, noPoint := false, point := false,
    digest0 := BitVec.ofNat 64 c.ctl.digest.word,
    filled0 := c.handleMask (·.hasSlot), bound0 := c.handleMask (·.bound), popped := [], freed := [] }

/-- The machine as the slots of a bundle find it. -/
def State.opening (s : State) (b : RawBundle) (ws : List BWord) : State :=
  s.mod fun c => { c with ctx := s.context b ws, wake := s.cycle + 1 }

/-- The order in which the words of a bundle are carried out: ascending slots, but B last, which sees what the others consume
(log entry 30). -/
def foldOrder (ws : List BWord) : List BWord :=
  [1, 2, 3, 4, 5, 6, 7, 8, 9, 10, 11, 12, 0].filterMap fun n => ws.find? (·.slot == n)

/-- How far the words of a bundle have come: the state with the effects of those that had any, the stalls and the traps of
the others, and an outcome that is no next state. -/
structure Progress where
  s : State
  stalls : List (BWord × State)
  traps : List TrapInfo
  stop : Option Next

/-- One word carried out: a word that stalls or traps leaves the state as it found it. -/
def Progress.word (p : Progress) (w : BWord) : Progress :=
  match exec w.instr p.s with
  | .next t =>
    match t.core.ctl.run with
    | .frozen i _ => { p with traps := p.traps ++ [i] }
    | _ => if t.core.stall.isSome then { p with stalls := p.stalls ++ [(w, t)] } else { p with s := t }
  | o => { p with stop := some o }

/-- All words carried out. -/
def Progress.all (p : Progress) (ws : List BWord) : Progress := ws.foldl Progress.word p

/-- The lane groups that an M word claims (R14, R86). -/
def laneClaim (w : BWord) : Nat :=
  match triggered w with
  | some u => if u = 2 || u = 3 then 2 ^ fieldOf w.bits 16 15 else 0
  | none => 0

/-- The first slot whose claim brings the lane groups held above four (R86). -/
def laneTrap : Nat → List BWord → Option Nat
  | _, [] => none
  | held, w :: r => if laneClaim w ≠ 0 && 4 < held + laneClaim w then some w.slot else laneTrap (held + laneClaim w) r

/-- Lane groups held from earlier bundles. -/
def State.lanesHeld (s : State) : Nat := ((s.core.qs.lanes.filter fun x => s.cycle < x.2).map (·.1)).sum

/-- The trap of the lowest slot. -/
def lowestTrap : List TrapInfo → Option TrapInfo
  | [] => none
  | t :: r =>
    match lowestTrap r with
    | some u => if u.slot < t.slot then some u else some t
    | none => some t

/-- The issue trap of a bundle, if it has one (R81). -/
def State.issueTrap (s : State) (ws : List BWord) (traps : List TrapInfo) : Option TrapInfo :=
  match laneTrap s.lanesHeld ws with
  | some n => some { cause := .laneconf, slot := n }
  | none => lowestTrap traps

/-! ### Commit (R35, R78, R80, R92, R114) -/

/-- Previous words take what was executed (R35). -/
def Core.keepWords (c : Core) (ws : List BWord) : Core :=
  { c with prev := ws.foldl (fun (t : Table (Option Word64)) w =>
      if 1 ≤ w.slot && w.slot ≤ 11 then t.set none w.slot (some (BitVec.ofNat 64 w.bits)) else t) c.prev }

/-- Where the sequencer goes after the bundle that commits in cycle `now`: LPC past what was consumed unless the transfer sets it (R92,
R95, R149). -/
def Core.moveOn (c : Core) (now : Nat) : Core :=
  let lpc := c.lpcAfter
  match c.ctx.xfer with
  | some (pc, l) =>
    { c with seq := { c.seq with
        pc := pc, lpc := l.getD lpc, stream := c.ctx.lines, streamFrom := pc, streamAt := now + 1, cold := c.ctx.cold } }
  | none => { c with seq := { c.seq with pc := c.ctx.next, lpc := lpc, cold := false } }

/-- The bundle counts as one of the current iteration of every level in whose body it lies (R242). -/
def Core.countIssue (c : Core) : Core :=
  let old := if c.ctx.opened then c.seq.levels.take 1 else []
  let rest := if c.ctx.opened then c.seq.levels.drop 1 else c.seq.levels
  { c with seq := { c.seq with levels := old ++ rest.map fun l => { l with issued := true } } }

/-- What is over by cycle `t` is forgotten. -/
def Core.trim (c : Core) (t : Nat) : Core :=
  { c with
    undo := c.undo.filter fun u => c.bundles ≤ u.1 + 2
    qs := { c.qs with lanes := c.qs.lanes.filter fun x => t < x.2 }
    eng := { c.eng with hazards := c.eng.hazards.filter fun h => t < h.due, busyPairs := c.eng.busyPairs.filter fun p => t < p.1 } }

/-- The iteration ends of a bundle that falls through to PC (R101, R242): those of levels that end with the bundle itself, then,
where none of them goes round, those that end with a body that the bundle skips (R100; log entry 86). -/
def Core.endBundle (c : Core) : Core :=
  let ended := fun (c : Core) => if c.seq.atEnd then c.endAll (!c.ctx.noPoint) else c
  let d := ended c
  if c.ctx.skip = 0 || d.seq.pc ≠ c.seq.pc then d else ended (d.advance c.ctx.skip)

/-- The bundle commits in cycle `now`: what the sequencer reads is delivered, and an iteration that the bundle ends is ended after
it (R78, R101, R114). Its other moves land in the next cycle, in the order of R16. -/
def Core.commit (c : Core) (ws : List BWord) (now : Nat) : Core :=
  let cost := c.wake - now
  let c := (c.keepWords ws).deliverIf Dest.atCommit (now + 1)
  let c := { c with
    bundles := c.bundles + 1, waiting := none, stall := none
    ctl := { c.ctl with overrun := if c.ctl.preempt then c.ctl.overrun + cost else c.ctl.overrun } }
  let c := (c.moveOn now).countIssue
  let c := if c.ctx.xfer.isNone && !c.ctx.prevails then c.endBundle else c
  c.trim now

/-- The state after a commit, with what the bundle released credited (R182), and the bundles that the new iteration skips passed over
(R33, R242). -/
def State.committed (s : State) (ws : List BWord) : State :=
  let s := (s.core.ctx.freed.foldl State.creditSlots s).mod fun c => c.commit ws s.cycle
  if s.core.ctl.run = .running then (State.skipOver false skipFuel s).1 else s

/-! ### Stalls (R87) and gang waits (R251) -/

/-- The core as it would stand if no C-slot load, atomic or multicast were under way to a register. -/
def Core.withoutLateral (c : Core) : Core :=
  let calm := fun (e : CEntry) => { e with kind := .publish 0 0 0 }
  { c with
    eng := { c.eng with armed := [] }
    qs := { c.qs with
      loads := c.qs.loads.map calm
      stores := c.qs.stores.map calm
      flight := c.qs.flight.filter fun d => match d.dest with
        | .gC _ => false
        | .vC _ => false
        | .tileC _ => false
        | _ => true } }

/-- Whether a word still stalls for the same reason on another core state. -/
def stallsStill (i : Instr) (e : PerfEvent) (s : State) : Bool :=
  match exec i s with
  | .next t => t.core.stall == some e
  | _ => false

/-- Whether a stalled word is a gang wait (R251). -/
def State.gangWait (s : State) (w : BWord) (e : PerfEvent) : Bool :=
  match e, w.instr with
  | .stallring, _ => true
  | .stallg, .cwait _ _ _ v => (s.core.gWait (s.core.gKey v.toNat)).isNone
  | .stallg, .waitm _ _ _ a t => (s.core.gWait (s.core.gKey a.toNat)).isNone && (s.core.gWait (s.core.gKey t.toNat)).isNone
  | .stallld, .acqb _ _ => true
  | .qfull, _ => w.slot == 9
  | .stallld, i => !stallsStill i e (s.mod (·.withoutLateral))
  | .stallt, i => !stallsStill i e (s.mod (·.withoutLateral))
  | _, _ => false

/-- Whether a stall with a request pending is a pre-emptible point: a BARC wait, in which the member has arrived (R106), or a gang wait
of a gang (R251). -/
def State.stallPoint (s : State) (stalls : List (BWord × State)) : Bool :=
  let arrived := s.core.arrived.isSome || stalls.all (·.1.instr == .barc)
  s.core.ctl.preempt && stalls.any fun x =>
    (x.1.instr == .barc && arrived) || (1 < s.core.ctl.size && s.gangWait x.1 (x.2.core.stall.getD .stallg))

/-- The stall of the lowest slot. -/
def lowestStall : List (BWord × State) → Option (BWord × State)
  | [] => none
  | x :: r =>
    match lowestStall r with
    | some y => if y.1.slot < x.1.slot then some y else some x
    | none => some x

/-- The core frozen at a pre-emptible point in this cycle (R248, R251). -/
def State.freezePoint (s : State) : State :=
  s.mod fun c => { c with ctl := { c.ctl with run := .point s.cycle }, stall := none, waiting := none }

/-- A stalled bundle keeps of its WAITM's read the READs sent to a peer, the host lines held, and the A bits that its walk set (R341,
R348, R360). -/
def State.watching (s : State) (stalls : List (BWord × State)) : State :=
  match stalls.find? (·.1.slot == 10) with
  | some (_, t) =>
    { s with dev := { s.dev with
        fabric := t.dev.fabric, sys := { s.dev.sys with hostLines := t.dev.sys.hostLines, mem := t.dev.sys.mem } } }
  | none => s

/-- The bundle stalls for this cycle (R87): the state is as before it, but for the wait itself. A wait that is a point takes a request, or
counts as one reached where a multicast is held (R174, R252). -/
def State.stalled (s : State) (ctx : Ctx) (stalls : List (BWord × State)) : State :=
  match lowestStall stalls with
  | none => s
  | some (_, t) =>
    let e := t.core.stall.getD .stallg
    let wait := (stalls.findSome? fun x => x.2.core.waiting)
    let arrives := stalls.all (·.1.instr == .barc)
    let u := (s.watching stalls).mod fun c => { c.count e with
      stall := some e
      waiting := if wait.isSome then wait else c.waiting
      arrived := if arrives then t.core.arrived else c.arrived
      ctx := { ctx with point := c.ctx.point }
      wake := s.cycle + 1 }
    let u := if arrives then u.tryBarrier else u
    if !s.stallPoint stalls then u
    else if s.multicastHeld then u.mod fun c => { c with ctl := { c.ctl with overrun := 0 } }
    else u.freezePoint

/-! ### A turn -/

/-- One step carried out where it answers a next state. -/
def State.via (s : State) (i : Instr) : State :=
  match exec i s with
  | .next t => t
  | _ => s

/-- Whether a pending request lands here (R250, R251). -/
def State.landsHere (s : State) : Bool := s.core.ctx.point && s.core.ctl.preempt && !s.multicastHeld && s.core.boundaryCause.isNone

/-- What takes effect at this boundary before the next bundle, unless an issue trap of that bundle does (R250): a fault or TRAP or
BRK that waits, PREOVR, or a request that lands. -/
def State.causeHere (s : State) : Option Next :=
  if s.core.boundaryCause.isSome then some (exec (.boundaryFault s.cur) s)
  else if s.core.overran then some (exec (.preovr s.cur) s)
  else if s.landsHere then some (.next s.freezePoint)
  else none

/-- A trap of the bundle that tries to issue is taken; a fault of it only where no older one waits (R250). -/
def State.trapHere (s : State) (t : TrapInfo) : Next :=
  if t.cause.cls = 2 && s.core.boundary.any (·.cause.cls != 1) then exec (.boundaryFault s.cur) s
  else .next (takeTrap t s.cycle s)

/-- The place where a cause meets a request at a BARC or gang wait is still a point when the core resumes there (R250). -/
def State.meets (s : State) (stalls : List (BWord × State)) : State :=
  if s.stallPoint stalls then s.mod fun c => { c with ctx := { c.ctx with point := true } } else s

/-- What becomes of a bundle that has passed the checks before issue (R80, R81, R90, R250): its trap is taken once it does not
stall, or a cause that waits for this boundary is, or it stalls, or it commits. -/
def State.settleBundle (s : State) (ws : List BWord) (p : Progress) : Next :=
  match p.stop with
  | some o => o
  | none =>
    match (if p.stalls.isEmpty then s.issueTrap ws p.traps else none) with
    | some t => s.trapHere t
    | none =>
      match (if s.core.boundaryCause.isSome || s.core.overran then s.meets p.stalls else s).causeHere with
      | some o => o
      | none => .next (if p.stalls.isEmpty then p.s.committed ws else s.stalled p.s.core.ctx p.stalls)

/-- The bundle at PC tries to issue. -/
def State.attempt (s : State) : Next :=
  match s.fetch with
  | .error t => s.trapHere t
  | .ok b =>
    match s.core.checked b with
    | .error t => s.trapHere t
    | .ok ws => s.settleBundle ws (Progress.all ⟨s.opening b ws, [], [], none⟩ (foldOrder ws))

/-- Whether the straight-line code up to the end of the next bundle is more than the code stream unit has delivered: the 256 bytes of a
target buffer, then 64 bytes a cycle (R37, R93). A loop's body that has gone round is in the bundle buffer. DEDUCED, log entry 114. -/
def State.outruns (s : State) : Bool :=
  let q := s.core.seq
  match s.codeWords q.pc.toNat 1 with
  | none => false
  | some h => 256 + 64 * (s.cycle - q.streamAt) < q.pc.toNat + 4 * bundleLength (leNat h) - q.streamFrom.toNat

/-- Whether the code stream unit has yet to bring the next bundle (R37, R110, R300): it has not where nothing fetched the bundle ahead,
or where it cannot keep up, as long as the bundle buffer does not hold it. -/
def State.starved (s : State) : Bool :=
  decide (s.cycle < s.core.supply) && (s.core.seq.cold || s.outruns) && !s.inBuffer s.core.seq.pc.toNat

/-- A cycle in which the whole core waits for its code (R37, R87). -/
def State.fetchStall (s : State) : State :=
  s.mod fun c => { c.count .fetchstall with stall := some .fetchstall, wake := s.cycle + 1 }

/-- A core's turn in a cycle in which it may issue. Where the next bundle is not there yet or is skipped, it raises no issue trap,
and what waits for this boundary takes effect. -/
def State.turn (s : State) : Next :=
  let s := s.via (.stallEnd s.cur)
  match (if s.starved || s.skips.isSome then s.causeHere else none) with
  | some o => o
  | none =>
    if s.starved then .next s.fetchStall
    else
      let (s, spent) := State.skipOver true skipFuel s
      if spent then .next s else s.attempt

/-! ### What comes about next (log entry 1) -/

/-- Whether the core may issue a bundle in this cycle. -/
def State.mayIssue (s : State) : Bool := s.core.ctl.run == .running && decide (s.core.wake ≤ s.cycle)

/-- The cycles within which a C-slot access performs, so that a load's data can be read 30 cycles after issue (R83, R173). -/
def lateralBound : Nat := 29

/-- Whether the head of a queue has waited for all the cycles it may, and can perform. -/
def State.lateralDue (s : State) (store : Bool) : Bool :=
  match (if store then s.core.qs.stores else s.core.qs.loads) with
  | [] => false
  | e :: _ => e.issued + lateralBound ≤ s.cycle && s.mayPerform e

/-- The cycles within which an XLATE completes (R83). -/
def xlateBound : Nat := 1200

/-- The place of an XLATE that has waited for all the cycles it may and can perform. -/
def State.xlateDue (s : State) : Option Nat :=
  (List.range s.core.port.length).find? fun ix =>
    match s.core.port[ix]? with
    | some e =>
      (match e.op with
        | .xlate _ _ _ => true
        | _ => false) && e.issued + xlateBound ≤ s.cycle && s.mayTransfer ix e
    | none => false

/-- The cycle in which an operation of the exit unit delivers. -/
def ExitJob.due : ExitJob → Nat
  | .mflush d _ _ _ _ _ _ _ _ _ _ _ _ => d
  | .tqnt d _ _ _ => d

/-- The step of the current core that can wait no longer, if there is one. -/
def State.dueStep (s : State) : Option Instr :=
  let c := s.core
  let live := c.delivers
  if s.checkpointDue then some .provenanceCheckpoint
  else if live && c.eng.mmas.any (·.due ≤ s.cycle) then some (.mmaDelivery s.cur)
  else if live && c.eng.exits.any (·.due ≤ s.cycle) then some (.mflushDelivery s.cur)
  else if live && c.qs.fills.any (·.due ≤ s.cycle) then some (.scalePush s.cur)
  else if s.lateralDue false then some (.cQueuePerform s.cur false)
  else if s.lateralDue true then some (.cQueuePerform s.cur true)
  else if live && c.qs.nexts.any (·.due ≤ s.cycle) then some (.nextResult s.cur)
  else if live && c.qs.flight.any (·.due ≤ s.cycle) then some (.unitResultDelivery s.cur)
  else if c.ctl.run == .ending && c.boundaryCause.isSome && decide (c.wake ≤ s.cycle) then some (.boundaryFault s.cur)
  else
    match s.xlateDue with
    | some ix => some (.transferArrival s.cur ix)
    | none => if c.spent && decide (c.wake ≤ s.cycle) then some (.taskDrainEnd s.cur) else none

/-- Whether a core has something to do in this cycle: a step that can wait no longer, or a bundle to issue. -/
def State.busyAt (s : State) (n : Nat) : Bool :=
  let t := s.turnTo n
  t.dueStep.isSome || t.mayIssue

/-- The core that has its turn next in this cycle: the next in use, or after the last one whose turn the schedule passed over. -/
def State.nextTurn (s : State) : Option Nat :=
  match s.others.find? fun (x : Nat × Core) => s.cur < x.1 with
  | some x => some x.1
  | none => (s.others.find? fun (x : Nat × Core) => s.busyAt x.1).map (·.1)

/-- The core's turn in this cycle is over: the next core has its turn, and when all have had theirs each die's scheduler has
its turn and the cycle is over (R298). -/
def State.pass (s : State) : State :=
  match s.nextTurn with
  | some n => s.turnTo n
  | none =>
    let s := { s.schedulers with cycle := s.cycle + 1 }
    match s.others with
    | x :: _ => if x.1 < s.cur then s.turnTo x.1 else s
    | [] => s

/-- Whether a row stands for a step of its own, outside a bundle. -/
def standsAlone : Instr → Bool
  | .idle _ _ => false
  | i => (slotOf i).isNone

/-- A step that the schedule names. A boundary takes its cause as R250 ranks it, which the bundle at PC has a part in: the
schedule can only turn to the core. A word that only a bundle can hold is no step. -/
def State.scheduled (i : Instr) (s : State) : Next :=
  match i with
  | .boundaryFault n => if 512 ≤ n then .fault (.noSuchCore n) else .next (s.turnTo n)
  | .preovr n => if 512 ≤ n then .fault (.noSuchCore n) else .next (s.turnTo n)
  | i => if standsAlone i then exec i s else .next s

/-- What happens next with nothing scheduled: what can wait no longer on the current core, else a bundle of that core, else the
turn passes on. -/
def State.goesOn (s : State) : Next :=
  match s.dueStep with
  | some i => exec i s
  | none => if s.mayIssue then s.turn else .next s.pass

/-- An entry of the schedule comes about. -/
def State.comesAbout (s : State) : Turn → Next
  | .own => s.goesOn
  | .event i => State.scheduled i s
  | .core n => if 512 ≤ n then .fault (.noSuchCore n) else .next (s.turnTo n)
  | .lag d on => .next (s.sys fun m => { m with lag := m.lag.set false d on })
  | .hostDrain ix => .next (s.drainHost ix)
  | .partly n ix => onCore n (·.partWork ix) s
  | .replaced d a => .next (s.sys (·.dropCopy d a))
  | .fetched n va => .next (s.streamCode n va true)
  | .unfetched n va => .next (s.streamCode n va false)
  | .target n t => onCore n (·.fillTarget t) s
  | .targetLate n k t => onCore n (·.delayTarget k t) s
  | .supplied n t => onCore n (·.mod fun c => { c with supply := t, qs := { c.qs with litReady := max c.qs.litReady t } }) s
  | .aged k u => .next (s.ageOne k u)
  | .agedTile f => .next (s.ageTile f)
  | .vaultEcc n l b => onCore n (·.vaultError l b) s
  | .memEcc a b => .next (s.memError a b)
  | .linkPoison a b => .next (s.linkPoison a b)
  | .fec l e n => .next (s.fecCounts l e n)
  | .parity n => s.detected n true
  | .controlCheck n => .next (s.controlCheck n)
  | .elapsed n => .next (s.elapse n)
  | .bootFails => .next s.bootFails
  | .debug t on => .next (s.attachDebug t on)
  | .program n a b k => .next (s.startProgram (n, a, b, k))
  | .bar0Read a n => .next (s.windowRead a n)
  | .dispatch n l => if 512 ≤ n then .fault (.noSuchCore n) else .next (s.setDispatch n l)

/-- The next thing that happens in the machine: what the schedule names, else what it does by itself. -/
def State.happens (s : State) : Next :=
  match s.agenda with
  | t :: r => { s with agenda := r }.comesAbout t
  | [] => s.goesOn

/-! ### A word put where the next bundle is fetched -/

/-- The slot in which a word that is alone is put: that of the instruction it is read as. -/
def slotFor (nbits w : Nat) : Nat := ((decodeTableWord nbits w).bind slotOf).getD (if nbits ≤ 32 then 0 else 8)

/-- The 32-bit words of the bundle that holds a word alone (R28, R31): an idle bundle is its header. -/
def bundleOf (nbits w : Nat) : List Nat :=
  match decodeTableWord nbits w with
  | some (.idle _ _) => [w % 2 ^ 32]
  | _ =>
    let n := slotFor nbits w
    2 ^ n :: (if slotWidth n = 64 then [w % 2 ^ 32, w / 2 ^ 32 % 2 ^ 32] else [w % 2 ^ 32])

/-- The code object that maps the page of PC, and the one after it, to the first HBM frames. -/
def wordObject (pc : Nat) : Obj :=
  let va := pc / 65536 * 65536
  { handle := 0, asid := 0, digest := 0, portable := none, bva := va, blen := 131072, lva := 0, llen := 0, kernels := [],
    hookDefs := [], symbols := [], versions := [⟨0, [(va, 0, 0), (va + 65536, 65536, 0)], []⟩], sealed := false, mapped := true }

/-- The machine with a bundle that holds one word where the current core fetches its next bundle (log entry 33). -/
def State.placeWord (s : State) (nbits w : Nat) : State :=
  let pc := s.core.seq.pc.toNat
  let s := s.mod fun c => { c with
    ctl := { c.ctl with run := .running, object := 0, version := 0 }, wake := s.cycle, supply := s.cycle, stall := none,
    waiting := none, boundary := [], seq := { c.seq with stream := [] }, qs := { c.qs with litReady := s.cycle } }
  let s := { s with agenda := [] }
  let s := s.code fun c => { c with objects := wordObject pc :: c.objects.filter (·.handle != 0) }
  s.sys fun m =>
    { m with
      mem := m.mem.store (pc % 65536) ((bundleOf nbits w).flatMap (leBytes 4))
      cbuf := m.cbuf.filter fun e => e.1 / 2 ^ 46 != s.cur }

end Sys2Proof.Machine
end

