-- ==== Sys2Proof/Safety.lean ====
section
/-!
DEFINITION. What counts as a safe step, and the words in which claims about steps are made: a step that answers a next
state, what a core's registers and vault hold, what an issuing word may leave changed, and the canonical memories.
-/
namespace Sys2Proof.Machine

/-- A step that answers a next state. -/
def State.stepsOn (s : State) : Prop := ∃ t, step s = .next t

/-- A run of `k` steps is safe: each answers a next state. -/
def State.runsOn : Nat → State → Prop
  | 0, _ => True
  | k + 1, s => ∃ t, step s = .next t ∧ State.runsOn k t

/-- Every memory is in its canonical form: global memory and the vault of every core (log entry 4). -/
def State.canonical (s : State) : Prop :=
  s.dev.sys.mem.wf = true ∧ ∀ n, (s.coreAt n).vault.wf = true

/-- Global memory and everything between it and the cores is the same. -/
def sameGlobal (s t : State) : Prop := t.dev.sys = s.dev.sys

/-- Every byte of every vault reads the same. -/
def sameVaults (s t : State) : Prop := ∀ n a, (t.coreAt n).vault.read a = (s.coreAt n).vault.read a

/-- The register files of the current core are the same. A result of a word in flight is no change of a register yet. -/
def sameRegs (s t : State) : Prop :=
  t.core.regs.g = s.core.regs.g ∧ t.core.regs.v = s.core.regs.v ∧ t.core.regs.p = s.core.regs.p ∧
  t.core.regs.q = s.core.regs.q ∧ t.core.regs.b = s.core.regs.b ∧ t.core.regs.xt = s.core.regs.xt ∧
  t.core.regs.td = s.core.regs.td ∧ t.core.regs.k = s.core.regs.k

end Sys2Proof.Machine
end

