-- ==== Sys2Proof/Certificates/Slice0/Obligations.lean ====
section
/-!
DEFINITION. The statements about this machine. A word of a bundle: what it does in the state the bundle finds, under
conditions on that state and its operands alone. A step outside a bundle: what it does under its own conditions. Then
whole-machine rules: decoding, the step, traps, frames, and what every step keeps.
-/
open Sys2Proof Sys2Proof.Machine
open Host (Outcome)

namespace Sys2Proof.Claims
end Sys2Proof.Claims

open Sys2Proof.Claims

/-! ### Integer words -/

namespace Sys2Proof.Claims

/-- The value that an integer operation delivers (R117): the operation at width 32 or 64, sign-extended from 32 bits. -/
def intOut (t : BitVec 1) (op : ∀ w : Nat, BitVec w → BitVec w → BitVec w → BitVec w) (a x b : Nat) : Nat :=
  if t = 1 then ((op 32 (BitVec.ofNat 32 a) (BitVec.ofNat 32 x) (BitVec.ofNat 32 b)).signExtend 64).toNat
  else (op 64 (BitVec.ofNat 64 a) (BitVec.ofNat 64 x) (BitVec.ofNat 64 b)).toNat

/-- An integer trigger, under a guard that holds, on a free unit, whose moved value can be read as `x`: the operation on
the unit's ports is on its way to the unit's bypass register, `lat` cycles off, and nothing else has changed but what
reading the source changes (a pop). -/
def integerWord (i : BitVec 2 → BitVec 1 → BitVec 1 → BitVec 9 → BitVec 6 → Instr) (lat : Nat)
    (op : ∀ w : Nat, BitVec w → BitVec w → BitVec w → BitVec w) : Prop :=
  ∀ (m : BitVec 2) (u t : BitVec 1) (src : BitVec 9) (g : BitVec 6) (s s' : State) (x : Nat),
    s.core.guardP g = true → s.core.intFree u ≤ s.cycle → s.source src = .ok (x, s') →
    exec (i m u t src g) s = .next (s'.result (1 + m.toNat) lat (.res (intUnit u))
      (intOut t op (s.core.ports.a (intUnit u)) x (s.core.ports.b (intUnit u))) (ones 64) 0)

/-- 1 or 0 at a width. -/
def truth (w : Nat) (b : Bool) : BitVec w := if b then 1#w else 0#w

/-- The shift count of an integer operation (R118): the low 6 or 5 bits of t. -/
def countOf {w : Nat} (t : BitVec w) : Nat := t.toNat % w

/-- Sums, differences and products, low and high halves (R118). -/
def integerArithmetic : Prop :=
  integerWord .add 1 (fun _ a t _ => a + t) ∧
  integerWord .sub 1 (fun _ a t _ => a - t) ∧
  integerWord .mul 3 (fun _ a t _ => a * t) ∧
  integerWord .mulh 3 (fun w a t _ => BitVec.ofInt w (a.toInt * t.toInt / 2 ^ w)) ∧
  integerWord .mulhu 3 (fun w a t _ => BitVec.ofNat w (a.toNat * t.toNat / 2 ^ w)) ∧
  integerWord .madd 3 (fun _ a t b => a * t + b)

/-- Bitwise operations, and shifts by the low bits of t (R118). -/
def integerLogicAndShifts : Prop :=
  integerWord .and 1 (fun _ a t _ => a &&& t) ∧
  integerWord .or 1 (fun _ a t _ => a ||| t) ∧
  integerWord .xor 1 (fun _ a t _ => a ^^^ t) ∧
  integerWord .andn 1 (fun _ a t _ => a &&& ~~~t) ∧
  integerWord .shl 1 (fun _ a t _ => a <<< countOf t) ∧
  integerWord .shr 1 (fun _ a t _ => a >>> countOf t) ∧
  integerWord .sar 1 (fun _ a t _ => a.sshiftRight (countOf t)) ∧
  integerWord .rotl 1 (fun _ a t _ => a.rotateLeft (countOf t))

/-- Least, greatest, select and the compares, signed and unsigned (R118). -/
def integerChoices : Prop :=
  integerWord .min 1 (fun _ a t _ => if t.slt a then t else a) ∧
  integerWord .max 1 (fun _ a t _ => if a.slt t then t else a) ∧
  integerWord .minu 1 (fun _ a t _ => if t.ult a then t else a) ∧
  integerWord .maxu 1 (fun _ a t _ => if a.ult t then t else a) ∧
  integerWord .sel 1 (fun w a t b => if t = 0#w then b else a) ∧
  integerWord .ceq 1 (fun w a t _ => truth w (a == t)) ∧
  integerWord .cne 1 (fun w a t _ => truth w (a != t)) ∧
  integerWord .clt 1 (fun w a t _ => truth w (a.slt t)) ∧
  integerWord .cle 1 (fun w a t _ => truth w (a.sle t)) ∧
  integerWord .cltu 1 (fun w a t _ => truth w (a.ult t)) ∧
  integerWord .cleu 1 (fun w a t _ => truth w (a.ule t))

/-- Bits pos to pos + len − 1 of a value, moved down, with pos and len taken from t (R118). -/
def fieldOut (w : Nat) (a t : BitVec w) : BitVec w :=
  if min 64 (t.toNat / 64 % 128) = 0 ∨ w ≤ t.toNat % 64 then 0#w
  else BitVec.ofNat w (a.toNat / 2 ^ (t.toNat % 64) % 2 ^ min 64 (t.toNat / 64 % 128))

/-- Leading zeros, ones, and bit fields out and in (R118). -/
def integerCountsAndFields : Prop :=
  integerWord .clz 1 (fun w _ t _ => BitVec.ofNat w (w - t.toNat.size)) ∧
  integerWord .popc 1 (fun w _ t _ => BitVec.ofNat w ((List.range w).countP fun i => t.getLsbD i)) ∧
  integerWord .bfx 1 (fun w a t _ => fieldOut w a t) ∧
  integerWord .bfi 1 (fun w a t b => BitVec.ofFnLE fun i : Fin w =>
    if t.toNat % 64 ≤ i.val ∧ i.val < t.toNat % 64 + min 64 (t.toNat / 64 % 128) then b.getLsbD (i.val - t.toNat % 64)
    else a.getLsbD i.val)

end Sys2Proof.Claims

/-- The results of the integer triggers (R115 to R118): arithmetic, logic and shifts, choices and compares, counts and bit
fields. -/
def Obligations.IntegerResults : Prop :=
  integerArithmetic ∧ integerLogicAndShifts ∧ integerChoices ∧ integerCountsAndFields

/-- DIVU and REMU (R118, R119), by zero too: the quotient or remainder is on its way for 34 cycles, and the divide holds its unit
as long. -/
def Obligations.IntegerDivision : Prop :=
  ∀ (m : BitVec 2) (u t : BitVec 1) (src : BitVec 9) (g : BitVec 6) (s s' : State) (x : Nat),
    s.core.guardP g = true → s.core.intFree u ≤ s.cycle → s.source src = .ok (x, s') →
    (∃ r, exec (.divu m u t src g) s = .next r ∧ r.core.intFree u = s'.cycle + 34 ∧ r.core.vault = s'.core.vault ∧
      r.core.regs = s'.core.regs ∧ r.dev = s'.dev ∧ r.others = s'.others ∧
      r.core.qs.flight = insertDelivery ⟨s'.cycle + 34, s'.core.orderOf (1 + m.toNat), .res (intUnit u),
        intOut t (fun w a y _ => if y = 0#w then BitVec.allOnes w else a / y) (s.core.ports.a (intUnit u)) x
          (s.core.ports.b (intUnit u)), ones 64, 0, none⟩ s'.core.qs.flight) ∧
    (∃ r, exec (.remu m u t src g) s = .next r ∧ r.core.intFree u = s'.cycle + 34 ∧ r.core.vault = s'.core.vault ∧
      r.core.regs = s'.core.regs ∧ r.dev = s'.dev ∧ r.others = s'.others ∧
      r.core.qs.flight = insertDelivery ⟨s'.cycle + 34, s'.core.orderOf (1 + m.toNat), .res (intUnit u),
        intOut t (fun w a y _ => if y = 0#w then a else a % y) (s.core.ports.a (intUnit u)) x
          (s.core.ports.b (intUnit u)), ones 64, 0, none⟩ s'.core.qs.flight)

/-! ### Moves and vectors -/

/-- Plain moves, immediate moves and long immediates (R42, R112): the value, adjusted to the destination's width, is on
its way to the destination that the specifier names, for the next bundle. -/
def Obligations.Moves : Prop :=
  (∀ (m : BitVec 2) (d src : BitVec 9) (g : BitVec 6) (s s' : State) (x : Nat),
    s.core.guardP g = true → s.source src = .ok (x, s') →
    exec (.move m d src g) s = .next (s'.result (1 + m.toNat) 1 (s'.core.destOf d).1 (x % 2 ^ (s'.core.destOf d).2)
      (ones (s'.core.destOf d).2) 0)) ∧
  (∀ (m : BitVec 2) (d : BitVec 9) (i : BitVec 15) (g : BitVec 6) (s : State),
    s.core.guardP g = true → partnerLong m s.core.ctx.words = none →
    exec (.moveImmediate m d i g) s = .next (s.result (1 + m.toNat) 1 (s.core.destOf d).1
      (i.signExtend (s.core.destOf d).2).toNat (ones (s.core.destOf d).2) 0)) ∧
  (∀ (m : BitVec 2) (d : BitVec 9) (i : BitVec 15) (g : BitVec 6) (s : State) (hi : BitVec 30),
    s.core.guardP g = true → partnerLong m s.core.ctx.words = some hi →
    exec (.moveImmediate m d i g) s = .next (s.result (1 + m.toNat) 1 (s.core.destOf d).1
      ((hi ++ i).signExtend (s.core.destOf d).2).toNat (ones (s.core.destOf d).2) 0)) ∧
  (∀ (m : BitVec 2) (i : BitVec 30) (s : State), exec (.longImmediate m i) s = .next s)

namespace Sys2Proof.Claims

/-- The operands of a vector trigger of unit `u`, width code `w` and type `t` that moves `x` (R125). -/
def vectorArgs (c : Core) (u : BitVec 1) (t : BitVec 3) (w : BitVec 2) (x : Nat) : VArgs :=
  { ty := t.toNat, s := typeWidth t.toNat, n := 256 * 2 ^ w.toNat / typeWidth t.toNat,
    a := c.ports.a (vecUnit u) % 2 ^ (256 * 2 ^ w.toNat), t := x % 2 ^ (256 * 2 ^ w.toNat),
    b := c.ports.b (vecUnit u) % 2 ^ (256 * 2 ^ w.toNat) }

/-- A vector trigger, under a guard that lets it execute, whose moved value can be read as `x`: it holds its lane groups
for `hold` cycles, and the result of `op` on its operands, in the lanes that the guard includes, is on its way to the unit's
bypass register, `lat` cycles off; where no lane takes part in a reduction nothing is written. -/
def vectorWord (i : BitVec 2 → BitVec 1 → BitVec 3 → BitVec 2 → BitVec 9 → BitVec 6 → Instr) (lat : BitVec 3 → Nat)
    (hold : Nat) (op : VOp) : Prop :=
  ∀ (m : BitVec 2) (u : BitVec 1) (t : BitVec 3) (w : BitVec 2) (src : BitVec 9) (g : BitVec 6) (s s' : State) (x : Nat),
    s.core.guardV g = true → (s.claim w hold).source src = .ok (x, s') →
    (∀ r, op (vectorArgs s.core u t w x) (s.core.guardLanes g) = .ok (some r) →
      exec (i m u t w src g) s =
        .next (s'.vecResult (1 + m.toNat) (lat t) (vecUnit u) r (s.core.guardLanes g r.lanes.length))) ∧
    (op (vectorArgs s.core u t w x) (s.core.guardLanes g) = .ok none → exec (i m u t w src g) s = .next s')

/-- Latency of the element-wise additions, extremes and signs: 3 on floating types and 2 on integers (R83, R128). -/
def addLatency (t : BitVec 3) : Nat := if t.toNat ≤ 2 then 3 else 2

/-- Arithmetic lane by lane in the three float types (R128). -/
def vectorArithmetic : Prop :=
  vectorWord .vadd addLatency 1 (elementwise (fun f a t _ => fadd f a t) (fun a t _ => a + t)) ∧
  vectorWord .vsub addLatency 1 (elementwise (fun f a t _ => fsub f a t) (fun a t _ => a - t)) ∧
  vectorWord .vmul (fun _ => 5) 1 (elementwise (fun f a t _ => fmul f a t) (fun a t _ => a * t)) ∧
  vectorWord .vfma (fun _ => 6) 1 (elementwise (fun f a t b => ffma f a t b) (fun a t b => a * t + b)) ∧
  vectorWord .vfms (fun _ => 6) 1 (elementwise (fun f a t b => ffms f a t b) (fun a t b => a * t - b)) ∧
  vectorWord .vmin addLatency 1 (elementwise (fun f a t _ => fmin f a t) (fun a t _ => min a t)) ∧
  vectorWord .vmax addLatency 1 (elementwise (fun f a t _ => fmax f a t) (fun a t _ => max a t)) ∧
  vectorWord .vabs addLatency 1 (elementwise (fun f _ t _ => fabs f t) (fun _ t _ => (t.natAbs : Int))) ∧
  vectorWord .vneg addLatency 1 (elementwise (fun f _ t _ => fneg f t) (fun _ t _ => -t)) ∧
  vectorWord .vclamp (fun _ => 3) 1 (elementwise (fun f a t b => clampF f a t b) (fun a t b => min b (max a t))) ∧
  vectorWord .vround (fun _ => 3) 1 vroundOp

/-- Bitwise words, and compares into a lane mask (R128, R129). -/
def vectorBitsAndCompares : Prop :=
  vectorWord .vand (fun _ => 2) 1 (bitwise fun _ a t => a &&& t) ∧
  vectorWord .vor (fun _ => 2) 1 (bitwise fun _ a t => a ||| t) ∧
  vectorWord .vxor (fun _ => 2) 1 (bitwise fun _ a t => a ^^^ t) ∧
  vectorWord .vshl (fun _ => 2) 1 (bitwise vshlOf) ∧
  vectorWord .vshr (fun _ => 2) 1 (bitwise vshrOf) ∧
  vectorWord .vsar (fun _ => 2) 1 (bitwise vsarOf) ∧
  vectorWord .vsel (fun _ => 2) 1 vselOp ∧
  vectorWord .vceq (fun _ => 2) 1 (compareOp FpVal.eqv false (fun a t => a == t)) ∧
  vectorWord .vcne (fun _ => 2) 1 (compareOp (fun x y => !x.eqv y) false (fun a t => a != t)) ∧
  vectorWord .vclt (fun _ => 2) 1 (compareOp FpVal.lt true (fun a t => a < t)) ∧
  vectorWord .vcle (fun _ => 2) 1 (compareOp (fun x y => x.lt y || x.eqv y) true (fun a t => a ≤ t)) ∧
  vectorWord .vcun (fun _ => 2) 1 (compareOp (fun x y => x.isNan || y.isNan) false (fun _ _ => false))

/-- Conversions, and words that move data across lanes (R130 to R138). -/
def vectorConversionsAndLanes : Prop :=
  vectorWord .vcvt (fun _ => 3) 1 vcvtOp ∧
  vectorWord .vqnt (fun _ => 3) 1 vqntOp ∧
  vectorWord .vdqnt (fun _ => 3) 1 vdqntOp ∧
  vectorWord .vpack (fun _ => 3) 1 vpackOp ∧
  vectorWord .vunpk (fun _ => 3) 1 vunpkOp ∧
  vectorWord .vbcast (fun _ => 3) 1 vbcastOp ∧
  vectorWord .vperm (fun _ => 3) 1 vpermOp ∧
  vectorWord .vshift (fun _ => 3) 1 vshiftOp ∧
  vectorWord .vcomp (fun _ => 3) 1 vcompOp ∧
  vectorWord .viota (fun _ => 3) 1 viotaOp ∧
  vectorWord .vredadd (fun _ => 6) 2 vredaddOp ∧
  vectorWord .vredmax (fun _ => 6) 2 (extremeOp fmax max) ∧
  vectorWord .vredmin (fun _ => 6) 2 (extremeOp fmin min) ∧
  vectorWord .vscan (fun _ => 6) 2 vscanOp

/-- Lane `i` of an element-wise integer operation is the bit-vector operation on lane `i` of its operands, and the result
has the operands' lanes (R52, R128). -/
def integerLanes (op : VOp) (lane : ∀ w : Nat, BitVec w → BitVec w → BitVec w → BitVec w) : Prop :=
  ∀ (v : VArgs) (mask : Nat → List Bool), 3 ≤ v.ty → v.ty ≤ 6 → v.s = typeWidth v.ty →
    op v mask = .ok (some ⟨v.s, (List.range v.n).map fun i =>
      ((lane v.s (BitVec.ofNat v.s (laneOf v.s v.a i)) (BitVec.ofNat v.s (laneOf v.s v.t i))
        (BitVec.ofNat v.s (laneOf v.s v.b i))).toNat, 0)⟩)

/-- Arithmetic lane by lane in the integer types (R128). -/
def vectorIntegerLanes : Prop :=
  integerLanes (elementwise (fun f a t _ => fadd f a t) (fun a t _ => a + t)) (fun _ a t _ => a + t) ∧
  integerLanes (elementwise (fun f a t _ => fsub f a t) (fun a t _ => a - t)) (fun _ a t _ => a - t) ∧
  integerLanes (elementwise (fun f a t _ => fmul f a t) (fun a t _ => a * t)) (fun _ a t _ => a * t) ∧
  integerLanes (elementwise (fun f a t b => ffma f a t b) (fun a t b => a * t + b)) (fun _ a t b => a * t + b) ∧
  integerLanes (elementwise (fun f a t b => ffms f a t b) (fun a t b => a * t - b)) (fun _ a t b => a * t - b) ∧
  integerLanes (elementwise (fun f _ t _ => fneg f t) (fun _ t _ => -t)) (fun _ _ t _ => -t) ∧
  integerLanes (bitwise fun _ a t => a &&& t) (fun _ a t _ => a &&& t) ∧
  integerLanes (bitwise fun _ a t => a ||| t) (fun _ a t _ => a ||| t) ∧
  integerLanes (bitwise fun _ a t => a ^^^ t) (fun _ a t _ => a ^^^ t) ∧
  integerLanes (bitwise vshlOf) (fun _ a t _ => a <<< t) ∧
  integerLanes (bitwise vshrOf) (fun _ a t _ => a >>> t) ∧
  integerLanes (bitwise vsarOf) (fun _ a t _ => a.sshiftRight t.toNat)

end Sys2Proof.Claims

/-- The words of the vector units (R125 to R138): each lane of a float or integer operation, and the operations across
lanes. -/
def Obligations.VectorWords : Prop :=
  vectorArithmetic ∧ vectorBitsAndCompares ∧ vectorConversionsAndLanes ∧ vectorIntegerLanes

namespace Sys2Proof.Claims

/-- A special-function trigger acts on f32 lanes, 8 at width code 0 and twice as many at each further one (R120): the
function of its lanes is on its way to the bypass register of sf, `lat` cycles off. -/
def specialWord (i : BitVec 2 → BitVec 2 → BitVec 9 → BitVec 6 → Instr) (lat : Nat) (f : Nat → Nat → Nat × Nat) : Prop :=
  ∀ (m w : BitVec 2) (src : BitVec 9) (g : BitVec 6) (s s' : State) (x : Nat),
    s.core.guardV g = true → s.source src = .ok (x, s') →
    exec (i m w src g) s = .next (s'.vecResult (1 + m.toNat) lat .sf
      ⟨32, ((lanesOf 32 (8 * 2 ^ w.toNat) (s.core.ports.a .sf)).zip (lanesOf 32 (8 * 2 ^ w.toNat) x)).map fun p => f p.1 p.2⟩
      (s.core.guardLanes g (8 * 2 ^ w.toNat)))

end Sys2Proof.Claims

/-- EXP2 takes 2 to the power t − a; the others are functions of t alone (R121, R122). -/
def Obligations.SpecialFunctions : Prop :=
  specialWord .exp2 8 (fun a t => ((exp2H (fsub f32 t a).1).1, (fsub f32 t a).2 ||| (exp2H (fsub f32 t a).1).2)) ∧
  specialWord .log2 8 (fun _ t => fpLog2 t) ∧
  specialWord .rcp 8 (fun _ t => fpRcp t) ∧
  specialWord .rsqrt 8 (fun _ t => fpRsqrt t) ∧
  specialWord .sqrt 12 (fun _ t => fpSqrt t) ∧
  specialWord .tanh 8 (fun _ t => fpTanh t)

/-- VSEL (R131) accepts every type and has latency 2: bits 127:0 of t act as a mask m, and result lane i is aᵢ when m bit i is 1
and bᵢ otherwise; bits of t above 127 are ignored. A lane mask moved as t is zero-extended. -/
def Obligations.SelectLanes : Prop :=
  (∀ (m : BitVec 2) (u : BitVec 1) (t : BitVec 3) (w : BitVec 2) (src : BitVec 9) (g : BitVec 6) (s s' : State) (x : Nat),
    s.core.guardV g = true → (s.claim w 1).source src = .ok (x, s') →
    exec (.vsel m u t w src g) s = .next (s'.vecResult (1 + m.toNat) 2 (vecUnit u)
      ⟨typeWidth t.toNat, (List.range (256 * 2 ^ w.toNat / typeWidth t.toNat)).map fun i =>
        (if i < 128 ∧ x.testBit i then laneOf (typeWidth t.toNat) (s.core.ports.a (vecUnit u) % 2 ^ (256 * 2 ^ w.toNat)) i
          else laneOf (typeWidth t.toNat) (s.core.ports.b (vecUnit u) % 2 ^ (256 * 2 ^ w.toNat)) i, 0)⟩
      (s.core.guardLanes g (256 * 2 ^ w.toNat / typeWidth t.toNat)))) ∧
  (∀ (s : State) (q : BitVec 9), 0x50 ≤ q.toNat → q.toNat < 0x58 →
    s.source q = .ok ((s.core.qAt (q.toNat - 0x50)).toNat, s))

/-! ### Weight words -/

namespace Sys2Proof.Claims

/-- A weight word that adds to an accumulator (R66, R140), with a legal imm8 and a bound that stays in range: for the next
bundle the selected lanes take `f` of what they hold, the others keep it, and the bound has grown. -/
def accumulates (i : State → Instr) (legal : Core → Bool) (slot : Nat) (dest : Dest) (key : Nat) (lm : BitVec 3)
    (old : Core → Nat) (grow : Core → Nat) (f : Core → Nat → Residue → Residue) : Prop :=
  ∀ s : State, legal s.core = true → s.core.boundAt key + grow s.core ≤ boundMax →
    exec (i s) s = .next ((s.result slot 1 dest
      (ofElems ((List.range 128).map fun l =>
        if s.core.sel lm l then f s.core l (elemAt (old s.core) l) else elemAt (old s.core) l)) (ones 6784) 0).result
      slot 1 (.bound key) (s.core.boundAt key + grow s.core) (ones 64) 0)

/-- Words that add to an a register (R140). -/
def weightAccumulation : Prop :=
  ∀ (w : BitVec 1) (a x : BitVec 6) (y : BitVec 4) (i : BitVec 8) (lm : BitVec 3),
    accumulates (fun _ => .wmac w a x i lm) (·.immOk i) (5 + w.toNat) (.a a.toNat) (4 + a.toNat) lm (·.accA a.toNat)
      (fun _ => 128 * i.toInt.natAbs) (fun c l r => rAdd r (rMul (res i.toInt) (c.elemX x.toNat l))) ∧
    accumulates (fun _ => .wmacy w a y i lm) (·.immOk i) (5 + w.toNat) (.a a.toNat) (4 + a.toNat) lm (·.accA a.toNat)
      (fun c => i.toInt.natAbs * c.boundAt (68 + y.toNat))
      (fun c l r => rAdd r (rMul (res i.toInt) (elemAt (c.accY y.toNat) l))) ∧
    accumulates (fun _ => .wadd w a x lm) (fun _ => true) (5 + w.toNat) (.a a.toNat) (4 + a.toNat) lm (·.accA a.toNat)
      (fun _ => 128) (fun c l r => rAdd r (c.elemX x.toNat l)) ∧
    accumulates (fun _ => .wsub w a x lm) (fun _ => true) (5 + w.toNat) (.a a.toNat) (4 + a.toNat) lm (·.accA a.toNat)
      (fun _ => 128) (fun c l r => rSub r (c.elemX x.toNat l)) ∧
    accumulates (fun _ => .waddy w a y lm) (fun _ => true) (5 + w.toNat) (.a a.toNat) (4 + a.toNat) lm (·.accA a.toNat)
      (fun c => c.boundAt (68 + y.toNat)) (fun c l r => rAdd r (elemAt (c.accY y.toNat) l)) ∧
    accumulates (fun _ => .wsuby w a y lm) (fun _ => true) (5 + w.toNat) (.a a.toNat) (4 + a.toNat) lm (·.accA a.toNat)
      (fun c => c.boundAt (68 + y.toNat)) (fun c l r => rSub r (elemAt (c.accY y.toNat) l)) ∧
    accumulates (fun _ => .ymac w y x i lm) (·.immOk i) (5 + w.toNat) (.y y.toNat) (68 + y.toNat) lm (·.accY y.toNat)
      (fun _ => 128 * i.toInt.natAbs) (fun c l r => rAdd r (rMul (res i.toInt) (c.elemX x.toNat l))) ∧
    accumulates (fun _ => .yadd w y x lm) (fun _ => true) (5 + w.toNat) (.y y.toNat) (68 + y.toNat) lm (·.accY y.toNat)
      (fun _ => 128) (fun c l r => rAdd r (c.elemX x.toNat l)) ∧
    accumulates (fun _ => .ysub w y x lm) (fun _ => true) (5 + w.toNat) (.y y.toNat) (68 + y.toNat) lm (·.accY y.toNat)
      (fun _ => 128) (fun c l r => rSub r (c.elemX x.toNat l))

/-- A weight word whose addition would pass the largest bound traps ACCRANGE in its slot and writes no accumulator (R66, R140). -/
def pastBound (i : Instr) (slot key : Nat) (legal : Core → Bool) (grow : Core → Nat) : Prop :=
  ∀ s : State, legal s.core = true → boundMax < s.core.boundAt key + grow s.core →
    ∃ t, exec i s = .next t ∧ t.core.ctl.run = .frozen { cause := .accrange, slot := slot } s.cycle ∧ t.core.eng = s.core.eng ∧
      t.core.qs = s.core.qs

/-- An accumulation past the largest bound traps, of each word that adds to an accumulator (R66, R140). -/
def accumulationPastBoundTraps : Prop :=
  ∀ (w : BitVec 1) (a x : BitVec 6) (y : BitVec 4) (i : BitVec 8) (lm : BitVec 3),
    pastBound (.wmac w a x i lm) (5 + w.toNat) (4 + a.toNat) (·.immOk i) (fun _ => 128 * i.toInt.natAbs) ∧
    pastBound (.wmacy w a y i lm) (5 + w.toNat) (4 + a.toNat) (·.immOk i)
      (fun c => i.toInt.natAbs * c.boundAt (68 + y.toNat)) ∧
    pastBound (.wadd w a x lm) (5 + w.toNat) (4 + a.toNat) (fun _ => true) (fun _ => 128) ∧
    pastBound (.wsub w a x lm) (5 + w.toNat) (4 + a.toNat) (fun _ => true) (fun _ => 128) ∧
    pastBound (.waddy w a y lm) (5 + w.toNat) (4 + a.toNat) (fun _ => true) (fun c => c.boundAt (68 + y.toNat)) ∧
    pastBound (.wsuby w a y lm) (5 + w.toNat) (4 + a.toNat) (fun _ => true) (fun c => c.boundAt (68 + y.toNat)) ∧
    pastBound (.ymac w y x i lm) (5 + w.toNat) (68 + y.toNat) (·.immOk i) (fun _ => 128 * i.toInt.natAbs) ∧
    pastBound (.yadd w y x lm) (5 + w.toNat) (68 + y.toNat) (fun _ => true) (fun _ => 128) ∧
    pastBound (.ysub w y x lm) (5 + w.toNat) (68 + y.toNat) (fun _ => true) (fun _ => 128)

/-- WCLR and YCLR clear all 128 lanes and the bound, whatever is selected; WCPY copies the selected lanes and the bound, and
clears the other lanes (R141). -/
def weightClearsAndCopies : Prop :=
  ∀ (w : BitVec 1) (a b : BitVec 6) (y : BitVec 4) (lm : BitVec 3) (s : State),
    exec (.wclr w a lm) s = .next ((s.result (5 + w.toNat) 1 (.a a.toNat) 0 (ones 6784) 0).result (5 + w.toNat) 1
      (.bound (4 + a.toNat)) 0 (ones 64) 0) ∧
    exec (.yclr w y lm) s = .next ((s.result (5 + w.toNat) 1 (.y y.toNat) 0 (ones 6784) 0).result (5 + w.toNat) 1
      (.bound (68 + y.toNat)) 0 (ones 64) 0) ∧
    exec (.wcpy w a b lm) s = .next ((s.result (5 + w.toNat) 1 (.a a.toNat)
      (ofElems ((List.range 128).map fun l => if s.core.sel lm l then elemAt (s.core.accA b.toNat) l else res 0))
      (ones 6784) 0).result (5 + w.toNat) 1 (.bound (4 + a.toNat)) (s.core.boundAt (4 + b.toNat)) (ones 64) 0)

/-- Vector register `j` of those that a WFLUSH writes (R143): lane `i` takes element `1024 / bits * j + i` of the accumulator, scaled
by its WLS word and the popped scale and rounded to the output format; lanes that are not selected are not written and raise no
flag. A mismatch of the check of R65 goes with the first register. -/
def flushedVector (s : State) (w : BitVec 1) (a : BitVec 6) (d : BitVec 5) (lm : BitVec 3) (sc : Nat) (bits j : Nat) : Delivery :=
  let lanes := (List.range (1024 / bits)).map (1024 / bits * j + ·)
  { due := s.cycle + 12, order := s.core.orderOf (5 + w.toNat), dest := .v (s.core.vKey (d.toNat + j))
    value := ofLanes bits (lanes.map fun l => (s.core.flushLane a.toNat sc l).1)
    mask := ones 1024 - State.flushTo.excludedOf bits (lanes.map (s.core.sel lm))
    flags := State.flushTo.flagsOf (lanes.map (s.core.sel lm)) (lanes.map (s.core.flushLane a.toNat sc))
    err := if j = 0 then s.core.flushCheck w a.toNat lm else none }

/-- WFLUSH pops one scale and sends the scaled lanes of the accumulator to two or four aligned vector registers, 12 cycles
off; WFMT is busy until then (R72, R143). -/
def weightFlush : Prop :=
  ∀ (w : BitVec 1) (a : BitVec 6) (d : BitVec 5) (lm : BitVec 3) (s : State) (sc : BitVec 16) (rest : List (BitVec 16)),
    s.core.qs.scale = sc :: rest →
    d.toNat % (if outFmt s.core.eng.wfmt.toNat = f32 then 4 else 2) = 0 →
    ∃ t, exec (.wflush w a d lm) s = .next t ∧ t.core.qs.scale = rest ∧
      t.core.eng = { s.core.eng with busyPairs := (s.cycle + 12, 4) :: s.core.eng.busyPairs } ∧
      t.core.regs = s.core.regs ∧ t.core.vault = s.core.vault ∧ t.dev = s.dev ∧ t.others = s.others ∧
      t.core.qs.flight.length = s.core.qs.flight.length + (if outFmt s.core.eng.wfmt.toNat = f32 then 4 else 2) ∧
      ∀ e, e ∈ t.core.qs.flight ↔ e ∈ s.core.qs.flight ∨
        ∃ j < (if outFmt s.core.eng.wfmt.toNat = f32 then 4 else 2),
          e = flushedVector s w a d lm sc.toNat (if outFmt s.core.eng.wfmt.toNat = f32 then 32 else 16) j

end Sys2Proof.Claims

/-- The words of the weight engine (R66, R139 to R142): accumulation with its bound, clears, copies and flushes. -/
def Obligations.WeightWords : Prop :=
  weightAccumulation ∧ accumulationPastBoundTraps ∧ weightClearsAndCopies ∧ weightFlush

/-! ### The tile engine -/

namespace Sys2Proof.Claims

/-- The product of operands as they stand is under way (R147, R148): it lands after 32 or 64 cycles, in which the array is
held, and 8 more; its accumulator's bound has grown, and no register, accumulator or byte has changed. -/
def multiplies (i : Instr) (s s' : State) (f c : BitVec 2) (tr sp skip : Bool) (a0 a1 b : TileBits) (m : BitVec 512) : Prop :=
  let n := if s.core.pairOf f.toNat = 3 then 32 else 64
  ∃ t, exec i s = .next t ∧
    t.core.eng.mmas = s.core.eng.mmas ++ [⟨s.cycle + n + 8, s.core.orderOf 7, c.toNat, s.core.pairOf f.toNat, tr, sp, skip,
      a0, a1, b, m, mmaBound (s.core.pairOf f.toNat)⟩] ∧
    t.core.eng.arrayFree = s.cycle + n ∧
    t.core.boundAt c.toNat = (s.core.boundAt c.toNat + mmaBound (s.core.pairOf f.toNat)) % 2 ^ 64 ∧
    t.core.eng.c = s.core.eng.c ∧ t.core.eng.t = s.core.eng.t ∧ t.core.regs = s.core.regs ∧ t.core.vault = s.core.vault ∧
    t.core.ctx.lits = s'.core.ctx.lits ∧ t.dev = s.dev ∧ t.others = s.others

end Sys2Proof.Claims

/-- MMA, MMAT, MMAL and MMALS (R147 to R151): with the array free, the tiles readable and the bound in range. A zero flag of
an operand skips the product; MMAL and MMALS take their B operand from the literal stream, once its first word is there, and
MMALS its metadata word before it and two tile registers, an even one and the next; until then both count FETCHSTALL. That later
literal words are not waited for, the pace of the stream keeping up, is the model's reading (log entry 87). -/
def Obligations.TileProducts : Prop :=
  ∀ (f c : BitVec 2) (a b : BitVec 4) (g : BitVec 6) (s : State) (x y : Tile),
    s.core.guardP g = true → s.core.eng.arrayFree ≤ s.cycle →
    s.core.boundAt c.toNat + mmaBound (s.core.pairOf f.toNat) ≤ boundMax →
    s.core.readTile a.toNat = .ok x →
    (s.core.readTile b.toNat = .ok y →
      multiplies (.mma f c a b g) s s f c false false (x.zero || y.zero) x.data 0 y.data 0 ∧
      multiplies (.mmat f c a b g) s s f c true false (x.zero || y.zero) x.data 0 y.data 0) ∧
    (∀ ws s', s.core.qs.litReady ≤ s.cycle → s.literals (literalCount (s.core.pairOf f.toNat)) = .ok (ws, s') →
      multiplies (.mmal f c a g) s s' f c false false x.zero x.data 0 (tileOfWords ws) 0) ∧
    (s.cycle < s.core.qs.litReady →
      exec (.mmal f c a g) s = .next (s.mod fun k => { k with stall := some .fetchstall })) ∧
    (∀ z, s.core.readTile ((a.toNat + 1) % 16) = .ok z → s.cycle < s.core.qs.litReady →
      exec (.mmals f c a g) s = .next (s.mod fun k => { k with stall := some .fetchstall })) ∧
    (∀ z ws s', a.toNat % 2 = 0 → s.core.readTile (a.toNat + 1) = .ok z → s.core.qs.litReady ≤ s.cycle →
      s.literals (1 + literalCount (s.core.pairOf f.toNat)) = .ok (ws, s') →
      multiplies (.mmals f c a g) s s' f c false true (x.zero && z.zero) x.data z.data (tileOfWords (ws.drop 1))
        (BitVec.ofNat 512 (leNat (ws.headD []))))

/-- MFLUSH (R152, R153): with its rows in the vault, the exit unit free, 128 scales queued and nothing to wait for, it pops
the scales, owns for 24 cycles the bytes of its rows that it writes (whole rows, or under mk = 01 the elements that the mask leaves
written) and leaves the accumulator's value as it stood under way to them; a clearing form zeroes the accumulator. No byte of the
vault changes at issue. That the mask register is read at issue is the model's reading (log entry 13). -/
def Obligations.TileFlush : Prop :=
  ∀ (f c : BitVec 2) (bb : BitVec 3) (md : BitVec 1) (mk : BitVec 2) (pitch : BitVec 12) (cl : BitVec 1)
    (off : BitVec 16) (g : BitVec 6) (s : State), s.core.guardP g = true →
    rowBytes (s.core.fmtAt f.toNat) ≤ 64 * pitch.toNat → 128 ≤ s.core.qs.scale.length →
    s.exitWait (if md = 1 then flushRows (s.core.bAt bb.toNat + 64 * off.toNat) pitch.toNat (s.core.fmtAt f.toNat) else [])
      (flushRows (s.core.bAt bb.toNat + 64 * off.toNat) pitch.toNat (s.core.fmtAt f.toNat)) = .ok () →
    inVault (flushRows (s.core.bAt bb.toNat + 64 * off.toNat) pitch.toNat (s.core.fmtAt f.toNat)) = .ok () →
    s.core.eng.exitFree ≤ s.cycle →
    ∃ t, exec (.mflush f c bb md mk pitch cl off g) s = .next t ∧
      t.core.qs.scale = s.core.qs.scale.drop 128 ∧ t.core.vault = s.core.vault ∧ t.core.regs = s.core.regs ∧
      (s.core.retained = [] → t.dev.sys = s.dev.sys) ∧ t.core.eng.exitFree = s.cycle + 8 ∧
      t.core.eng.hazards = (flushBytes (s.core.bAt bb.toNat + 64 * off.toNat) pitch.toNat (s.core.fmtAt f.toNat) mk.toNat
        s.core.eng.mask.toNat).map (fun r => ⟨r.1, r.1 + r.2, s.cycle + 24⟩) ++ s.core.eng.hazards ∧
      t.core.accC c.toNat = (if cl = 1 then 0 else s.core.accC c.toNat) ∧
      t.core.eng.exits = s.core.eng.exits ++ [.mflush (s.cycle + 24) (s.core.orderOf 7) c.toNat
        (BitVec.ofNat 217088 (s.core.accC c.toNat)) (s.core.boundAt c.toNat) (s.core.qs.scale.take 64) ((s.core.qs.scale.take 128).drop 64)
        (s.core.bAt bb.toNat + 64 * off.toNat) pitch.toNat (md == 1) mk.toNat s.core.eng.mask
        (BitVec.ofNat 8 (s.core.fmtAt f.toNat))]

namespace Sys2Proof.Claims

/-- MCLR clears an accumulator at once, with the bound that is still in flight to it (R66, R147); MFMT writes a format
register for the next bundle unless an operation in flight uses it (R72, R154); TZERO clears a tile register for the next
bundle (R156); MASKLD loads a mask block without reserved bits (R155); MDRAIN holds the three parts until the last X
operation in flight is delivered (R154). -/
def tileControl : Prop :=
  (∀ (c : BitVec 2) (g : BitVec 6) (s : State), s.core.guardP g = true →
    ∃ t, exec (.mclr c g) s = .next t ∧ t.core.accC c.toNat = 0 ∧
      t.core.boundAt c.toNat = ((s.core.eng.mmas.filter (·.c == c.toNat)).map (·.inc)).sum % 2 ^ 64 ∧
      (∀ n, n ≠ c.toNat → t.core.accC n = s.core.accC n ∧ t.core.boundAt n = s.core.boundAt n) ∧
      t.core.eng.t = s.core.eng.t ∧ t.core.vault = s.core.vault ∧ t.core.regs = s.core.regs ∧ t.dev = s.dev) ∧
  (∀ (f : BitVec 2) (v : BitVec 8) (g : BitVec 6) (s : State), s.core.guardP g = true →
    (s.fmtBusy f.toNat = false →
      exec (.mfmt f 0 v g) s = .next (s.result 7 1 (.mfmt f.toNat) v.toNat (ones 8) 0)) ∧
    (s.fmtBusy 4 = false → exec (.mfmt f 1 v g) s = .next (s.result 7 1 .wfmt v.toNat (ones 8) 0))) ∧
  (∀ (d : BitVec 4) (g : BitVec 6) (s : State), s.core.guardP g = true → s.core.tilePending d.toNat = false →
    exec (.tzero d g) s = .next (s.result 7 1 (.tile d.toNat) 0 (ones 32768) 0)) ∧
  (∀ (a : BitVec 4) (g : BitVec 6) (s : State) (x : Tile), s.core.guardP g = true → s.core.readTile a.toNat = .ok x →
    maskOk (x.data.toNat % 2 ^ 512) = true →
    exec (.maskld a g) s = .next (s.result 7 1 .maskReg (x.data.toNat % 2 ^ 512) (ones 512) 0)) ∧
  (∀ (g : BitVec 6) (s : State), s.core.guardP g = true → s.core.eng.arrayFree ≤ s.cycle → s.core.eng.exitFree ≤ s.cycle →
    s.core.eng.shuffleFree ≤ s.cycle →
    ∃ t, exec (.mdrain g) s = .next t ∧ s.cycle < t.core.eng.arrayFree ∧
      t.core.eng.exitFree = t.core.eng.arrayFree ∧ t.core.eng.shuffleFree = t.core.eng.arrayFree ∧
      (∀ p ∈ s.core.eng.busyPairs, p.2 ≠ 4 → p.1 ≤ t.core.eng.arrayFree) ∧
      t.core.regs = s.core.regs ∧ t.core.vault = s.core.vault ∧ t.core.qs = s.core.qs ∧ t.dev = s.dev)

/-- TTRN, TOPK and ROWMAX (R156 to R158): with the source readable, the destination neither armed nor pending and the shuffle unit
free, the result is on its way to the destination tile register; TTRN hands on the zero flag of its source (R151). -/
def tileShuffles : Prop :=
  ∀ (d a : BitVec 4) (g : BitVec 6) (s : State) (x : Tile), s.core.guardP g = true → s.core.readTile a.toNat = .ok x →
    s.core.tilePending d.toNat = false → s.core.eng.shuffleFree ≤ s.cycle →
    (∀ qf : BitVec 1, exec (.ttrn d a qf g) s =
      .next (s.writeTile .shuffle 4 8 (.tileFlag d.toNat) (transposed (qf == 1) x.data.toNat + (if x.zero then 2 ^ 32768 else 0)) 0)) ∧
    (∀ (k : BitVec 6) (n : BitVec 7) (rows : BitVec 5) (mk : BitVec 1), exec (.topk d a k n rows mk g) s =
      .next (s.writeTile .shuffle 16 24 (.tile d.toNat) (ofLanes 2048 ((List.range rows.toNat).map fun r =>
        topkRow k.toNat (candidates x.data.toNat s.core.eng.mask.toNat (mk == 1) n.toNat r))) 0)) ∧
    (∀ (n : BitVec 7) (rows : BitVec 5) (mk : BitVec 1), exec (.rowmax d a n rows mk g) s =
      .next (s.writeTile .shuffle 4 12 (.tile d.toNat) (ofLanes 32 ((List.range rows.toNat).map fun r =>
        (rowMax ((candidates x.data.toNat s.core.eng.mask.toNat (mk == 1) n.toNat r).map (·.2))).1))
        (joinAll ((List.range rows.toNat).map fun r =>
          rowMax ((candidates x.data.toNat s.core.eng.mask.toNat (mk == 1) n.toNat r).map (·.2))))))

/-- The 64 rows that a TQNT quantises, each its scale and its elements with their flags: 64 f32 words of the vault at the
effective address, to magnitudes of at most 7 or 127 (R159). -/
def quantisedRows (c : Core) (bb : BitVec 3) (off : BitVec 16) (qf : BitVec 1) : List (Nat × List (Int × Nat)) :=
  (List.range 64).map fun r => tqntRow (if qf = 1 then 7 else 127)
    (lanesOf 32 64 (c.vault.num (c.bAt bb.toNat + 64 * off.toNat) 16384 / 2 ^ (2048 * r)))

/-- TQNT (R153, R159): with both ranges in the vault and nothing to wait for, the quantised rows of the source, as it stands,
are on their way to the tile register, and their scales to the vault, 40 cycles off; both ranges are owned until then. -/
def tileQuantisation : Prop :=
  ∀ (d : BitVec 4) (bb : BitVec 3) (qf : BitVec 1) (bs : BitVec 3) (soff : BitVec 15) (off : BitVec 16) (g : BitVec 6)
    (s : State), s.core.guardP g = true → s.core.tilePending d.toNat = false → s.core.eng.exitFree ≤ s.cycle →
    s.exitWait [(s.core.bAt bb.toNat + 64 * off.toNat, 16384)]
      [(s.core.bAt bb.toNat + 64 * off.toNat, 16384), (s.core.bAt bs.toNat + 128 * soff.toNat, 128)] = .ok () →
    s.core.bAt bb.toNat + 64 * off.toNat + 16384 ≤ vaultSize → s.core.bAt bs.toNat + 128 * soff.toNat + 128 ≤ vaultSize →
    ∃ t, exec (.tqnt d bb qf bs soff off g) s = .next t ∧ t.core.eng.exitFree = s.cycle + 32 ∧
      t.core.vault = s.core.vault ∧ t.core.regs = s.core.regs ∧ (s.core.retained = [] → t.dev.sys = s.dev.sys) ∧
      t.core.eng.t = s.core.eng.t ∧
      t.core.eng.hazards =
        ⟨s.core.bAt bb.toNat + 64 * off.toNat, s.core.bAt bb.toNat + 64 * off.toNat + 16384, s.cycle + 40⟩ ::
        ⟨s.core.bAt bs.toNat + 128 * soff.toNat, s.core.bAt bs.toNat + 128 * soff.toNat + 128, s.cycle + 40⟩ ::
        s.core.eng.hazards ∧
      t.core.eng.exits = s.core.eng.exits ++ [.tqnt (s.cycle + 40) (s.core.orderOf 7)
        (s.core.bAt bs.toNat + 128 * soff.toNat)
        ((quantisedRows s.core bb off qf).map fun r => BitVec.ofNat 16 r.1)] ∧
      t.core.qs.flight = insertDelivery
        ⟨s.cycle + 40, s.core.orderOf 7, .tile d.toNat,
          ofLanes (if qf = 1 then 4 else 8) ((quantisedRows s.core bb off qf).flatMap fun r =>
            r.2.map fun x => (BitVec.ofInt (if qf = 1 then 4 else 8) x.1).toNat), ones 32768,
          (quantisedRows s.core bb off qf).foldl (fun fl r => r.2.foldl (fun fl x => fl ||| x.2) fl) 0, none⟩ s.core.qs.flight

end Sys2Proof.Claims

/-- The words of the tile engine that are no product and no flush (R145, R146, R151, R154 to R159). -/
def Obligations.TileWords : Prop :=
  tileControl ∧ tileShuffles ∧ tileQuantisation

/-- ResidueOf(v, m) = v − m·⌊v/m⌋, the residue of v in 0 to m − 1, and entry conversion takes an integer to its four residues (R62):
of a byte of an x register too. -/
def Obligations.EntryConversion : Prop :=
  (∀ (v : Int) (m : Nat), 0 < m → (residueOf v m : Int) = v - m * (v / m) ∧ residueOf v m < m) ∧
  (∀ v : Int, res v = ⟨residueOf v 4097, residueOf v 8193, residueOf v 8192, residueOf v 8191⟩) ∧
  (∀ (c : Core) (n l : Nat), l < 128 → c.elemX n l = res ((c.eng.x.get 0 n).extractLsb' (8 * l) 8).toInt) ∧
  (∀ i : BitVec 8, imm8 i = i.toInt)

/-! ### Local words -/

namespace Sys2Proof.Claims

/-- The checks of an own-vault access in their order (R161, R184, R302): it waits for a transfer that will write a byte of the range and
for a pending bank; then VRANGE, VALIGN, BANKOWN and XHAZ. -/
def localChecks : Prop :=
  ∀ (s : State) (a n align : Nat),
    (s.checkLocal a n align = .ok () ↔
      s.core.mine.any (·.landsIn a n) = false ∧ s.core.pendingIn a n = false ∧ a + n ≤ vaultSize ∧ a % align = 0 ∧
      s.core.ownsRange a n = true ∧ s.core.hazard s.cycle a n = false) ∧
    (s.core.mine.any (·.landsIn a n) = true → s.checkLocal a n align = .error (.stall .stallg)) ∧
    (s.core.mine.any (·.landsIn a n) = false → a + n ≤ vaultSize → s.core.pendingIn a n = true →
      s.checkLocal a n align = .error (.stall .stallld)) ∧
    (s.core.mine.any (·.landsIn a n) = false → ¬ a + n ≤ vaultSize → s.checkLocal a n align = .error (.trap .vrange)) ∧
    (s.core.mine.any (·.landsIn a n) = false → s.core.pendingIn a n = false → a + n ≤ vaultSize →
      (a % align ≠ 0 → s.checkLocal a n align = .error (.trap .valign)) ∧
      (a % align = 0 → s.core.ownsRange a n = false → s.checkLocal a n align = .error (.trap .bankown)) ∧
      (a % align = 0 → s.core.ownsRange a n = true → s.core.hazard s.cycle a n = true →
        s.checkLocal a n align = .error (.trap .xhaz)))

/-- The checks of a cluster access in their order (R162): VRANGE for an address above 2^26 or a range that leaves its vault, CRANGE for a
member outside the gang, VALIGN. -/
def clusterChecks : Prop :=
  ∀ (s : State) (ca n align : Nat),
    (¬ (ca < 2 ^ 26 ∧ ca % vaultSize + n ≤ vaultSize) → s.checkCluster ca n align = .error (.trap .vrange)) ∧
    (ca < 2 ^ 26 → ca % vaultSize + n ≤ vaultSize →
      (s.core.ctl.size ≤ ca / vaultSize → s.checkCluster ca n align = .error (.trap .crange)) ∧
      (ca / vaultSize < s.core.ctl.size → ca % vaultSize % align ≠ 0 → s.checkCluster ca n align = .error (.trap .valign)) ∧
      (ca / vaultSize < s.core.ctl.size → ca % vaultSize % align = 0 →
        s.checkCluster ca n align = .ok (ca / vaultSize, ca % vaultSize)))

/-- A word of slot 8 whose access fails a check traps at issue, and nothing but the trap has happened (R81, R161). -/
def failsLocally (i : Instr) (s : State) (o : BitVec 3) (a n align : Nat) : Prop :=
  ∀ k, s.orderWait o .stallld = .ok () → s.checkLocal a n align = .error (.trap k) →
    exec i s = .next (takeTrap { cause := k, slot := 8 } s.cycle s)

/-- The loads, stores and atomics of the L slot that fail a check. -/
def localFailures : Prop :=
  ∀ (o : BitVec 3) (g : Guard) (bb : BitVec 3) (off : BitVec 32) (s : State), s.core.guardP g = true →
    (∀ (sz : BitVec 2) (sx : BitVec 1) (d : BitVec 5),
      failsLocally (.ld o g bb sz sx d off) s o (s.core.ea bb off.toNat) (2 ^ sz.toNat) (2 ^ sz.toNat)) ∧
    (∀ d : BitVec 5, failsLocally (.vld o g bb d off) s o (s.core.ea bb off.toNat) 128 128 ∧
      failsLocally (.tdl o g bb d off) s o (s.core.ea bb off.toNat) 64 64) ∧
    (∀ d : BitVec 6, failsLocally (.xld o g bb d off) s o (s.core.ea bb off.toNat) 128 128) ∧
    failsLocally (.xsc o g bb off) s o (s.core.ea bb off.toNat) 256 64 ∧
    (∀ d : BitVec 4, failsLocally (.tldl o g bb d off) s o (s.core.ea bb off.toNat) 4096 64) ∧
    (∀ (sz : BitVec 2) (r : BitVec 5) (x : Word64), s.core.readG r.toNat = .ok x →
      failsLocally (.st o g bb sz r off) s o (s.core.ea bb off.toNat) (2 ^ sz.toNat) (2 ^ sz.toNat)) ∧
    (∀ (r : BitVec 5) (x : Vec), s.core.readV r.toNat = .ok x →
      failsLocally (.vst o g bb r off) s o (s.core.ea bb off.toNat) 128 128) ∧
    (∀ (r : BitVec 4) (x : Tile), s.core.readTile r.toNat = .ok x →
      failsLocally (.tstl o g bb r off) s o (s.core.ea bb off.toNat) 4096 64) ∧
    (∀ (sz : BitVec 1) (aop : BitVec 3) (r d : BitVec 5) (x : Word64) (cmp : Nat), s.core.readG r.toNat = .ok x →
      s.core.comparand aop d = .ok cmp →
      failsLocally (.amol o g bb sz aop r d off) s o (s.core.ea bb off.toNat) (if sz = 1 then 8 else 4) (if sz = 1 then 8 else 4))

/-- A word of slot 9 whose address fails a check, with room in its queue, traps at issue, once a reader of the own vault has nothing to
wait for there (R81, R162, R184). -/
def failsInCluster (i : Instr) (s : State) (reads : Bool) (ca n align : Nat) : Prop :=
  (reads = true → s.ownBring ca n = .ok ()) →
    ∀ k, s.checkCluster ca n align = .error (.trap k) → exec i s = .next (takeTrap { cause := k, slot := 9 } s.cycle s)

/-- The loads and stores of the C slot that fail a check. -/
def clusterFailures : Prop :=
  ∀ (o : BitVec 3) (g : Guard) (bb : BitVec 3) (off : BitVec 32) (s : State), s.core.guardP g = true →
    (queueRoom s.core.qs.loads = .ok () →
      (∀ (sz : BitVec 2) (sx : BitVec 1) (d : BitVec 5),
        failsInCluster (.ldc o g bb sz sx d off) s true (s.core.ea bb off.toNat) (2 ^ sz.toNat) (2 ^ sz.toNat)) ∧
      (∀ d : BitVec 5, failsInCluster (.vldc o g bb d off) s true (s.core.ea bb off.toNat) 128 128) ∧
      (∀ d : BitVec 4, failsInCluster (.tldc o g bb d off) s true (s.core.ea bb off.toNat) 4096 64)) ∧
    (queueRoom s.core.qs.stores = .ok () →
      (∀ (sz : BitVec 2) (r : BitVec 5) (x : Word64), s.core.readG r.toNat = .ok x →
        failsInCluster (.stc o g bb sz r off) s false (s.core.ea bb off.toNat) (2 ^ sz.toNat) (2 ^ sz.toNat)) ∧
      (∀ (r : BitVec 5) (x : Vec), s.core.readV r.toNat = .ok x →
        failsInCluster (.vstc o g bb r off) s false (s.core.ea bb off.toNat) 128 128) ∧
      (∀ (sz : BitVec 1) (aop : BitVec 3) (r d : BitVec 5) (x : Word64) (cmp : Nat), s.core.readG r.toNat = .ok x →
        s.core.comparand aop d = .ok cmp →
        failsInCluster (.amoc o g bb sz aop r d off) s true (s.core.ea bb off.toNat) (if sz = 1 then 8 else 4)
          (if sz = 1 then 8 else 4)))

end Sys2Proof.Claims

/-- The checks of own-vault and cluster accesses (R161, R162), and that a load, store or atomic that fails one traps at issue and does
nothing else (R81). -/
def Obligations.LocalAccessChecks : Prop :=
  localChecks ∧ clusterChecks ∧ localFailures ∧ clusterFailures

namespace Sys2Proof.Claims

/-- A local access of `n` bytes at `a`, aligned to `align`, with qualifier `o` has nothing to wait for and passes its checks. -/
def localOk (s : State) (o : BitVec 3) (a n align : Nat) : Prop :=
  s.orderWait o .stallld = .ok () ∧ s.checkLocal a n align = .ok ()

/-- A local load: the bytes at its address, as `out` delivers them, are on their way to `dest`, `lat` cycles off; a
poisoned line is noted, an acquire takes effect, and no byte of any vault and no register changes. -/
def loads (i : Instr) (s : State) (o : BitVec 3) (a n align lat : Nat) (dest : Dest) (w : Nat) (out : Nat → Nat) : Prop :=
  localOk s o a n align →
    exec i s = .next (((s.orderAfter o).mod fun c => c.noteRead 8 a n).result 8 lat dest (out (s.core.vault.num a n))
      (ones w) 0)

/-- LD, VLD, XLD, XSC and TDL (R166, R168, R171) and TLDL (R167), whose tile register must not be armed. -/
def localLoads : Prop :=
  ∀ (o : BitVec 3) (g : Guard) (bb : BitVec 3) (off : BitVec 32) (s : State), s.core.guardP g = true →
    (∀ (sz : BitVec 2) (d : BitVec 5),
      loads (.ld o g bb sz 0 d off) s o (s.core.ea bb off.toNat) (2 ^ sz.toNat) (2 ^ sz.toNat) 4
        (.g (s.core.gKey d.toNat)) 64 id ∧
      loads (.ld o g bb sz 1 d off) s o (s.core.ea bb off.toNat) (2 ^ sz.toNat) (2 ^ sz.toNat) 4
        (.g (s.core.gKey d.toNat)) 64 (fun x => ((BitVec.ofNat (8 * 2 ^ sz.toNat) x).signExtend 64).toNat)) ∧
    (∀ d : BitVec 5, loads (.vld o g bb d off) s o (s.core.ea bb off.toNat) 128 128 4 (.v (s.core.vKey d.toNat)) 1024 id) ∧
    (∀ d : BitVec 6, loads (.xld o g bb d off) s o (s.core.ea bb off.toNat) 128 128 6 (.x d.toNat) 1024 id) ∧
    loads (.xsc o g bb off) s o (s.core.ea bb off.toNat) 256 64 6 .wls 2048 (scaleWords 128) ∧
    (∀ d : BitVec 4, s.core.armed d.toNat = false →
      loads (.tldl o g bb d off) s o (s.core.ea bb off.toNat) 4096 64 8 (.tileL d.toNat) 32768 id)

/-- TDL copies 64 bytes into td[D], visible after 4 cycles, whatever the bytes are: a descriptor is checked when a
transfer uses it (R171). -/
def descriptorLoad : Prop :=
  ∀ (o : BitVec 3) (g : Guard) (bb : BitVec 3) (d : BitVec 5) (off : BitVec 32) (s : State), s.core.guardP g = true →
    localOk s o (s.core.ea bb off.toNat) 64 64 →
    ∃ t, exec (.tdl o g bb d off) s = .next t ∧ t.core.vault = s.core.vault ∧ t.core.regs = s.core.regs ∧
      t.core.qs.flight = insertDelivery ⟨s.cycle + 4, s.core.orderOf 8, .td d.toNat,
        s.core.vault.num (s.core.ea bb off.toNat) 64, ones 512, 0, none⟩ s.core.qs.flight

/-- VLDS (R166) gathers elements of 1, 2, 4 or 8 bytes, a stride apart. -/
def stridedLoad : Prop :=
  ∀ (o : BitVec 3) (g : Guard) (bb : BitVec 3) (es : BitVec 2) (d r : BitVec 5) (off : BitVec 32) (s s' : State)
    (st : Word64) (xs : List Nat), s.core.guardP g = true → s.core.readG r.toNat = .ok st →
    s.loadEach o (2 ^ es.toNat) (stridedAddrs (s.core.ea bb off.toNat) (st.setWidth 32).toInt (128 / 2 ^ es.toNat)) =
      .ok (xs, s') →
    exec (.vlds o g bb es d r off) s =
      .next (s'.result 8 4 (.v (s.core.vKey d.toNat)) (ofLanes (8 * 2 ^ es.toNat) xs) (ones 1024) 0) ∧
    xs = (stridedAddrs (s.core.ea bb off.toNat) (st.setWidth 32).toInt (128 / 2 ^ es.toNat)).map
      (fun a => s.core.vault.num a (2 ^ es.toNat)) ∧
    s'.core.vault = s.core.vault ∧ s'.core.regs = s.core.regs

end Sys2Proof.Claims

/-- Loads from the own vault (R163 to R168, R171): contiguous, of descriptors and strided. -/
def Obligations.LocalReads : Prop :=
  localLoads ∧ descriptorLoad ∧ stridedLoad

namespace Sys2Proof.Claims

/-- A local store: the bytes of its range take the little-endian bytes of `x`, and every other byte of the core's vault, its
registers, every other core and global memory are as before. -/
def stores (i : Instr) (s : State) (o : BitVec 3) (a n align x : Nat) : Prop :=
  localOk s o a n align →
    ∃ t, exec i s = .next t ∧ t.core.vault.num a n = x % 2 ^ (8 * n) ∧
      (∀ b, b < a ∨ a + n ≤ b → t.core.vault.read b = s.core.vault.read b) ∧
      t.core.regs = s.core.regs ∧ t.core.seq = s.core.seq ∧ t.core.ports = s.core.ports ∧ t.core.eng = s.core.eng ∧
      t.core.qs = s.core.qs ∧ t.core.ctl = s.core.ctl ∧ t.others = s.others ∧ t.dev.sys.mem = s.dev.sys.mem

/-- ST, VST and TSTL (R166, R167). -/
def localStores : Prop :=
  ∀ (o : BitVec 3) (g : Guard) (bb : BitVec 3) (off : BitVec 32) (s : State), s.core.guardP g = true →
    (∀ (sz : BitVec 2) (r : BitVec 5) (x : Word64), s.core.readG r.toNat = .ok x →
      stores (.st o g bb sz r off) s o (s.core.ea bb off.toNat) (2 ^ sz.toNat) (2 ^ sz.toNat) x.toNat) ∧
    (∀ (r : BitVec 5) (x : Vec), s.core.readV r.toNat = .ok x →
      stores (.vst o g bb r off) s o (s.core.ea bb off.toNat) 128 128 x.toNat) ∧
    (∀ (r : BitVec 4) (x : Tile), s.core.readTile r.toNat = .ok x →
      stores (.tstl o g bb r off) s o (s.core.ea bb off.toNat) 4096 64 x.data.toNat)

/-- The value that an atomic leaves in memory (R169): fetch-add, signed minimum and maximum, and, or, swap, and
compare-and-swap. -/
def atomicOut (w : Nat) (aop : BitVec 3) (old x cmp : BitVec w) : BitVec w :=
  match aop.toNat with
  | 0 => old + x
  | 1 => if x.slt old then x else old
  | 2 => if old.slt x then x else old
  | 3 => old &&& x
  | 4 => old ||| x
  | 5 => x
  | _ => if old = cmp then x else old

/-- AMOL (R169) performs at issue: memory takes the new value, every other byte stays, and the old value is on its way
to the destination register, 6 cycles off. -/
def localAtomics : Prop :=
  ∀ (o : BitVec 3) (g : Guard) (bb : BitVec 3) (sz : BitVec 1) (aop : BitVec 3) (r d : BitVec 5) (off : BitVec 32)
    (s : State) (x : Word64) (cmp : Nat), s.core.guardP g = true → s.core.readG r.toNat = .ok x →
    s.core.comparand aop d = .ok cmp →
    localOk s o (s.core.ea bb off.toNat) (if sz = 1 then 8 else 4) (if sz = 1 then 8 else 4) →
    ∃ t, exec (.amol o g bb sz aop r d off) s = .next t ∧
      (t.core.vault.num (s.core.ea bb off.toNat) (if sz = 1 then 8 else 4) =
        (atomicOut (8 * (if sz = 1 then 8 else 4)) aop
          (BitVec.ofNat _ (s.core.vault.num (s.core.ea bb off.toNat) (if sz = 1 then 8 else 4)))
          (BitVec.ofNat _ x.toNat) (BitVec.ofNat _ cmp)).toNat) ∧
      (∀ b, b < s.core.ea bb off.toNat ∨ s.core.ea bb off.toNat + (if sz = 1 then 8 else 4) ≤ b →
        t.core.vault.read b = s.core.vault.read b) ∧
      t.core.qs.flight = insertDelivery ⟨s.cycle + 6, s.core.orderOf 8, .g (s.core.gKey d.toNat),
        s.core.vault.num (s.core.ea bb off.toNat) (if sz = 1 then 8 else 4), ones 64, 0, none⟩ s.core.qs.flight ∧
      t.core.regs = s.core.regs ∧ t.others = s.others ∧ t.dev.sys.mem = s.dev.sys.mem

/-- ACQB and RELB (R170): the bank ownership for the next bundle. An ACQB has nothing to wait for when no named bank is
pending and no other task holds one that this task does not. -/
def bankOwnership : Prop :=
  ∀ (g : Guard) (m : BitVec 5) (s : State) (mask : Word64), s.core.guardP g = true → s.core.readG m.toNat = .ok mask →
    (exec (.relb g m) s = .next (s.result 8 1 .owned (s.core.ctl.owned &&& ~~~mask).toNat (ones 64) 0)) ∧
    (mask &&& s.core.ctl.pendingBanks = 0 → s.heldElsewhere (mask &&& ~~~s.core.ctl.owned) = false →
      ∃ t, exec (.acqb g m) s = .next t ∧ t.core.qs.flight = insertDelivery ⟨s.cycle + 1, s.core.orderOf 8, .owned,
          (s.core.ctl.owned ||| mask).toNat, ones 64, 0, none⟩ s.core.qs.flight ∧
        t.core.vault = s.core.vault ∧ t.core.regs = s.core.regs ∧ t.core.ctl = s.core.ctl ∧
        (s.core.retained = [] → t.dev.sys = s.dev.sys))

end Sys2Proof.Claims

/-- Stores and atomics on the own vault, and ownership of its banks (R163 to R166, R169, R170). -/
def Obligations.LocalWrites : Prop :=
  localStores ∧ localAtomics ∧ bankOwnership

/-! ### Cluster words -/

namespace Sys2Proof.Claims

/-- What a C word leaves: its entry behind those queued, and RAB set for the next bundle (R162, R172). A load or atomic of bytes of the own
vault that a TLDX of the task is to bring stalls (R184). -/
def enters (i : Instr) (s : State) (store : Bool) (o : BitVec 3) (ca n align : Nat) (k : CKind) : Prop :=
  ((store = false ∨ k.reads = true) → s.ownBring ca n ≠ .ok () →
    exec i s = .next (s.mod fun c => { c with stall := some .stallg })) ∧
  ((store = false ∨ k.reads = true → s.ownBring ca n = .ok ()) → ∀ m off, s.checkCluster ca n align = .ok (m, off) →
    exec i s = .next ((s.mod fun c => if store then c.pushStore (s.entry o k m off n) else c.pushLoad (s.entry o k m off n)).result
      9 1 .rab 1 1 0))

/-- LDC, VLDC, TLDC and TLDM (R172, R174): with room in the load queue and a legal cluster address, the entry is queued. -/
def clusterLoads : Prop :=
  ∀ (o : BitVec 3) (g : Guard) (bb : BitVec 3) (off : BitVec 32) (s : State), s.core.guardP g = true →
    queueRoom s.core.qs.loads = .ok () →
    (∀ (sz : BitVec 2) (sx : BitVec 1) (d : BitVec 5), enters (.ldc o g bb sz sx d off) s false o (s.core.ea bb off.toNat)
      (2 ^ sz.toNat) (2 ^ sz.toNat) (.ld (s.core.gKey d.toNat) (2 ^ sz.toNat) (sx == 1))) ∧
    (∀ d : BitVec 5, enters (.vldc o g bb d off) s false o (s.core.ea bb off.toNat) 128 128 (.vld (s.core.vKey d.toNat))) ∧
    (∀ d : BitVec 4, s.core.armed d.toNat = false →
      enters (.tldc o g bb d off) s false o (s.core.ea bb off.toNat) 4096 64 (.tld d.toNat)) ∧
    (∀ (d : BitVec 4) (m : BitVec 5) (x : Word64), s.core.readG m.toNat = .ok x →
      (x.toNat % 2 ^ 16 = 0 ∨ s.multicastCount < 4) → x.toNat % 2 ^ 16 / 2 ^ s.core.ctl.size = 0 →
      s.core.armed d.toNat = false →
      enters (.tldm o g bb d m off) s false o (s.core.ea bb off.toNat) 4096 64 (.tldm d.toNat (x.toNat % 2 ^ 16)))

/-- STC, VSTC and AMOC (R169, R172): with room in the store queue and a legal cluster address, the entry is queued with
its data as they stand. -/
def clusterStores : Prop :=
  ∀ (o : BitVec 3) (g : Guard) (bb : BitVec 3) (off : BitVec 32) (s : State), s.core.guardP g = true →
    queueRoom s.core.qs.stores = .ok () →
    (∀ (sz : BitVec 2) (r : BitVec 5) (x : Word64), s.core.readG r.toNat = .ok x →
      enters (.stc o g bb sz r off) s true o (s.core.ea bb off.toNat) (2 ^ sz.toNat) (2 ^ sz.toNat)
        (.st (leBytes (2 ^ sz.toNat) x.toNat))) ∧
    (∀ (r : BitVec 5) (x : Vec), s.core.readV r.toNat = .ok x →
      enters (.vstc o g bb r off) s true o (s.core.ea bb off.toNat) 128 128 (.st (leBytes 128 x.toNat))) ∧
    (∀ (sz : BitVec 1) (aop : BitVec 3) (r d : BitVec 5) (x : Word64) (cmp : Nat), s.core.readG r.toNat = .ok x →
      s.core.comparand aop d = .ok cmp →
      enters (.amoc o g bb sz aop r d off) s true o (s.core.ea bb off.toNat) (if sz = 1 then 8 else 4)
        (if sz = 1 then 8 else 4) (.amo aop.toNat (if sz = 1 then 8 else 4) x.toNat cmp (s.core.gKey d.toNat)))

/-- ARM marks its tile register for the next bundle (R174); MARK enters both queues, and is gone at once where both are empty
(R173). -/
def armAndMark : Prop :=
  ∀ (g : Guard) (s : State), s.core.guardP g = true →
    (∀ d : BitVec 4, exec (.arm g d) s = .next (s.result 9 1 (.arm d.toNat) 1 1 0)) ∧
    (∃ t, exec (.mark g) s = .next t ∧
      (s.core.qs.loads = [] → s.core.qs.stores = [] → t.core.qs.loads = [] ∧ t.core.qs.stores = []) ∧
      (s.core.qs.loads.all (·.markId.isNone) = true → s.core.qs.loads ≠ [] →
        t.core.qs.loads = s.core.qs.loads ++ [s.entry 0 (.mark s.core.bundles) 0 0 0] ∧
        t.core.qs.stores = s.core.qs.stores ++ [s.entry 0 (.mark s.core.bundles) 0 0 0]) ∧
      t.core.vault = s.core.vault ∧ t.core.regs = s.core.regs ∧ t.core.qs.flight = s.core.qs.flight ∧ t.dev = s.dev)

end Sys2Proof.Claims

/-- The words of the C slot at issue (R172 to R174). -/
def Obligations.ClusterWords : Prop :=
  clusterLoads ∧ clusterStores ∧ armAndMark

/-! ### Global words -/

namespace Sys2Proof.Claims

/-- The port has room for a word (R184): it holds fewer than 32, those of the gather engine among them. -/
def hasRoom (c : Core) : Prop := c.port.length + c.qs.gathers.length < 32

/-- TLD, TLD into a ring, and TST (R186, R187): with room in the port and coordinates that name a tile, the transfer enters the
port; a TST takes the tile as it stands. -/
def tensorTransfers : Prop :=
  ∀ (o : BitVec 3) (g : Guard) (td : BitVec 5) (ba bb : BitVec 3) (off : BitVec 32) (s : State) (r : TileRef),
    s.core.guardP g = true → hasRoom s.core → s.tensor td ba bb off = .ok r →
    (∀ d : BitVec 4, s.core.armed d.toNat = false →
      exec (.tld o g td d ba bb off) s = .next (s.enter (s.word o (.tldTile d.toNat r) s.cur 0))) ∧
    (∀ h : BitVec 3, ringWait s.core (s.core.ring h.toNat) = .ok () → (s.core.ring h.toNat).takesTiles = true →
      exec (.tldRing o g td h ba bb off) s = .next (s.enter (s.word o (.tldRing h.toNat r) s.cur 0))) ∧
    (∀ (t : BitVec 4) (x : Tile), s.core.readTile t.toNat = .ok x →
      exec (.tst o g td t ba bb off) s = .next (s.enter (s.word o (.tst r x.data) s.cur 0)))

/-- XLATE, TLDX, TSTX and AMOG (R189 to R191): with room in the port, and for the last three a translation that admits the
access, the word enters the port; a TSTX takes the vault's bytes as they stand once no earlier acquire is pending (R164). -/
def flatTransfers : Prop :=
  ∀ (o : BitVec 3) (g : Guard) (xt : BitVec 3) (off : BitVec 32) (s : State), s.core.guardP g = true →
    hasRoom s.core →
    (∀ (v : BitVec 5) (acc : BitVec 2) (x : Word64), s.core.readG v.toNat = .ok x →
      exec (.xlate g xt v acc) s = .next (s.enter (s.word 0 (.xlate xt.toNat (x.toNat % 2 ^ 57) acc.toNat) s.cur 0))) ∧
    (∀ (bb ln : BitVec 3) (va : Nat) (pa : Option Nat),
      s.flat xt off (64 * 2 ^ ln.toNat) 64 false (s.core.bAt bb.toNat % 64 == 0) = .ok (va, pa) →
      s.checkVault (s.core.bAt bb.toNat) (64 * 2 ^ ln.toNat) 64 = .ok () →
      exec (.tldx o g xt bb ln off) s =
        .next (s.enter (s.word o (.tldx va pa (64 * 2 ^ ln.toNat) (s.core.bAt bb.toNat)) s.cur 0))) ∧
    (∀ (bb ln : BitVec 3) (va : Nat) (pa : Option Nat),
      s.flat xt off (64 * 2 ^ ln.toNat) 64 true (s.core.bAt bb.toNat % 64 == 0) = .ok (va, pa) →
      s.checkLocal (s.core.bAt bb.toNat) (64 * 2 ^ ln.toNat) 64 = .ok () → s.core.acquirePending s.core.bundles = false →
      ∃ t, exec (.tstx o g xt bb ln off) s = .next t ∧
        t.core.port = s.core.port ++ [s.word o (.tstx va pa (s.core.vault.bytes (s.core.bAt bb.toNat) (64 * 2 ^ ln.toNat))) s.cur 0] ∧
        t.core.vault = s.core.vault ∧ t.core.regs = s.core.regs ∧ t.dev = s.dev) ∧
    (∀ (sz : BitVec 1) (aop : BitVec 3) (r d : BitVec 5) (x : Word64) (cmp va : Nat) (pa : Option Nat),
      s.core.readG r.toNat = .ok x → s.core.comparand aop d = .ok cmp →
      s.flat xt off (if sz = 1 then 8 else 4) (if sz = 1 then 8 else 4) true true = .ok (va, pa) →
      exec (.amog o g xt sz aop r d off) s = .next (s.enter (s.word o
        (.amog va pa aop.toNat (if sz = 1 then 8 else 4) x.toNat cmp (s.core.gKey d.toNat)) s.cur 0)))

end Sys2Proof.Claims

/-- Tensor and flat transfers, translations and global atomics at issue (R184 to R191). -/
def Obligations.GlobalTransfers : Prop :=
  tensorTransfers ∧ flatTransfers

namespace Sys2Proof.Claims

/-- An engine command (R192): its block, 64 bytes of the own vault, is read at issue, and with room in the port, a completion
counter in the gang, no earlier acquire pending (R164), no pending bank under its ring (R302) and a block that its check admits, the
command enters the port with the counter it increments. -/
def commands (i : BitVec 3 → Guard → BitVec 3 → BitVec 4 → BitVec 4 → BitVec 1 → BitVec 32 → Instr) (k : CmdKind)
    (may : State → Prop) (check : State → BitVec 512 → Except Stop Unit) : Prop :=
  ∀ (o : BitVec 3) (g : Guard) (bb : BitVec 3) (kc km : BitVec 4) (kr : BitVec 1) (blk : BitVec 32) (s : State),
    s.core.guardP g = true → may s → hasRoom s.core →
    (kr = 0 ∨ km.toNat < s.core.ctl.size) → s.checkLocal (s.core.ea bb blk.toNat) 64 64 = .ok () →
    s.core.poisoned (s.core.ea bb blk.toNat) 64 = false → s.core.acquirePending s.core.bundles = false →
    s.core.commandRing k (BitVec.ofNat 512 (s.core.vault.num (s.core.ea bb blk.toNat) 64)) = .ok () →
    check s (BitVec.ofNat 512 (s.core.vault.num (s.core.ea bb blk.toNat) 64)) = .ok () →
    ∃ t e, exec (i o g bb kc km kr blk) s = .next t ∧ t.core.port = s.core.port ++ [e] ∧
      e.op = .cmd k (s.core.ea bb blk.toNat) (BitVec.ofNat 512 (s.core.vault.num (s.core.ea bb blk.toNat) 64)) ∧
      e.kcore = (if kr = 1 then s.member km.toNat else s.cur) ∧ e.kc = kc.toNat ∧ e.bad = false ∧
      t.core.vault = s.core.vault ∧ t.core.regs = s.core.regs ∧ t.core.qs = s.core.qs ∧ t.dev = s.dev ∧ t.others = s.others

/-- The traps of an engine command at issue, in the order of R192, once it has nothing to wait for (R81): those of its block's place,
then those of its fields, then CRANGE of a completion counter outside the gang. -/
def commandTraps (i : BitVec 3 → Guard → BitVec 3 → BitVec 4 → BitVec 4 → BitVec 1 → BitVec 32 → Instr) (k : CmdKind)
    (may : State → Prop) (check : State → BitVec 512 → Except Stop Unit) : Prop :=
  ∀ (o : BitVec 3) (g : Guard) (bb : BitVec 3) (kc km : BitVec 4) (kr : BitVec 1) (blk : BitVec 32) (s : State) (a : Nat)
    (b : BitVec 512), a = s.core.ea bb blk.toNat → b = BitVec.ofNat 512 (s.core.vault.num a 64) →
    s.core.guardP g = true → may s → hasRoom s.core → s.core.acquirePending s.core.bundles = false →
    s.core.mine.any (·.landsIn a 64) = false → s.core.pendingIn a 64 = false → s.core.commandRing k b = .ok () →
    (∀ x, s.checkLocal a 64 64 = .error (.trap x) →
      exec (i o g bb kc km kr blk) s = .next (takeTrap { cause := x, slot := 10 } s.cycle s)) ∧
    (s.checkLocal a 64 64 = .ok () → s.core.poisoned a 64 = false →
      (∀ x, check s b = .error (.trap x) →
        exec (i o g bb kc km kr blk) s = .next (takeTrap { cause := x, slot := 10 } s.cycle s)) ∧
      (check s b = .ok () → kr = 1 → s.core.ctl.size ≤ km.toNat →
        exec (i o g bb kc km kr blk) s = .next (takeTrap { cause := .crange, slot := 10 } s.cycle s)))

/-- CPY, KAPP, PMATCH, PINS, PREL, BLEND, COLL, ASN, LAUNCH and DECANT at issue (R192, R197, R199 to R206). -/
def engineCommandsIssue : Prop :=
  commands .cpy .cpy (fun _ => True) State.checkCpy ∧
  commands .kapp .kapp (fun _ => True) (fun _ => checkKapp) ∧
  commands .pmatch .pmatch (fun _ => True) (fun _ => checkTrellis pmatchOk) ∧
  commands .pins .pins (fun _ => True) (fun _ => checkTrellis pinsOk) ∧
  commands .prel .prel (fun _ => True) (fun _ => checkTrellis prelOk) ∧
  commands .blend .blend (fun _ => True) (fun s => checkCollective blendOk s.core.ctx.scope) ∧
  commands .coll .coll (fun _ => True) (fun s => checkCollective collOk s.core.ctx.scope) ∧
  commands .asn .asn (fun _ => True) (fun _ => checkAsn) ∧
  commands .launch .launch (fun s => s.dispatches s.cur = true) (fun _ => checkLaunch) ∧
  commands .decant .decant (fun _ => True) State.checkDecant

/-- The traps of each engine command. -/
def engineCommandTraps : Prop :=
  commandTraps .cpy .cpy (fun _ => True) State.checkCpy ∧
  commandTraps .kapp .kapp (fun _ => True) (fun _ => checkKapp) ∧
  commandTraps .pmatch .pmatch (fun _ => True) (fun _ => checkTrellis pmatchOk) ∧
  commandTraps .pins .pins (fun _ => True) (fun _ => checkTrellis pinsOk) ∧
  commandTraps .prel .prel (fun _ => True) (fun _ => checkTrellis prelOk) ∧
  commandTraps .blend .blend (fun _ => True) (fun s => checkCollective blendOk s.core.ctx.scope) ∧
  commandTraps .coll .coll (fun _ => True) (fun s => checkCollective collOk s.core.ctx.scope) ∧
  commandTraps .asn .asn (fun _ => True) (fun _ => checkAsn) ∧
  commandTraps .launch .launch (fun s => s.dispatches s.cur = true) (fun _ => checkLaunch) ∧
  commandTraps .decant .decant (fun _ => True) State.checkDecant

/-- LAUNCH on a core that is no dispatch core traps PRIV once it has nothing to wait for (R81, R206). -/
def launchNeedsDispatchCore : Prop :=
  ∀ (o : BitVec 3) (g : Guard) (bb : BitVec 3) (kc km : BitVec 4) (kr : BitVec 1) (blk : BitVec 32) (s : State),
    s.core.guardP g = true → s.dispatches s.cur = false → hasRoom s.core → s.core.acquirePending s.core.bundles = false →
    s.core.mine.any (·.landsIn (s.core.ea bb blk.toNat) 64) = false → s.core.pendingIn (s.core.ea bb blk.toNat) 64 = false →
    exec (.launch o g bb kc km kr blk) s = .next (takeTrap { cause := .priv, slot := 10 } s.cycle s)

end Sys2Proof.Claims

/-- Engine commands at issue (R192, R197, R199 to R206): a command that passes its checks goes to the port; one that fails one traps. -/
def Obligations.EngineCommands : Prop :=
  engineCommandsIssue ∧ engineCommandTraps ∧ launchNeedsDispatchCore

/-- CWAIT holds its bundle until (k[kc] − gV<31:0>) mod 2^32 < 2^31, that is, until the counter has reached gV; gV is read
before the bundle; with ord 001 it acquires at the bundle's scope; it counts STALLG while it waits (R194). -/
def Obligations.CounterWait : Prop :=
  ∀ (o : BitVec 3) (g : Guard) (kc : BitVec 4) (v : BitVec 5) (s : State) (x : Word64), s.core.guardP g = true →
    hasRoom s.core → s.core.readG v.toNat = .ok x →
    ((s.core.kAt kc.toNat - x.setWidth 32).toNat < 2 ^ 31 →
      exec (.cwait o g kc v) s = .next (if o.getLsbD 0 then s.acquire s.core.ctx.scope else s)) ∧
    (2 ^ 31 ≤ (s.core.kAt kc.toNat - x.setWidth 32).toNat →
      exec (.cwait o g kc v) s = .next (s.mod fun c => { c with stall := some .stallg }))

/-- FENCE issues once every earlier access and command has performed, and at package and system scope reached its home, and
acquires at its scope; until then it stalls (R195, R263). WAITM (R196) issues when the line it watches differs from the one it
keeps, with 1; at a pre-emption request, with 2; and after its limit, with 0; until then it holds its bundle. That they are asked in
this order, where more than one holds, is the model's choice (log entry 116). -/
def Obligations.MemoryWaits : Prop :=
  (∀ (g : Guard) (s : State), s.core.guardP g = true → hasRoom s.core →
    (s.mayRelease s.core.bundles s.core.ctx.scope = true → exec (.fence g) s = .next (s.acquire s.core.ctx.scope)) ∧
    (s.mayRelease s.core.bundles s.core.ctx.scope = false →
      exec (.fence g) s = .next (s.mod fun c => { c with stall := some .stallg }))) ∧
  (∀ (o : BitVec 3) (g : Guard) (d a t : BitVec 5) (s s' : State) (va lim : Word64) (line : BitVec 512),
    s.core.guardP g = true → hasRoom s.core → s.core.readG a.toNat = .ok va → s.core.readG t.toNat = .ok lim →
    s.orderWait 0 .stallg = .ok () → va.toNat % 64 = 0 → (∀ w, s.core.waiting = some w → w.bad = false) →
    s.watched (va.toNat % 2 ^ 57) = .ok (some line, false, s') →
    (∀ w kept, s.core.waiting = some w → w.line = some kept → line ≠ kept →
      exec (.waitm o g d a t) s = .next ((s'.orderAfter o).result 10 1 (.g (s.core.gKey d.toNat)) 1 (ones 64) 0)) ∧
    ((∀ w, s.core.waiting = some w → w.line = none ∨ w.line = some line) → s.core.ctl.preempt = true →
      exec (.waitm o g d a t) s = .next ((s'.orderAfter o).result 10 1 (.g (s.core.gKey d.toNat)) 2 (ones 64) 0)) ∧
    ((∀ w, s.core.waiting = some w → w.line = none ∨ w.line = some line) → s.core.ctl.preempt = false →
      ((s.core.waiting.map (·.since)).getD s.cycle + lim.toNat % 2 ^ 32 ≤ s.cycle →
        exec (.waitm o g d a t) s = .next ((s'.orderAfter o).result 10 1 (.g (s.core.gKey d.toNat)) 0 (ones 64) 0)) ∧
      (¬ (s.core.waiting.map (·.since)).getD s.cycle + lim.toNat % 2 ^ 32 ≤ s.cycle →
        ∃ u, exec (.waitm o g d a t) s = .next u ∧ u.core.stall = some .stallg ∧
          (u.core.waiting.bind (·.line)) = some line ∧ u.core.regs = s'.core.regs ∧ u.core.vault = s'.core.vault ∧
          u.dev = s'.dev)))

namespace Sys2Proof.Claims

/-- GATH, ICINV and the provenance context (R198, R207, R208). An emit takes the digest of what has been absorbed, and
leaves the context as it stood but for its count of emits. -/
def gatherAndProvenance : Prop :=
  ∀ (g : Guard) (s : State), s.core.guardP g = true →
    (∀ (b : BitVec 5) (es : BitVec 2) (n : BitVec 6) (x : Word64), hasRoom s.core → s.core.readG b.toNat = .ok x →
      ∃ t, exec (.gath g b es n) s = .next t ∧ t.core.qs.gathers = s.core.qs.gathers ++
          [{ base := x.toNat % 2 ^ 57, size := 2 ^ es.toNat, left := n.toNat + 1, order := s.core.orderOf 10, bundle := s.core.bundles,
             kept := s.core.behindFault, faulted := none, failed := false }] ∧
        t.core.qs.addr = s.core.qs.addr ∧ t.core.qs.data = s.core.qs.data ∧ t.core.vault = s.core.vault ∧
        t.core.regs = s.core.regs ∧ t.dev = s.dev) ∧
    (∀ (a l : BitVec 5) (kc : BitVec 4) (x y : Word64), hasRoom s.core → s.core.readG a.toNat = .ok x →
      s.core.readG l.toNat = .ok y →
      exec (.icinv g a l kc) s = .next (s.enter (s.word 0 (.icinv (x.toNat % 2 ^ 57) y.toNat) s.cur kc.toNat))) ∧
    (∀ (f : BitVec 3) (r : BitVec 5) (bs : List Byte), hasRoom s.core → s.absorbData f r = .ok bs →
      exec (.dgstAbsorb g f r) s =
        .next (s.prov fun p => { p with absorbed := p.absorbed ++ BitVec.ofNat 8 f.toNat :: bs })) ∧
    (hasRoom s.core → exec (.dgstReset g) s = .next (s.prov fun p => { p with absorbed := [] })) ∧
    (∀ (bb : BitVec 3) (kc : BitVec 4) (off : BitVec 32), hasRoom s.core →
      s.checkLocal (s.core.ea bb off.toNat) 32 32 = .ok () →
      ∃ t, exec (.dgstEmit g bb kc off) s = .next t ∧
        t.core.ctl.digest = { s.core.ctl.digest with emits := s.core.ctl.digest.emits + 1 } ∧
        (∃ e, t.core.port = s.core.port ++ [e] ∧ e.kc = kc.toNat ∧ e.op = .emit (digest256 s.core.ctl.digest.absorbed)
          (s.core.ea bb off.toNat) s.core.ctl.digest.absorbed.length (s.core.ctl.digest.emits + 1)) ∧
        t.core.vault = s.core.vault ∧ t.core.regs = s.core.regs ∧ t.dev = s.dev)

end Sys2Proof.Claims

/-! ### Queue words -/

namespace Sys2Proof.Claims

/-- SLD, SLDL and IXP (R176, R177) and NEXT (R178). -/
def queuePushes : Prop :=
  ∀ (g : Guard) (s : State), s.core.guardP g = true →
    (∀ (b : BitVec 3) (n : BitVec 8) (o : BitVec 10) (ws : List (BitVec 16)) (s' : State),
      s.orderWait 0 .stallld = .ok () →
      s.readScales ((List.range (n.toNat + 1)).map fun i => (s.core.bAt b.toNat + 32 * o.toNat + 2 * i) % 2 ^ 32) =
        .ok (ws, s') →
      scaleRoom s.core (n.toNat + 1) = .ok () → exec (.sld g b n o) s = .next (s'.fillScales 4 ws)) ∧
    (∀ (w : BitVec 5) (ls : List (List Byte)) (s' : State), s.literals (w.toNat + 1) = .ok (ls, s') →
      scaleRoom s.core (32 * (w.toNat + 1)) = .ok () →
      exec (.sldl g w) s = .next (s'.fillScales 2
        ((lanesOf 16 (32 * (w.toNat + 1)) (leNat ls.flatten)).map fun x => BitVec.ofNat 16 x))) ∧
    (∀ (v : BitVec 5) (h : BitVec 1) (x : Vec), s.core.readV v.toNat = .ok x → s.core.qs.addr.length < 64 →
      exec (.ixp g v h) s = .next (s.mod fun c =>
        { c with qs := { c.qs with addr := c.qs.addr ++ [x.extractLsb' (512 * h.toNat) 512] } })) ∧
    (∃ t, exec (.nextChunk g) s = .next t ∧
      t.core.qs.nexts = s.core.qs.nexts ++
        [⟨s.cycle + 24, s.core.orderOf 11, s.core.gKey 31, chunkWord (s.takeChunk s.core.ctl.group).1⟩] ∧
      t.core.vault = s.core.vault ∧ t.core.regs = s.core.regs ∧ t.dev.sys = s.dev.sys)

/-- Block `i` of the generator under a key, 64-bit word by 64-bit word (R179). -/
def randWord (key i : Word64) (j : Nat) : Word64 :=
  let z := key + (16#64 * i + BitVec.ofNat 64 (j + 1)) * 0x9E3779B97F4A7C15#64
  let z := (z ^^^ (z >>> 30)) * 0xBF58476D1CE4E5B9#64
  let z := (z ^^^ (z >>> 27)) * 0x94D049BB133111EB#64
  z ^^^ (z >>> 31)

/-- RNGK sets the generator's key and counter; the next pop takes block counter gC, each pop takes the next counter, wrapping
modulo 2^64, and block i is the block that the rule computes (R179). -/
def randomBits : Prop :=
  (∀ (g : Guard) (k c : BitVec 5) (s : State) (key ctr : Word64), s.core.guardP g = true →
    s.core.readG k.toNat = .ok key → s.core.readG c.toNat = .ok ctr →
    exec (.rngk g k c) s = .next (s.mod fun c => { c with qs := { c.qs with rngKey := key, rngCtr := ctr } })) ∧
  (∀ s : State, s.popRandom.2 = s.mod fun c => { c with qs := { c.qs with rngCtr := c.qs.rngCtr + 1 } }) ∧
  (∀ (s : State) (j : Nat), j < 16 →
    laneOf 64 s.popRandom.1 j = (randWord s.core.qs.rngKey s.core.qs.rngCtr j).toNat)

end Sys2Proof.Claims

/-- GATH, the provenance words, pushes into the queues and the random-bits queue (R175 to R179, R198, R208). -/
def Obligations.GatherAndQueues : Prop :=
  gatherAndProvenance ∧ queuePushes ∧ randomBits

/-- RCFG, RWAIT, RADV and RPUB (R180 to R182). RWAIT counts the slots that pops of its own bundle use up as filled still. -/
def Obligations.Rings : Prop :=
  ∀ (g : Guard) (h : BitVec 3) (s : State), s.core.guardP g = true →
    (∀ (r : BitVec 5) (w : Word64), s.core.readG r.toNat = .ok w →
      ringOk ⟨true, w, 0, 0, 0, 0⟩ s.core.ctl.size = true → s.core.mine.any (·.fills h.toNat) = false →
      exec (.rcfg g h r) s = .next (s.mod fun c =>
        c.setRing h.toNat ⟨true, w, 0, 0, if bitOf w.toNat 41 then fieldOf w.toNat 39 32 else 0, 0⟩)) ∧
    (∀ n : BitVec 8, ringUse (s.core.ring h.toNat) n = .ok () →
      (n.toNat ≤ (s.core.ring h.toNat).count + s.core.ctx.popped.get 0 h.toNat → exec (.rwait g h n) s = .next s) ∧
      ((s.core.ring h.toNat).count + s.core.ctx.popped.get 0 h.toNat < n.toNat →
        exec (.rwait g h n) s = .next (s.mod fun c => { c with stall := some .stallring })) ∧
      ((s.core.ring h.toNat).producer = false → n.toNat ≤ (s.core.ring h.toNat).count →
        exec (.radv g h n) s = .next (s.releaseSlots h.toNat n.toNat)) ∧
      ((s.core.ring h.toNat).producer = true → n.toNat ≤ (s.core.ring h.toNat).count →
        (s.coreAt (s.member (s.core.ring h.toNat).pm)).holds s.core.ctl.task = true →
        (s.coreAt (s.member (s.core.ring h.toNat).pm)).ctl.run ≠ .idle →
        ((s.coreAt (s.member (s.core.ring h.toNat).pm)).ring (s.core.ring h.toNat).ph).fits s.core.ctl.member = true →
        ∃ t e, exec (.rpub g h n) s = .next t ∧ t.core.qs.stores = s.core.qs.stores ++ [e] ∧ e.release = true ∧
          e.kind = .publish (s.core.ring h.toNat).pm n.toNat (s.core.ring h.toNat).ph ∧
          t.core.ring h.toNat = { s.core.ring h.toNat with
            slot := ((s.core.ring h.toNat).slot + n.toNat) % (s.core.ring h.toNat).cnt
            count := (s.core.ring h.toNat).count - n.toNat } ∧
          t.core.vault = s.core.vault ∧ t.core.regs.g = s.core.regs.g ∧ t.dev = s.dev ∧ t.others = s.others))

/-! ### Branch words -/

namespace Sys2Proof.Claims

/-- A target buffer written, ready three cycles later (R93, log entry 21). -/
def prepared (s : State) (t : BitVec 2) (pc : Nat) (lpc : Option Nat) : State :=
  s.mod fun c => { c with seq := { c.seq with tb := c.seq.tb.set none t.toNat (some
    ⟨BitVec.ofNat 64 (pc % 2 ^ 57), lpc.map fun x => BitVec.ofNat 64 (x % 2 ^ 57), s.cycle + 3, []⟩) } }

end Sys2Proof.Claims

/-- PREP and PREPI (R94): the buffer takes the target PC, and the target LPC or the keep mark. A PREP of a PC that is no
multiple of 4, or of an LPC that is no multiple of 64, traps ILLOP. That the buffer is ready three cycles later, where the code stream
unit has its bundles, is the model's reading (log entry 21). -/
def Obligations.TargetBuffers : Prop :=
  ∀ (t : BitVec 2) (s : State),
    (∀ (p l : BitVec 5) (pc lpc : Word64), s.core.readG p.toNat = .ok pc → s.core.readG l.toNat = .ok lpc →
      (pc.toNat % 4 = 0 → exec (.prep t 0 p l) s = .next (prepared s t pc.toNat none)) ∧
      (pc.toNat % 4 ≠ 0 → exec (.prep t 0 p l) s = .next (takeTrap { cause := .illop, slot := 0 } s.cycle s)) ∧
      (pc.toNat % 4 = 0 → lpc.toNat % 64 = 0 →
        exec (.prep t 1 p l) s = .next (prepared s t pc.toNat (some lpc.toNat))) ∧
      (pc.toNat % 4 ≠ 0 ∨ lpc.toNat % 64 ≠ 0 →
        exec (.prep t 1 p l) s = .next (takeTrap { cause := .illop, slot := 0 } s.cycle s))) ∧
    (∀ (p : BitVec 13) (l : BitVec 10) (pc lpc : Nat),
      (pc : Int) = ((s.core.ctx.pc.toNat : Int) + 4 * p.toInt) % 2 ^ 57 →
      (lpc : Int) = ((s.core.seq.lpc.toNat : Int) + 64 * l.toInt) % 2 ^ 57 →
      exec (.prepi t 0 p l) s = .next (prepared s t pc none) ∧
      exec (.prepi t 1 p l) s = .next (prepared s t pc (some lpc)))

namespace Sys2Proof.Claims

/-- The next bundle is at `pc`, and the literals at `lpc`, or on from where the bundle has left them; `code` is what a target buffer
holds of the bundles there (R93), and `cold` says that nothing has fetched them ahead (R110). -/
def goes (s : State) (pc : Word64) (lpc : Option Word64) (code : Table (Option (BitVec 512)) := []) (cold : Bool := false) : State :=
  s.mod fun c => { c with ctx := { c.ctx with xfer := some (pc, lpc), lines := code, cold := cold, prevails := true } }

/-- The level that a transfer may not leave (R95): the innermost one among `ls` opened at the current call depth. -/
def holdsIn (c : Core) (ls : List Level) (pc : Word64) : Prop :=
  ∀ l, ls.find? (·.depth == c.seq.depth) = some l → l.start.toNat ≤ pc.toNat ∧ pc.toNat < l.stop.toNat

end Sys2Proof.Claims

/-- BR, BRP and BRV (R93, R95, R96): through a prepared, ready buffer whose target stays in the innermost level of the
depth, a transfer whose condition holds sets PC and LPC; one whose condition is false has no effect; lanes that do not agree
trap NONUNIFORM, a buffer never prepared TBEMPTY, a target outside the level LOOPESC; a buffer not yet ready stalls. -/
def Obligations.ControlTransfers : Prop :=
  ∀ (t : BitVec 2) (s : State),
    (∀ b : Target, s.core.seq.tb.get none t.toNat = some b → b.ready ≤ s.cycle →
      holdsIn s.core s.core.seq.levels b.pc →
      exec (.br t) s = .next (goes s b.pc b.lpc b.code) ∧
      (∀ (i : BitVec 1) (p : BitVec 4), exec (.brp t i p) s =
        if s.core.pAt p.toNat = true ∧ i = 0 ∨ s.core.pAt p.toNat = false ∧ i = 1 then .next (goes s b.pc b.lpc b.code) else .next s) ∧
      (∀ (i : BitVec 1) (q l : BitVec 3) (x : Nat), x = (s.core.qAt q.toNat).toNat % 2 ^ 2 ^ l.toNat →
        exec (.brv t i q l) s =
          if i = 0 ∧ x = 2 ^ 2 ^ l.toNat - 1 ∨ i = 1 ∧ x = 0 then .next (goes s b.pc b.lpc b.code)
          else if x = 0 ∨ x = 2 ^ 2 ^ l.toNat - 1 then .next s
          else .next (takeTrap { cause := .nonuniform, slot := 0 } s.cycle s))) ∧
    (s.core.seq.tb.get none t.toNat = none →
      exec (.br t) s = .next (takeTrap { cause := .tbempty, slot := 0 } s.cycle s)) ∧
    (∀ b : Target, s.core.seq.tb.get none t.toNat = some b →
      (s.cycle < b.ready → exec (.br t) s = .next (s.mod fun c => { c with stall := some .fetchstall })) ∧
      (b.ready ≤ s.cycle → ¬ holdsIn s.core s.core.seq.levels b.pc →
        exec (.br t) s = .next (takeTrap { cause := .loopesc, slot := 0 } s.cycle s)))

namespace Sys2Proof.Claims

/-- What a call writes for the callee's first bundle (R97): g24 to g29 zero, the link in g30 and g31, RRB zero. The callee's
g24 is windowed register (depth + 2) · 8 of the caller's depth, modulo 128. -/
def linkWrites (s : State) (g31 g30 : Nat) : List Delivery :=
  ((List.range 8).map fun i => (⟨s.cycle + 1, s.core.orderOf 0, .g (16 + (s.core.seq.depth + 2) % 16 * 8 + i),
    (if i = 7 then g31 else if i = 6 then g30 else 0) % 2 ^ 64, ones 64, 0, none⟩ : Delivery)) ++
  [⟨s.cycle + 1, s.core.orderOf 0, .rrb, 0, ones 4, 0, none⟩]

/-- A call, from a depth at which no older frame has to make room, to `pc` with its link: the depth goes up by one, the link
is on its way, and nothing else has changed but the adapter field. -/
def called (s : State) (g31 g30 : Nat) (adapter : BitVec 3) (pc : Word64) (lpc : Option Word64)
    (code : Table (Option (BitVec 512)) := []) (cold : Bool := false) : State :=
  goes (s.mod fun c =>
    { c with seq := { c.seq with depth := c.seq.depth + 1, adapter := adapter }
             qs := { c.qs with flight := (linkWrites s g31 g30).foldl (fun q d => insertDelivery d q) c.qs.flight } }) pc lpc code cold

/-- CALL (R97, R99): through a ready buffer, outside LOOPM levels and below depth 31, with no frame to spill. With the groups
full and room in the stack region, and no earlier acquire pending (R164), it first stalls for two cycles from its first attempt and
then also spills the oldest group. What a transfer needs comes first: a buffer never prepared traps TBEMPTY. Then, inside a LOOPM
level it traps LMNEST, and at depth 31 STKOVF: this order of the traps is the model's reading (log entry 22), and so is that a spill waits
for an acquire (log entry 76). -/
def calls : Prop :=
  (∀ (t : BitVec 2) (s : State), s.core.seq.tb.get none t.toNat = none →
    exec (.call t) s = .next (takeTrap { cause := .tbempty, slot := 0 } s.cycle s)) ∧
  ∀ (t : BitVec 2) (s : State) (b : Target), s.core.seq.tb.get none t.toNat = some b → b.ready ≤ s.cycle →
    (s.core.seq.inLoopm = false → s.core.seq.depth < 31 → s.core.seq.depth < 14 + s.core.seq.spilled →
      exec (.call t) s = .next (called s s.core.ctx.next.toNat
        (s.core.literalAt + s.core.seq.rrb.toNat * 2 ^ 60) s.core.seq.adapter b.pc b.lpc b.code)) ∧
    (s.core.seq.inLoopm = false → s.core.seq.depth < 31 → 14 + s.core.seq.spilled ≤ s.core.seq.depth →
      ∀ off len, s.core.ctl.stack = some (off, len) → s.core.seq.spillPtr + 64 ≤ len →
      s.core.acquirePending s.core.bundles = false → s.core.pendingIn (off + s.core.seq.spillPtr) 64 = false →
      s.core.mine.any (·.landsIn (off + s.core.seq.spillPtr) 64) = false →
      (s.core.waiting = none →
        ∃ u, exec (.call t) s = .next u ∧ u.core.stall = some .winspill ∧
          u.core.waiting = some { since := s.cycle, line := none } ∧
          u.core.seq = s.core.seq ∧ u.core.vault = s.core.vault ∧ u.core.regs = s.core.regs) ∧
      (∀ w, s.core.waiting = some w → w.since + 2 ≤ s.cycle →
        ∃ u, exec (.call t) s = .next u ∧ u.core.seq.depth = s.core.seq.depth + 1 ∧
          u.core.seq.spilled = s.core.seq.spilled + 1 ∧ u.core.seq.spillPtr = s.core.seq.spillPtr + 64 ∧
          u.core.ctx.xfer = some (b.pc, b.lpc) ∧ u.core.regs = s.core.regs ∧
          (∀ i < 8, u.core.vault.num (off + s.core.seq.spillPtr + 8 * i) 8 =
            (s.core.gAt (16 + s.core.seq.spilled % 16 * 8 + i)).toNat) ∧
          (∀ a, a < off + s.core.seq.spillPtr ∨ off + s.core.seq.spillPtr + 64 ≤ a →
            u.core.vault.read a = s.core.vault.read a))) ∧
    (s.core.seq.inLoopm = true → exec (.call t) s = .next (takeTrap { cause := .lmnest, slot := 0 } s.cycle s)) ∧
    (s.core.seq.inLoopm = false → 31 ≤ s.core.seq.depth →
      exec (.call t) s = .next (takeTrap { cause := .stkovf, slot := 0 } s.cycle s))

/-- A return to the caller (R98): the depth goes down by one and the caller's RRB is on its way. -/
def returned (s : State) (rrb : Nat) (pc : Word64) (lpc : Option Word64) : State :=
  goes (s.mod fun c =>
    { c with seq := { c.seq with depth := c.seq.depth - 1 }
             qs := { c.qs with flight := insertDelivery ⟨s.cycle + 1, s.core.orderOf 0, .rrb, rrb, ones 4, 0, none⟩ c.qs.flight } })
    pc lpc [] true

/-- RET of a called function, outside levels of its own depth and with the caller's group in the window (R98): to g31, with
the literals from g30 or carried on. Where the caller's group has been spilled it first stalls for five cycles from its first attempt,
and then fills that group from the stack region too, for the next bundle (R99); the acquire wait of a fill is the model's reading (log
entry 76). At depth 0 it traps WINUF. -/
def returns : Prop :=
  ∀ (k : BitVec 1) (s : State) (g31 g30 : Word64), s.core.readG 31 = .ok g31 → s.core.readG 30 = .ok g30 →
    (s.core.seq.levels.find? (·.depth == s.core.seq.depth) = none → s.core.seq.depth ≠ 0 → g31.toNat % 4 = 0 →
      s.core.seq.spilled ≤ s.core.seq.depth - 1 → fieldOf g30.toNat 59 57 = 0 →
      exec (.ret k) s = .next (returned s (fieldOf g30.toNat 63 60) (BitVec.ofNat 64 (g31.toNat % 2 ^ 57))
        (if k = 1 then none else some (BitVec.ofNat 64 (g30.toNat % 2 ^ 57))))) ∧
    (∀ off len p, s.core.seq.levels.find? (·.depth == s.core.seq.depth) = none → s.core.seq.depth ≠ 0 → g31.toNat % 4 = 0 →
      s.core.seq.depth - 1 < s.core.seq.spilled → fieldOf g30.toNat 59 57 = 0 → s.core.ctl.stack = some (off, len) →
      s.core.acquirePending s.core.bundles = false → p = s.core.seq.spillPtr - 64 → s.core.pendingIn (off + p) 64 = false →
      s.core.mine.any (·.landsIn (off + p) 64) = false →
      (s.core.waiting = none →
        ∃ u, exec (.ret k) s = .next u ∧ u.core.stall = some .winfill ∧ u.core.waiting = some { since := s.cycle, line := none } ∧
          u.core.seq = s.core.seq ∧ u.core.vault = s.core.vault ∧ u.core.regs = s.core.regs) ∧
      (∀ w, s.core.waiting = some w → w.since + 5 ≤ s.cycle →
        ∃ u, exec (.ret k) s = .next u ∧ u.core.seq.depth = s.core.seq.depth - 1 ∧
          u.core.seq.spilled = s.core.seq.spilled - 1 ∧ u.core.seq.spillPtr = p ∧
          u.core.ctx.xfer = some (BitVec.ofNat 64 (g31.toNat % 2 ^ 57),
            if k = 1 then none else some (BitVec.ofNat 64 (g30.toNat % 2 ^ 57))) ∧ u.core.vault = s.core.vault ∧
          u.core.regs = s.core.regs ∧
          (∀ d, d ∈ u.core.qs.flight ↔ d ∈ s.core.qs.flight ∨
            d = ⟨s.cycle + 1, s.core.orderOf 0, .rrb, fieldOf g30.toNat 63 60, ones 4, 0, none⟩ ∨
            ∃ i < 8, d = ⟨s.cycle + 1, s.core.orderOf 0, .g (16 + (s.core.seq.spilled - 1) % 16 * 8 + i),
              s.core.vault.num (off + p + 8 * i) 8, ones 64, 0, none⟩))) ∧
    (s.core.seq.depth = 0 → exec (.ret k) s = .next (takeTrap { cause := .winuf, slot := 0 } s.cycle s))

/-- ADAPT (R110): with no segment for a present tenant it has no effect; otherwise it calls the segment of the lowest
present tenant that has one, with its own address and the tenant in the link. A RET from a segment calls that of the next
tenant, or goes on behind the ADAPT bundle. An ADAPT inside a segment traps ADAPTNEST, after what a call checks. -/
def adapterCalls : Prop :=
  ∀ (h : BitVec 10) (s : State),
    (s.core.seq.adapter = 0 → s.core.seq.inLoopm = false → s.nextSegment h.toNat 0 = none →
      exec (.adapt h) s = .next s) ∧
    (∀ ten pc lpc, s.core.seq.adapter = 0 → s.core.seq.inLoopm = false →
      s.nextSegment h.toNat 0 = some (ten, pc, lpc) → s.core.seq.depth < 31 →
      s.core.seq.depth < 14 + s.core.seq.spilled →
      exec (.adapt h) s = .next (called s s.core.ctx.pc.toNat
        (s.core.literalAt + ten * 2 ^ 57 + s.core.seq.rrb.toNat * 2 ^ 60) (BitVec.ofNat 3 ten) (BitVec.ofNat 64 pc)
        (some (BitVec.ofNat 64 lpc)) [] true)) ∧
    (s.core.seq.adapter ≠ 0 → s.core.seq.inLoopm = false →
      (s.nextSegment h.toNat 0 = none ∨ s.core.seq.depth < 31 ∧ s.core.seq.depth < 14 + s.core.seq.spilled) →
      exec (.adapt h) s = .next (takeTrap { cause := .adaptnest, slot := 0 } s.cycle s)) ∧
    (∀ (k : BitVec 1) (g31 g30 : Word64) (len hook : Nat), s.core.readG 31 = .ok g31 → s.core.readG 30 = .ok g30 →
      s.core.seq.levels.find? (·.depth == s.core.seq.depth) = none → s.core.seq.depth ≠ 0 → g31.toNat % 4 = 0 →
      s.core.seq.spilled ≤ s.core.seq.depth - 1 → fieldOf g30.toNat 59 57 ≠ 0 →
      (returned s (fieldOf g30.toNat 63 60) 0 none).adaptAt (g31.toNat % 2 ^ 57) = some (len, some hook) →
      (s.nextSegment hook (fieldOf g30.toNat 59 57) = none →
        ∃ u, exec (.ret k) s = .next u ∧ u.core.seq.depth = s.core.seq.depth - 1 ∧ u.core.seq.adapter = 0 ∧
          u.core.ctx.xfer = some (BitVec.ofNat 64 ((g31.toNat % 2 ^ 57 + len) % 2 ^ 57),
            some (BitVec.ofNat 64 (g30.toNat % 2 ^ 57))) ∧ u.core.regs = s.core.regs ∧ u.core.vault = s.core.vault) ∧
      (∀ ten pc lpc, s.nextSegment hook (fieldOf g30.toNat 59 57) = some (ten, pc, lpc) →
        s.core.seq.depth - 1 < 14 + s.core.seq.spilled →
        ∃ u, exec (.ret k) s = .next u ∧ u.core.seq.depth = s.core.seq.depth - 1 + 1 ∧
          u.core.seq.adapter = BitVec.ofNat 3 ten ∧
          u.core.ctx.xfer = some (BitVec.ofNat 64 pc, some (BitVec.ofNat 64 lpc)) ∧ u.core.regs = s.core.regs ∧
          u.core.vault = s.core.vault))

end Sys2Proof.Claims

/-- Calls, returns and adapter calls (R96 to R99, R110). -/
def Obligations.CallsAndReturns : Prop :=
  calls ∧ returns ∧ adapterCalls

namespace Sys2Proof.Claims

/-- The level that a LOOP or LOOPM pushes (R100, R102): index 0, its count and stages, the body behind the bundle, the call
depth and the pending strides. -/
def pushedLevel (c : Core) (modulo : Bool) (n : Nat) (stages : BitVec 4) (len : Nat) : Level :=
  ⟨modulo, 0, BitVec.ofNat 32 n, stages, c.ctx.next, BitVec.ofNat 64 ((c.ctx.next.toNat + 4 * len) % 2 ^ 57), c.seq.depth,
    c.seq.pending, false⟩

/-- The state with a level pushed and the pending strides cleared. -/
def opened (s : State) (l : Level) : State :=
  s.mod fun c => { c with seq := { c.seq with levels := l :: c.seq.levels, pending := [] }, ctx := { c.ctx with opened := true } }

/-- A loop word with count `n` and body length `len` (R100, R102, R103): `o` is what it leaves when it opens a level. A count of
zero skips the body and clears the pending strides; a seventh level traps LOOPDEEP, and one inside a LOOPM level LMNEST. -/
def loops (i : Instr) (s : State) (n len : Nat) (o : State) : Prop :=
  (s.core.seq.inLoopm = false → n = 0 → exec i s = .next (s.mod fun c =>
    { c with seq := { c.seq with pending := [] }, ctx := { c.ctx with skip := len } })) ∧
  (s.core.seq.inLoopm = false → n ≠ 0 → s.core.seq.levels.length < 6 → exec i s = .next o) ∧
  (s.core.seq.inLoopm = false → n ≠ 0 → 6 ≤ s.core.seq.levels.length →
    exec i s = .next (takeTrap { cause := .loopdeep, slot := 0 } s.cycle s)) ∧
  (s.core.seq.inLoopm = true → exec i s = .next (takeTrap { cause := .lmnest, slot := 0 } s.cycle s))

/-- What LOOPM sets besides (R103): LC, SV, RRB, p8 and p9 to p15, for the next bundle. -/
def moduloWrites (s : State) (n : Nat) : List Delivery :=
  [⟨s.cycle + 1, s.core.orderOf 0, .lc, n - 1, ones 32, 0, none⟩, ⟨s.cycle + 1, s.core.orderOf 0, .sv, 1, ones 16, 0, none⟩,
    ⟨s.cycle + 1, s.core.orderOf 0, .rrb, 0, ones 4, 0, none⟩] ++
  (List.range 8).map fun i => ⟨s.cycle + 1, s.core.orderOf 0, .p (8 + i), if i = 0 then 1 else 0, 1, 0, none⟩

/-- LOOP and LOOPM in both forms (R100, R103). -/
def loopForms : Prop :=
  ∀ (l : BitVec 12) (s : State),
    (∀ n : BitVec 13, loops (.loopImm n l) s n.toNat l.toNat (opened s (pushedLevel s.core false n.toNat 0 l.toNat))) ∧
    (∀ (r : BitVec 5) (x : Word64), s.core.readG r.toNat = .ok x →
      loops (.loopReg r l) s (x.toNat % 2 ^ 32) l.toNat
        (opened s (pushedLevel s.core false (x.toNat % 2 ^ 32) 0 l.toNat))) ∧
    (∀ (st : BitVec 4) (n : BitVec 9), loops (.loopmImm st n l) s n.toNat l.toNat
      ((opened s (pushedLevel s.core true n.toNat st l.toNat)).mod fun c => { c with qs := { c.qs with
        flight := (moduloWrites s n.toNat).foldl (fun q d => insertDelivery d q) c.qs.flight } })) ∧
    (∀ (st : BitVec 4) (r : BitVec 5) (x : Word64), s.core.readG r.toNat = .ok x →
      loops (.loopmReg st r l) s (x.toNat % 2 ^ 32) l.toNat
        ((opened s (pushedLevel s.core true (x.toNat % 2 ^ 32) st l.toNat)).mod fun c => { c with qs := { c.qs with
          flight := (moduloWrites s (x.toNat % 2 ^ 32)).foldl (fun q d => insertDelivery d q) c.qs.flight } }))

/-- SETSTR writes one pending stride, from its signed immediate or from bits 31:0 of a register (R102). -/
def pendingStrides : Prop :=
  ∀ (b : BitVec 3) (s : State),
    (∀ x : BitVec 22, exec (.setstrImm b x) s = .next (s.mod fun c =>
      { c with seq := { c.seq with pending := c.seq.pending.set 0 b.toNat (x.signExtend 32) } })) ∧
    (∀ (r : BitVec 5) (x : Word64), s.core.readG r.toNat = .ok x → exec (.setstrReg b r) s = .next (s.mod fun c =>
      { c with seq := { c.seq with pending := c.seq.pending.set 0 b.toNat (x.setWidth 32) } }))

end Sys2Proof.Claims

/-- LOOP, LOOPM and SETSTR (R100 to R102, R241). -/
def Obligations.LoopWords : Prop :=
  loopForms ∧ pendingStrides

/-- EXITL (R104): with its condition true, a ready buffer and at least v levels of the current depth, the v innermost
levels are gone and the transfer is made, checked against what remains innermost; with its condition false it has no effect
on levels or place; too large a v traps LOOPESC. -/
def Obligations.LevelExits : Prop :=
  ∀ (t : BitVec 2) (v : BitVec 3) (s : State) (b : Target), s.core.seq.tb.get none t.toNat = some b → b.ready ≤ s.cycle →
    (v.toNat ≤ (s.core.seq.levels.filter (·.depth == s.core.seq.depth)).length →
      holdsIn s.core (s.core.seq.levels.drop v.toNat) b.pc →
      ∃ u, u = goes (s.mod fun c => { c with seq := { c.seq with levels := c.seq.levels.drop v.toNat }
                                             ctx := { c.ctx with noPoint := true } }) b.pc b.lpc b.code ∧
        exec (.exitl t v) s = .next u ∧
        ∀ (i : BitVec 1) (p : BitVec 4), (s.core.pAt p.toNat = true ∧ i = 0 ∨ s.core.pAt p.toNat = false ∧ i = 1) →
          exec (.exitlCond t i p v) s = .next u) ∧
    (∀ (i : BitVec 1) (p : BitVec 4), (s.core.pAt p.toNat = true ∧ i = 1 ∨ s.core.pAt p.toNat = false ∧ i = 0) →
      exec (.exitlCond t i p v) s = .next (s.mod fun c => { c with ctx := { c.ctx with noPoint := true } })) ∧
    ((s.core.seq.levels.filter (·.depth == s.core.seq.depth)).length < v.toNat →
      exec (.exitl t v) s = .next (takeTrap { cause := .loopesc, slot := 0 } s.cycle s))

namespace Sys2Proof.Claims

/-- END and ENDH (R105): with RAB clear the core issues no further bundle and drains; ENDH takes the named banks from
those owned. With RAB set they trap EXITBAR. -/
def endings : Prop :=
  ∀ (s : State) (ended : State), ended = s.mod (fun c =>
      { c with ctl := { c.ctl with run := .ending, draining := true }, ctx := { c.ctx with prevails := true } }) →
    (s.core.ctl.rab = false → exec .endTask s = .next ended) ∧
    (s.core.ctl.rab = true → exec .endTask s = .next (takeTrap { cause := .exitbar, slot := 0 } s.cycle s)) ∧
    (∀ (m : BitVec 5) (x : Word64), s.core.readG m.toNat = .ok x →
      (s.core.ctl.rab = false → exec (.endHold m) s =
        .next (ended.result 0 1 .owned (s.core.ctl.owned &&& ~~~x).toNat (ones 64) 0)) ∧
      (s.core.ctl.rab = true → exec (.endHold m) s = .next (takeTrap { cause := .exitbar, slot := 0 } s.cycle s)))

/-- BARC (R106): it issues when its gang may pass, or at once alone with queues that hold nothing of an earlier bundle, and clears
RAB; until then it holds its bundle, counting STALLG, and has arrived. -/
def clusterBarrier : Prop :=
  ∀ s : State,
    ((∃ t, s.core.pass = some t ∧ t ≤ s.cycle) ∨
      (s.core.pass = none ∧ s.core.arrived = none ∧ s.core.ctl.size = 1 ∧
        (∀ e ∈ s.core.qs.loads ++ s.core.qs.stores, e.bundle = s.core.bundles)) →
      exec .barc s = .next ((s.mod fun c => { c with barcs := c.barcs + 1, arrived := none, pass := none }).result 0 1 .rab 0 1 0)) ∧
    (s.core.pass = none → s.core.ctl.size ≠ 1 → exec .barc s = .next (s.mod fun c =>
      { c with stall := some .stallg, arrived := some (c.arrived.getD s.cycle) }))

/-- TRAP and BRK commit their bundle and are taken at the next boundary, with their 16-bit code (R107). An idle bundle lets
no bundle issue for its count of cycles and one more (R31). -/
def softwareTrapsAndIdle : Prop :=
  ∀ s : State,
    (∀ c : BitVec 16,
      exec (.trap c) s = .next (s.mod fun k => { k with boundary := k.boundary ++ [{ cause := .trap, slot := 15, code := c.toNat }] }) ∧
      exec (.brk c) s = .next (s.mod fun k => { k with boundary := k.boundary ++ [{ cause := .brk, slot := 15, code := c.toNat }] })) ∧
    (∀ (f : BitVec 2) (c : BitVec 6),
      exec (.idle f c) s = .next (s.mod fun k => { k with wake := s.cycle + c.toNat + 1 }))

end Sys2Proof.Claims

/-- END, ENDH, BARC, TRAP, BRK and the idle bundle (R31, R105 to R107). -/
def Obligations.EndingWords : Prop :=
  endings ∧ clusterBarrier ∧ softwareTrapsAndIdle

namespace Sys2Proof.Claims

/-- The ccr registers as a bundle reads them (R22, R108). -/
def ccrValue (s : State) : Nat → Nat
  | 0 => (if s.core.ctl.rab then 1 else 0) + (if 1 < s.core.ctl.size then 2 else 0) + (if s.core.ctl.resumed then 4 else 0)
  | 1 => s.core.ctl.cause.toNat
  | 2 => s.cycle - s.core.ctl.cycle0
  | 3 => s.cur
  | 4 => s.core.ctl.member + 16 * s.core.ctl.size
  | 5 => s.core.ctl.group % 2 ^ 32 + 2 ^ 32 * s.core.ctl.queue
  | 6 => s.core.ctl.tenants.toNat + 2 ^ 16 * s.core.ctl.asid.toNat
  | 7 => s.core.ctl.fpflags.toNat
  | 8 => (if s.core.ctl.preempt then 1 else 0) + 2 ^ 32 * s.core.ctl.bound
  | _ => s.core.ctx.digest0.toNat

/-- CCRR and CCRW (R22, R58, R108): the register is on its way to gD for the next bundle; a write of fpflags likewise, joined with
the flags that results bring in its own cycle, and a write of any other ccr register is ignored. -/
def controlRegisters : Prop :=
  ∀ (r : BitVec 5) (n : BitVec 4) (s : State),
    exec (.ccrr r n) s =
      .next (s.result 0 1 (.g (s.core.gKey r.toNat)) (ccrValue s n.toNat % 2 ^ 64) (ones 64) 0) ∧
    (∀ x : Word64, s.core.readG r.toNat = .ok x →
      exec (.ccrw r n) s = .next (if n = 7 then s.result 0 1 .fpflags
        (x.toNat ||| (if s.core.ctl.fresh.1 = s.cycle then s.core.ctl.fresh.2 else 0)) (ones 64) 0 else s))

/-- WAITE (R109): with every named handle bound it issues at once when a selected condition holds, with the conditions that
hold; with none, when the limit has passed, with zero; and until then it stalls. A handle not bound before its bundle traps ILLOP (R77). -/
def eventWait : Prop :=
  ∀ (r : BitVec 8) (e : BitVec 1) (d t : BitVec 5) (s : State) (lim : Word64), s.core.readG t.toNat = .ok lim →
    ((∀ i < 8, r.getLsbD i = true → s.core.ctx.bound0.getLsbD i = true) →
      ∀ hit, hit = (r &&& s.core.ctx.filled0).toNat + (if e = 1 ∧ s.core.ctl.preempt = true then 256 else 0) →
      (hit ≠ 0 → exec (.waite r e d t) s = .next (s.result 0 1 (.g (s.core.gKey d.toNat)) hit (ones 64) 0)) ∧
      (hit = 0 →
        (min (lim.toNat % 2 ^ 32) 65536 = 0 ∧ s.core.waiting = none ∨
          (∃ w, s.core.waiting = some w ∧ w.since + min (lim.toNat % 2 ^ 32) 65536 ≤ s.cycle) →
          exec (.waite r e d t) s = .next (s.result 0 1 (.g (s.core.gKey d.toNat)) 0 (ones 64) 0)) ∧
        (min (lim.toNat % 2 ^ 32) 65536 ≠ 0 → s.core.waiting = none →
          exec (.waite r e d t) s = .next (s.mod fun c =>
            { c with stall := some .stallring, waiting := some { since := s.cycle, line := none } })))) ∧
    ((∃ i < 8, r.getLsbD i = true ∧ s.core.ctx.bound0.getLsbD i = false) →
      exec (.waite r e d t) s = .next (takeTrap { cause := .illop, slot := 0 } s.cycle s))

end Sys2Proof.Claims

/-- The ccr registers read and written, and the wait for events that ccr.preempt and the rings bring (R22, R58, R108, R109). -/
def Obligations.ControlRegisters : Prop :=
  controlRegisters ∧ eventWait

/-! ### Steps outside bundles: deliveries, and the C slot's queues -/

namespace Sys2Proof.Claims

/-- Core `n` is now `c`, and everything else is as it was. -/
def onlyCore (s t : State) (n : Nat) (c : Core) : Prop :=
  t.coreAt n = c ∧ (∀ k, k ≠ n → t.coreAt k = s.coreAt k) ∧ t.dev = s.dev ∧ t.cycle = s.cycle ∧ t.cur = s.cur ∧
    t.agenda = s.agenda

end Sys2Proof.Claims

/-- SCALE_PUSH, NEXT_RESULT, UNIT_RESULT_DELIVERY and STALL_END on a core that is not frozen (R58, R87, R115, R176, R178): what
is due is pushed or written, in order of issue, a NEXT among the moves (R16), and a delivery's flags join. A write of g0 is ignored
(R17). Of two results due
in one bypass register in one cycle the one of the later trigger stays. A tile that a TLD or TLDL brings is written with the zero flag that
its bytes give (R184, R236). -/
def Obligations.ResultDeliveries : Prop :=
  ∀ (n : Nat) (s : State) (c : Core), n < 512 → c = s.coreAt n → c.delivers = true →
    (∃ t, exec (.scalePush n) s = .next t ∧ onlyCore s t n { c with qs := { c.qs with
      scale := c.qs.scale ++ (c.qs.fills.filter fun f => f.due ≤ s.cycle).flatMap (·.words)
      fills := c.qs.fills.filter fun f => s.cycle < f.due } }) ∧
    (∀ j : NextJob, c.qs.nexts = [j] → j.due ≤ s.cycle → j.g ≠ 0 →
      (c.qs.flight = [] → ∃ t, exec (.nextResult n) s = .next t ∧ onlyCore s t n { c with
        qs := { c.qs with nexts := [] }, regs := { c.regs with g := c.regs.g.set 0 j.g j.value } }) ∧
      (∀ o x, c.qs.flight = [⟨j.due, o, .g j.g, x, ones 64, 0, none⟩] → j.order < o →
        ∃ t, exec (.nextResult n) s = .next t ∧ (t.coreAt n).qs.nexts = [] ∧ (t.coreAt n).qs.flight = [] ∧
          (t.coreAt n).gAt j.g = BitVec.ofNat 64 x)) ∧
    (∀ due o key x fl, c.qs.flight = [⟨due, o, .g key, x, ones 64, fl, none⟩] → due ≤ s.cycle → (∀ j ∈ c.qs.nexts, s.cycle < j.due) →
      ∃ t, exec (.unitResultDelivery n) s = .next t ∧ onlyCore s t n { c with
        qs := { c.qs with flight := [] }
        regs := if key = 0 then c.regs else { c.regs with g := c.regs.g.set 0 key (BitVec.ofNat 64 x) }
        ctl := if fl = 0 then c.ctl else { c.ctl with
          fpflags := c.ctl.fpflags ||| BitVec.ofNat 64 fl
          fresh := (s.cycle, if c.ctl.fresh.1 = s.cycle then c.ctl.fresh.2 ||| fl else fl) } }) ∧
    (∀ due o o' x y, c.qs.flight = [⟨due, o, .res .ia, x, ones 64, 0, none⟩, ⟨due, o', .res .ia, y, ones 64, 0, none⟩] →
      due ≤ s.cycle → (∀ j ∈ c.qs.nexts, s.cycle < j.due) →
      ∃ t, exec (.unitResultDelivery n) s = .next t ∧ onlyCore s t n { c with
        qs := { c.qs with flight := [] }, ports := { c.ports with iaR := BitVec.ofNat 64 y } }) ∧
    (∀ due o d x, c.qs.flight = [⟨due, o, .tileL d, x, ones 32768, 0, none⟩] → due ≤ s.cycle → (∀ j ∈ c.qs.nexts, s.cycle < j.due) →
      ∃ t, exec (.unitResultDelivery n) s = .next t ∧ (t.coreAt n).qs.flight = [] ∧
        (t.coreAt n).tileAt d = ⟨BitVec.ofNat 32768 x, BitVec.ofNat 32768 x == 0⟩ ∧
        (∀ k, k ≠ d → (t.coreAt n).tileAt k = c.tileAt k) ∧ (t.coreAt n).regs = c.regs ∧ (t.coreAt n).vault = c.vault) ∧
    (∃ t, exec (.stallEnd n) s = .next t ∧ onlyCore s t n { c with stall := none })

namespace Sys2Proof.Claims

/-- The operand of a product in row `i`, place `k` (R51, R148): Q8 bytes or Q4 nibbles, row by row. -/
def operand (q4 : Bool) (x : TileBits) (i k : Nat) : Int :=
  if q4 then signedOf 4 (laneOf 4 x.toNat (64 * i + k)) else signedOf 8 (laneOf 8 x.toNat (64 * i + k))

/-- The sum of products that a job adds in row `i` and column `k` (R148, R150): dense, with A transposed, or sparse, where 64
of the 128 places of A's two tiles are selected by the metadata. -/
def productAt (j : MmaJob) (i k : Nat) : Int :=
  ((List.range 64).map fun u => operand (pairB4 j.pair) j.b u k *
    (if j.sparse then
      let v := 4 * (u / 2) + sparseIndex j.metaWord.toNat u (k / 16)
      if v < 64 then operand (pairA4 j.pair) j.a0 i v else operand (pairA4 j.pair) j.a1 i (v - 64)
    else if j.transposed then operand (pairA4 j.pair) j.a0 u i else operand (pairA4 j.pair) j.a0 i u)).sum

end Sys2Proof.Claims

/-- MMA_DELIVERY (R63, R147, R148, R150, R151): the product joins its accumulator element by element, every channel modulo its own
modulus; a skipped one changes no accumulator. -/
def Obligations.ProductDelivery : Prop :=
  ∀ (n : Nat) (s : State) (c : Core) (j : MmaJob), n < 512 → c = s.coreAt n → c.delivers = true → c.eng.mmas = [j] →
    j.due ≤ s.cycle →
    (j.skip = true → ∃ t, exec (.mmaDelivery n) s = .next t ∧
      onlyCore s t n { c with eng := { c.eng with mmas := [] } }) ∧
    (j.skip = false → ¬ (j.sparse = true ∧ j.transposed = true) →
      ∃ t y, exec (.mmaDelivery n) s = .next t ∧
        onlyCore s t n { c with eng := { c.eng with mmas := [], c := c.eng.c.set 0 j.c (BitVec.ofNat 217088 y) } } ∧
        ∀ i k, i < 64 → k < 64 →
          elemAt y (64 * i + k) = rAdd (elemAt (c.accC j.c) (64 * i + k)) (res (productAt j i k)))

namespace Sys2Proof.Claims

/-- What an MFLUSH leaves at the place of an element (R69, R152): `old` stood there, `r` is the accumulator's element, `a` and `b` are
the scales of its row and its column. -/
def flushedValue (old : Nat) (r : Residue) (a b fmt : Nat) (add : Bool) (mk : Nat) (masked : Bool) : Nat :=
  if mk ≠ 0 ∧ masked = true then (if mk = 2 then (outFmt fmt).sign true + (outFmt fmt).infBits else old)
  else if add then (addExit r.val a b old (outFmt fmt) (bitOf fmt 2)).1
  else (scaleExit r.val a b (outFmt fmt) (bitOf fmt 2)).1

end Sys2Proof.Claims

/-- MFLUSH_DELIVERY of an MFLUSH (R68, R69, R152), on an accumulator that passes the check of R65: every element is scaled by its
row's and its column's scale, added to what stands at its place in the adding form, and written there; a masked one is left as it
is or takes minus infinity, as the word says; and every other byte of the vault stays. A first element that does not pass is
reported once, RNSCHK with its coordinates (R65). And of a TQNT (R159): its 64 scales are written. -/
def Obligations.ExitDelivery : Prop :=
  ∀ (n : Nat) (s : State) (c : Core), n < 512 → c = s.coreAt n → c.delivers = true →
    (∀ due o k acc bnd rs cs base pitch add md mask fmt,
      c.eng.exits = [.mflush due o k acc bnd rs cs base pitch add md mask fmt] → due ≤ s.cycle → rowBytes fmt.toNat ≤ 64 * pitch →
      ((∀ e < 4096, (elemAt acc.toNat e).passes bnd = true) →
        ∃ t, exec (.mflushDelivery n) s = .next t ∧ (t.coreAt n).eng = { c.eng with exits := [] } ∧
          (t.coreAt n).regs = c.regs ∧ (t.coreAt n).boundary = c.boundary ∧ (∀ m, m ≠ n → t.coreAt m = s.coreAt m) ∧
          t.dev = s.dev ∧
          (∀ i j, i < 64 → j < 64 →
            (t.coreAt n).vault.num (base + 64 * pitch * i + rowBytes fmt.toNat / 64 * j) (rowBytes fmt.toNat / 64) =
              flushedValue (c.vault.num (base + 64 * pitch * i + rowBytes fmt.toNat / 64 * j) (rowBytes fmt.toNat / 64))
                (elemAt acc.toNat (64 * i + j)) (rs.getD i 0).toNat (cs.getD j 0).toNat fmt.toNat add md
                (maskedBy mask.toNat i j) % 2 ^ (8 * (rowBytes fmt.toNat / 64))) ∧
          (∀ a, (∀ i < 64, a < base + 64 * pitch * i ∨ base + 64 * pitch * i + rowBytes fmt.toNat ≤ a) →
            (t.coreAt n).vault.read a = c.vault.read a)) ∧
      (∀ e < 4096, (elemAt acc.toNat e).passes bnd = false → (∀ f < e, (elemAt acc.toNat f).passes bnd = true) →
        ∃ t, exec (.mflushDelivery n) s = .next t ∧
          (t.coreAt n).boundary = c.boundary ++ [{ cause := .rnschk, slot := 7, coords := [k, e / 64, e % 64] }])) ∧
    (∀ due o base scales, c.eng.exits = [.tqnt due o base scales] → due ≤ s.cycle →
      ∃ t, exec (.mflushDelivery n) s = .next t ∧ (t.coreAt n).eng = { c.eng with exits := [] } ∧
        (t.coreAt n).regs = c.regs ∧ t.dev = s.dev ∧
        (∀ i (h : i < scales.length), (t.coreAt n).vault.num (base + 2 * i) 2 = scales[i].toNat) ∧
        (∀ a, a < base ∨ base + 2 * scales.length ≤ a → (t.coreAt n).vault.read a = c.vault.read a))

/-- C_QUEUE_PERFORM, MULTICAST_DELIVERY and BARRIER_PASS (R106, R172, R174): the head of a queue that may perform leaves it and acts
on its member's vault: a load's bytes are on their way to its register, a store's bytes are written and no other byte changes.
A held multicast is written to an armed register, which is armed no longer. When the conditions of a barrier hold, every
waiting member passes in the next cycle. -/
def Obligations.ClusterSteps : Prop :=
  ∀ (n : Nat) (s : State) (c : Core) (e : CEntry) (r : List CEntry), n < 512 → c = s.coreAt n →
    (∀ g w sx, c.qs.loads = e :: r → c.qs.stores = [] → e.kind = .ld g w sx → e.size = w →
      (s.turnTo n).mayPerform e = true →
      ∃ t d, exec (.cQueuePerform n false) s = .next t ∧ (t.coreAt n).qs.loads = r ∧
        (t.coreAt n).qs.flight = insertDelivery d c.qs.flight ∧ d.dest = .gC g ∧
        d.value = (if sx then ((BitVec.ofNat (8 * w) ((s.coreAt ((s.turnTo n).member e.member)).vault.num e.off w)).signExtend 64).toNat
          else (s.coreAt ((s.turnTo n).member e.member)).vault.num e.off w) ∧
        (∀ k, (t.coreAt k).vault = (s.coreAt k).vault ∧ (t.coreAt k).regs = (s.coreAt k).regs) ∧
        t.dev.sys.mem = s.dev.sys.mem) ∧
    (∀ data, c.qs.stores = e :: r → c.qs.loads = [] → e.kind = .st data → (s.turnTo n).mayPerform e = true →
      ∃ t, exec (.cQueuePerform n true) s = .next t ∧ (t.coreAt n).qs.stores = r ∧
        (∀ i (h : i < data.length),
          (t.coreAt ((s.turnTo n).member e.member)).vault.read (e.off + i) = data[i]) ∧
        (∀ k a, k ≠ (s.turnTo n).member e.member ∨ a < e.off ∨ e.off + data.length ≤ a →
          (t.coreAt k).vault.read a = (s.coreAt k).vault.read a) ∧
        (∀ k, (t.coreAt k).regs = (s.coreAt k).regs) ∧ t.dev.sys.mem = s.dev.sys.mem) ∧
    (∀ (d : BitVec 4) cl data, s.dev.sys.multicasts = [⟨cl, d.toNat, [n], data⟩] → c.armed d.toNat = true →
      c.ctl.run = .running →
      ∃ t, exec (.multicastDelivery n d) s = .next t ∧ t.dev.sys.multicasts = [] ∧
        (t.coreAt n).tileAt d.toNat = ⟨data, data == 0⟩ ∧ (t.coreAt n).armed d.toNat = false ∧
        (∀ k, k ≠ d.toNat → (t.coreAt n).tileAt k = c.tileAt k) ∧ (t.coreAt n).vault = c.vault ∧
        (∀ k, k ≠ n → t.coreAt k = s.coreAt k)) ∧
    ((s.turnTo n).barrierMet = true →
      ∃ t, exec (.barrierPass n) s = .next t ∧
        (∀ k ∈ (s.turnTo n).alive, (t.coreAt k).pass = some (s.cycle + 1)) ∧
        (∀ k, k ∉ (s.turnTo n).alive → t.coreAt k = s.coreAt k) ∧ t.dev = s.dev)

/-! ### Words of the port, and commands -/

namespace Sys2Proof.Claims

/-- A tile as a transfer of core `n` reads it, and its generation (R257, R265): from the copy that its die's remote read buffer has
whole as one version, else the newest bytes of its die's write buffer and of the home. -/
def tileSeen (s : State) (n : Nat) (x : TileEntry) : List Byte × Nat :=
  match s.dev.sys.tileCopy (dieOf n) x with
  | some g => (s.dev.sys.bytes (dieOf n) true x.addr 4096, g)
  | none => (s.dev.sys.bytes (dieOf n) false x.addr 4096, s.dev.sys.genAt x)

/-- The port with its word `e` faulted: it waits for service, and the words of its task behind it that have not begun are kept in
order (R239). -/
def faultedPort (port : List GEntry) (e : GEntry) (i : TrapInfo) : List GEntry :=
  port.map fun y =>
    if y.same e then { e with faulted := some i, kept := true }
    else if y.task = e.task ∧ e.order < y.order ∧ y.begun = false then { y with kept := true } else y

/-- No bank of core `n` is pending, so that a word that leaves its port hands none over (R302). -/
def settled (s : State) (n : Nat) : Prop := (s.coreAt n).ctl.pendingBanks = 0

/-- Words that bring something to their core's registers (R184, R186, R189): a tile is on its way to its register for the next cycle,
and lands in the order of issue; an absent one is a fault, kept with the word and taken at the next boundary; a translation is in its
register. -/
def registerArrivals : Prop :=
  ∀ (n ix : Nat) (s : State) (c : Core) (e : GEntry), n < 512 → c = s.coreAt n → settled s n →
    (c.port[ix]? = some e → (s.turnTo n).mayTransfer ix e = true → e.task = c.ctl.task → c.ctl.run = .running →
      (∀ (d : Nat) r x, e.op = .tldTile d r → e.acquire = false → (s.turnTo n).reach r = .ok x → x.here = true →
        ∃ t, exec (.transferArrival n ix) s = .next t ∧
          (t.coreAt n).qs.flight = insertDelivery
            ⟨s.cycle + 1, e.order, .tileL d, leNat (tileSeen s n x).1, ones 32768, 0, none⟩ c.qs.flight ∧
          (t.coreAt n).boundary = c.boundary ++ (if x.poisoned then [{ cause := .dpoison, slot := 10 }] else []) ∧
          (t.coreAt n).eng = c.eng ∧ (t.coreAt n).port = c.port.filter (fun y => !y.same e) ∧
          (t.coreAt n).regs = c.regs ∧ (t.coreAt n).vault = c.vault ∧ t.dev.sys.mem = s.dev.sys.mem) ∧
      (∀ d r x, e.op = .tldTile d r → (s.turnTo n).reach r = .ok x → x.here = false →
        ∃ t, exec (.transferArrival n ix) s = .next t ∧
          (t.coreAt n).boundary = c.boundary ++ [{ tileFault .trans r 4096 with port := some e.order }] ∧
          (t.coreAt n).port = faultedPort c.port e (tileFault .trans r 4096) ∧
          (t.coreAt n).eng = c.eng ∧ (t.coreAt n).regs = c.regs ∧ t.dev.sys = s.dev.sys) ∧
      (∀ xt va acc p s', e.op = .xlate xt va acc → e.acquire = false →
        (s.turnTo n).translate e.asid va (acc != 0) = .ok (p, s') →
        ∃ t, exec (.transferArrival n ix) s = .next t ∧
          (t.coreAt n).regs = { c.regs with xt := c.regs.xt.set 0 xt (xtWord e.asid va p) } ∧
          (t.coreAt n).port = c.port.filter (fun y => !y.same e) ∧ (t.coreAt n).eng = c.eng))

/-- The byte at `a` as words that read at the home, and what its port holds, find it on the die of core `n` (R256, R257). -/
def seenOn (s : State) (n a : Nat) : Byte := s.dev.sys.byte (dieOf n) false a

/-- Words that act on global memory or on the vault (R186, R190, R191, R237): a TST or TSTX leaves its bytes where its die finds them, and a
TST behind no other die's write whose place is settled changes nothing else (DESIGN CHOICE, log entry 130); a TLDX brings the bytes that
it reads into the vault, with DPOISON where they were bad; an AMOG leaves its result at the home, and what stood there is on its way to
its register. -/
def memoryArrivals : Prop :=
  ∀ (n ix : Nat) (s : State) (c : Core) (e : GEntry), n < 512 → c = s.coreAt n → settled s n →
    c.port[ix]? = some e → (s.turnTo n).mayTransfer ix e = true → e.task = c.ctl.task → c.ctl.run = .running → e.acquire = false →
      (∀ r x data, e.op = .tst r data → (s.turnTo n).reach r = .ok x → bitOf x.bits 6 = true → bitOf x.bits 7 = false →
        x.here = true → x.dir.kv = false → (x.at_ + 8 ≤ x.addr ∨ x.addr + 4096 ≤ x.at_) →
        (∀ w ∈ s.dev.sys.wbuf, w.sworn = true → w.die = dieOf n) →
        ∃ t, exec (.transferArrival n ix) s = .next t ∧
          (∀ i < 4096, seenOn t n (x.addr + i) = BitVec.ofNat 8 (laneOf 8 data.toNat i)) ∧
          (∀ a, (a < x.addr ∨ x.addr + 4096 ≤ a) → (a < x.at_ ∨ x.at_ + 8 ≤ a) → seenOn t n a = seenOn s n a) ∧
          (t.coreAt n).port = c.port.filter (fun y => !y.same e) ∧ (t.coreAt n).regs = c.regs ∧ (t.coreAt n).vault = c.vault) ∧
      (∀ va pa data a s', e.op = .tstx va pa data → (s.turnTo n).flatPieces e true va data.length pa = .ok ([(a, data.length)], s') →
        isPeer a = false → s'.marksAt a data.length = [] →
        ∃ t, exec (.transferArrival n ix) s = .next t ∧ (∀ i (h : i < data.length), seenOn t n (a + i) = data[i]) ∧
          (∀ b, (b < a ∨ a + data.length ≤ b) → seenOn t n b = seenOn s' n b) ∧
          (t.coreAt n).port = c.port.filter (fun y => !y.same e) ∧ (t.coreAt n).regs = c.regs ∧ (t.coreAt n).vault = c.vault) ∧
      (∀ va pa len dst a s', e.op = .tldx va pa len dst → (s.turnTo n).flatPieces e false va len pa = .ok ([(a, len)], s') →
        isPeer a = false → s'.reachable a = true → s'.readFailed e = false → c.retained = [] →
        (∀ b, (s.turnTo n).savedBank n e.task b = none) →
        ∃ t, exec (.transferArrival n ix) s = .next t ∧ (t.coreAt n).vault.bytes dst len = s'.dev.sys.bytes (dieOf n) true a len ∧
          (∀ b, (b < dst ∨ dst + len ≤ b) → (t.coreAt n).vault.read b = c.vault.read b) ∧
          (t.coreAt n).boundary = c.boundary ++ (if s'.dev.sys.piecesBad [(a, len)] || e.bad then [{ cause := .dpoison, slot := 10 }] else []) ∧
          (t.coreAt n).port = c.port.filter (fun y => !y.same e) ∧ (t.coreAt n).regs = c.regs) ∧
      (∀ va pa (aop : BitVec 3) w src cmp g a s', e.op = .amog va pa aop.toNat w src cmp g → (w = 4 ∨ w = 8) →
        (s.turnTo n).flatPieces e true va w pa = .ok ([(a, w)], s') → s'.noAtomics a = false →
        s'.dev.sys.under (dieOf n) a w = false → s'.marksAt a w = [] →
        ∃ t, exec (.transferArrival n ix) s = .next t ∧
          t.dev.sys.mem.num a w = (atomicOut (8 * w) aop (BitVec.ofNat _ (s'.dev.sys.mem.num a w)) (BitVec.ofNat _ src)
            (BitVec.ofNat _ cmp)).toNat ∧
          (∀ b, (b < a ∨ a + w ≤ b) → t.dev.sys.mem.read b = s'.dev.sys.mem.read b) ∧
          (t.coreAt n).qs.flight = insertDelivery
            ⟨s.cycle + 1, e.order, .gG g, s'.dev.sys.mem.num a w, ones 32768, 0, none⟩ c.qs.flight ∧
          (t.coreAt n).port = c.port.filter (fun y => !y.same e) ∧ (t.coreAt n).regs = c.regs ∧ (t.coreAt n).vault = c.vault)

/-- A GATH pushes the elements that an address-queue entry selects, and DPOISON waits for the boundary where their data were bad (R198). -/
def gatherPushes : Prop :=
  ∀ (n : Nat) (s : State) (c : Core), n < 512 → c = s.coreAt n →
    (∀ (j : GatherJob) js idx more l s', c.qs.gathers = j :: js → c.qs.addr = idx :: more → j.faulted = none → j.failed = false →
      c.qs.data.length < 64 → c.acquirePending j.bundle = false → c.gatherHeld j = false →
      s.dev.fabric.refused n (gatherWord c).key = false →
      (s.turnTo n).elementPieces (gatherWord c) j.size ((List.range 16).map fun i =>
        (j.base + laneOf 32 idx.toNat i * j.size) % 2 ^ 57) = .ok (l, s') →
      (∀ p ∈ l, isPeer p.1 = false ∧ s'.reachable p.1 = true) →
      ∃ t, exec (.gatherPush n) s = .next t ∧ (t.coreAt n).qs.addr = more ∧
        (t.coreAt n).qs.data = c.qs.data ++
          [BitVec.ofNat 1024 (leNat (l.flatMap fun p => s'.dev.sys.bytes (dieOf n) false p.1 p.2))] ∧
        (t.coreAt n).boundary = c.boundary ++ (if s'.dev.sys.piecesBad l then [{ cause := .dpoison, slot := 10 }] else []) ∧
        (t.coreAt n).regs = c.regs ∧ (t.coreAt n).vault = c.vault)

end Sys2Proof.Claims

/-- TRANSFER_ARRIVAL and GATHER_PUSH (R184, R186, R189 to R191, R198, R237, R239): what a word of the port or the gather engine brings, and
what it leaves in memory. The rights that an XLATE grants are the model's reading (log entry 24). -/
def Obligations.ArrivalsAtCores : Prop :=
  registerArrivals ∧ memoryArrivals ∧ gatherPushes

/-- TRANSFER_ARRIVAL and RING_SLOT_FILL of a TLD into a ring (R187, R233, R234): with its tile there it takes the tile, and in the order
of the ring's words, once a slot is free and what its publication releases has performed, header and data are in the next free
slot, which is published. A tile that its own die's port still writes is taken as that port has it (R257), with the generation of that
version, which no other die's write can change then (DESIGN CHOICE, log entry 130). What the word has written into its slot before is not
written again. -/
def Obligations.RingSlots : Prop :=
  ∀ (n ix : Nat) (s : State) (c : Core) (e : GEntry) (h : Nat) (r : TileRef), n < 512 → c = s.coreAt n → settled s n →
    c.port[ix]? = some e → e.op = .tldRing h r → e.finished = none → e.faulted = none → e.task = c.ctl.task →
    c.ctl.run = .running → (s.turnTo n).isOver e.task = false →
    (∀ x, e.got = none → (s.turnTo n).mayTransfer ix e = true → (s.turnTo n).reach r = .ok x → x.here = true →
      s.dev.sys.under (dieOf n) x.addr 4096 = false →
      ∃ t, exec (.transferArrival n ix) s = .next t ∧
        (t.coreAt n).port = c.port.map (fun y => if y.same e then
          { e with got := some (slotHeader (tileSeen s n x).2 0 false x.poisoned, (tileSeen s n x).1) } else y) ∧
        (t.coreAt n).vault = c.vault ∧ (t.coreAt n).regs = c.regs ∧ t.dev.sys.mem = s.dev.sys.mem) ∧
    (∀ x, e.got = none → (s.turnTo n).mayTransfer ix e = true → (s.turnTo n).reach r = .ok x → x.here = true →
      s.dev.sys.under (dieOf n) x.addr 4096 = true → (∀ w ∈ s.dev.sys.wbuf, w.die = dieOf n) → s.dev.sys.hostq = [] →
      ∃ t, exec (.transferArrival n ix) s = .next t ∧
        (t.coreAt n).port = c.port.map (fun y => if y.same e then
          { e with got := some (slotHeader (s.dev.sys.genSeen (dieOf n) x) 0 false x.poisoned,
            s.dev.sys.bytes (dieOf n) false x.addr 4096) } else y) ∧
        (t.coreAt n).vault = c.vault ∧ (t.coreAt n).regs = c.regs ∧ t.dev.sys.mem = s.dev.sys.mem) ∧
    (∀ hd data, e.got = some (hd, data) → data.length = 4096 → c.retained = [] → (s.turnTo n).fillWaits e h = false →
      (∀ f ∈ c.port.take ix, f.task = e.task → sameRing e.op f.op = false) →
      (∀ b, (s.turnTo n).savedBank n e.task b = none) →
      ∃ t, exec (.ringSlotFill n ix) s = .next t ∧
        (t.coreAt n).ring h = { c.ring h with
          count := (c.ring h).count + 1, fill := if (c.ring h).cnt = 0 then 0 else ((c.ring h).fill + 1) % (c.ring h).cnt } ∧
        (t.coreAt n).vault.bytes ((c.ring h).slotAt (c.ring h).fill) 4224 =
          (if e.started then c.vault.bytes ((c.ring h).slotAt (c.ring h).fill) 4224
          else leBytes 8 hd ++ List.replicate 120 0 ++ data) ∧
        (∀ a, a < (c.ring h).slotAt (c.ring h).fill ∨ (c.ring h).slotAt (c.ring h).fill + 4224 ≤ a →
          (t.coreAt n).vault.read a = c.vault.read a) ∧
        (t.coreAt n).boundary = c.boundary ++ (if bitOf hd 5 then [{ cause := .dpoison, slot := 10 }] else []) ∧
        (t.coreAt n).port = c.port.filter (fun y => !y.same e))

namespace Sys2Proof.Claims

/-- A command whose work is done writes its output and its status word, joins its flags, adds 1 to its counter and leaves the port; an
ICINV adds 1 to its counter, and every core then fetches the code of its range, or all code, from its home, through no target buffer
either; a LAUNCH that names a loaded kernel, an address space it may name and queues with room places its group in them; a fault that
service resolves lets its word try again (R192, R193, R206, R207). -/
def commandCompletions : Prop :=
  ∀ (n ix : Nat) (s : State) (c : Core) (e : GEntry), n < 512 → c = s.coreAt n → settled s n → c.port[ix]? = some e →
    (∀ k at_ b d, e.op = .cmd k at_ b → e.finished = some ⟨d, 0, [], 0⟩ → wideScope e.scope = false → e.acquire = false →
      e.kcore = n → e.task = c.ctl.task → c.ctl.run = .running → c.retained = [] →
      (∀ j, (s.turnTo n).savedBank n e.task j = none) →
      ∃ t, exec (if k = .launch then .launchAccept n ix else .engineCommandCompletion n ix) s = .next t ∧
        (t.coreAt n).vault.num (at_ + 56) 8 = d % 2 ^ 64 ∧
        (∀ a, a < at_ + 56 ∨ at_ + 64 ≤ a → (t.coreAt n).vault.read a = c.vault.read a) ∧
        (t.coreAt n).kAt e.kc = c.kAt e.kc + 1 ∧ (∀ j, j ≠ e.kc → (t.coreAt n).kAt j = c.kAt j) ∧
        (t.coreAt n).regs.g = c.regs.g ∧ (t.coreAt n).port = c.port.filter (fun y => !y.same e)) ∧
    (∀ k at_ b code res a bs fl, e.op = .cmd k at_ b → e.finished = some ⟨code, res, [(a, bs)], fl⟩ → wideScope e.scope = false →
      e.acquire = false → e.task = c.ctl.task → c.ctl.run = .running → c.retained = [] →
      (∀ j, (s.turnTo n).savedBank n e.task j = none) → k ≠ .launch →
      ∃ t, exec (.engineCommandCompletion n ix) s = .next t ∧
        (∀ i (h : i < bs.length), (a + i < at_ + 56 ∨ at_ + 64 ≤ a + i) → (t.coreAt n).vault.read (a + i) = bs[i]) ∧
        (t.coreAt n).ctl.fpflags = c.ctl.fpflags ||| BitVec.ofNat 64 fl ∧
        (t.coreAt n).vault.num (at_ + 56) 8 = (code + 256 * (res % 2 ^ 56)) % 2 ^ 64) ∧
    (∀ va len, e.op = .icinv va len → e.finished = none → e.faulted = none → e.acquire = false → e.kcore = n →
      e.task = c.ctl.task → c.ctl.run = .running → (s.turnTo n).wordOrdered e = true →
      ∃ t, exec (.engineCommandCompletion n ix) s = .next t ∧
        (t.coreAt n).kAt e.kc = c.kAt e.kc + 1 ∧ (t.coreAt n).vault = c.vault ∧
        (t.coreAt n).port = c.port.filter (fun y => !y.same e) ∧
        (∀ m a, m < 512 → a % 4 = 0 → a < hbmEnd → (len = 0 ∨ s.codeMapped va len (64 * (a / 64)) = true) →
          t.dev.sys.codeBytes m a = s.dev.sys.homeBytes a 4 ∧ (t.coreAt m).seq.stream.get none (a / 64) = none ∧
          ∀ k b, (t.coreAt m).seq.tb.get none k = some b → b.code.get none (a / 64) = none)) ∧
    (∀ at_ b o k p, e.op = .cmd .launch at_ b → e.finished = none → e.bad = false → (s.turnTo n).cmdReady e = true →
      (s.turnTo n).kernelAt (blkField b 44 2) (blkField b 0 8) = some (o, k) →
      (s.turnTo n).mayName n (blkField b 44 2) = true → (s.turnTo n).queueRoom b = true → blkField b 33 1 = 0 →
      (s.turnTo n).engineVault e (blkField b 36 4) (blkField b 34 2) = .ok p →
      ∃ t g, exec (.launchAccept n ix) s = .next t ∧ t.dev.sched.groups = s.dev.sched.groups ++ [g] ∧
        t.dev.sched.queued = s.dev.sched.queued ++ ((List.range 4).filter (bitOf (blkField b 32 1))).map (fun d =>
          (64 * d + blkField b 31 1, s.dev.sched.nextGroup)) ∧
        t.dev.sched.nextGroup = (s.dev.sched.nextGroup + 1) % 2 ^ 32 ∧ g.id = s.dev.sched.nextGroup ∧
        g.kent = blkField b 0 8 ∧ g.done = blkField b 8 8 ∧ g.count = blkField b 24 4 ∧ g.remaining = blkField b 24 4 ∧
        g.minch = blkField b 28 2 ∧ g.size = 2 ^ blkField b 30 1 ∧ g.tenants = 0 ∧ g.params = p ∧ g.core = n) ∧
    (∀ i s' (tier : BitVec 2), e.faulted = some i → (s.turnTo n).engineFault e = true →
      (s.turnTo n).serve e.asid 0 0 i tier.toNat = .done s' →
      ∃ t, exec (.engineFaultResolution n ix tier) s = .next t ∧ t.dev = s'.dev ∧
        (t.coreAt n).port = s'.core.port.map (fun y => if y.same e then { e with faulted := none } else y) ∧
        (t.coreAt n).regs = s'.core.regs ∧ (t.coreAt n).vault = s'.core.vault)

/-- The word `e` of core `n` has been served: its status word, its counter, and its place in the port (R192). -/
def servedWith (s t : State) (n : Nat) (e : GEntry) (at_ status : Nat) : Prop :=
  (t.coreAt n).vault.num (at_ + 56) 8 = status % 2 ^ 64 ∧ (t.coreAt n).kAt e.kc = (s.coreAt n).kAt e.kc + 1 ∧
    (t.coreAt n).port = (s.coreAt n).port.filter (fun y => !y.same e)

/-- A byte that is not part of the status word of the block at `at_`. -/
def besideStatus (at_ a : Nat) : Prop := a < at_ + 56 ∨ at_ + 64 ≤ a

/-- The auction that an ASN's block, score tile and capacities describe (R205). -/
def auctionOf (b : BitVec 512) (tile caps : List Byte) : AuctionTask :=
  { score := (List.range (blkField b 16 2)).map fun r =>
      (lanesOf 32 (blkField b 18 1) (leNat ((tile.drop (256 * r)).take 256))).map takenScore
    cap := lanesOf 16 (blkField b 18 1) (leNat caps), resv := blkField b 24 4, maxr := blkField b 28 4 }

/-- The command `e` of core `n`, a word of kind `k` with its block `b` at `at_`, is ready to be worked on by its engine, and completes at
once when its work is done. -/
def readyCommand (s : State) (n ix : Nat) (c : Core) (e : GEntry) (k : CmdKind) (at_ : Nat) (b : BitVec 512) : Prop :=
  n < 512 ∧ c = s.coreAt n ∧ settled s n ∧ c.port[ix]? = some e ∧ (∀ f ∈ c.port, f.same e = true → f = e) ∧ e.op = .cmd k at_ b ∧
    e.finished = none ∧ e.faulted = none ∧ e.bad = false ∧ e.progress = [] ∧ e.started = false ∧ e.acquire = false ∧
    wideScope e.scope = false ∧ e.kcore = n ∧ e.task = c.ctl.task ∧ c.ctl.run = .running ∧ c.retained = [] ∧
    (∀ j, (s.turnTo n).savedBank n e.task j = none) ∧ (s.turnTo n).cmdReady e = true

/-- CPY up to a page's end (R197): from the vault or from memory into the vault, and from the vault into memory. -/
def copies : Prop :=
  ∀ n ix s c e at_ b src dst len, readyCommand s n ix c e .cpy at_ b → 0 < len →
    (cpyBlock b = ⟨src, dst, len, true, true, false⟩ → src % 65536 + len ≤ 65536 →
      (s.turnTo n).enginePoisoned n e.task src len = false →
      ∃ t, exec (.engineCommandCompletion n ix) s = .next t ∧ servedWith s t n e at_ (256 * (len % 2 ^ 56)) ∧
        (∀ i < len, besideStatus at_ (dst + i) → (t.coreAt n).vault.read (dst + i) = c.vault.read (src + i)) ∧
        (∀ a, besideStatus at_ a → (a < dst ∨ dst + len ≤ a) → (t.coreAt n).vault.read a = c.vault.read a)) ∧
    (∀ bs s', cpyBlock b = ⟨src, dst, len, false, true, false⟩ → src % 65536 + len ≤ 65536 →
      (s.turnTo n).engineBytes e (src % 2 ^ 57) len = .ok (bs, s') → bs.length = len →
      ∃ t, exec (.engineCommandCompletion n ix) s = .next t ∧ servedWith s t n e at_ (256 * (len % 2 ^ 56)) ∧
        (∀ i < len, besideStatus at_ (dst + i) → (t.coreAt n).vault.read (dst + i) = bs.getD i 0) ∧
        (∀ a, besideStatus at_ a → (a < dst ∨ dst + len ≤ a) → (t.coreAt n).vault.read a = c.vault.read a)) ∧
    (∀ a s', cpyBlock b = ⟨src, dst, len, true, false, false⟩ → dst % 65536 + len ≤ 65536 →
      (s.turnTo n).enginePoisoned n e.task src len = false →
      (s.turnTo n).enginePieces e true (dst % 2 ^ 57) len = .ok ([(a, len)], s') → isPeer a = false → s'.marksAt a len = [] →
      ∃ t, exec (.engineCommandCompletion n ix) s = .next t ∧ servedWith s t n e at_ (256 * (len % 2 ^ 56)) ∧
        (∀ i < len, seenOn t n (a + i) = c.vault.read (src + i)) ∧
        (∀ b, (b < a ∨ a + len ≤ b) → seenOn t n b = seenOn s' n b))

/-- KAPP to a page of its die that no other sequence shares (R199, R265, R324, R327): the token is appended, page, side entry and
generation change together, and the status says which halves were rescaled. -/
def appends : Prop :=
  ∀ n ix s c e at_ b spte s' x p kr vr ks vs, readyCommand s n ix c e .kapp at_ b →
    (s.turnTo n).engineNum e (blkField b 0 8) 8 = .ok (spte, s') → s'.lookup e.asid (fieldOf spte 55 32) (spte % 2 ^ 32) = .ok x →
    x.dir.kv = true → bitOf x.bits 5 = true → x.here = true → x.poisoned = false → (s'.readPage x).cnt = blkField b 8 1 →
    (s'.readPage x).ref ≤ 1 → s'.engineVault e (blkField b 12 4) 512 = .ok ks → s'.engineVault e (blkField b 16 4) 512 = .ok vs →
    (s'.readPage x).append (blkField b 8 1) (lanes32 ks) (lanes32 vs) = some (p, kr, vr) → s'.dev.sys.wbuf = [] → s'.dev.sys.hostq = [] →
    s'.dev.sys.lag.get false (dieOf n) = false → homeDie x.addr = some (dieOf n) →
    homeDie (x.dir.side x.tile) = some (dieOf n) → homeDie (x.dir.side x.tile + 8) = some (dieOf n) → (s.evq 5).en = false →
    (x.at_ + 8 ≤ x.addr ∨ x.addr + 4096 ≤ x.at_) → (x.at_ + 8 ≤ x.dir.side x.tile ∨ x.dir.side x.tile + 512 ≤ x.at_) →
    (x.addr + 4096 ≤ x.dir.side x.tile ∨ x.dir.side x.tile + 512 ≤ x.addr) →
    ∃ t, exec (.engineCommandCompletion n ix) s = .next t ∧
      servedWith s t n e at_ (256 * (((x.gen + 1) % 4096 * 2 ^ 24 + (bit kr * 2 + bit vr * 4)) % 2 ^ 56)) ∧
      t.dev.sys.homeBytes x.addr p.data.length = p.data ∧ t.dev.sys.mem.num x.at_ 8 / 2 ^ 52 = (x.gen + 1) % 4096 ∧
      t.dev.sys.mem.num (x.dir.side x.tile + 2) 1 = p.cnt % 256 ∧
      t.dev.sys.mem.num (x.dir.side x.tile + 4) 2 = sgenOf ((x.gen + 1) % 4096) ∧
      t.dev.sys.mem.num (x.dir.side x.tile + 8) 4 = pageCrc p.data p.ksc p.vsc % 2 ^ 32

/-- The last contribution of two to a BLEND or COLL within the package closes its use (R202 to R204): the word takes the combination of the
two, rank 0 first, normalised where it is asked for, as the output that its completion writes. -/
def merges : Prop :=
  ∀ n ix s c e k at_ b g u x y, readyCommand s n ix c e k at_ b → k = .blend ∨ k = .coll → e.collSig? = some g → g.p = 2 →
    s.dev.fabric.colls = [u] → u.domain = (s.turnTo n).domainOf e → isSystem u.domain = false → u.tag = e.tag → u.sig = g →
    u.contribs = [x] → x.sig = g → x.rank = 0 → x.key ≠ e.key → blkField b 6 2 = 1 → u.parts = [] → g.op ≠ 5 →
    (∀ v ∈ s.dev.fabric.late, v.lacks u.domain e.tag 1 = false) →
    (∀ j ∈ s.dev.sched.tasks, j.ended = []) → (s.turnTo n).payload e g = .ok y →
    ∃ t z d, exec (.engineCommandCompletion n ix) s = .next t ∧ t.dev.fabric.colls = [] ∧ z ∈ (t.coreAt n).port ∧ z.key = e.key ∧
      z.finished = some d ∧ d.code = 0 ∧ (g.blend = true → d.res = 2) ∧
      d.out = outputs e g (finalBytes g (combine g x.bytes y).1).1 ∧
      d.flags = (combine g x.bytes y).2 ||| (finalBytes g (combine g x.bytes y).1).2 ∧
      (t.coreAt n).vault = c.vault ∧ (t.coreAt n).regs = c.regs

/-- ASN (R205): the rows' columns and the columns' prices of the auction, as the engine's rounds leave it, stand at AS and PR, the flags
of its arithmetic have joined (R58), and the status says whether the round limit ended it. -/
def assigns : Prop :=
  ∀ n ix s c e at_ b tile caps a short, readyCommand s n ix c e .asn at_ b →
    (s.turnTo n).engineVault e (blkField b 0 4) (256 * blkField b 16 2) = .ok tile →
    (s.turnTo n).engineVault e (blkField b 4 4) 128 = .ok caps →
    (auctionOf b tile caps).phases (blkField b 20 4) (blkField b 19 1) ⟨List.replicate (blkField b 18 1) 0, [], [], 0, 0⟩ = (a, short) →
    ∀ as_ pr, as_ = blkField b 8 4 → pr = blkField b 12 4 →
      (as_ + 2 * a.held.length ≤ pr ∨ pr + 4 * a.price.length ≤ as_) →
      (as_ + 2 * a.held.length ≤ at_ + 56 ∨ at_ + 64 ≤ as_) → (pr + 4 * a.price.length ≤ at_ + 56 ∨ at_ + 64 ≤ pr) →
    ∃ t, exec (.engineCommandCompletion n ix) s = .next t ∧
      servedWith s t n e at_ (bit short + 256 * (a.rounds * 2 ^ 24 % 2 ^ 56)) ∧
      (∀ r (h : r < a.held.length), (t.coreAt n).vault.num (as_ + 2 * r) 2 = ((a.held[r].map (·.1)).getD 0xFFFF) % 2 ^ 16) ∧
      (∀ k (h : k < a.price.length), (t.coreAt n).vault.num (pr + 4 * k) 4 = a.price[k] % 2 ^ 32) ∧
      (t.coreAt n).ctl.fpflags = c.ctl.fpflags ||| BitVec.ofNat 64 a.flags ∧ t.dev.sys.mem = s.dev.sys.mem

end Sys2Proof.Claims

/-- ENGINE_COMMAND_COMPLETION, LAUNCH_ACCEPT and ENGINE_FAULT_RESOLUTION (R192, R193, R197, R199, R202 to R207): what engines do with
the words of the port, and how a word completes. -/
def Obligations.CommandSteps : Prop :=
  commandCompletions ∧ copies ∧ appends ∧ merges ∧ assigns

/-! ### Boundaries, traps and service -/

/-- BOUNDARY_FAULT and PREOVR at a boundary (R90, R248, R250, R252): the core freezes with the cause, and its record goes to its
die's fault queue; registers, vault and what is in flight stay. -/
def Obligations.BoundaryTraps : Prop :=
  ∀ (n : Nat) (s : State) (c : Core), n < 512 → c = s.coreAt n → c.delivers = true → c.wake ≤ s.cycle →
    (∀ i, c.boundary = [i] →
      ∃ t w, exec (.boundaryFault n) s = .next t ∧ (t.coreAt n).ctl.run = .frozen i s.cycle ∧ (t.coreAt n).boundary = [] ∧
        (t.coreAt n).regs = c.regs ∧ (t.coreAt n).vault = c.vault ∧ (t.coreAt n).qs = c.qs ∧ (t.coreAt n).seq = c.seq ∧
        t.dev.mgmt.faultQ = s.dev.mgmt.faultQ ++ [(n / 128, w)] ∧ w.toNat % 2 ^ 16 = n ∧
        w.toNat / 2 ^ 16 % 2 ^ 16 = i.causeWord ∧ t.dev.sys = s.dev.sys ∧ (∀ k, k ≠ n → t.coreAt k = s.coreAt k)) ∧
    (c.boundary = [] → c.ctl.preempt = true → c.ctl.bound < c.ctl.overrun → c.ctl.run = .running →
      ∃ t, exec (.preovr n) s = .next t ∧ (t.coreAt n).ctl.run = .frozen { cause := .preovr, slot := 15 } s.cycle ∧
        (t.coreAt n).regs = c.regs ∧ (t.coreAt n).vault = c.vault ∧ (t.coreAt n).qs = c.qs ∧ (t.coreAt n).seq = c.seq ∧
        t.dev.sys = s.dev.sys ∧ (∀ k, k ≠ n → t.coreAt k = s.coreAt k) ∧
        ∃ w, t.dev.mgmt.faultQ = s.dev.mgmt.faultQ ++ [(n / 128, w)] ∧ w.toNat % 2 ^ 16 = n ∧
          w.toNat / 2 ^ 16 % 2 ^ 16 = { cause := .preovr, slot := 15 : TrapInfo }.causeWord)

namespace Sys2Proof.Claims

/-- The core `n` that was `c`, frozen since `at_`, issues the bundle at its saved PC 6 cycles on, or later where the bundle buffer does not
hold that bundle, ccr.cause has the cause, and each latched result keeps its remaining latency (R91, R249). -/
def resumes (s t : State) (n : Nat) (c : Core) (i : TrapInfo) (at_ : Nat) : Prop :=
  (t.coreAt n).ctl.run = .running ∧
    (t.coreAt n).wake = (if (s.turnTo n).inBuffer c.seq.pc.toNat then s.cycle + 6 else max (s.cycle + 6) c.supply) ∧
    (t.coreAt n).ctl.cause = BitVec.ofNat 64 i.causeWord ∧
    (t.coreAt n).seq.pc = c.seq.pc ∧ (t.coreAt n).seq.lpc = c.seq.lpc ∧ (t.coreAt n).regs = c.regs ∧
    (t.coreAt n).vault = c.vault ∧
    (t.coreAt n).qs.flight = c.qs.flight.map fun d =>
      { d with due := if at_ < d.due then d.due + ((t.coreAt n).wake - at_) else d.due }

end Sys2Proof.Claims

/-- FAULT_SERVICE_RESUME and DEBUG_AGENT_RESUME (R107, R246, R247, R249): after a trap that is resumed (TRAP with a code below
0x8000, and BRK, by fault service where no debug session is attached to the task and by the agent where one is) the core issues the
bundle at the saved PC 6 cycles on, or when that has been fetched, ccr.cause takes the cause, and each latched result
keeps its remaining latency; after one that
is not (any issue trap, PREOVR) the task ends as END ends it. -/
def Obligations.TrapReturns : Prop :=
  ∀ (n : Nat) (s : State) (c : Core) (i : TrapInfo) (at_ : Nat), n < 512 → c = s.coreAt n → c.ctl.run = .frozen i at_ →
    at_ ≤ s.cycle → i.port = none →
    ((i.cause = .trap ∧ i.code < 0x8000 ∨ i.cause = .brk ∧ c.ctl.task ∉ s.dev.mgmt.sessions) → c.ctl.draining = false →
      ∀ tier : BitVec 2, ∃ t, exec (.faultServiceResume n tier) s = .next t ∧ resumes s t n c i at_) ∧
    (i.cause = .brk → c.ctl.task ∈ s.dev.mgmt.sessions → c.ctl.draining = false →
      (∃ t, exec (.debugAgentResume n) s = .next t ∧ resumes s t n c i at_) ∧
      ∀ tier : BitVec 2, ∃ t, exec (.faultServiceResume n tier) s = .next t ∧ t.coreAt n = c) ∧
    ((i.cause.code < 0x30 ∨ i.cause = .preovr) → ∀ tier : BitVec 2,
      ∃ t, exec (.faultServiceResume n tier) s = .next t ∧ (t.coreAt n).ctl.run = .ending ∧
        (t.coreAt n).ctl.draining = true ∧ (t.coreAt n).boundary = [] ∧ (t.coreAt n).regs = c.regs ∧
        (t.coreAt n).vault = c.vault ∧ (∀ k, k ≠ n → t.coreAt k = s.coreAt k))

/-! ### Scheduling -/

/-- SCHEDULER_CYCLE, FIRMWARE_PREEMPT_REQUEST, PREEMPTION_SAVE, TASK_RESUME, TASK_DRAIN_END and DONE_WRITE (R105, R206, R298, R304,
R305): a die whose queues hold nothing starts nothing, and a die's scheduler acts once in a cycle; a request sets ccr.preempt on
every member that still issues; a task whose members stand drained at points is saved, and its members are free; a saved task
selected for resumption runs on from its saved PC with its registers in the next cycle, or when its code is there, but
on no core that has failed or is retired (R378, R382); a core that has drained after END is free;
a queue that is ready starts a chunk on its block, every member with the values of R17 (R298 to R302); and a group that is done leaves the
queues, its value written to DONE. That resumption clears ccr.preempt is the model's reading (log entry 96). -/
def Obligations.SchedulingSteps : Prop :=
  ∀ s : State,
    (∀ die, die < 4 → s.pick die = none → s.served die = none →
      ∃ u, exec (.schedulerCycle die) s = .next u ∧ u.dev.sched.tasks = s.dev.sched.tasks ∧ u.dev.sched.ptr = s.dev.sched.ptr ∧
        u.dev.sys = s.dev.sys ∧ (∀ k, u.coreAt k = s.coreAt k)) ∧
    (∀ die, die < 4 → s.dev.sched.turned.get 0 die = s.cycle + 1 → exec (.schedulerCycle die) s = .next s) ∧
    (∀ die u, die < 4 → exec (.schedulerCycle die) s = .next u → u.cycle = s.cycle → exec (.schedulerCycle die) u = .next u) ∧
    (∀ die lvl q t, die < 4 → s.dev.sched.turned.get 0 die ≠ s.cycle + 1 → s.served die = none → s.pick die = some (lvl, q, .resume t) →
      ∃ u, exec (.schedulerCycle die) s = .next u ∧ u.dev.sched.ptr.get 0 (8 * die + lvl) = (q + 1) % 64 ∧
        u.dev.sched.tasks = s.dev.sched.tasks.map (fun x => if x.id = t then { x with state := .restoring } else x) ∧
        (∀ k, u.coreAt k = s.coreAt k)) ∧
    (∀ die lvl q g b o kn, die < 4 → s.dev.sched.turned.get 0 die ≠ s.cycle + 1 → s.served die = none →
      s.pick die = some (lvl, q, .chunk g b) → s.group? g.id = some g → g.remaining ≠ 0 → s.dev.code.find g.object = some o →
      o.kernels[g.kernel]? = some kn →
      ∃ u x, exec (.schedulerCycle die) s = .next u ∧ u.dev.sched.ptr.get 0 (8 * die + lvl) = (q + 1) % 64 ∧
        x ∈ u.dev.sched.tasks ∧ x.id = s.dev.sched.tasks.length + 1 ∧ x.group = g.id ∧ x.base = b ∧ x.size = g.size ∧
        x.state = .running ∧ x.first = g.count - g.remaining ∧
        x.cnt = min g.remaining (max g.minch ((g.remaining + 2 * g.blocks - 1) / (2 * g.blocks))) ∧
        (∀ i < g.size, (u.coreAt (b + i)).ctl.run = .running ∧ (u.coreAt (b + i)).ctl.task = x.id ∧
          (u.coreAt (b + i)).wake = s.cycle + 1 ∧ (u.coreAt (b + i)).seq.pc = BitVec.ofNat 64 kn.entry ∧
          (u.coreAt (b + i)).seq.lpc = BitVec.ofNat 64 kn.lit ∧ (u.coreAt (b + i)).gAt 2 = BitVec.ofNat 64 x.first ∧
          (u.coreAt (b + i)).gAt 3 = BitVec.ofNat 64 x.cnt ∧ (u.coreAt (b + i)).gAt 4 = BitVec.ofNat 64 i ∧
          (u.coreAt (b + i)).gAt 5 = BitVec.ofNat 64 g.size ∧ (u.coreAt (b + i)).ctl.owned = bankMask (planBanks kn.plan)) ∧
        (∀ k, (∀ i < g.size, k ≠ b + i) → u.coreAt k = s.coreAt k)) ∧
    (∀ id t, s.task? id = some t → s.mayRequest t = true →
      ∃ u, exec (.firmwarePreemptRequest id) s = .next u ∧
        (∀ n ∈ s.liveCores t, (u.coreAt n).ctl.preempt = true ∧ (u.coreAt n).ctl.overrun = 0) ∧
        (∀ n, n ∉ s.liveCores t → u.coreAt n = s.coreAt n) ∧
        u.dev.sched.tasks = s.dev.sched.tasks.map (fun x =>
          if x.id = t.id then { x with requested := true, incoming := none } else x)) ∧
    (∀ id t, s.task? id = some t → s.maySave t = true →
      ∃ u, exec (.preemptionSave id) s = .next u ∧
        (∀ n ∈ s.liveCores t, (u.coreAt n).ctl.run = .idle ∧ (u.coreAt n).vault = (s.coreAt n).vault) ∧
        (∀ n, n ∉ s.liveCores t → u.coreAt n = s.coreAt n) ∧ (∀ x, u.task? id = some x → x.state = .saved) ∧
        (s.dev.sched.saveAreas.get 0 (64 * dieOf t.base + ((s.group? t.group).map (·.queue)).getD 0) = 0 →
          u.dev.sys = s.dev.sys)) ∧
    (∀ id t n c, s.task? id = some t → t.state = .restoring → t.contexts = [(n, c)] → t.ended = [] → t.banks = [] →
      t.held = [] → c.ctl.pendingBanks = 0 → c.ctl.draining = false →
      (s.usable n = false → exec (.taskResume id) s = .next s) ∧ (s.usable n = true →
      ∃ u, exec (.taskResume id) s = .next u ∧ (∀ x, u.task? id = some x → x.state = .running) ∧
        (u.coreAt n).ctl.run = .running ∧ (u.coreAt n).wake = max (s.cycle + 1) (s.coreAt n).supply ∧ (u.coreAt n).regs = c.regs ∧
        (u.coreAt n).seq.pc = c.seq.pc ∧ (u.coreAt n).ctl.resumed = true ∧ (u.coreAt n).ctl.preempt = false ∧
        (u.coreAt n).ctl.cause = c.ctl.cause ∧ (u.coreAt n).vault = (s.coreAt n).vault ∧
        (∀ k, k ≠ n → u.coreAt k = s.coreAt k))) ∧
    (∀ n, n < 512 → (s.coreAt n).spent = true → (s.coreAt n).ctl.pendingBanks = 0 →
      ∃ u, exec (.taskDrainEnd n) s = .next u ∧ (u.coreAt n).ctl.run = .idle ∧ (u.coreAt n).vault = (s.coreAt n).vault ∧
        (u.coreAt n).regs = (s.coreAt n).regs) ∧
    (∀ id g, s.group? id = some g → s.groupDone g = true →
      ∃ u, exec (.doneWrite id) s = .next u ∧ u.dev.sched.groups = s.dev.sched.groups.filter (fun x => x.id != g.id) ∧
        u.dev.sched.queued = s.dev.sched.queued.filter (fun x => x.2 != g.id) ∧ (∀ k, u.coreAt k = s.coreAt k) ∧
        ∀ a s', g.done ≠ 0 → s.range g.asid.toNat true g.done 8 = .ok ([(a, 8)], s') → isPeer a = false → s'.marksAt a 8 = [] →
          u.dev.sys.bytes (dieOf g.core) false a 8 = leBytes 8 g.dval.toNat)

/-! ### Memory: buffers, tiers, scrubbers -/

namespace Sys2Proof.Claims

/-- The registers, vault and engines of every core are the same. -/
def sameCores (s t : State) : Prop := ∀ k, t.coreAt k = s.coreAt k

/-- Bytes of global memory outside `n` bytes at `a` are the same. -/
def sameOutside (s t : State) (a n : Nat) : Prop := ∀ b, b < a ∨ a + n ≤ b → t.dev.sys.mem.read b = s.dev.sys.mem.read b

/-- A record of source `src` has taken the next sequence number (R355). -/
def recorded (s t : State) (src : Nat) : Prop := t.dev.mgmt.evSeq.get 0 src = s.dev.mgmt.evSeq.get 0 src + 1

/-- WRITE_BUFFER_DRAIN (R237, R256, R259, R349, R360, R394): a buffered write that no earlier one holds back reaches its home and leaves
the buffer, both parts of it in one step where it has two, and the tile it touches advances GEN; while its link is down it is
dropped and logged. A write of whole lines to a peer leaves as a WRITE packet and stays until it is acknowledged; one that an earlier
write of its die holds back stays. -/
def bufferDrains : Prop :=
  ∀ (die ix : Nat) (s : State) (w : WEntry), s.dev.sys.buffered die ix = some w →
    (s.dev.sys.behind die ix w = true → exec (.writeBufferDrain die ix) s = .next s) ∧
    (s.dev.sys.behind die ix w = false →
    (w.refs = [] → w.place = none → w.tiles = [] → w.also = [] → isPeer w.addr = false → s.reachable w.addr = true →
      ∃ t, exec (.writeBufferDrain die ix) s = .next t ∧ t.dev.sys.wbuf = replaceFirst w [] s.dev.sys.wbuf ∧
        (∀ i (h : i < w.data.length), t.dev.sys.mem.read (w.addr + i) = w.data[i]) ∧
        sameOutside s t w.addr w.data.length ∧ sameCores s t ∧ t.dev.sched = s.dev.sched) ∧
    (∀ a bs, w.refs = [] → w.place = none → w.tiles = [] → w.also = [(a, bs)] → isPeer w.addr = false → s.reachable w.addr = true →
      (a + bs.length ≤ w.addr ∨ w.addr + w.data.length ≤ a) →
      ∃ t, exec (.writeBufferDrain die ix) s = .next t ∧ t.dev.sys.wbuf = replaceFirst w [] s.dev.sys.wbuf ∧
        (∀ i (h : i < w.data.length), t.dev.sys.mem.read (w.addr + i) = w.data[i]) ∧
        (∀ i (h : i < bs.length), t.dev.sys.mem.read (a + i) = bs[i]) ∧ sameCores s t) ∧
    (isPeer w.addr = false → s.reachable w.addr = false → (s.evq 7).en = false →
      ∃ t, exec (.writeBufferDrain die ix) s = .next t ∧ t.dev.sys.wbuf = replaceFirst w [] s.dev.sys.wbuf ∧
        t.dev.sys.mem = s.dev.sys.mem ∧ recorded s t 7 ∧ sameCores s t) ∧
    (∀ m, w.refs = [] → w.place = none → w.tiles = [m] → w.also = [] → m.summary = 0 → isPeer w.addr = false → s.reachable w.addr = true →
      (m.entry + 8 ≤ w.addr ∨ w.addr + w.data.length ≤ m.entry) →
      ∃ t, exec (.writeBufferDrain die ix) s = .next t ∧ t.dev.sys.wbuf = replaceFirst w [] s.dev.sys.wbuf ∧
        (∀ i (h : i < w.data.length), t.dev.sys.mem.read (w.addr + i) = w.data[i]) ∧
        t.dev.sys.mem.num m.entry 8 / 2 ^ 52 = (s.dev.sys.mem.num m.entry 8 / 2 ^ 52 + 1) % 4096 ∧
        bitOf (t.dev.sys.mem.num m.entry 8) 0 = bitOf (s.dev.sys.mem.num m.entry 8) 0 ∧ sameCores s t) ∧
    (∀ c, isPeer w.addr = true → s.dev.fabric.connTo (sliceOf w.addr) = some c → w.sent = none → w.sendable = true →
      c.room = true →
      ∃ t p, exec (.writeBufferDrain die ix) s = .next t ∧ t.dev.fabric.wire = s.dev.fabric.wire ++ [p] ∧ p.type = 2 ∧
        p.seq = c.txSeq ∧ p.addr = w.addr % 2 ^ 40 ∧ p.payload = w.data ∧
        t.dev.sys.wbuf = replaceFirst w [{ w with sent := some (c.id, c.txSeq) }] s.dev.sys.wbuf ∧
        t.dev.sys.mem = s.dev.sys.mem ∧ sameCores s t))

/-- No leaf of a page table maps a byte of `n` bytes at `a`. -/
def unmapped (s : State) (a n : Nat) : Prop :=
  ∀ x ∈ s.dev.sys.asids, ∀ sp, x.2 = some sp → ∀ l ∈ leavesFrom s.dev.sys.mem walkLevels 0 sp.l0,
    bitOf l.2.2.1 8 = false ∨ frameAddr l.2.2.1 + mapBytes l.2.2.2 ≤ a ∨ a + n ≤ frameAddr l.2.2.1

/-- TIER_MOVE (R333, R335, R349): a demotion keeps the tile's bytes in firmware's record and clears P in its entry, GEN and the
other bits kept, but that a poisoned line, or one whose read fails and gives zeros, poisons the tile; a promotion puts the bytes into a
fresh frame and the entry names it, GEN kept. A tile that is in place, on its way to another place, or read by a transfer, a DECANT or a
copy while it would be demoted, stays. -/
def tierMoves : Prop :=
  ∀ (asid tid tile : Nat) (tier : BitVec 2) (s : State) (x : TileEntry), s.lookup asid tid tile = .ok x →
    (bitOf x.bits 1 = true → x.tier = tier.toNat → exec (.tierMove asid tid tile tier true) s = .next s) ∧
    (bitOf x.bits 1 = true → s.tileInUse x.at_ = true → exec (.tierMove asid tid tile tier false) s = .next s) ∧
    (s.dev.sys.moving x.at_ = true → ∀ p, exec (.tierMove asid tid tile tier p) s = .next s) ∧
    (bitOf x.bits 1 = true → s.reachable x.addr = true → s.dev.sys.wbuf = [] → s.dev.sys.hostq = [] → unmapped s x.addr 4096 →
      s.tileInUse x.at_ = false → (s.evq 0).en = false →
      ∃ t, exec (.tierMove asid tid tile tier false) s = .next t ∧
        t.dev.sys.mem.num x.at_ 8 =
          (if s.dev.sys.linesBad x.addr 4096 || s.dev.sys.fails x.addr 4096 then poisonBits x.bits else x.bits) - 2 ∧
        (s.dev.sys.fails x.addr 4096 = false → t.dev.sys.records.get [] x.at_ = s.dev.sys.homeBytes x.addr 4096) ∧
        (s.dev.sys.fails x.addr 4096 = true → recorded s t 0 ∧ t.dev.sys.failing = none ∧ ∀ i < 4096,
          (t.dev.sys.records.get [] x.at_).getD i 0 =
            if s.dev.sys.failing = some ((x.addr + i) / 64) then 0 else s.dev.sys.mem.read (x.addr + i)) ∧
        t.dev.sys.frames = s.dev.sys.frames ++ [(x.addr, 4096)] ∧ sameOutside s t x.at_ 8 ∧ sameCores s t) ∧
    (∀ a u, bitOf x.bits 1 = false → s.dev.sys.lost.get false x.at_ = false → s.dev.sys.wbuf = [] → s.dev.sys.hostq = [] → x.dir.kv = false →
      s.takeFrame 4096 tier.toNat = some (a, u) → (x.at_ + 8 ≤ a ∨ a + 4096 ≤ x.at_) →
      ∃ t, exec (.tierMove asid tid tile tier true) s = .next t ∧ bitOf (t.dev.sys.mem.num x.at_ 8) 1 = true ∧
        fieldOf (t.dev.sys.mem.num x.at_ 8) 51 12 = a / 4096 % 2 ^ 40 ∧
        fieldOf (t.dev.sys.mem.num x.at_ 8) 3 2 = tier.toNat ∧ fieldOf (t.dev.sys.mem.num x.at_ 8) 63 52 = x.gen ∧
        (∀ i, i < 4096 → t.dev.sys.mem.read (a + i) = (s.dev.sys.records.get [] x.at_).getD i 0) ∧ sameCores s t)

/-- GROUP_EVICTION and FAR_REGION_WITHDRAWN (R332, R357): an evicted leaf node is unlinked, its pages and its group's record are
freed, and it goes back to its pool; a node that may not be evicted
stays. A withdrawn region of far memory has P cleared in the entry that maps it, and its bytes are lost; a range outside the
far-tier ports is no such region. -/
def evictionAndWithdrawal : Prop :=
  ∀ s : State,
    (∀ iod root node va asid, s.dev.sys.roots.get none (iod * 2 ^ 32 + root) = some (va, asid) →
      (∀ rm, s.mayEvict asid va node rm = false → exec (.groupEviction iod root node rm) s = .next s) ∧
      (∀ u v, s.treeBusy = false → s.mayEvict asid va node true = true → s.unlink asid node = .ok u →
        (((s.groupPages asid (s.nodeField asid (node + 72) 8)).foldl State.freePage u).freeRange asid (s.nodeField asid (node + 72) 8)
          (16 + 8 * u.nodeField asid (s.nodeField asid (node + 72) 8) 4)).setTree managerWord asid (node + 64) 8 0 = .ok v →
        ∃ t, exec (.groupEviction iod root node true) s = .next t ∧ t.dev.sys.nodes = s.dev.sys.nodes ++ [(iod, node)] ∧
          t.dev.sys.mem = v.dev.sys.mem ∧ sameCores s t) ∧
      (s.mayEvict asid va node false = true → ∃ t, exec (.groupEviction iod root node false) s = .next t ∧
        t.dev.sys.nodes = s.dev.sys.nodes ∧
        (∀ k, (t.coreAt k).vault = (s.coreAt k).vault ∧ (t.coreAt k).regs.g = (s.coreAt k).regs.g))) ∧
    (∀ base size, (base < 0x4000000000000 ∨ 0x6000000000000 < base + size) →
      exec (.farRegionWithdrawn base size) s = .next s) ∧
    (∀ base size e b, 0x4000000000000 ≤ base → base + size ≤ 0x6000000000000 → s.entriesAt base size = [e] →
      b = s.dev.sys.mem.num e.at_ 8 → bitOf b 1 = true → unmapped (s.setEntry e (b - 2)) base size →
      ∃ t, exec (.farRegionWithdrawn base size) s = .next t ∧ t.dev.sys.mem.num e.at_ 8 = b - 2 ∧
        t.dev.sys.lost.get false e.at_ = true ∧ sameOutside s t e.at_ 8 ∧ sameCores s t)

end Sys2Proof.Claims

/-- Steps of global memory (R256, R332, R335, R357, R394): buffers drain, tiles move, groups are evicted, regions are
withdrawn. -/
def Obligations.MemorySteps : Prop :=
  bufferDrains ∧ tierMoves ∧ evictionAndWithdrawal

/-- KV_SCRUB, SCRUB_REPAIR, MEMORY_SCRUB and VAULT_SCRUB (R376, R379, R380): a page whose checksum disagrees is poisoned, and
one whose checksum agrees is left; a repair advances GEN and keeps every byte of the tile; a corrected line is counted for its stack
and for the tile that it holds, and keeps its bytes; an uncorrectable one is poisoned. -/
def Obligations.ScrubSteps : Prop :=
  ∀ s : State, (s.evq 5).en = false →
    (∀ asid tid tile x, s.lookup asid tid tile = .ok x →
      (x.dir.kv = true → bitOf x.bits 1 = true → s.dev.sys.wbuf = [] → bitOf x.bits 4 = false →
        let side := x.dir.side x.tile
        let crc := pageCrc (s.dev.sys.homeBytes x.addr 4096) (s.dev.sys.homeNum side 1) (s.dev.sys.homeNum (side + 1) 1)
        (crc = s.dev.sys.homeNum (side + 8) 4 → exec (.kvScrub asid tid tile) s = .next s) ∧
        (crc ≠ s.dev.sys.homeNum (side + 8) 4 → ∃ t, exec (.kvScrub asid tid tile) s = .next t ∧
          t.dev.sys.mem.num x.at_ 8 = x.bits + 16 ∧ sameOutside s t x.at_ 8 ∧ recorded s t 5 ∧ sameCores s t)) ∧
      (bitOf x.bits 1 = true → 2 ≤ s.dev.health.tileFixes.get 0 x.at_ → x.dir.kv = false → s.dev.sys.wbuf.all (!·.sworn) = true →
        ∃ t, exec (.scrubRepair asid tid tile) s = .next t ∧
          t.dev.sys.mem.num x.at_ 8 = x.bits % 2 ^ 52 + (x.gen + 1) % 4096 * 2 ^ 52 ∧ sameOutside s t x.at_ 8 ∧
          t.dev.health.tileFixes.get 0 x.at_ = 0 ∧ sameCores s t)) ∧
    (∀ a, s.tier a = some 0 → lastLine (a / 64 * 64) = false →
      exec (.memoryScrub a .clean) s = .next s ∧
      (∃ t, exec (.memoryScrub a .corrected) s = .next t ∧ t.dev.sys = s.dev.sys ∧ recorded s t 5 ∧
        t.corrections (memUnit (a / 64 * 64)).1 (memUnit (a / 64 * 64)).2 =
          s.corrections (memUnit (a / 64 * 64)).1 (memUnit (a / 64 * 64)).2 + 1 ∧
        (∀ e, s.entriesAt (a / 64 * 64) 64 = [e] →
          t.dev.health.tileFixes.get 0 e.at_ = s.dev.health.tileFixes.get 0 e.at_ + 1) ∧ sameCores s t) ∧
      (∃ t, exec (.memoryScrub a .uncorrectable) s = .next t ∧ t.dev.sys.badFrames.get false (a / 65536) = true ∧
        (∀ e ∈ s.entriesAt (a / 64 * 64) 64, s.entriesAt (a / 64 * 64) 64 = [e] →
          bitOf (t.dev.sys.mem.num e.at_ 8) 4 = true) ∧ recorded s t 5 ∧ sameCores s t)) ∧
    (∀ n line, n < 512 → line < 65535 →
      exec (.vaultScrub n line .clean) s = .next s ∧
      (∃ t, exec (.vaultScrub n line .corrected) s = .next t ∧ sameCores s t ∧ recorded s t 5 ∧
        t.corrections 1 n = s.corrections 1 n + 1) ∧
      (∃ t, exec (.vaultScrub n line .uncorrectable) s = .next t ∧
        t.coreAt n = { s.coreAt n with poison := (s.coreAt n).poison.set false line true } ∧
        (∀ k, k ≠ n → t.coreAt k = s.coreAt k) ∧ t.dev.sys = s.dev.sys ∧ recorded s t 5))

/-! ### The management window -/

namespace Sys2Proof.Claims

/-- The command of a code is under way with its reserved bytes zero (R353, R354), and no read of it fails, or the host is sent no record
of one that does (R349). -/
def underWay (s : State) (code : Nat) (seq : Word64) : Prop :=
  s.dev.mgmt.busy = true ∧ s.dev.mgmt.mseq = seq ∧ s.dev.trust.running = true ∧ s.cmd 0 1 = code ∧ s.cmdOk = true ∧
    (s.dev.sys.failing = none ∨ (s.evq 0).en = false)

/-- A command has completed with a code (R353): MSTAT has its SEQ and CODE, and BUSY is clear. -/
def completed (s t : State) (code : Nat) : Prop :=
  t.dev.mgmt.doneSeq = s.dev.mgmt.mseq.setWidth 32 ∧ t.dev.mgmt.doneCode = BitVec.ofNat 8 code ∧ t.dev.mgmt.busy = false ∧
    t.dev.mgmt.mseq = s.dev.mgmt.mseq ∧
    t.dev.mgmt.msix = s.dev.mgmt.msix ++ (if s.reachable (hostAddr 0) then [0] else [])

end Sys2Proof.Claims

/-- The management commands (R311, R316 to R318, R320, R323, R342, R353, R354, R389): a command that is none of R353's completes
BADCMD. A load maps its object and writes its result; an unload unmaps; a swap makes a new version current; a seal seals;
an install adds its segments to the live table of the base's new version; an invalidation clears V of what it covers once accepted writes
have performed (log entry 93); a compile writes its object; a quote is written to the host, and its certificate returned (log entry 72).
Each then completes with CODE 0. -/
def Obligations.ManagementCommands : Prop :=
  ∀ (s : State) (seq : Word64),
    (s.dev.mgmt.busy = true → s.dev.mgmt.mseq = seq → s.dev.trust.running = true → s.cmdOk = false →
      ∃ t, exec (.badcmd seq) s = .next t ∧ completed s t 0x0D ∧ sameCores s t ∧ t.dev.sys = s.dev.sys ∧
        t.dev.code = s.dev.code) ∧
    (∀ o, s.target = some o →
      (underWay s 2 seq → ∃ t, exec (.unload seq) s = .next t ∧ completed s t 0 ∧ sameCores s t ∧
        ∀ x ∈ t.dev.code.objects, x.handle = o.handle → x.mapped = false) ∧
      (underWay s 4 seq → ∃ t, exec (.seal seq) s = .next t ∧ completed s t 0 ∧ sameCores s t ∧
        (∀ x ∈ t.dev.code.objects, x.handle = o.handle → x.sealed = true) ∧
        t.dev.trust.alog.length = s.dev.trust.alog.length + 1 + o.ownPages.length ∧
        (∀ p ∈ o.ownPages, t.dev.sys.guarded.get false (p.2.1 / 65536) = true)) ∧
      (∀ ps u v r, underWay s 3 seq → s.swapStatus o (s.hostRead (s.cmd 16 8) (s.cmd 24 8)) = 0 → o.versions = v :: r →
        s.loadPages o.asid ((o.sectionPages (s.cmd 32 1)).1 + 65536 * s.cmd 36 4)
          (o.newPages (s.hostRead (s.cmd 16 8) (s.cmd 24 8)) (s.cmd 32 1)
            ((o.sectionPages (s.cmd 32 1)).1 + 65536 * s.cmd 36 4)) = some (ps, u) →
        ∃ t, exec (.swapcode seq) s = .next t ∧ completed s t 0 ∧
          (∀ x ∈ t.dev.code.objects, x.handle = o.handle → x.current = v.num + 1 ∧
            (x.versions.head?.map (·.pages)) = some (mergePages v.pages ps)))) ∧
    (∀ b o u, underWay s 1 seq → s.cmd 16 2 = 1 → zeroAt (s.hostRead (s.cmd 8 8) 32) 24 8 = true →
      s.loadStatus (s.cmd 4 2) (s.hostRead (s.loadEntry 0).1 (s.loadEntry 0).2.1) = (0, b) →
      isPortable (s.hostRead (s.loadEntry 0).1 (s.loadEntry 0).2.1) = false →
      s.loadObject (s.cmd 4 2) b ((bankMaps [b]).headD []) none = some (o, u) →
      ∃ t, exec (.load seq) s = .next t ∧ completed s t 0 ∧ (isSealReq b = false → t.dev.code = u.dev.code) ∧
        (isSealReq b = true → ∀ x ∈ t.dev.code.objects, x.handle = o.handle → x.sealed = true) ∧
        (s.reachable (hostAddr 0) = true →
          t.dev.sys.homeBytes (hostAddr (s.loadEntry 0).2.2) 64 = loadResult (some o) 0 o.digest)) ∧
    (∀ b base a u raw, underWay s 5 seq → raw = s.hostRead (s.cmd 8 8) (s.cmd 16 8) → s.loadStatus (s.cmd 4 2) raw = (0, b) →
      isAdapter b = true → isPortable raw = false → s.byDigest (s.cmd 4 2) (BitVec.ofNat 256 (numAt b 32 32)) = some base →
      hooksFit base b = true → s.loadObject (s.cmd 4 2) b ((bankMaps [b]).headD []) none = some (a, u) →
      ∃ t, exec (.adapterInstall seq) s = .next t ∧ completed s t 0 ∧
        t.dev.trust.alog.length = s.dev.trust.alog.length + 2 + (entries b 10).length +
          (if isSealReq b then 1 + a.ownPages.length else 0) ∧
        (∀ v r, base.versions = v :: r → ∀ x ∈ t.dev.code.objects, x.handle = base.handle →
          (x.versions.head?.map (·.hooks)) = some (installHooks a b v.hooks)) ∧
        (s.reachable (hostAddr 0) = true → t.dev.sys.homeNum (hostAddr (s.cmd 24 8)) 8 = a.handle % 2 ^ 64)) ∧
    (underWay s 6 seq → s.cmd 8 1 = 4 → s.dev.sys.wbuf ≠ [] → exec (.translationInvalidation seq) s = .next s) ∧
    (underWay s 6 seq → s.cmd 8 1 = 4 → s.dev.sys.wbuf = [] → ∃ t, exec (.translationInvalidation seq) s = .next t ∧ completed s t 0 ∧
      (∀ n k, xtValid (((t.coreAt n).regs.xt.get 0 k).toNat) = false) ∧
      (∀ n, (t.coreAt n).vault = (s.coreAt n).vault ∧ (t.coreAt n).regs.g = (s.coreAt n).regs.g) ∧ t.dev.sys = s.dev.sys) ∧
    (∀ q u st n v w, underWay s 7 seq → s.spaceRead (s.cmd 4 2) (s.cmd 8 8) 64 = some (q, u) → u.compile (s.cmd 4 2) q = some (st, n, v) →
      v.spaceWrite (s.cmd 4 2) (s.cmd 8 8 + 56) (leBytes 8 (st + n * 2 ^ 32)) = some w →
      ∃ t, exec (.abetteCompile seq) s = .next t ∧ completed s t 0 ∧ t.dev.sys = w.dev.sys) ∧
    (underWay s 8 seq → s.cmd 60 4 = 0 → s.reachable (hostAddr 0) = true → s.cmd 48 8 + 512 ≤ 2 ^ 51 →
      ∃ t, exec (.attestationQuote seq) s = .next t ∧ completed s t 0 ∧ sameCores s t ∧
        t.dev.sys.homeBytes (hostAddr (s.cmd 48 8)) 384 = s.quoteBody ∧ t.dev.mgmt.certs = s.dev.mgmt.certs ++ [Config.certificate])

namespace Sys2Proof.Claims

/-- The matrix of the worked request (R368): the rows 3 0 -2 6, 0 5 0 5, 3 4 -2 6 and 0 0 0 0 in Q4, with its four row scales. -/
def workedMatrix : Matrix :=
  { rows := 4, cols := 4, q4 := true, row0 := 0, nrow := 4,
    weights := [[0x03, 0x6E], [0x50, 0x50], [0x43, 0x6E], [0x00, 0x00]].flatMap fun r => r ++ List.replicate 62 0,
    scales := fieldBytes [(2, 0x3F40), (2, 0x3E00), (2, 0x3FA0), (2, 0x3F80)] }

/-- The bundles wmat to rt of the worked program (R368), each its header and its words in slot order, as bytes and value. -/
def workedPanel : List (List (Nat × Nat)) :=
  [[(4, 0x000001E0), (4, 0x58000000), (4, 0x58200000), (8, 0x1C00002000000001), (8, 0x1C00000000000000)],
    [(4, 0x00000160), (4, 0x58400000), (4, 0x58600000), (8, 0x1C00010000000080)],
    [(4, 0x00000120), (4, 0x50000000), (8, 0x1C00020000000100)], [(4, 0x00000900), (8, 0x1C00030000000180), (4, 0x10000000)],
    [(4, 0x04000000)], [(4, 0x00000020), (4, 0x38000180)], [(4, 0x00000020), (4, 0x38017F00)],
    [(4, 0x00000060), (4, 0x38018300), (4, 0x50200000)], [(4, 0x00000020), (4, 0x40208000)],
    [(4, 0x00000020), (4, 0x40218000)], [(4, 0x00000060), (4, 0x10208280), (4, 0x08408200)],
    [(4, 0x00000060), (4, 0x28000000), (4, 0x28400000)], [(4, 0x00000020), (4, 0x60000000)], [(4, 0x0A000000)],
    [(4, 0x00000100), (8, 0x1000400000000000)], [(4, 0x00000100), (8, 0x1000404000000080)],
    [(4, 0x00000100), (8, 0x1000408000000100)], [(4, 0x00000120), (4, 0x60200000), (8, 0x100040C000000180)],
    [(4, 0x0A000000)], [(4, 0x00000100), (8, 0x1000400000000200)], [(4, 0x00000100), (8, 0x1000404000000280)],
    [(4, 0x00000100), (8, 0x1000408000000300)], [(4, 0x00000120), (4, 0x60400000), (8, 0x100040C000000380)],
    [(4, 0x0A000000)], [(4, 0x00000100), (8, 0x1000400000000400)], [(4, 0x00000100), (8, 0x1000404000000480)],
    [(4, 0x00000100), (8, 0x1000408000000500)], [(4, 0x00000120), (4, 0x60600000), (8, 0x100040C000000580)],
    [(4, 0x0A000000)], [(4, 0x00000100), (8, 0x1000400000000600)], [(4, 0x00000100), (8, 0x1000404000000680)],
    [(4, 0x00000100), (8, 0x1000408000000700)], [(4, 0x00000101), (4, 0x2001C002), (8, 0x100040C000000780)],
    [(4, 0x00000020), (4, 0x60600000)], [(4, 0x00000001), (4, 0x1C000000)]]

/-- A product of the literal form, and whether it is an MMALS (R322). -/
def productOf (i : Instr) : Option Bool :=
  match i with
  | .mmal _ _ _ _ => some false
  | .mmals _ _ _ _ => some true
  | _ => none

end Sys2Proof.Claims

/-- Abette's code of a panel (R321, R365 to R368). The worked request's panel 0 is the worked program's bundles wmat to rt, with row
scales in one literal word that is zero past the last row. Whatever the rows, at most 15 shared sums are taken out, each of two terms
or more, and none of them gains or loses a term: a row's terms are those it keeps and those of the sums it uses. Every word of a
panel is emitted, in order, one or two to a bundle; the second word of a bundle neither writes nor reads what the first one writes.
A panel's routine in the literal form emits the MMAL or MMALS of every step in order, whatever words stand around them, which are the
model's choice (log entry 11), reads every input of its steps at b0, writes every output of its rows at b1, and ends with RET (R320,
R322). -/
def Obligations.AbettePanels : Prop :=
  workedMatrix.slotCode 0 = fieldBytes workedPanel.flatten ∧
  workedMatrix.scaleWords (workedMatrix.panelRows 0) = workedMatrix.scales ++ List.replicate 56 0 ∧
  (∀ (n : Nat) (rows left : List (List Term)) (sums : List (List Term × List Nat)),
    (∀ r ∈ rows, r.Nodup) → shareSums n rows = (sums, left) →
    sums.length ≤ n ∧ left.length = rows.length ∧ (∀ x ∈ sums, 2 ≤ x.1.length) ∧
    ∀ k, k < rows.length →
      (left.getD k [] ++ (sums.filter (·.2.contains k)).flatMap (·.1)).Perm (rows.getD k [])) ∧
  (∀ ws : List WWord,
    (∃ slots : List (BitVec 1), (pairWords ws).flatten = List.zipWith (fun w k => w.word k) ws slots ∧ slots.length = ws.length) ∧
    (∀ b ∈ pairWords ws, 1 ≤ b.length ∧ b.length ≤ 2) ∧
    (∀ b ∈ pairWords ws, b.length = 2 → ∃ pre x y post, ws = pre ++ x :: y :: post ∧ b = [x.word 0, y.word 1] ∧
      ∀ d, x.dest = some d → y.dest ≠ some d ∧ d ∉ y.reads)) ∧
  (∀ (p : Nat) (rows : List Nat) (cols : Nat) (q4 : Bool) (steps : List Bool),
    (literalRoutine p rows cols q4 steps).flatten.filterMap productOf = steps ∧
    (literalRoutine p rows cols q4 steps).getLast? = some [.ret 0] ∧
    (∀ c, c < cols → c < 65536 → c < (steps.map fun x => if x then 128 else 64).sum →
      takenIn ((literalRoutine p rows cols q4 steps).flatten.flatMap literalReads) (128 * c) 128 = true) ∧
    ∀ n ∈ rows, n < 65536 → takenIn ((literalRoutine p rows cols q4 steps).flatten.flatMap (literalWrites q4)) (512 * n) 512 = true)

/-- REGISTER_WRITE, EVQ_CTL_WRITE and MSI_X_HOLDOFF_EXPIRY (R10, R296, R352, R353, R355, R356): MSEQ with a new value submits the
command in MCMD unless BUSY; an eighth of MCMD; QCTL keeps its bits that hold a value; read-only registers ignore writes. EN
set from 0 takes WIDX from RIDX, and is refused on an illegal ring. That a write at an offset that is no multiple of 8 is ignored is the
model's reading (log entry 63). A held signal is sent once its limit has passed. A read of the
window gives DEVID, STATE, the features and MSTAT (R312). -/
def Obligations.WindowSteps : Prop :=
  ∀ s : State,
    (∀ v : Word64, s.dev.mgmt.busy = true → exec (.registerWrite 0x240 v) s = .next s) ∧
    (∀ v : Word64, s.dev.mgmt.busy = false → v ≠ s.dev.mgmt.mseq → s.dev.trust.running = true →
      exec (.registerWrite 0x240 v) s = .next { s with dev := { s.dev with mgmt :=
        { s.dev.mgmt with mseq := v, taken := s.dev.mgmt.mcmd, busy := true } } }) ∧
    (∀ (k : Nat) (v : Word64), k < 8 → ∃ t, exec (.registerWrite (0x200 + 8 * k) v) s = .next t ∧
      (∀ j, j < 8 → t.dev.mgmt.mcmd.toNat / 2 ^ (64 * j) % 2 ^ 64 =
        if j = k then v.toNat else s.dev.mgmt.mcmd.toNat / 2 ^ (64 * j) % 2 ^ 64) ∧
      t.dev.mgmt.busy = s.dev.mgmt.busy ∧ t.dev.mgmt.taken = s.dev.mgmt.taken ∧ sameCores s t) ∧
    (∀ (q : Nat) (v : Word64), q < 256 → ∃ t, exec (.registerWrite (0x1000 + 8 * q) v) s = .next t ∧
      t.dev.sched.qctl.get qctlReset q = v &&& 0xE7 ∧
      (∀ k, k ≠ q → t.dev.sched.qctl.get qctlReset k = s.dev.sched.qctl.get qctlReset k) ∧ sameCores s t) ∧
    (∀ (off : Nat) (v : Word64), off % 8 ≠ 0 ∨ off < 0x200 ∨ 0x1800 ≤ off → exec (.registerWrite off v) s = .next s) ∧
    (∀ (n : Nat) (v : Byte), n < 9 → v.getLsbD 0 = true → (s.evq n).en = false →
      (((s.evq n).base.toNat % 64 = 0 ∧ 4 ≤ (s.evq n).log2n.toNat ∧ (s.evq n).log2n.toNat ≤ 20) →
        ∃ t, exec (.evqCtlWrite n v) s = .next t ∧ t.evq n = { s.evq n with en := true, widx := (s.evq n).ridx } ∧
          (∀ k, k ≠ n → t.evq k = s.evq k) ∧ sameCores s t) ∧
      (¬ ((s.evq n).base.toNat % 64 = 0 ∧ 4 ≤ (s.evq n).log2n.toNat ∧ (s.evq n).log2n.toNat ≤ 20) →
        exec (.evqCtlWrite n v) s = .next s)) ∧
    (∀ n, s.dev.mgmt.holdoff.get false n = true → s.dev.mgmt.owed.get false n = true → s.reachable (hostAddr 0) = true →
      ∃ t, exec (.msiXHoldoffExpiry n) s = .next t ∧ t.dev.mgmt.msix = s.dev.mgmt.msix ++ [1 + n] ∧
        t.dev.mgmt.owed.get false n = false ∧ t.dev.mgmt.holdoff.get false n = true ∧ sameCores s t) ∧
    (∀ n, s.dev.mgmt.holdoff.get false n = true → s.dev.mgmt.owed.get false n = false →
      ∃ t, exec (.msiXHoldoffExpiry n) s = .next t ∧ t.dev.mgmt.msix = s.dev.mgmt.msix ∧
        t.dev.mgmt.holdoff.get false n = false ∧ sameCores s t) ∧
    (∀ off n, ∃ t, ({ s with agenda := .bar0Read off n :: s.agenda }).happens = .next t ∧ t.agenda = s.agenda ∧
      t.dev.mgmt.reads = s.dev.mgmt.reads ++ [(List.range n).map fun i => s.windowByte (off + i)] ∧ t.dev.sys = s.dev.sys ∧
      sameCores s t) ∧
    leNat ((List.range 8).map s.windowByte) = 0x0C29 + Config.stepping.toNat * 2 ^ 16 ∧
    leNat ((List.range 8).map fun i => s.windowByte (8 + i)) =
      bit s.dev.trust.running + 2 * bit s.dev.trust.cellar + 0xF0 ∧
    leNat ((List.range 8).map fun i => s.windowByte (0x248 + i)) = bit s.dev.mgmt.busy + s.dev.mgmt.doneCode.toNat * 2 ^ 8 +
      s.dev.mgmt.doneSeq.toNat * 2 ^ 16 ∧
    (∀ k, k < 8 → (List.range 32).map (fun i => s.windowByte (0x40 + 32 * k + i)) =
      match features[k]? with
      | some f => nameBytes f.1 ++ leBytes 4 f.2 ++ leBytes 4 0
      | none => List.replicate 32 0)

/-! ### Host and links -/

namespace Sys2Proof.Claims

/-- The host link is up (R349). -/
def hostUp (s : State) : Prop := s.reachable (hostAddr 0) = true

/-- HOST_BAR2_WRITE, HOST_BAR2_READ, HOST_ARCHIVE_WRITE and HOST_SNOOP (R268, R347, R348, R392), with no host write waiting: a write to
HBM within one frame that is not guarded, names no tile and lies outside the provenance log is performed at its home; one to a guarded
frame is dropped and logged; a read is served by the home, and beyond HBM gives ones; the archive line takes the count; a snoop takes a held
line away, with what the host writes. -/
def hostAccesses : Prop :=
  ∀ s : State,
    (∀ a (bs : List Byte), bs ≠ [] → a < hbmEnd → a % 65536 + bs.length ≤ 65536 → s.inProvenance a = false →
      s.inProvenance (a + bs.length - 1) = false →
      (s.dev.sys.guarded.get false (a / 65536) = false → s.marksAt a bs.length = [] → s.dev.sys.lag.get false 4 = false →
        s.dev.sys.hostq = [] →
        ∃ t, exec (.hostBar2Write a bs) s = .next t ∧ (∀ i (h : i < bs.length), t.dev.sys.mem.read (a + i) = bs[i]) ∧
          sameOutside s t a bs.length ∧ t.dev.sys.wbuf = s.dev.sys.wbuf ∧ sameCores s t) ∧
      (s.dev.sys.guarded.get false (a / 65536) = true → (s.evq 0).en = false →
        ∃ t, exec (.hostBar2Write a bs) s = .next t ∧ t.dev.sys = s.dev.sys ∧ recorded s t 0 ∧ sameCores s t)) ∧
    (∀ a (bs : List Byte), hbmEnd ≤ a → exec (.hostBar2Write a bs) s = .next s) ∧
    (∀ a n, s.dev.sys.hostq = [] → ∃ t bs, exec (.hostBar2Read a n) s = .next t ∧ t.dev.mgmt.reads = s.dev.mgmt.reads ++ [bs] ∧ bs.length = n ∧
      (∀ i, i < n → bs.getD i 0 = if a + i < hbmEnd then s.dev.sys.mem.read (a + i) else 0xFF) ∧ t.dev.sys = s.dev.sys ∧
      sameCores s t) ∧
    (∀ q : Word64, s.dev.trust.running = true → s.dev.trust.provBase < hbmEnd →
      s.dev.sys.guarded.get false (s.dev.trust.provBase / 65536) = false → s.marksAt s.dev.trust.provBase 8 = [] →
      s.dev.sys.hostq = [] →
      ∃ t, exec (.hostArchiveWrite q) s = .next t ∧ t.dev.trust.archived = q.toNat + 1 ∧
        t.dev.sys.mem.num s.dev.trust.provBase 8 = q.toNat ∧ sameOutside s t s.dev.trust.provBase 8 ∧ sameCores s t) ∧
    (∀ d line (bs : List Byte), isHost (64 * line) = true → bs.length = 64 →
      (∃ t, exec (.hostSnoop d line []) s = .next t ∧ t.dev.sys.hostLines.get false (lineKey d (64 * line)) = false ∧
        t.dev.sys.mem = s.dev.sys.mem ∧ sameCores s t) ∧
      (∃ t, exec (.hostSnoop d line bs) s = .next t ∧ (∀ i (h : i < bs.length), t.dev.sys.mem.read (64 * line + i) = bs[i]) ∧
        t.dev.sys.hostLines.get false (lineKey 0 (64 * line)) = false ∧
        t.dev.sys.hostLines.get false (lineKey 1 (64 * line)) = false ∧ sameOutside s t (64 * line) 64 ∧ sameCores s t))

/-- HOST_READ_ERROR, HOST_READ_TIMEOUT, LINK_DOWN and LINK_UP (R349, R357, R384): the read of a word behind a link that is not
answered is marked, so that its data is delivered zeroed and poisoned, and the event is logged (log entry 97); the failed read of a line by
firmware is that of its next read there (DESIGN CHOICE, log entry 131); a link that goes down, or comes up, is logged. -/
def linkSteps : Prop :=
  ∀ s : State, (s.evq 0).en = false →
    (∀ n ix e i, n < 512 → (s.coreAt n).port[ix]? = some e → i ∈ [Instr.hostReadError n ix, Instr.hostReadTimeout n ix] →
      (e.finished = none → e.failed = false → (s.turnTo n).readsWhere e behindLink = true →
        ∃ t, exec i s = .next t ∧
          (t.coreAt n).port = (s.coreAt n).port.map (fun y => if y.same e then { e with failed := true } else y) ∧
          (t.coreAt n).regs = (s.coreAt n).regs ∧ (t.coreAt n).vault = (s.coreAt n).vault ∧
          (∀ k, k ≠ n → t.coreAt k = s.coreAt k) ∧ t.dev.sys = s.dev.sys ∧ recorded s t 0) ∧
      ((s.turnTo n).readsWhere e behindLink = false →
        ∃ t, exec i s = .next t ∧ sameCores s t ∧ t.dev = s.dev)) ∧
    (∀ n line i, 512 ≤ n → i ∈ [Instr.hostReadError n line, Instr.hostReadTimeout n line] →
      (behindLink (64 * line) = false → exec i s = .next s) ∧
      (behindLink (64 * line) = true → ∃ t, exec i s = .next t ∧ t.dev.sys = { s.dev.sys with failing := some line } ∧
        t.dev.mgmt = s.dev.mgmt ∧ sameCores s t)) ∧
    (∀ kind unit, kind < 4 → unit < 2 ^ 16 → (s.evq 7).en = false →
      (s.dev.fabric.down.get false (kind * 2 ^ 16 + unit) = false →
        ∃ t, exec (.linkDown kind unit) s = .next t ∧ t.dev.fabric.down.get false (kind * 2 ^ 16 + unit) = true ∧
          recorded s t 7 ∧ t.dev.sys = s.dev.sys ∧
          (∀ k, (t.coreAt k).regs = (s.coreAt k).regs ∧ (t.coreAt k).vault = (s.coreAt k).vault)) ∧
      (s.dev.fabric.down.get false (kind * 2 ^ 16 + unit) = true →
        exec (.linkDown kind unit) s = .next s ∧
        ∃ t, exec (.linkUp kind unit) s = .next t ∧ t.dev.fabric.down.get false (kind * 2 ^ 16 + unit) = false ∧
          recorded s t 7 ∧ t.dev.sys = s.dev.sys ∧ sameCores s t))

end Sys2Proof.Claims

/-- Accesses by the host and what becomes of its link (R347 to R349, R357, R384, R392). -/
def Obligations.HostSteps : Prop :=
  hostAccesses ∧ linkSteps

/-! ### The fabric -/

namespace Sys2Proof.Claims

/-- A packet of version 1 arrives in its turn on an open connection with nothing unacknowledged, nothing early and nothing waiting for
room, and asks for no retransmission. -/
def inTurn (s : State) (p : Packet) (c : Conn) : Prop :=
  s.dev.fabric.conns = [c] ∧ c.id = p.conn ∧ c.up = true ∧ c.unacked = [] ∧ c.early = [] ∧ p.seq = c.rxNext ∧
    p.flg.getLsbD 1 = false ∧ p.flg.getLsbD 2 = false ∧ p.len = p.payload.length ∧ p.len ≤ 8192 ∧ s.dev.sys.wbuf = [] ∧
    p.ver = 1 ∧ s.dev.fabric.outbox = []

/-- The connection has taken the packet, whose acknowledgement is the last packet sent (R359); it carries ECE where the packet was
marked CE (R358). -/
def acknowledged (s t : State) (c : Conn) (ce : Bool) (more : Nat) : Prop :=
  (∃ k q, t.dev.fabric.conns = [k] ∧ k.rxNext = c.rxNext + 1 ∧ k.id = c.id ∧
    t.dev.fabric.wire.getLast? = some q ∧ q.type = 5 ∧ q.ackSeq = c.rxNext + 1 ∧ q.flg = if ce then 4 else 0) ∧
  t.dev.fabric.wire.length = s.dev.fabric.wire.length + more + 1

end Sys2Proof.Claims

/-- MSG, WRITE, READ, RDRESP and ACK (R359 to R361): a packet has its effect once and is acknowledged: firmware has the message's
bytes; a write is performed at its home; a read is answered with the bytes there; a response's bytes wait for the word that
asked. A withdrawn frame is read with ERR and written without effect, and a guarded one's write is dropped and logged (R318, R382). An
acknowledgement of all that was sent leaves nothing unacknowledged, and an ACK packet is not acknowledged. That every packet but an ACK
is acknowledged, a WRITE without effect too, and that the ACK carries ECE for a packet marked CE, are the model's readings (log entries
68 and 98). -/
def Obligations.PacketSteps : Prop :=
  ∀ (s : State) (p : Packet) (c : Conn), inTurn s p c →
    (p.len ≠ 0 → ∃ t, exec (.msg p) s = .next t ∧ t.dev.fabric.msgs = s.dev.fabric.msgs ++ [(c.id, p.payload)] ∧
      acknowledged s t c p.ce 0 ∧ t.dev.sys = s.dev.sys ∧ sameCores s t) ∧
    (p.addr % 64 = 0 → p.len % 64 = 0 → 64 ≤ p.len → p.addr + p.len ≤ hbmEnd →
      ((p.addr % 65536 + p.len ≤ 65536 ∨ s.dev.sys.asids = []) → s.marksAt p.addr p.len = [] →
        s.dev.sys.gone p.addr p.len = false →
        (∀ i, i < p.len → s.dev.sys.guarded.get false ((p.addr + i) / 65536) = false ∧ s.inProvenance (p.addr + i) = false) →
        ∃ t, exec (.write p) s = .next t ∧ (∀ i (h : i < p.payload.length), t.dev.sys.mem.read (p.addr + i) = p.payload[i]) ∧
          sameOutside s t p.addr p.len ∧ acknowledged s t c p.ce 0 ∧ sameCores s t) ∧
      (s.dev.sys.gone p.addr p.len = true →
        ∃ t, exec (.write p) s = .next t ∧ t.dev.sys = s.dev.sys ∧ acknowledged s t c p.ce 0 ∧ sameCores s t) ∧
      (p.addr % 65536 + p.len ≤ 65536 → s.dev.sys.gone p.addr p.len = false →
        s.dev.sys.guarded.get false (p.addr / 65536) = true → (s.evq 0).en = false →
        ∃ t, exec (.write p) s = .next t ∧ t.dev.sys = s.dev.sys ∧ recorded s t 0 ∧ acknowledged s t c p.ce 0 ∧
          sameCores s t)) ∧
    (p.tag ∈ c.readsOut.map (·.1) → ∃ t core key a, exec (.rdresp p) s = .next t ∧ (p.tag, core, key, a) ∈ c.readsOut ∧
      t.dev.fabric.arrived = s.dev.fabric.arrived ++ [⟨core, key, a, p.payload, p.flg.getLsbD 3⟩] ∧
      acknowledged s t c p.ce 0 ∧ t.dev.sys = s.dev.sys ∧ sameCores s t) ∧
    (p.payload = [] → ∃ t, exec (.ack p) s = .next t ∧ t.dev.fabric.conns = [c] ∧ t.dev.fabric.wire = s.dev.fabric.wire ∧
      t.dev.sys = s.dev.sys ∧ sameCores s t) ∧
    (∀ n, p.payload = [] → p.addr % 64 = 0 → n % 64 = 0 → 64 ≤ n → n ≤ 8192 → p.addr + n ≤ hbmEnd → 1 ≤ c.window →
      (s.dev.sys.badFrames = [] → (∀ e ∈ s.entriesAt p.addr n, e.poisoned = false) → s.dev.sys.gone p.addr n = false →
      ∃ t q, exec (.read { p with len := n }) s = .next t ∧ t.dev.fabric.wire[s.dev.fabric.wire.length]? = some q ∧ q.type = 4 ∧
        q.tag = p.tag ∧ q.seq = c.txSeq ∧ q.payload = s.dev.sys.homeBytes p.addr n ∧ q.flg = 1 ∧
        acknowledged s t c p.ce 1 ∧ t.dev.sys = s.dev.sys ∧ sameCores s t) ∧
      (s.dev.sys.gone p.addr n = true →
      ∃ t q, exec (.read { p with len := n }) s = .next t ∧ t.dev.fabric.wire[s.dev.fabric.wire.length]? = some q ∧ q.type = 4 ∧
        q.tag = p.tag ∧ q.payload = [] ∧ q.flg.getLsbD 3 = true ∧ acknowledged s t c p.ce 1 ∧ t.dev.sys = s.dev.sys ∧
        sameCores s t)) ∧
    (∀ x : OutPacket, x.seq = p.ackSeq - 1 → p.payload = [] →
      ∃ t, exec (.ack p) { s with dev := { s.dev with fabric := { s.dev.fabric with conns := [{ c with unacked := [x] }] } } } =
        .next t ∧ t.dev.fabric.conns = [c])

/-- COLL_PACKET, COLLECTIVE_TIMEOUT, RETRANSMIT_TIMEOUT, CONNECTION_OPEN, PER_HOP_REPLAY, LLDP_ANNOUNCEMENT and FLIT_CRC_REPLAY
(R359, R361, R362, R364, R374, R384): a contribution opens the use of its tag; a use past its limit ends; the oldest unacknowledged
packet is sent again, and after eight sends the connection fails; a connection opens with a package of a shared group; a replayed
frame is counted where the partner announces per-hop retry, and a replayed flit for its lane and its link (log entry 46). The
acknowledgement of the contribution is the model's reading (log entries 68 and 98). -/
def Obligations.FabricSteps : Prop :=
  ∀ s : State,
    (∀ (p : Packet) c, inTurn s p c → 16 ≤ p.len → s.dev.fabric.colls = [] → s.dev.fabric.late = [] → s.dev.sched.tasks = [] →
      p.payload.getD 7 0 = 0 → (p.payload.drop 2).take 2 = p.payload.take 2 → 2 ≤ leNat ((p.payload.drop 4).take 2) →
      ∃ t u, exec (.collPacket p) s = .next t ∧ t.dev.fabric.colls = [u] ∧ u.tag = p.tag ∧ u.contribs = [] ∧
        u.sig.op = (p.payload.getD 6 0).toNat ∧ u.parts.map (·.bytes) = [p.payload.drop 16] ∧ acknowledged s t c p.ce 0 ∧
        sameCores s t) ∧
    (∀ tag u, s.dev.fabric.colls = [u] → isSystem u.domain = true → u.tag = tag →
      ∃ t, exec (.collectiveTimeout tag) s = .next t ∧ t.dev.fabric.colls = [] ∧
        (∀ k, (t.coreAt k).regs = (s.coreAt k).regs ∧ (t.coreAt k).vault = (s.coreAt k).vault) ∧ t.dev.sys = s.dev.sys) ∧
    (∀ id c x, s.dev.fabric.conns = [c] → c.id = id → c.up = true → c.unacked = [x] →
      (x.sends < 8 → ∃ t, exec (.retransmitTimeout id) s = .next t ∧
        t.dev.fabric.wire = s.dev.fabric.wire ++ [{ x with sends := x.sends + 1 }] ∧ t.dev.sys = s.dev.sys ∧ sameCores s t) ∧
      (8 ≤ x.sends → c.readsOut = [] → s.dev.sys.asids = [] → s.dev.sys.wbuf = [] → s.dev.fabric.colls = [] → (s.evq 7).en = false →
        ∃ t, exec (.retransmitTimeout id) s = .next t ∧ t.dev.fabric.conn id = none ∧ recorded s t 7 ∧ t.dev.sys = s.dev.sys ∧
          sameCores s t)) ∧
    (∀ id peer, s.dev.trust.running = true → peer < 512 → (∃ g ∈ s.dev.fabric.groups, peer ∈ g.2) → s.dev.fabric.conns = [] →
      s.dev.fabric.outbox = [] → (s.evq 7).en = false →
      ∃ t c, exec (.connectionOpen id peer) s = .next t ∧ t.dev.fabric.conns = [c] ∧ c.id = id ∧ c.peer = peer ∧ c.up = true ∧
        c.txSeq = 0 ∧ c.rxNext = 0 ∧ recorded s t 7 ∧ sameCores s t) ∧
    (∀ port, port < 24 →
      (s.dev.fabric.announced.get false port = true → ∃ t, exec (.perHopReplay port) s = .next t ∧
        t.linkCount 1 port = s.linkCount 1 port + 1 ∧ sameCores s t ∧ t.dev.fabric = s.dev.fabric) ∧
      (s.dev.fabric.announced.get false port = false → exec (.perHopReplay port) s = .next s) ∧
      (∃ t, exec (.lldpAnnouncement port true) s = .next t ∧ t.dev.fabric.announced.get false port = true ∧
        t.dev.mgmt = s.dev.mgmt ∧ sameCores s t) ∧
      ((s.evq 7).en = false → ∃ t, exec (.lldpAnnouncement port false) s = .next t ∧
        t.dev.fabric.announced.get false port = false ∧ recorded s t 7 ∧ sameCores s t)) ∧
    (∀ lane, lane < serdesBase → ∃ t, exec (.flitCrcReplay lane) s = .next t ∧ t.corrections 4 lane = s.corrections 4 lane + 1 ∧
      t.linkCount 0 (lane / 16) = s.linkCount 0 (lane / 16) + 1 ∧ sameCores s t ∧ t.dev.fabric = s.dev.fabric) ∧
    (∀ kind unit, kind = 2 ∨ kind = 3 → unit < 2 ^ 16 → ∃ t, exec (.flitCrcReplay (kind * 2 ^ 16 + unit)) s = .next t ∧
      t.linkCount kind unit = s.linkCount kind unit + 1 ∧ sameCores s t ∧ t.dev.fabric = s.dev.fabric)

/-! ### Health, resets and boot -/

/-- POWER_WINDOW (R2): the window of 1 ms is over. A mean above 2,400 W lowers the clock by 50 MHz, never below 1.5 GHz; a mean
below 2,300 W raises it by 50 MHz, never above 1.9 GHz; and each change appends a record to the power event source, while no
change appends none. -/
def Obligations.PowerWindows : Prop :=
  ∀ (s : State) (mean : Nat) (temp : Int), 1500 ≤ s.dev.health.clock → s.dev.health.clock ≤ 1900 →
    s.dev.health.clock % 50 = 0 →
    ∃ t, exec (.powerWindow mean temp) s = .next t ∧ t.dev.health.micros = s.dev.health.micros / 1000 * 1000 + 1000 ∧
      t.dev.health.mean = mean ∧
      t.dev.health.clock = (if 2400 < mean then max 1500 (s.dev.health.clock - 50)
        else if mean < 2300 then min 1900 (s.dev.health.clock + 50) else s.dev.health.clock) ∧
      1500 ≤ t.dev.health.clock ∧ t.dev.health.clock ≤ 1900 ∧ t.dev.health.clock % 50 = 0 ∧
      (t.dev.health.clock ≠ s.dev.health.clock → recorded s t 8) ∧
      (t.dev.health.clock = s.dev.health.clock → t.dev.mgmt = s.dev.mgmt) ∧ sameCores s t

/-- THERMAL_SUPPLY_EVENT, CHECKER_DETECTION, SPARE_SUBSTITUTION and RESOURCE_RETIREMENT (R374, R378, R381, R382,
R384): a crossing is recorded once; a core that the checker or parity stops
is failed; a spare core lets it run tasks again and its counts begin afresh; a worn resource without a spare is
retired. -/
def Obligations.HealthSteps : Prop :=
  ∀ s : State, (s.evq 6).en = false → (s.evq 8).en = false → (s.evq 7).en = false →
    (∀ temp : Int, 840 < temp → s.dev.health.tempHigh = false →
      ∃ t, exec (.thermalSupplyEvent 3 temp) s = .next t ∧ t.dev.health.tempHigh = true ∧ recorded s t 8 ∧ sameCores s t) ∧
    (∀ temp : Int, s.dev.health.tempHigh = true → exec (.thermalSupplyEvent 3 temp) s = .next s) ∧
    (∀ n, n < 512 → (s.coreAt n).ctl.run = .idle → s.dev.sched.tasks = [] →
      (∀ parity, ∃ t, s.detected n parity = .next t ∧ (parity = false → exec (.checkerDetection n) s = .next t) ∧ t.coreAt n = { s.coreAt n with failed := true } ∧
        (∀ k, k ≠ n → t.coreAt k = s.coreAt k) ∧ recorded s t 6) ∧
      (s.worn 0 n = true → s.hasSpare 0 n = true → s.dev.health.retired.get false (unitKey 0 n) = false →
        ∃ t, exec (.spareSubstitution 0 n) s = .next t ∧ t.coreAt n = { s.coreAt n with failed := false } ∧
          (∀ k, k ≠ n → t.coreAt k = s.coreAt k) ∧ t.worn 0 n = false ∧ recorded s t 6 ∧
          t.dev.health.sparesUsed.get 0 (unitKey 0 (n / 16)) = s.dev.health.sparesUsed.get 0 (unitKey 0 (n / 16)) + 1) ∧
      (s.worn 0 n = true → s.hasSpare 0 n = false → s.dev.health.retired.get false (unitKey 0 n) = false →
        ∃ t, exec (.resourceRetirement 0 n) s = .next t ∧ t.dev.health.retired.get false (unitKey 0 n) = true ∧
          recorded s t 6 ∧ sameCores s t))

/-- CONVENTIONAL_RESET, FUNCTION_LEVEL_RESET and the boot ROM's steps (R351, R385 to R387, R392). After a conventional reset nothing
runs and the minimum version stays; that memory of the package is clear then, and that retired and withdrawn resources stay so, is the
model's reading (log entry 74). After a function level reset no connection is open, no group
waits in a queue and no code object is mapped. The ROM brings up the lowest-numbered port that has a link, whose loss fails its step; by
it it takes an address from an advertisement or a DHCPv6 reply, then a URL from the host or the reply, then the image, which it checks,
measures and loads; firmware then measures its configuration. A step that fails waits for its retry. -/
def Obligations.BootSteps : Prop :=
  ∀ s : State,
    (∀ cellar, ∃ t, exec (.conventionalReset cellar) s = .next t ∧ (∀ n, t.coreAt n = Core.blank) ∧
      (∀ a, a < 0x4000000000000 → t.dev.sys.mem.read a = 0) ∧ t.dev.trust.cellar = cellar ∧ t.dev.trust.running = false ∧
      t.dev.trust.minVersion = s.dev.trust.minVersion ∧ t.dev.sched = Sched.reset ∧ t.dev.mgmt = Mgmt.reset ∧
      t.dev.health.retired = s.dev.health.retired ∧ t.dev.sys.withdrawn = s.dev.sys.withdrawn) ∧
    (∃ t, exec .functionLevelReset s = .next t ∧ t.dev.fabric.conns = [] ∧ t.dev.fabric.outbox = [] ∧ t.dev.sched.queued = [] ∧
      (s.dev.fabric.conns = [] → ∀ o ∈ t.dev.code.objects, o.mapped = false)) ∧
    (s.dev.trust.inStep 1 = true →
      (s.dev.trust.bootPort = none → ∀ n, n < 12 → s.dev.fabric.down.get false (2 ^ 16 + n) = false →
        (∀ k < n, s.dev.fabric.down.get false (2 ^ 16 + k) = true) →
        ∀ addr, ∃ t, exec (.routerAdvertisement addr) s = .next t ∧ t.dev.trust.bootPort = some n ∧ t.dev.trust.bootAddr = some addr) ∧
      (∀ addr, s.bringUp.portUp = true → s.dev.trust.bootUrl = none → ∃ t, exec (.routerAdvertisement addr) s = .next t ∧
        t.dev.trust.bootAddr = some addr ∧ t.dev.sys = s.dev.sys ∧ sameCores s t ∧
        (s.dev.trust.urlWindow = true → t.dev.trust.bootStep = 2)) ∧
      (∃ t, exec .routerAdvertTimeout s = .next t ∧ sameCores s t ∧
        (s.bringUp.portUp = true → t.dev.trust.bootStep = 11) ∧ (s.bringUp.portUp = false → t.dev.trust.bootFailed = true))) ∧
    (∀ n, n < 12 → s.dev.trust.running = false → s.dev.trust.bootPort = some n → s.dev.fabric.down.get false (2 ^ 16 + n) = false →
      ∃ t, exec (.linkDown 1 n) s = .next t ∧ t.dev.trust.bootFailed = true) ∧
    (s.portUp = false → (∀ addr url, exec (.dhcpv6Reply addr url) s = .next s) ∧
      ∀ image cfg, exec (.imageFetchComplete image cfg) s = .next s) ∧
    (s.dev.trust.inStep 11 = true → s.portUp = true → ∀ addr url, s.dev.trust.urlWindow = false → s.dev.trust.bootUrl = none →
      ∃ t, exec (.dhcpv6Reply addr (some url)) s = .next t ∧ t.dev.trust.bootAddr = some addr ∧ t.dev.trust.dhcpUrl = some url ∧
        t.dev.trust.bootStep = 3 ∧ sameCores s t) ∧
    (s.dev.trust.inStep 2 = true →
      (∀ url, s.dev.trust.urlWindow = true → urlOk url = true → ∃ t, exec (.bootUrlWrite url) s = .next t ∧
        t.dev.mgmt.mcmd = BitVec.ofNat 512 (leNat url) ∧ t.dev.mgmt.busy = s.dev.mgmt.busy ∧
        t.dev.trust.bootUrl = some url ∧ t.dev.trust.bootStep = 3 ∧ sameCores s t) ∧
      (s.dev.trust.bootUrl = none → ∃ t, exec .bootUrlWindowExpiry s = .next t ∧ sameCores s t ∧
        (s.dev.trust.dhcpUrl = none → t.dev.trust.bootFailed = true) ∧
        (∀ u, s.dev.trust.dhcpUrl = some u → t.dev.trust.bootStep = 3))) ∧
    (s.dev.trust.bootFailed = true → ∃ t, exec .bootRetryTimeout s = .next t ∧ t.dev.trust.bootStep = 1 ∧
      t.dev.trust.bootFailed = false ∧ t.dev.trust.bootAddr = none ∧ sameCores s t) ∧
    (s.dev.trust.inStep 3 = true → s.portUp = true → ∀ image (cfg : FirmwareConfig),
      (imageOk s.dev.trust.minVersion image = false → ∃ t, exec (.imageFetchComplete image cfg) s = .next t ∧
        t.dev.trust.bootFailed = true ∧ t.dev.trust.running = false ∧ sameCores s t) ∧
      (imageOk s.dev.trust.minVersion image = true → cfg.programs = [] → ∃ t, exec (.imageFetchComplete image cfg) s = .next t ∧
        t.dev.trust.running = true ∧ sameCores s t ∧ t.dev.sys.mem = s.dev.sys.mem ∧
        (∀ k, k < 2 → t.dev.trust.mr.get 0 k = (s.dev.trust.measure image).mr.get 0 k) ∧
        t.dev.trust.mr.get 0 2 = digest256 (leBytes 32 (s.dev.trust.mr.get 0 2).toNat ++
          leBytes 32 (digest256 t.configBytes).toNat) ∧
        t.dev.trust.stages = (List.range (numAt image 8 4)).map fun i => ((imageStage image i).2.2, stageBytes image i))) ∧
    (∀ v req, s.dev.trust.running = true → Config.svnRequestSigned v req = true →
      ∃ t, exec (.minimumVersionRaise v req) s = .next t ∧ sameCores s t ∧
        t.dev.trust.minVersion.toNat = max s.dev.trust.minVersion.toNat v.toNat) ∧
    (s.dev.trust.running = true → s.dev.trust.unsigned ≠ 0 → s.reachable s.dev.trust.ckptBase = true →
      ∃ t, exec .provenanceCheckpoint s = .next t ∧ t.dev.trust.unsigned = 0 ∧
        t.dev.sys.homeNum s.dev.trust.ckptBase 8 = (s.dev.trust.pcnt - 1) % 2 ^ 64 ∧
        t.dev.sys.homeNum (s.dev.trust.ckptBase + 8) 32 = s.dev.trust.phead.toNat ∧ sameCores s t)

/-! ### Encoding -/

/-- Words of the spec's tables and worked examples (R15, R31), one or more of a family: each is read as the instruction it
stands for, and reserved ones are refused. -/
def Obligations.DecodeSampleWords : Prop :=
  decodeIdle 0x8B000000 = .idle 2 11 ∧ decodeIdle 0 = .idle 0 0 ∧
  decodeSlot 1 0x0C004000 = .ok (.move 0 0x60 4 0) ∧ decodeSlot 1 0x40100140 = .ok (.add 0 0 0 5 0) ∧
  decodeSlot 1 0x00C62000 = .ok (.move 0 6 0x62 0) ∧ decodeSlot 1 0x8C000040 = .ok (.moveImmediate 0 0x60 1 0) ∧
  decodeSlot 0 0x2C000004 = .ok (.setstrImm 0 4) ∧ decodeSlot 0 0x30000000 = .ok .endTask ∧
  decodeSlot 0 0x24803008 = .ok (.loopmImm 4 3 8) ∧ decodeSlot 7 0x0412300000000000 = .ok (.mma 0 1 2 3 0) ∧
  decodeSlot 7 0x1501000000400010 = .ok (.mflush 1 1 0 0 0 4 0 16 0) ∧
  decodeSlot 8 0x04502C0000030000 = .ok (.ld 0 0x28 0 2 1 16 0x30000) ∧
  decodeSlot 8 0x0856654000030074 = .ok (.st 0 0x2B 1 2 21 0x30074) ∧
  decodeSlot 10 0x5001000000000000 = .ok (.dgstAbsorb 0 4 0) ∧
  decodeSlot 10 0x5001408C00000040 = .ok (.dgstEmit 0 2 3 0x40) ∧
  decodeSlot 0 0xF8000000 = .error .unassigned ∧ decodeSlot 1 0x0C004001 = .error .field

/-- Decoding undoes encoding: every well-formed instruction of a slot, with every operand at every value the encoding admits, is
read back from its word (R28, R38, R39, R47). -/
def Obligations.DecodeEncodeAgree : Prop :=
  ∀ i n, slotOf i = some n → i.wf = true → decodeSlot n (encodeNat i) = .ok i

/-- Encoding undoes decoding: what a slot's word is read as is well-formed, belongs to that slot and has that word, so that no two
words are one instruction and no reserved bit is dropped (R38, R47). -/
def Obligations.DecodedWordsAgree : Prop :=
  ∀ n w i, decodeSlot n w = .ok i → slotOf i = some n ∧ i.wf = true ∧ encodeNat i = w ∧ w < 2 ^ slotWidth n

/-! ### The step -/

namespace Sys2Proof.Claims

/-- The current core's bundle has its turn: nothing is scheduled, nothing is due, the core may issue, its code is there, no level is
active, no request lands and no cause waits. -/
def mayTry (s : State) : Prop :=
  s.agenda = [] ∧ s.dueStep = none ∧ s.mayIssue = true ∧ s.cur < 512 ∧ s.core.seq.levels = [] ∧ s.starved = false ∧
    s.landsHere = false ∧ s.core.boundary = [] ∧ s.core.overran = false

/-- The machine after its stall has ended (R87). -/
def awake (s : State) : State := s.mod fun c => { c with stall := none }

/-- The bundle holds one word: an idle bundle's header, or the new word of one slot. -/
def holdsOne (b : RawBundle) (x : BWord) : Prop :=
  (b.header % 2 ^ 24 = 0 ∧ fieldOf b.header 31 30 = 0 ∧ x = ⟨12, b.header, decodeIdle b.header⟩) ∨
  (∃ n w i, n < 12 ∧ b.header = 2 ^ n ∧ b.inc = 0 ∧ b.words = [(n, w, 1)] ∧ decodeSlot n w = .ok i ∧ x = ⟨n, w, i⟩)

end Sys2Proof.Claims

/-- A STEP RUNS THE DECODED INSTRUCTION (R28, R49, R80, R81, R87). The bundle at PC holds one word, which is read as an instruction:
the step is `exec` of it on the core as the bundle opens. Where it has its effect the bundle commits; where it stalls the core
keeps its state for this cycle; where it traps at issue the core freezes with that trap and nothing else has changed. -/
def Obligations.StepRunsDecoded : Prop :=
  ∀ (s : State) (b : RawBundle) (x : BWord) (t : State), mayTry s → (awake s).fetch = .ok b → holdsOne b x →
    crossTrap [x] = none → laneTrap s.lanesHeld [x] = none → exec x.instr ((awake s).opening b [x]) = .next t →
    (t.core.stall = none → (∀ f a, t.core.ctl.run ≠ .frozen f a) → step s = .next (t.committed [x])) ∧
    (∀ f a, t.core.ctl.run = .frozen f a → step s = .next (takeTrap f s.cycle (awake s))) ∧
    (∀ e, t.core.stall = some e → (∀ f a, t.core.ctl.run ≠ .frozen f a) →
      step s = .next ((awake s).stalled ((awake s).context b [x]) [(x, t)]))

/-- A bundle that cannot be fetched, breaks a rule of its header, or holds a word that is no instruction traps before any of its
words has an effect (R38, R48, R49, R248): the core freezes with FETCH, ILLB or ILLOP of the slot, its registers, vault
and results in flight stay, and the record names the core and the cause. The stall of the cycle is over, and that a wait in progress
ends with the freeze is the model's choice (log entry 44); nothing else has changed. -/
def Obligations.TrapsBeforeIssue : Prop :=
  ∀ (s : State), mayTry s →
    (∀ f, (awake s).fetch = .error f → step s = .next (takeTrap f s.cycle (awake s))) ∧
    (∀ b n, (awake s).fetch = .ok b → headerTrap true b = some n →
      step s = .next (takeTrap { cause := .illb, slot := n } s.cycle (awake s))) ∧
    (∀ b n w r, (awake s).fetch = .ok b → n < 12 → b.header = 2 ^ n → b.inc = 0 → b.words = [(n, w, 1)] →
      decodeSlot n w = .error r → step s = .next (takeTrap { cause := .illop, slot := n } s.cycle (awake s))) ∧
    (∀ f, ∃ w, takeTrap f s.cycle (awake s) = { s with
        core := { s.core with ctl := { s.core.ctl with run := .frozen f s.cycle }, stall := none, waiting := none }
        dev := { s.dev with mgmt := { s.dev.mgmt with
          evSeq := s.dev.mgmt.evSeq.set 0 (16 + s.cur / 128) (s.dev.mgmt.evSeq.get 0 (16 + s.cur / 128) + 1)
          faultQ := s.dev.mgmt.faultQ ++ [(s.cur / 128, w)] } } } ∧
      w.toNat % 2 ^ 16 = s.cur ∧ w.toNat / 2 ^ 16 % 2 ^ 16 = f.cause.cls * 2 ^ 12 +
        (if f.cause.cls = 1 ∨ f.cause = .fetch then 15 else f.slot % 16) * 2 ^ 8 + f.cause.code)

/-- No step is refused, and none faults but where a number above 511 is to be a core (R1): with nothing scheduled, the machine always
goes on. -/
def Obligations.StepGoesOn : Prop :=
  ∀ s : State, (∀ r, step s ≠ .refused r) ∧ (∀ f, step s = .fault f → ∃ n, 512 ≤ n ∧ f = .noSuchCore n) ∧
    (s.agenda = [] → s.cur < 512 → ∃ t, step s = .next t)

namespace Sys2Proof.Claims

/-- The guard of a word that is no trigger and no MFLUSH (R39): it names p0 to p15. -/
def plainGuard : Instr → Option Guard
  | .move _ _ _ g => some g
  | .moveImmediate _ _ _ g => some g
  | .mma _ _ _ _ g => some g
  | .mmal _ _ _ g => some g
  | .mmals _ _ _ g => some g
  | .mmat _ _ _ _ g => some g
  | .mclr _ g => some g
  | .mfmt _ _ _ g => some g
  | .mdrain g => some g
  | .tzero _ g => some g
  | .ttrn _ _ _ g => some g
  | .topk _ _ _ _ _ _ g => some g
  | .rowmax _ _ _ _ _ g => some g
  | .tqnt _ _ _ _ _ _ g => some g
  | .maskld _ g => some g
  | .ld _ g _ _ _ _ _ => some g
  | .st _ g _ _ _ _ => some g
  | .vld _ g _ _ _ => some g
  | .vst _ g _ _ _ => some g
  | .tldl _ g _ _ _ => some g
  | .tstl _ g _ _ _ => some g
  | .xld _ g _ _ _ => some g
  | .xsc _ g _ _ => some g
  | .amol _ g _ _ _ _ _ _ => some g
  | .acqb g _ => some g
  | .relb g _ => some g
  | .tdl _ g _ _ _ => some g
  | .vlds _ g _ _ _ _ _ => some g
  | .ldc _ g _ _ _ _ _ => some g
  | .stc _ g _ _ _ _ => some g
  | .vldc _ g _ _ _ => some g
  | .vstc _ g _ _ _ => some g
  | .tldc _ g _ _ _ => some g
  | .tldm _ g _ _ _ _ => some g
  | .arm g _ => some g
  | .amoc _ g _ _ _ _ _ _ => some g
  | .mark g => some g
  | .tld _ g _ _ _ _ _ => some g
  | .tldRing _ g _ _ _ _ _ => some g
  | .tst _ g _ _ _ _ _ => some g
  | .tldx _ g _ _ _ _ => some g
  | .tstx _ g _ _ _ _ => some g
  | .xlate g _ _ _ => some g
  | .cpy _ g _ _ _ _ _ => some g
  | .gath g _ _ _ => some g
  | .kapp _ g _ _ _ _ _ => some g
  | .pmatch _ g _ _ _ _ _ => some g
  | .pins _ g _ _ _ _ _ => some g
  | .prel _ g _ _ _ _ _ => some g
  | .blend _ g _ _ _ _ _ => some g
  | .coll _ g _ _ _ _ _ => some g
  | .asn _ g _ _ _ _ _ => some g
  | .launch _ g _ _ _ _ _ => some g
  | .waitm _ g _ _ _ => some g
  | .amog _ g _ _ _ _ _ _ => some g
  | .fence g => some g
  | .icinv g _ _ _ => some g
  | .dgstAbsorb g _ _ => some g
  | .dgstEmit g _ _ _ => some g
  | .dgstReset g => some g
  | .decant _ g _ _ _ _ _ => some g
  | .cwait _ g _ _ => some g
  | .sld g _ _ _ => some g
  | .sldl g _ => some g
  | .ixp g _ _ => some g
  | .nextChunk g => some g
  | .rngk g _ _ => some g
  | .rwait g _ _ => some g
  | .radv g _ _ => some g
  | .rpub g _ _ => some g
  | .rcfg g _ _ => some g
  | _ => none

/-- The guard of an integer trigger and its unit (R39). -/
def intGuard : Instr → Option (Guard × BitVec 1)
  | .add _ u _ _ g => some (g, u)
  | .sub _ u _ _ g => some (g, u)
  | .mul _ u _ _ g => some (g, u)
  | .mulh _ u _ _ g => some (g, u)
  | .mulhu _ u _ _ g => some (g, u)
  | .and _ u _ _ g => some (g, u)
  | .or _ u _ _ g => some (g, u)
  | .xor _ u _ _ g => some (g, u)
  | .andn _ u _ _ g => some (g, u)
  | .shl _ u _ _ g => some (g, u)
  | .shr _ u _ _ g => some (g, u)
  | .sar _ u _ _ g => some (g, u)
  | .rotl _ u _ _ g => some (g, u)
  | .min _ u _ _ g => some (g, u)
  | .max _ u _ _ g => some (g, u)
  | .minu _ u _ _ g => some (g, u)
  | .maxu _ u _ _ g => some (g, u)
  | .clz _ u _ _ g => some (g, u)
  | .popc _ u _ _ g => some (g, u)
  | .sel _ u _ _ g => some (g, u)
  | .ceq _ u _ _ g => some (g, u)
  | .cne _ u _ _ g => some (g, u)
  | .clt _ u _ _ g => some (g, u)
  | .cle _ u _ _ g => some (g, u)
  | .cltu _ u _ _ g => some (g, u)
  | .cleu _ u _ _ g => some (g, u)
  | .divu _ u _ _ g => some (g, u)
  | .remu _ u _ _ g => some (g, u)
  | .madd _ u _ _ g => some (g, u)
  | .bfx _ u _ _ g => some (g, u)
  | .bfi _ u _ _ g => some (g, u)
  | _ => none

/-- The guard of a special-function trigger (R39): as of a vector trigger. -/
def sfGuard : Instr → Option Guard
  | .exp2 _ _ _ g => some g
  | .log2 _ _ _ g => some g
  | .rcp _ _ _ g => some g
  | .rsqrt _ _ _ g => some g
  | .sqrt _ _ _ g => some g
  | .tanh _ _ _ g => some g
  | _ => none

/-- The guard of a vector trigger (R39), and the width field that says which lane groups it claims. -/
def vecGuard : Instr → Option (Guard × BitVec 2)
  | .vadd _ _ _ w _ g => some (g, w)
  | .vsub _ _ _ w _ g => some (g, w)
  | .vmul _ _ _ w _ g => some (g, w)
  | .vfma _ _ _ w _ g => some (g, w)
  | .vfms _ _ _ w _ g => some (g, w)
  | .vmin _ _ _ w _ g => some (g, w)
  | .vmax _ _ _ w _ g => some (g, w)
  | .vabs _ _ _ w _ g => some (g, w)
  | .vneg _ _ _ w _ g => some (g, w)
  | .vceq _ _ _ w _ g => some (g, w)
  | .vcne _ _ _ w _ g => some (g, w)
  | .vclt _ _ _ w _ g => some (g, w)
  | .vcle _ _ _ w _ g => some (g, w)
  | .vcun _ _ _ w _ g => some (g, w)
  | .vsel _ _ _ w _ g => some (g, w)
  | .vand _ _ _ w _ g => some (g, w)
  | .vor _ _ _ w _ g => some (g, w)
  | .vxor _ _ _ w _ g => some (g, w)
  | .vshl _ _ _ w _ g => some (g, w)
  | .vshr _ _ _ w _ g => some (g, w)
  | .vsar _ _ _ w _ g => some (g, w)
  | .vcvt _ _ _ w _ g => some (g, w)
  | .vqnt _ _ _ w _ g => some (g, w)
  | .vdqnt _ _ _ w _ g => some (g, w)
  | .vredadd _ _ _ w _ g => some (g, w)
  | .vredmax _ _ _ w _ g => some (g, w)
  | .vredmin _ _ _ w _ g => some (g, w)
  | .vbcast _ _ _ w _ g => some (g, w)
  | .vperm _ _ _ w _ g => some (g, w)
  | .vscan _ _ _ w _ g => some (g, w)
  | .viota _ _ _ w _ g => some (g, w)
  | .vcomp _ _ _ w _ g => some (g, w)
  | .vshift _ _ _ w _ g => some (g, w)
  | .vpack _ _ _ w _ g => some (g, w)
  | .vunpk _ _ _ w _ g => some (g, w)
  | .vclamp _ _ _ w _ g => some (g, w)
  | .vround _ _ _ w _ g => some (g, w)
  | _ => none

end Sys2Proof.Claims

/-- A word whose guard is false issues and has no effect (R39, R86, R127, R145). An integer trigger still waits for its unit, and a vector
trigger still claims its lane groups. A word that waits has no effect either: an integer trigger of a busy unit stalls, guarded off or
not, and counts UNITBUSY (R15, R86); a word of the G slot whose guard holds stalls while the port holds 32 words, those of the gather
engine among them, and counts QFULL (R184, R198). -/
def Obligations.GuardedWords : Prop :=
  ∀ (i : Instr) (s : State) (g : Guard),
    (plainGuard i = some g → s.core.guardP g = false → exec i s = .next s) ∧
    (∀ u, intGuard i = some (g, u) → s.core.guardP g = false → s.core.intFree u ≤ s.cycle → exec i s = .next s) ∧
    (sfGuard i = some g → s.core.guardV g = false → exec i s = .next s) ∧
    (∀ w, vecGuard i = some (g, w) → s.core.guardV g = false → ∃ till, exec i s = .next { s with core := { s.core with
      qs := { s.core.qs with lanes := (2 ^ w.toNat, till) :: s.core.qs.lanes } } }) ∧
    (∀ f c bb md mk pitch cl off, i = .mflush f c bb md mk pitch cl off g → s.core.guardP g = false → exec i s = .next s) ∧
    (∀ u, intGuard i = some (g, u) → s.cycle < s.core.intFree u →
      exec i s = .next (s.mod fun c => { c with stall := some .unitbusy })) ∧
    (plainGuard i = some g → slotOf i = some 10 → s.core.guardP g = true →
      32 ≤ s.core.port.length + s.core.qs.gathers.length →
      exec i s = .next (s.mod fun c => { c with stall := some .qfull }))

/-- The words of the transport, weight and tile slots change no memory and, when they issue, no register file but ring handles: their
results are on their way, and land later (R12, R16, R77, R78). No other core changes. Only where the core's vault retains banks for
pre-empted tasks may an exit-unit word have one of them saved to its save area first (R305). -/
def Obligations.UnitWordsFrame : Prop :=
  ∀ (i : Instr) (n : Nat) (s t : State), slotOf i = some n → 1 ≤ n → n ≤ 7 → exec i s = .next t →
    (s.core.retained = [] → sameGlobal s t) ∧ sameRegs s t ∧ sameVaults s t ∧ t.cur = s.cur ∧ t.cycle = s.cycle ∧
    t.agenda = s.agenda ∧ t.others = s.others

/-! ### Reset and what every step keeps -/

/-- After a conventional reset (R2, R17, R20, R296, R377, R385, R387): no task runs on any core, every QCTL is 0x60, the clock is at
1,900 MHz, every data-error policy is 1, the measurement registers are zero and firmware does not run. g0 reads as zero and
keeps nothing, on every core in every state. -/
def Obligations.ResetValues : Prop :=
  (∀ n, State.reset.coreAt n = Core.blank) ∧ Core.blank.ctl.run = .idle ∧
  (∀ q, State.reset.dev.sched.qctl.get qctlReset q = 0x60) ∧ State.reset.dev.health.clock = 1900 ∧
  (∀ k, State.reset.dev.health.policy.get true k = true) ∧ State.reset.dev.health.defaultPolicy = true ∧
  (∀ k, State.reset.dev.trust.mr.get 0 k = 0) ∧ State.reset.dev.trust.running = false ∧
  (∀ (c : Core) (x mask : Nat), c.gAt 0 = 0 ∧ c.put (.g 0) mask x = c)

/-- Every memory is canonical after reset (log entry 4: an unlisted byte reads as zero, the model's choice). -/
def Obligations.ResetCanonical : Prop := State.reset.canonical

/-- Every step keeps every memory canonical: keys rise and no listed byte is the one an unlisted address reads as (log entry 4, the
model's choice), so that equal memories are equal data. -/
def Obligations.StepKeepsCanonical : Prop := ∀ s t : State, s.canonical → step s = .next t → t.canonical
end

