-- ==== Sys2Proof/Laws/Table.lean ====
section
/-!
SUPPORT. Laws of tables and memories: read after write, writes that leave the rest alone, and that every operation keeps
the canonical form.
-/
namespace Sys2Proof.Machine

variable {α : Type}

/-! ### Reading -/

theorem Table.get_nil (d : α) (k : Nat) : Table.get d [] k = d := rfl

theorem Table.get_cons (d : α) (x : Nat × α) (r : Table α) (k : Nat) :
    Table.get d (x :: r) k = if x.1 = k then x.2 else Table.get d r k := by
  cases x; simp [Table.get]

theorem Table.get_erase_same (d : α) (t : Table α) (k : Nat) : Table.get d (Table.erase k t) k = d := by
  induction t with
  | nil => rfl
  | cons x r ih =>
    obtain ⟨j, v⟩ := x
    by_cases h : j = k <;> simp [Table.erase, Table.get, h, ih]

theorem Table.get_erase_other (d : α) (t : Table α) {k n : Nat} (h : n ≠ k) :
    Table.get d (Table.erase k t) n = Table.get d t n := by
  induction t with
  | nil => rfl
  | cons x r ih =>
    obtain ⟨j, v⟩ := x
    by_cases hj : j = k
    · have : j ≠ n := by omega
      simp [Table.erase, Table.get, hj, ih]
      omega
    · by_cases hn : j = n <;> simp [Table.erase, Table.get, hj, hn, ih, h]

/-- Every key of a table is other than `k`. -/
def Table.lacks (k : Nat) (t : Table α) : Prop := ∀ x ∈ t, x.1 ≠ k

theorem Table.lacks_erase (k : Nat) (t : Table α) : Table.lacks k (Table.erase k t) := by
  induction t with
  | nil => simp [Table.erase, Table.lacks]
  | cons x r ih =>
    obtain ⟨j, v⟩ := x
    by_cases h : j = k
    · simpa [Table.erase, h] using ih
    · intro y hy
      simp only [Table.erase, h, if_false, List.mem_cons] at hy
      rcases hy with rfl | hy
      · exact h
      · exact ih y hy

theorem Table.get_insert_same (d : α) (t : Table α) (k : Nat) (v : α) (h : Table.lacks k t) :
    Table.get d (Table.insert k v t) k = v := by
  induction t with
  | nil => simp [Table.insert, Table.get]
  | cons x r ih =>
    obtain ⟨j, w⟩ := x
    have hj : j ≠ k := h (j, w) (by simp)
    have hr : Table.lacks k r := fun y hy => h y (by simp [hy])
    by_cases hk : k < j <;> simp [Table.insert, Table.get, hk, hj, ih hr]

theorem Table.get_insert_other (d : α) (t : Table α) {k n : Nat} (v : α) (h : n ≠ k) :
    Table.get d (Table.insert k v t) n = Table.get d t n := by
  induction t with
  | nil => simp [Table.insert, Table.get]; omega
  | cons x r ih =>
    obtain ⟨j, w⟩ := x
    by_cases hk : k < j
    · simp [Table.insert, Table.get, hk]
      omega
    · simp [Table.insert, Table.get, hk, ih]

/-- A table reads back what was set. -/
theorem Table.get_set_same [DecidableEq α] (d : α) (t : Table α) (k : Nat) (v : α) :
    Table.get d (Table.set d t k v) k = v := by
  unfold Table.set
  split
  · next h => rw [Table.get_erase_same, h]
  · exact Table.get_insert_same d _ k v (Table.lacks_erase k t)

/-- Setting one entry leaves the others alone. -/
theorem Table.get_set_other [DecidableEq α] (d : α) (t : Table α) {k n : Nat} (v : α) (h : n ≠ k) :
    Table.get d (Table.set d t k v) n = Table.get d t n := by
  unfold Table.set
  split
  · exact Table.get_erase_other d t h
  · rw [Table.get_insert_other d _ v h, Table.get_erase_other d t h]

theorem Table.get_set [DecidableEq α] (d : α) (t : Table α) (k n : Nat) (v : α) :
    Table.get d (Table.set d t k v) n = if n = k then v else Table.get d t n := by
  split
  · next h => rw [h, Table.get_set_same]
  · next h => exact Table.get_set_other d t v h

/-! ### The canonical form -/

/-- The canonical form, entry by entry: no default is listed and the keys rise. -/
theorem Table.wf_iff [DecidableEq α] (d : α) (t : Table α) :
    Table.wf d t = true ↔ (∀ x ∈ t, x.2 ≠ d) ∧ t.Pairwise (fun x y => x.1 < y.1) := by
  induction t with
  | nil => simp [Table.wf]
  | cons x r ih =>
    obtain ⟨j, v⟩ := x
    cases r with
    | nil => simp [Table.wf]
    | cons y r =>
      obtain ⟨k, w⟩ := y
      simp only [Table.wf, Bool.and_eq_true, decide_eq_true_eq, ih, List.pairwise_cons, List.mem_cons,
        forall_eq_or_imp]
      constructor
      · rintro ⟨⟨hv, hjk⟩, ⟨hw, hr⟩, hp, hq⟩
        exact ⟨⟨hv, hw, hr⟩, ⟨hjk, fun y hy => lt_trans hjk (hp y hy)⟩, hp, hq⟩
      · rintro ⟨⟨hv, hw, hr⟩, ⟨hjk, -⟩, hp, hq⟩
        exact ⟨⟨hv, hjk⟩, ⟨hw, hr⟩, hp, hq⟩

theorem Table.mem_erase {k : Nat} {t : Table α} {x : Nat × α} (h : x ∈ Table.erase k t) : x ∈ t := by
  induction t with
  | nil => simp [Table.erase] at h
  | cons y r ih =>
    obtain ⟨j, v⟩ := y
    by_cases hj : j = k
    · simp only [Table.erase, hj, if_true] at h
      exact List.mem_cons_of_mem _ (ih h)
    · simp only [Table.erase, hj, if_false, List.mem_cons] at h
      rcases h with rfl | h
      · simp
      · exact List.mem_cons_of_mem _ (ih h)

theorem Table.erase_sublist (k : Nat) (t : Table α) : (Table.erase k t).Sublist t := by
  induction t with
  | nil => exact List.Sublist.slnil
  | cons y r ih =>
    obtain ⟨j, v⟩ := y
    by_cases hj : j = k
    · simpa [Table.erase, hj] using ih.cons (k, v)
    · simpa [Table.erase, hj] using ih.cons_cons (j, v)

theorem Table.mem_insert {k : Nat} {v : α} {t : Table α} {x : Nat × α} (h : x ∈ Table.insert k v t) :
    x = (k, v) ∨ x ∈ t := by
  induction t with
  | nil => simpa [Table.insert] using h
  | cons y r ih =>
    obtain ⟨j, w⟩ := y
    by_cases hj : k < j
    · simpa [Table.insert, hj] using h
    · simp only [Table.insert, hj, if_false, List.mem_cons] at h
      rcases h with rfl | h
      · simp
      · rcases ih h with h | h
        · exact Or.inl h
        · exact Or.inr (List.mem_cons_of_mem _ h)

theorem Table.pairwise_insert {k : Nat} {v : α} {t : Table α} (hl : Table.lacks k t)
    (hp : t.Pairwise (fun x y => x.1 < y.1)) : (Table.insert k v t).Pairwise (fun x y => x.1 < y.1) := by
  induction t with
  | nil => simp [Table.insert]
  | cons y r ih =>
    obtain ⟨j, w⟩ := y
    have hj : j ≠ k := hl (j, w) (by simp)
    rw [List.pairwise_cons] at hp
    by_cases hk : k < j
    · rw [Table.insert, if_pos hk, List.pairwise_cons, List.pairwise_cons]
      refine ⟨fun x hx => ?_, hp⟩
      rcases List.mem_cons.mp hx with rfl | hx
      · exact hk
      · exact lt_trans hk (hp.1 x hx)
    · simp only [Table.insert, hk, if_false, List.pairwise_cons]
      refine ⟨fun x hx => ?_, ih (fun y hy => hl y (by simp [hy])) hp.2⟩
      rcases Table.mem_insert hx with rfl | hx
      · show j < k; omega
      · exact hp.1 x hx

/-- Setting an entry keeps the canonical form. -/
theorem Table.wf_set [DecidableEq α] (d : α) (t : Table α) (k : Nat) (v : α) (h : Table.wf d t = true) :
    Table.wf d (Table.set d t k v) = true := by
  rw [Table.wf_iff] at h ⊢
  have he : (∀ x ∈ Table.erase k t, x.2 ≠ d) ∧ (Table.erase k t).Pairwise (fun x y => x.1 < y.1) :=
    ⟨fun x hx => h.1 x (Table.mem_erase hx), h.2.sublist (Table.erase_sublist k t)⟩
  unfold Table.set
  split
  · exact he
  · next hv =>
    refine ⟨fun x hx => ?_, Table.pairwise_insert (Table.lacks_erase k t) he.2⟩
    rcases Table.mem_insert hx with rfl | hx
    · exact hv
    · exact he.1 x hx

/-- Keeping some of the entries keeps the canonical form. -/
theorem Table.wf_filter [DecidableEq α] (d : α) (t : Table α) (p : Nat × α → Bool) (h : Table.wf d t = true) :
    Table.wf d (List.filter p t) = true := by
  rw [Table.wf_iff] at h ⊢
  exact ⟨fun x hx => h.1 x (List.mem_filter.mp hx).1, h.2.filter p⟩

/-- Equal contents are equal data: two canonical tables that read the same everywhere are the same. -/
theorem Table.ext_of_wf [DecidableEq α] (d : α) (t u : Table α) (ht : Table.wf d t = true) (hu : Table.wf d u = true)
    (h : ∀ k, Table.get d t k = Table.get d u k) : t = u := by
  rw [Table.wf_iff] at ht hu
  have low : ∀ (r : Table α) (k : Nat), (∀ x ∈ r, k < x.1) → Table.get d r k = d := by
    intro r k hr
    induction r with
    | nil => rfl
    | cons x r ih =>
      have := hr x (by simp)
      rw [Table.get_cons, if_neg (by omega), ih fun y hy => hr y (by simp [hy])]
  induction t generalizing u with
  | nil =>
    cases u with
    | nil => rfl
    | cons y u =>
      have := h y.1
      rw [Table.get_nil, Table.get_cons, if_pos rfl] at this
      exact absurd this.symm (hu.1 y (by simp))
  | cons x t ih =>
    cases u with
    | nil =>
      have := h x.1
      rw [Table.get_nil, Table.get_cons, if_pos rfl] at this
      exact absurd this (ht.1 x (by simp))
    | cons y u =>
      have htp := List.pairwise_cons.mp ht.2
      have hup := List.pairwise_cons.mp hu.2
      have key : x.1 = y.1 := by
        rcases lt_trichotomy x.1 y.1 with hlt | heq | hgt
        · have := h x.1
          rw [Table.get_cons, if_pos rfl, low (y :: u) x.1 (by
            intro z hz
            rcases List.mem_cons.mp hz with rfl | hz
            · exact hlt
            · exact lt_trans hlt (hup.1 z hz))] at this
          exact absurd this (ht.1 x (by simp))
        · exact heq
        · have := h y.1
          rw [Table.get_cons d y, if_pos rfl, low (x :: t) y.1 (by
            intro z hz
            rcases List.mem_cons.mp hz with rfl | hz
            · exact hgt
            · exact lt_trans hgt (htp.1 z hz))] at this
          exact absurd this.symm (hu.1 y (by simp))
      have val : x.2 = y.2 := by
        have := h x.1
        rwa [Table.get_cons, if_pos rfl, Table.get_cons, if_pos key.symm] at this
      have hxy : x = y := Prod.ext key val
      subst hxy
      congr 1
      apply ih u ⟨fun z hz => ht.1 z (by simp [hz]), htp.2⟩ ⟨fun z hz => hu.1 z (by simp [hz]), hup.2⟩
      intro k
      by_cases hk : x.1 = k
      · rw [low t k (fun z hz => hk ▸ htp.1 z hz), low u k (fun z hz => hk ▸ hup.1 z hz)]
      · have := h k
        rwa [Table.get_cons, if_neg hk, Table.get_cons, if_neg hk] at this

/-! ### Memories -/

theorem Memory.wf_nil : Memory.wf [] = true := rfl

/-- A byte reads back as it was written. -/
theorem Memory.read_write_same (m : Memory) (a : Nat) (b : Byte) : (m.write a b).read a = b :=
  Table.get_set_same _ m a b

/-- A write of one byte leaves every other byte alone. -/
theorem Memory.read_write_other (m : Memory) {a n : Nat} (b : Byte) (h : n ≠ a) : (m.write a b).read n = m.read n :=
  Table.get_set_other _ m b h

theorem Memory.wf_write (m : Memory) (a : Nat) (b : Byte) (h : m.wf = true) : (m.write a b).wf = true :=
  Table.wf_set _ m a b h

theorem Memory.wf_filter (m : Memory) (p : Nat × Byte → Bool) (h : m.wf = true) :
    Memory.wf (List.filter p m) = true := Table.wf_filter _ m p h

theorem Memory.wf_bank (m : Memory) (p : Nat × Byte → Bool) (h : m.wf = true) : Memory.wf (m.filter p) = true :=
  Memory.wf_filter m p h

/-- Storing bytes keeps the canonical form. -/
theorem Memory.wf_store (m : Memory) (a : Nat) (bs : List Byte) (h : m.wf = true) : (m.store a bs).wf = true := by
  induction bs generalizing m a with
  | nil => exact h
  | cons b bs ih => exact ih _ _ (Memory.wf_write m a b h)

theorem Memory.wf_setNum (m : Memory) (a n x : Nat) (h : m.wf = true) : (m.setNum a n x).wf = true :=
  Memory.wf_store m a _ h

/-- Bytes stored leave every byte outside them alone. -/
theorem Memory.read_store_other (m : Memory) (a : Nat) (bs : List Byte) (n : Nat) (h : n < a ∨ a + bs.length ≤ n) :
    (m.store a bs).read n = m.read n := by
  induction bs generalizing m a with
  | nil => rfl
  | cons b bs ih =>
    simp only [List.length_cons] at h
    rw [Memory.store, ih _ _ (by omega), Memory.read_write_other m b (by omega)]

/-- Bytes stored read back. -/
theorem Memory.read_store_same (m : Memory) (a : Nat) (bs : List Byte) (i : Nat) (h : i < bs.length) :
    (m.store a bs).read (a + i) = bs[i] := by
  induction bs generalizing m a i with
  | nil => simp at h
  | cons b bs ih =>
    rw [Memory.store]
    cases i with
    | zero =>
      rw [Memory.read_store_other _ _ _ _ (by omega)]
      exact Memory.read_write_same m a b
    | succ i =>
      have := ih (m.write a b) (a + 1) i (by simpa using h)
      rw [show a + 1 + i = a + (i + 1) by omega] at this
      simpa using this

theorem Memory.bytes_length (m : Memory) (a n : Nat) : (m.bytes a n).length = n := by
  induction n generalizing a with
  | zero => rfl
  | succ n ih => simp [Memory.bytes, ih]

/-- A range read back after it was stored is what was stored. -/
theorem Memory.bytes_store (m : Memory) (a : Nat) (bs : List Byte) : (m.store a bs).bytes a bs.length = bs := by
  induction bs generalizing m a with
  | nil => rfl
  | cons b bs ih =>
    rw [List.length_cons, Memory.bytes, Memory.store, ih]
    congr 1
    rw [Memory.read_store_other _ _ _ _ (by omega)]
    exact Memory.read_write_same m a b

theorem leBytes_length (n x : Nat) : (leBytes n x).length = n := by
  induction n generalizing x with
  | zero => rfl
  | succ n ih => simp [leBytes, ih]

/-- Little-endian bytes give their number back (R9). -/
theorem leNat_leBytes (n x : Nat) : leNat (leBytes n x) = x % 256 ^ n := by
  induction n generalizing x with
  | zero => simp [leBytes, leNat, Nat.mod_one]
  | succ n ih =>
    rw [leBytes, leNat, ih, Nat.pow_succ, Nat.mul_comm (256 ^ n) 256, Nat.mod_mul, BitVec.toNat_ofNat]

/-- A number stored reads back (R9). -/
theorem Memory.num_setNum (m : Memory) (a n x : Nat) : (m.setNum a n x).num a n = x % 256 ^ n := by
  have h := Memory.bytes_store m a (leBytes n x)
  rw [leBytes_length] at h
  rw [Memory.num, Memory.setNum, h, leNat_leBytes]

end Sys2Proof.Machine
end

