-- ==== Sys2Proof/Laws/Code.lean ====
section
/-!
SUPPORT. What the code stream buffers give a fetch (R207, R267): the line they hold, else the home; and that what an ICINV has
discarded comes from its home.
-/
namespace Sys2Proof.Machine

/-- What a filter leaves out of a table reads as unlisted. -/
theorem Table.get_filter_out {α : Type} (d : α) (t : Table α) (p : Nat × α → Bool) (k : Nat) (h : ∀ v, p (k, v) = false) :
    Table.get d (t.filter p) k = d := by
  induction t with
  | nil => rfl
  | cons x r ih =>
    by_cases hx : p x = true
    · have : x.1 ≠ k := fun e => by
        have := h x.2
        rw [← e, hx] at this
        exact absurd this (by decide)
      rw [List.filter_cons_of_pos hx, Table.get_cons, if_neg this, ih]
    · rw [List.filter_cons_of_neg (by simpa using hx), ih]

/-- A line that the buffer does not hold is fetched from its home (R267). -/
theorem MemSys.codeBytes_home (m : MemSys) (n a : Nat) (h : m.cbuf.get none (lineKey n a) = none) :
    m.codeBytes n a = m.homeBytes a 4 := by
  rw [MemSys.codeBytes, h]

/-- A line fetched ahead gives what its home held then, whatever the home holds later. -/
theorem MemSys.holdCode_codeBytes (m : MemSys) (n a : Nat) :
    (m.holdCode n a true).codeBytes n a =
      lineWord (m.lineBits (a / 64)) a := by
  simp [MemSys.codeBytes, MemSys.holdCode, Table.get_set_same]

/-- A line dropped from the buffer is fetched from its home again. -/
theorem MemSys.dropCode_codeBytes (m : MemSys) (n a : Nat) : (m.holdCode n a false).codeBytes n a = m.homeBytes a 4 := by
  rw [MemSys.codeBytes_home]
  · rfl
  · simp [MemSys.holdCode, Table.get_erase_same]

/-- What ICINV has discarded comes from its home, on every core (R207, R267). -/
theorem State.discardCode_codeBytes (s : State) (va len m a : Nat) (ha : a < 2 ^ 52)
    (h : len = 0 ∨ s.codeMapped va len (64 * (a / 64)) = true) :
    (s.discardCode va len).dev.sys.codeBytes m a = s.dev.sys.homeBytes a 4 := by
  rw [MemSys.codeBytes_home]
  · rfl
  · refine Table.get_filter_out _ _ _ _ fun v => ?_
    have e : lineKey m a % 2 ^ 46 * 64 = 64 * (a / 64) := by
      unfold lineKey
      omega
    rcases h with h | h <;> simp only [h, e, beq_self_eq_true, Bool.true_or, Bool.or_true, Bool.not_true]

end Sys2Proof.Machine
end

