-- ==== Sys2Proof/Laws/State.lean ====
section
/-!
SUPPORT. One lemma per field and update of the state, so that no proof unfolds a record update: each is true by
definition.
-/
namespace Sys2Proof.Machine

variable (s : State) (c : Core)

/-! ### Changes to the current core -/

@[simp] theorem State.mod_agenda (f : Core → Core) : (s.mod f).agenda = s.agenda := rfl
@[simp] theorem State.mod_cycle (f : Core → Core) : (s.mod f).cycle = s.cycle := rfl
@[simp] theorem State.mod_cur (f : Core → Core) : (s.mod f).cur = s.cur := rfl
@[simp] theorem State.mod_core (f : Core → Core) : (s.mod f).core = f s.core := rfl
@[simp] theorem State.mod_others (f : Core → Core) : (s.mod f).others = s.others := rfl
@[simp] theorem State.mod_dev (f : Core → Core) : (s.mod f).dev = s.dev := rfl

/-! ### Changes to a part of the package -/

@[simp] theorem State.sys_agenda (f : MemSys → MemSys) : (s.sys f).agenda = s.agenda := rfl
@[simp] theorem State.sys_cycle (f : MemSys → MemSys) : (s.sys f).cycle = s.cycle := rfl
@[simp] theorem State.sys_cur (f : MemSys → MemSys) : (s.sys f).cur = s.cur := rfl
@[simp] theorem State.sys_core (f : MemSys → MemSys) : (s.sys f).core = s.core := rfl
@[simp] theorem State.sys_others (f : MemSys → MemSys) : (s.sys f).others = s.others := rfl
@[simp] theorem State.sys_dev_sys (f : MemSys → MemSys) : (s.sys f).dev.sys = f s.dev.sys := rfl
@[simp] theorem State.sys_dev_sched (f : MemSys → MemSys) : (s.sys f).dev.sched = s.dev.sched := rfl
@[simp] theorem State.sys_dev_code (f : MemSys → MemSys) : (s.sys f).dev.code = s.dev.code := rfl
@[simp] theorem State.sys_dev_mgmt (f : MemSys → MemSys) : (s.sys f).dev.mgmt = s.dev.mgmt := rfl
@[simp] theorem State.sys_dev_trust (f : MemSys → MemSys) : (s.sys f).dev.trust = s.dev.trust := rfl
@[simp] theorem State.sys_dev_fabric (f : MemSys → MemSys) : (s.sys f).dev.fabric = s.dev.fabric := rfl
@[simp] theorem State.sys_dev_health (f : MemSys → MemSys) : (s.sys f).dev.health = s.dev.health := rfl
@[simp] theorem State.sched_agenda (f : Sched → Sched) : (s.sched f).agenda = s.agenda := rfl
@[simp] theorem State.sched_cycle (f : Sched → Sched) : (s.sched f).cycle = s.cycle := rfl
@[simp] theorem State.sched_cur (f : Sched → Sched) : (s.sched f).cur = s.cur := rfl
@[simp] theorem State.sched_core (f : Sched → Sched) : (s.sched f).core = s.core := rfl
@[simp] theorem State.sched_others (f : Sched → Sched) : (s.sched f).others = s.others := rfl
@[simp] theorem State.sched_dev_sys (f : Sched → Sched) : (s.sched f).dev.sys = s.dev.sys := rfl
@[simp] theorem State.sched_dev_sched (f : Sched → Sched) : (s.sched f).dev.sched = f s.dev.sched := rfl
@[simp] theorem State.sched_dev_code (f : Sched → Sched) : (s.sched f).dev.code = s.dev.code := rfl
@[simp] theorem State.sched_dev_mgmt (f : Sched → Sched) : (s.sched f).dev.mgmt = s.dev.mgmt := rfl
@[simp] theorem State.sched_dev_trust (f : Sched → Sched) : (s.sched f).dev.trust = s.dev.trust := rfl
@[simp] theorem State.sched_dev_fabric (f : Sched → Sched) : (s.sched f).dev.fabric = s.dev.fabric := rfl
@[simp] theorem State.sched_dev_health (f : Sched → Sched) : (s.sched f).dev.health = s.dev.health := rfl
@[simp] theorem State.code_agenda (f : Code → Code) : (s.code f).agenda = s.agenda := rfl
@[simp] theorem State.code_cycle (f : Code → Code) : (s.code f).cycle = s.cycle := rfl
@[simp] theorem State.code_cur (f : Code → Code) : (s.code f).cur = s.cur := rfl
@[simp] theorem State.code_core (f : Code → Code) : (s.code f).core = s.core := rfl
@[simp] theorem State.code_others (f : Code → Code) : (s.code f).others = s.others := rfl
@[simp] theorem State.code_dev_sys (f : Code → Code) : (s.code f).dev.sys = s.dev.sys := rfl
@[simp] theorem State.code_dev_sched (f : Code → Code) : (s.code f).dev.sched = s.dev.sched := rfl
@[simp] theorem State.code_dev_code (f : Code → Code) : (s.code f).dev.code = f s.dev.code := rfl
@[simp] theorem State.code_dev_mgmt (f : Code → Code) : (s.code f).dev.mgmt = s.dev.mgmt := rfl
@[simp] theorem State.code_dev_trust (f : Code → Code) : (s.code f).dev.trust = s.dev.trust := rfl
@[simp] theorem State.code_dev_fabric (f : Code → Code) : (s.code f).dev.fabric = s.dev.fabric := rfl
@[simp] theorem State.code_dev_health (f : Code → Code) : (s.code f).dev.health = s.dev.health := rfl
@[simp] theorem State.mgmt_agenda (f : Mgmt → Mgmt) : (s.mgmt f).agenda = s.agenda := rfl
@[simp] theorem State.mgmt_cycle (f : Mgmt → Mgmt) : (s.mgmt f).cycle = s.cycle := rfl
@[simp] theorem State.mgmt_cur (f : Mgmt → Mgmt) : (s.mgmt f).cur = s.cur := rfl
@[simp] theorem State.mgmt_core (f : Mgmt → Mgmt) : (s.mgmt f).core = s.core := rfl
@[simp] theorem State.mgmt_others (f : Mgmt → Mgmt) : (s.mgmt f).others = s.others := rfl
@[simp] theorem State.mgmt_dev_sys (f : Mgmt → Mgmt) : (s.mgmt f).dev.sys = s.dev.sys := rfl
@[simp] theorem State.mgmt_dev_sched (f : Mgmt → Mgmt) : (s.mgmt f).dev.sched = s.dev.sched := rfl
@[simp] theorem State.mgmt_dev_code (f : Mgmt → Mgmt) : (s.mgmt f).dev.code = s.dev.code := rfl
@[simp] theorem State.mgmt_dev_mgmt (f : Mgmt → Mgmt) : (s.mgmt f).dev.mgmt = f s.dev.mgmt := rfl
@[simp] theorem State.mgmt_dev_trust (f : Mgmt → Mgmt) : (s.mgmt f).dev.trust = s.dev.trust := rfl
@[simp] theorem State.mgmt_dev_fabric (f : Mgmt → Mgmt) : (s.mgmt f).dev.fabric = s.dev.fabric := rfl
@[simp] theorem State.mgmt_dev_health (f : Mgmt → Mgmt) : (s.mgmt f).dev.health = s.dev.health := rfl
@[simp] theorem State.trust_agenda (f : Trust → Trust) : (s.trust f).agenda = s.agenda := rfl
@[simp] theorem State.trust_cycle (f : Trust → Trust) : (s.trust f).cycle = s.cycle := rfl
@[simp] theorem State.trust_cur (f : Trust → Trust) : (s.trust f).cur = s.cur := rfl
@[simp] theorem State.trust_core (f : Trust → Trust) : (s.trust f).core = s.core := rfl
@[simp] theorem State.trust_others (f : Trust → Trust) : (s.trust f).others = s.others := rfl
@[simp] theorem State.trust_dev_sys (f : Trust → Trust) : (s.trust f).dev.sys = s.dev.sys := rfl
@[simp] theorem State.trust_dev_sched (f : Trust → Trust) : (s.trust f).dev.sched = s.dev.sched := rfl
@[simp] theorem State.trust_dev_code (f : Trust → Trust) : (s.trust f).dev.code = s.dev.code := rfl
@[simp] theorem State.trust_dev_mgmt (f : Trust → Trust) : (s.trust f).dev.mgmt = s.dev.mgmt := rfl
@[simp] theorem State.trust_dev_trust (f : Trust → Trust) : (s.trust f).dev.trust = f s.dev.trust := rfl
@[simp] theorem State.trust_dev_fabric (f : Trust → Trust) : (s.trust f).dev.fabric = s.dev.fabric := rfl
@[simp] theorem State.trust_dev_health (f : Trust → Trust) : (s.trust f).dev.health = s.dev.health := rfl
@[simp] theorem State.fabric_agenda (f : Fabric → Fabric) : (s.fabric f).agenda = s.agenda := rfl
@[simp] theorem State.fabric_cycle (f : Fabric → Fabric) : (s.fabric f).cycle = s.cycle := rfl
@[simp] theorem State.fabric_cur (f : Fabric → Fabric) : (s.fabric f).cur = s.cur := rfl
@[simp] theorem State.fabric_core (f : Fabric → Fabric) : (s.fabric f).core = s.core := rfl
@[simp] theorem State.fabric_others (f : Fabric → Fabric) : (s.fabric f).others = s.others := rfl
@[simp] theorem State.fabric_dev_sys (f : Fabric → Fabric) : (s.fabric f).dev.sys = s.dev.sys := rfl
@[simp] theorem State.fabric_dev_sched (f : Fabric → Fabric) : (s.fabric f).dev.sched = s.dev.sched := rfl
@[simp] theorem State.fabric_dev_code (f : Fabric → Fabric) : (s.fabric f).dev.code = s.dev.code := rfl
@[simp] theorem State.fabric_dev_mgmt (f : Fabric → Fabric) : (s.fabric f).dev.mgmt = s.dev.mgmt := rfl
@[simp] theorem State.fabric_dev_trust (f : Fabric → Fabric) : (s.fabric f).dev.trust = s.dev.trust := rfl
@[simp] theorem State.fabric_dev_fabric (f : Fabric → Fabric) : (s.fabric f).dev.fabric = f s.dev.fabric := rfl
@[simp] theorem State.fabric_dev_health (f : Fabric → Fabric) : (s.fabric f).dev.health = s.dev.health := rfl
@[simp] theorem State.health_agenda (f : Health → Health) : (s.health f).agenda = s.agenda := rfl
@[simp] theorem State.health_cycle (f : Health → Health) : (s.health f).cycle = s.cycle := rfl
@[simp] theorem State.health_cur (f : Health → Health) : (s.health f).cur = s.cur := rfl
@[simp] theorem State.health_core (f : Health → Health) : (s.health f).core = s.core := rfl
@[simp] theorem State.health_others (f : Health → Health) : (s.health f).others = s.others := rfl
@[simp] theorem State.health_dev_sys (f : Health → Health) : (s.health f).dev.sys = s.dev.sys := rfl
@[simp] theorem State.health_dev_sched (f : Health → Health) : (s.health f).dev.sched = s.dev.sched := rfl
@[simp] theorem State.health_dev_code (f : Health → Health) : (s.health f).dev.code = s.dev.code := rfl
@[simp] theorem State.health_dev_mgmt (f : Health → Health) : (s.health f).dev.mgmt = s.dev.mgmt := rfl
@[simp] theorem State.health_dev_trust (f : Health → Health) : (s.health f).dev.trust = s.dev.trust := rfl
@[simp] theorem State.health_dev_fabric (f : Health → Health) : (s.health f).dev.fabric = s.dev.fabric := rfl
@[simp] theorem State.health_dev_health (f : Health → Health) : (s.health f).dev.health = f s.dev.health := rfl

/-! ### The sequencer, the bundle and the provenance context -/

@[simp] theorem State.seq_agenda (f : Seq → Seq) : (s.seq f).agenda = s.agenda := rfl
@[simp] theorem State.seq_cycle (f : Seq → Seq) : (s.seq f).cycle = s.cycle := rfl
@[simp] theorem State.seq_cur (f : Seq → Seq) : (s.seq f).cur = s.cur := rfl
@[simp] theorem State.seq_others (f : Seq → Seq) : (s.seq f).others = s.others := rfl
@[simp] theorem State.seq_dev (f : Seq → Seq) : (s.seq f).dev = s.dev := rfl
@[simp] theorem State.seq_core_seq (f : Seq → Seq) : (s.seq f).core.seq = f s.core.seq := rfl
@[simp] theorem State.seq_core_regs (f : Seq → Seq) : (s.seq f).core.regs = s.core.regs := rfl
@[simp] theorem State.seq_core_ports (f : Seq → Seq) : (s.seq f).core.ports = s.core.ports := rfl
@[simp] theorem State.seq_core_eng (f : Seq → Seq) : (s.seq f).core.eng = s.core.eng := rfl
@[simp] theorem State.seq_core_qs (f : Seq → Seq) : (s.seq f).core.qs = s.core.qs := rfl
@[simp] theorem State.seq_core_ctl (f : Seq → Seq) : (s.seq f).core.ctl = s.core.ctl := rfl
@[simp] theorem State.seq_core_prev (f : Seq → Seq) : (s.seq f).core.prev = s.core.prev := rfl
@[simp] theorem State.seq_core_ctx (f : Seq → Seq) : (s.seq f).core.ctx = s.core.ctx := rfl
@[simp] theorem State.seq_core_stall (f : Seq → Seq) : (s.seq f).core.stall = s.core.stall := rfl
@[simp] theorem State.seq_core_waiting (f : Seq → Seq) : (s.seq f).core.waiting = s.core.waiting := rfl
@[simp] theorem State.seq_core_wake (f : Seq → Seq) : (s.seq f).core.wake = s.core.wake := rfl
@[simp] theorem State.seq_core_supply (f : Seq → Seq) : (s.seq f).core.supply = s.core.supply := rfl
@[simp] theorem State.seq_core_bundles (f : Seq → Seq) : (s.seq f).core.bundles = s.core.bundles := rfl
@[simp] theorem State.seq_core_port (f : Seq → Seq) : (s.seq f).core.port = s.core.port := rfl
@[simp] theorem State.seq_core_boundary (f : Seq → Seq) : (s.seq f).core.boundary = s.core.boundary := rfl
@[simp] theorem State.seq_core_barcs (f : Seq → Seq) : (s.seq f).core.barcs = s.core.barcs := rfl
@[simp] theorem State.seq_core_arrived (f : Seq → Seq) : (s.seq f).core.arrived = s.core.arrived := rfl
@[simp] theorem State.seq_core_pass (f : Seq → Seq) : (s.seq f).core.pass = s.core.pass := rfl
@[simp] theorem State.seq_core_perf (f : Seq → Seq) : (s.seq f).core.perf = s.core.perf := rfl
@[simp] theorem State.seq_core_vault (f : Seq → Seq) : (s.seq f).core.vault = s.core.vault := rfl
@[simp] theorem State.seq_core_poison (f : Seq → Seq) : (s.seq f).core.poison = s.core.poison := rfl
@[simp] theorem State.seq_core_undo (f : Seq → Seq) : (s.seq f).core.undo = s.core.undo := rfl
@[simp] theorem State.seq_core_retained (f : Seq → Seq) : (s.seq f).core.retained = s.core.retained := rfl
@[simp] theorem State.seq_core_failed (f : Seq → Seq) : (s.seq f).core.failed = s.core.failed := rfl
@[simp] theorem State.ctx_agenda (f : Ctx → Ctx) : (s.ctx f).agenda = s.agenda := rfl
@[simp] theorem State.ctx_cycle (f : Ctx → Ctx) : (s.ctx f).cycle = s.cycle := rfl
@[simp] theorem State.ctx_cur (f : Ctx → Ctx) : (s.ctx f).cur = s.cur := rfl
@[simp] theorem State.ctx_others (f : Ctx → Ctx) : (s.ctx f).others = s.others := rfl
@[simp] theorem State.ctx_dev (f : Ctx → Ctx) : (s.ctx f).dev = s.dev := rfl
@[simp] theorem State.ctx_core_seq (f : Ctx → Ctx) : (s.ctx f).core.seq = s.core.seq := rfl
@[simp] theorem State.ctx_core_regs (f : Ctx → Ctx) : (s.ctx f).core.regs = s.core.regs := rfl
@[simp] theorem State.ctx_core_ports (f : Ctx → Ctx) : (s.ctx f).core.ports = s.core.ports := rfl
@[simp] theorem State.ctx_core_eng (f : Ctx → Ctx) : (s.ctx f).core.eng = s.core.eng := rfl
@[simp] theorem State.ctx_core_qs (f : Ctx → Ctx) : (s.ctx f).core.qs = s.core.qs := rfl
@[simp] theorem State.ctx_core_ctl (f : Ctx → Ctx) : (s.ctx f).core.ctl = s.core.ctl := rfl
@[simp] theorem State.ctx_core_prev (f : Ctx → Ctx) : (s.ctx f).core.prev = s.core.prev := rfl
@[simp] theorem State.ctx_core_ctx (f : Ctx → Ctx) : (s.ctx f).core.ctx = f s.core.ctx := rfl
@[simp] theorem State.ctx_core_stall (f : Ctx → Ctx) : (s.ctx f).core.stall = s.core.stall := rfl
@[simp] theorem State.ctx_core_waiting (f : Ctx → Ctx) : (s.ctx f).core.waiting = s.core.waiting := rfl
@[simp] theorem State.ctx_core_wake (f : Ctx → Ctx) : (s.ctx f).core.wake = s.core.wake := rfl
@[simp] theorem State.ctx_core_supply (f : Ctx → Ctx) : (s.ctx f).core.supply = s.core.supply := rfl
@[simp] theorem State.ctx_core_bundles (f : Ctx → Ctx) : (s.ctx f).core.bundles = s.core.bundles := rfl
@[simp] theorem State.ctx_core_port (f : Ctx → Ctx) : (s.ctx f).core.port = s.core.port := rfl
@[simp] theorem State.ctx_core_boundary (f : Ctx → Ctx) : (s.ctx f).core.boundary = s.core.boundary := rfl
@[simp] theorem State.ctx_core_barcs (f : Ctx → Ctx) : (s.ctx f).core.barcs = s.core.barcs := rfl
@[simp] theorem State.ctx_core_arrived (f : Ctx → Ctx) : (s.ctx f).core.arrived = s.core.arrived := rfl
@[simp] theorem State.ctx_core_pass (f : Ctx → Ctx) : (s.ctx f).core.pass = s.core.pass := rfl
@[simp] theorem State.ctx_core_perf (f : Ctx → Ctx) : (s.ctx f).core.perf = s.core.perf := rfl
@[simp] theorem State.ctx_core_vault (f : Ctx → Ctx) : (s.ctx f).core.vault = s.core.vault := rfl
@[simp] theorem State.ctx_core_poison (f : Ctx → Ctx) : (s.ctx f).core.poison = s.core.poison := rfl
@[simp] theorem State.ctx_core_undo (f : Ctx → Ctx) : (s.ctx f).core.undo = s.core.undo := rfl
@[simp] theorem State.ctx_core_retained (f : Ctx → Ctx) : (s.ctx f).core.retained = s.core.retained := rfl
@[simp] theorem State.ctx_core_failed (f : Ctx → Ctx) : (s.ctx f).core.failed = s.core.failed := rfl
@[simp] theorem State.prov_agenda (f : Digest → Digest) : (s.prov f).agenda = s.agenda := rfl
@[simp] theorem State.prov_cycle (f : Digest → Digest) : (s.prov f).cycle = s.cycle := rfl
@[simp] theorem State.prov_cur (f : Digest → Digest) : (s.prov f).cur = s.cur := rfl
@[simp] theorem State.prov_others (f : Digest → Digest) : (s.prov f).others = s.others := rfl
@[simp] theorem State.prov_dev (f : Digest → Digest) : (s.prov f).dev = s.dev := rfl
@[simp] theorem State.prov_core_seq (f : Digest → Digest) : (s.prov f).core.seq = s.core.seq := rfl
@[simp] theorem State.prov_core_regs (f : Digest → Digest) : (s.prov f).core.regs = s.core.regs := rfl
@[simp] theorem State.prov_core_ports (f : Digest → Digest) : (s.prov f).core.ports = s.core.ports := rfl
@[simp] theorem State.prov_core_eng (f : Digest → Digest) : (s.prov f).core.eng = s.core.eng := rfl
@[simp] theorem State.prov_core_qs (f : Digest → Digest) : (s.prov f).core.qs = s.core.qs := rfl
@[simp] theorem State.prov_core_prev (f : Digest → Digest) : (s.prov f).core.prev = s.core.prev := rfl
@[simp] theorem State.prov_core_ctx (f : Digest → Digest) : (s.prov f).core.ctx = s.core.ctx := rfl
@[simp] theorem State.prov_core_stall (f : Digest → Digest) : (s.prov f).core.stall = s.core.stall := rfl
@[simp] theorem State.prov_core_waiting (f : Digest → Digest) : (s.prov f).core.waiting = s.core.waiting := rfl
@[simp] theorem State.prov_core_wake (f : Digest → Digest) : (s.prov f).core.wake = s.core.wake := rfl
@[simp] theorem State.prov_core_supply (f : Digest → Digest) : (s.prov f).core.supply = s.core.supply := rfl
@[simp] theorem State.prov_core_bundles (f : Digest → Digest) : (s.prov f).core.bundles = s.core.bundles := rfl
@[simp] theorem State.prov_core_port (f : Digest → Digest) : (s.prov f).core.port = s.core.port := rfl
@[simp] theorem State.prov_core_boundary (f : Digest → Digest) : (s.prov f).core.boundary = s.core.boundary := rfl
@[simp] theorem State.prov_core_barcs (f : Digest → Digest) : (s.prov f).core.barcs = s.core.barcs := rfl
@[simp] theorem State.prov_core_arrived (f : Digest → Digest) : (s.prov f).core.arrived = s.core.arrived := rfl
@[simp] theorem State.prov_core_pass (f : Digest → Digest) : (s.prov f).core.pass = s.core.pass := rfl
@[simp] theorem State.prov_core_perf (f : Digest → Digest) : (s.prov f).core.perf = s.core.perf := rfl
@[simp] theorem State.prov_core_vault (f : Digest → Digest) : (s.prov f).core.vault = s.core.vault := rfl
@[simp] theorem State.prov_core_poison (f : Digest → Digest) : (s.prov f).core.poison = s.core.poison := rfl
@[simp] theorem State.prov_core_undo (f : Digest → Digest) : (s.prov f).core.undo = s.core.undo := rfl
@[simp] theorem State.prov_core_retained (f : Digest → Digest) : (s.prov f).core.retained = s.core.retained := rfl
@[simp] theorem State.prov_core_failed (f : Digest → Digest) : (s.prov f).core.failed = s.core.failed := rfl
@[simp] theorem State.prov_digest (f : Digest → Digest) : (s.prov f).core.ctl.digest = f s.core.ctl.digest := rfl

/-! ### A result sent -/

@[simp] theorem State.result_agenda (slot lat : Nat) (d : Dest) (x m fl : Nat) (e : Option TrapInfo) : (s.result slot lat d x m fl e).agenda = s.agenda := rfl
@[simp] theorem State.result_cycle (slot lat : Nat) (d : Dest) (x m fl : Nat) (e : Option TrapInfo) : (s.result slot lat d x m fl e).cycle = s.cycle := rfl
@[simp] theorem State.result_cur (slot lat : Nat) (d : Dest) (x m fl : Nat) (e : Option TrapInfo) : (s.result slot lat d x m fl e).cur = s.cur := rfl
@[simp] theorem State.result_others (slot lat : Nat) (d : Dest) (x m fl : Nat) (e : Option TrapInfo) : (s.result slot lat d x m fl e).others = s.others := rfl
@[simp] theorem State.result_dev (slot lat : Nat) (d : Dest) (x m fl : Nat) (e : Option TrapInfo) : (s.result slot lat d x m fl e).dev = s.dev := rfl
@[simp] theorem State.result_core_seq (slot lat : Nat) (d : Dest) (x m fl : Nat) (e : Option TrapInfo) : (s.result slot lat d x m fl e).core.seq = s.core.seq := rfl
@[simp] theorem State.result_core_regs (slot lat : Nat) (d : Dest) (x m fl : Nat) (e : Option TrapInfo) : (s.result slot lat d x m fl e).core.regs = s.core.regs := rfl
@[simp] theorem State.result_core_ports (slot lat : Nat) (d : Dest) (x m fl : Nat) (e : Option TrapInfo) : (s.result slot lat d x m fl e).core.ports = s.core.ports := rfl
@[simp] theorem State.result_core_eng (slot lat : Nat) (d : Dest) (x m fl : Nat) (e : Option TrapInfo) : (s.result slot lat d x m fl e).core.eng = s.core.eng := rfl
@[simp] theorem State.result_core_ctl (slot lat : Nat) (d : Dest) (x m fl : Nat) (e : Option TrapInfo) : (s.result slot lat d x m fl e).core.ctl = s.core.ctl := rfl
@[simp] theorem State.result_core_prev (slot lat : Nat) (d : Dest) (x m fl : Nat) (e : Option TrapInfo) : (s.result slot lat d x m fl e).core.prev = s.core.prev := rfl
@[simp] theorem State.result_core_ctx (slot lat : Nat) (d : Dest) (x m fl : Nat) (e : Option TrapInfo) : (s.result slot lat d x m fl e).core.ctx = s.core.ctx := rfl
@[simp] theorem State.result_core_stall (slot lat : Nat) (d : Dest) (x m fl : Nat) (e : Option TrapInfo) : (s.result slot lat d x m fl e).core.stall = s.core.stall := rfl
@[simp] theorem State.result_core_waiting (slot lat : Nat) (d : Dest) (x m fl : Nat) (e : Option TrapInfo) : (s.result slot lat d x m fl e).core.waiting = s.core.waiting := rfl
@[simp] theorem State.result_core_wake (slot lat : Nat) (d : Dest) (x m fl : Nat) (e : Option TrapInfo) : (s.result slot lat d x m fl e).core.wake = s.core.wake := rfl
@[simp] theorem State.result_core_supply (slot lat : Nat) (d : Dest) (x m fl : Nat) (e : Option TrapInfo) : (s.result slot lat d x m fl e).core.supply = s.core.supply := rfl
@[simp] theorem State.result_core_bundles (slot lat : Nat) (d : Dest) (x m fl : Nat) (e : Option TrapInfo) : (s.result slot lat d x m fl e).core.bundles = s.core.bundles := rfl
@[simp] theorem State.result_core_port (slot lat : Nat) (d : Dest) (x m fl : Nat) (e : Option TrapInfo) : (s.result slot lat d x m fl e).core.port = s.core.port := rfl
@[simp] theorem State.result_core_boundary (slot lat : Nat) (d : Dest) (x m fl : Nat) (e : Option TrapInfo) : (s.result slot lat d x m fl e).core.boundary = s.core.boundary := rfl
@[simp] theorem State.result_core_barcs (slot lat : Nat) (d : Dest) (x m fl : Nat) (e : Option TrapInfo) : (s.result slot lat d x m fl e).core.barcs = s.core.barcs := rfl
@[simp] theorem State.result_core_arrived (slot lat : Nat) (d : Dest) (x m fl : Nat) (e : Option TrapInfo) : (s.result slot lat d x m fl e).core.arrived = s.core.arrived := rfl
@[simp] theorem State.result_core_pass (slot lat : Nat) (d : Dest) (x m fl : Nat) (e : Option TrapInfo) : (s.result slot lat d x m fl e).core.pass = s.core.pass := rfl
@[simp] theorem State.result_core_perf (slot lat : Nat) (d : Dest) (x m fl : Nat) (e : Option TrapInfo) : (s.result slot lat d x m fl e).core.perf = s.core.perf := rfl
@[simp] theorem State.result_core_vault (slot lat : Nat) (d : Dest) (x m fl : Nat) (e : Option TrapInfo) : (s.result slot lat d x m fl e).core.vault = s.core.vault := rfl
@[simp] theorem State.result_core_poison (slot lat : Nat) (d : Dest) (x m fl : Nat) (e : Option TrapInfo) : (s.result slot lat d x m fl e).core.poison = s.core.poison := rfl
@[simp] theorem State.result_core_undo (slot lat : Nat) (d : Dest) (x m fl : Nat) (e : Option TrapInfo) : (s.result slot lat d x m fl e).core.undo = s.core.undo := rfl
@[simp] theorem State.result_core_retained (slot lat : Nat) (d : Dest) (x m fl : Nat) (e : Option TrapInfo) : (s.result slot lat d x m fl e).core.retained = s.core.retained := rfl
@[simp] theorem State.result_core_failed (slot lat : Nat) (d : Dest) (x m fl : Nat) (e : Option TrapInfo) : (s.result slot lat d x m fl e).core.failed = s.core.failed := rfl
@[simp] theorem State.result_flight (slot lat : Nat) (d : Dest) (x m fl : Nat) (e : Option TrapInfo) : (s.result slot lat d x m fl e).core.qs.flight = insertDelivery ⟨s.cycle + lat, s.core.orderOf slot, d, x, m, fl, e⟩ s.core.qs.flight := rfl
@[simp] theorem State.result_qs_scale (slot lat : Nat) (d : Dest) (x m fl : Nat) (e : Option TrapInfo) : (s.result slot lat d x m fl e).core.qs.scale = s.core.qs.scale := rfl
@[simp] theorem State.result_qs_fills (slot lat : Nat) (d : Dest) (x m fl : Nat) (e : Option TrapInfo) : (s.result slot lat d x m fl e).core.qs.fills = s.core.qs.fills := rfl
@[simp] theorem State.result_qs_addr (slot lat : Nat) (d : Dest) (x m fl : Nat) (e : Option TrapInfo) : (s.result slot lat d x m fl e).core.qs.addr = s.core.qs.addr := rfl
@[simp] theorem State.result_qs_data (slot lat : Nat) (d : Dest) (x m fl : Nat) (e : Option TrapInfo) : (s.result slot lat d x m fl e).core.qs.data = s.core.qs.data := rfl
@[simp] theorem State.result_qs_rngKey (slot lat : Nat) (d : Dest) (x m fl : Nat) (e : Option TrapInfo) : (s.result slot lat d x m fl e).core.qs.rngKey = s.core.qs.rngKey := rfl
@[simp] theorem State.result_qs_rngCtr (slot lat : Nat) (d : Dest) (x m fl : Nat) (e : Option TrapInfo) : (s.result slot lat d x m fl e).core.qs.rngCtr = s.core.qs.rngCtr := rfl
@[simp] theorem State.result_qs_loads (slot lat : Nat) (d : Dest) (x m fl : Nat) (e : Option TrapInfo) : (s.result slot lat d x m fl e).core.qs.loads = s.core.qs.loads := rfl
@[simp] theorem State.result_qs_stores (slot lat : Nat) (d : Dest) (x m fl : Nat) (e : Option TrapInfo) : (s.result slot lat d x m fl e).core.qs.stores = s.core.qs.stores := rfl
@[simp] theorem State.result_qs_gathers (slot lat : Nat) (d : Dest) (x m fl : Nat) (e : Option TrapInfo) : (s.result slot lat d x m fl e).core.qs.gathers = s.core.qs.gathers := rfl
@[simp] theorem State.result_qs_nexts (slot lat : Nat) (d : Dest) (x m fl : Nat) (e : Option TrapInfo) : (s.result slot lat d x m fl e).core.qs.nexts = s.core.qs.nexts := rfl
@[simp] theorem State.result_qs_lanes (slot lat : Nat) (d : Dest) (x m fl : Nat) (e : Option TrapInfo) : (s.result slot lat d x m fl e).core.qs.lanes = s.core.qs.lanes := rfl
@[simp] theorem State.result_qs_iaFree (slot lat : Nat) (d : Dest) (x m fl : Nat) (e : Option TrapInfo) : (s.result slot lat d x m fl e).core.qs.iaFree = s.core.qs.iaFree := rfl
@[simp] theorem State.result_qs_ibFree (slot lat : Nat) (d : Dest) (x m fl : Nat) (e : Option TrapInfo) : (s.result slot lat d x m fl e).core.qs.ibFree = s.core.qs.ibFree := rfl
@[simp] theorem State.result_qs_litReady (slot lat : Nat) (d : Dest) (x m fl : Nat) (e : Option TrapInfo) : (s.result slot lat d x m fl e).core.qs.litReady = s.core.qs.litReady := rfl

/-! ### Changes to a core -/

@[simp] theorem Core.note_seq (t : TrapInfo) : (c.note t).seq = c.seq := rfl
@[simp] theorem Core.note_regs (t : TrapInfo) : (c.note t).regs = c.regs := rfl
@[simp] theorem Core.note_ports (t : TrapInfo) : (c.note t).ports = c.ports := rfl
@[simp] theorem Core.note_eng (t : TrapInfo) : (c.note t).eng = c.eng := rfl
@[simp] theorem Core.note_qs (t : TrapInfo) : (c.note t).qs = c.qs := rfl
@[simp] theorem Core.note_ctl (t : TrapInfo) : (c.note t).ctl = c.ctl := rfl
@[simp] theorem Core.note_prev (t : TrapInfo) : (c.note t).prev = c.prev := rfl
@[simp] theorem Core.note_ctx (t : TrapInfo) : (c.note t).ctx = c.ctx := rfl
@[simp] theorem Core.note_stall (t : TrapInfo) : (c.note t).stall = c.stall := rfl
@[simp] theorem Core.note_waiting (t : TrapInfo) : (c.note t).waiting = c.waiting := rfl
@[simp] theorem Core.note_wake (t : TrapInfo) : (c.note t).wake = c.wake := rfl
@[simp] theorem Core.note_supply (t : TrapInfo) : (c.note t).supply = c.supply := rfl
@[simp] theorem Core.note_bundles (t : TrapInfo) : (c.note t).bundles = c.bundles := rfl
@[simp] theorem Core.note_port (t : TrapInfo) : (c.note t).port = c.port := rfl
@[simp] theorem Core.note_boundary (t : TrapInfo) : (c.note t).boundary = c.boundary ++ [t] := rfl
@[simp] theorem Core.note_barcs (t : TrapInfo) : (c.note t).barcs = c.barcs := rfl
@[simp] theorem Core.note_arrived (t : TrapInfo) : (c.note t).arrived = c.arrived := rfl
@[simp] theorem Core.note_pass (t : TrapInfo) : (c.note t).pass = c.pass := rfl
@[simp] theorem Core.note_perf (t : TrapInfo) : (c.note t).perf = c.perf := rfl
@[simp] theorem Core.note_vault (t : TrapInfo) : (c.note t).vault = c.vault := rfl
@[simp] theorem Core.note_poison (t : TrapInfo) : (c.note t).poison = c.poison := rfl
@[simp] theorem Core.note_undo (t : TrapInfo) : (c.note t).undo = c.undo := rfl
@[simp] theorem Core.note_retained (t : TrapInfo) : (c.note t).retained = c.retained := rfl
@[simp] theorem Core.note_failed (t : TrapInfo) : (c.note t).failed = c.failed := rfl
@[simp] theorem Core.send_seq (d : Delivery) : (c.send d).seq = c.seq := rfl
@[simp] theorem Core.send_regs (d : Delivery) : (c.send d).regs = c.regs := rfl
@[simp] theorem Core.send_ports (d : Delivery) : (c.send d).ports = c.ports := rfl
@[simp] theorem Core.send_eng (d : Delivery) : (c.send d).eng = c.eng := rfl
@[simp] theorem Core.send_ctl (d : Delivery) : (c.send d).ctl = c.ctl := rfl
@[simp] theorem Core.send_prev (d : Delivery) : (c.send d).prev = c.prev := rfl
@[simp] theorem Core.send_ctx (d : Delivery) : (c.send d).ctx = c.ctx := rfl
@[simp] theorem Core.send_stall (d : Delivery) : (c.send d).stall = c.stall := rfl
@[simp] theorem Core.send_waiting (d : Delivery) : (c.send d).waiting = c.waiting := rfl
@[simp] theorem Core.send_wake (d : Delivery) : (c.send d).wake = c.wake := rfl
@[simp] theorem Core.send_supply (d : Delivery) : (c.send d).supply = c.supply := rfl
@[simp] theorem Core.send_bundles (d : Delivery) : (c.send d).bundles = c.bundles := rfl
@[simp] theorem Core.send_port (d : Delivery) : (c.send d).port = c.port := rfl
@[simp] theorem Core.send_boundary (d : Delivery) : (c.send d).boundary = c.boundary := rfl
@[simp] theorem Core.send_barcs (d : Delivery) : (c.send d).barcs = c.barcs := rfl
@[simp] theorem Core.send_arrived (d : Delivery) : (c.send d).arrived = c.arrived := rfl
@[simp] theorem Core.send_pass (d : Delivery) : (c.send d).pass = c.pass := rfl
@[simp] theorem Core.send_perf (d : Delivery) : (c.send d).perf = c.perf := rfl
@[simp] theorem Core.send_vault (d : Delivery) : (c.send d).vault = c.vault := rfl
@[simp] theorem Core.send_poison (d : Delivery) : (c.send d).poison = c.poison := rfl
@[simp] theorem Core.send_undo (d : Delivery) : (c.send d).undo = c.undo := rfl
@[simp] theorem Core.send_retained (d : Delivery) : (c.send d).retained = c.retained := rfl
@[simp] theorem Core.send_failed (d : Delivery) : (c.send d).failed = c.failed := rfl
@[simp] theorem Core.setPorts_seq (f : Ports → Ports) : (c.setPorts f).seq = c.seq := rfl
@[simp] theorem Core.setPorts_regs (f : Ports → Ports) : (c.setPorts f).regs = c.regs := rfl
@[simp] theorem Core.setPorts_ports (f : Ports → Ports) : (c.setPorts f).ports = f c.ports := rfl
@[simp] theorem Core.setPorts_eng (f : Ports → Ports) : (c.setPorts f).eng = c.eng := rfl
@[simp] theorem Core.setPorts_qs (f : Ports → Ports) : (c.setPorts f).qs = c.qs := rfl
@[simp] theorem Core.setPorts_ctl (f : Ports → Ports) : (c.setPorts f).ctl = c.ctl := rfl
@[simp] theorem Core.setPorts_prev (f : Ports → Ports) : (c.setPorts f).prev = c.prev := rfl
@[simp] theorem Core.setPorts_ctx (f : Ports → Ports) : (c.setPorts f).ctx = c.ctx := rfl
@[simp] theorem Core.setPorts_stall (f : Ports → Ports) : (c.setPorts f).stall = c.stall := rfl
@[simp] theorem Core.setPorts_waiting (f : Ports → Ports) : (c.setPorts f).waiting = c.waiting := rfl
@[simp] theorem Core.setPorts_wake (f : Ports → Ports) : (c.setPorts f).wake = c.wake := rfl
@[simp] theorem Core.setPorts_supply (f : Ports → Ports) : (c.setPorts f).supply = c.supply := rfl
@[simp] theorem Core.setPorts_bundles (f : Ports → Ports) : (c.setPorts f).bundles = c.bundles := rfl
@[simp] theorem Core.setPorts_port (f : Ports → Ports) : (c.setPorts f).port = c.port := rfl
@[simp] theorem Core.setPorts_boundary (f : Ports → Ports) : (c.setPorts f).boundary = c.boundary := rfl
@[simp] theorem Core.setPorts_barcs (f : Ports → Ports) : (c.setPorts f).barcs = c.barcs := rfl
@[simp] theorem Core.setPorts_arrived (f : Ports → Ports) : (c.setPorts f).arrived = c.arrived := rfl
@[simp] theorem Core.setPorts_pass (f : Ports → Ports) : (c.setPorts f).pass = c.pass := rfl
@[simp] theorem Core.setPorts_perf (f : Ports → Ports) : (c.setPorts f).perf = c.perf := rfl
@[simp] theorem Core.setPorts_vault (f : Ports → Ports) : (c.setPorts f).vault = c.vault := rfl
@[simp] theorem Core.setPorts_poison (f : Ports → Ports) : (c.setPorts f).poison = c.poison := rfl
@[simp] theorem Core.setPorts_undo (f : Ports → Ports) : (c.setPorts f).undo = c.undo := rfl
@[simp] theorem Core.setPorts_retained (f : Ports → Ports) : (c.setPorts f).retained = c.retained := rfl
@[simp] theorem Core.setPorts_failed (f : Ports → Ports) : (c.setPorts f).failed = c.failed := rfl
@[simp] theorem Core.pushLoad_seq (e : CEntry) : (c.pushLoad e).seq = c.seq := rfl
@[simp] theorem Core.pushLoad_regs (e : CEntry) : (c.pushLoad e).regs = c.regs := rfl
@[simp] theorem Core.pushLoad_ports (e : CEntry) : (c.pushLoad e).ports = c.ports := rfl
@[simp] theorem Core.pushLoad_eng (e : CEntry) : (c.pushLoad e).eng = c.eng := rfl
@[simp] theorem Core.pushLoad_ctl (e : CEntry) : (c.pushLoad e).ctl = c.ctl := rfl
@[simp] theorem Core.pushLoad_prev (e : CEntry) : (c.pushLoad e).prev = c.prev := rfl
@[simp] theorem Core.pushLoad_ctx (e : CEntry) : (c.pushLoad e).ctx = c.ctx := rfl
@[simp] theorem Core.pushLoad_stall (e : CEntry) : (c.pushLoad e).stall = c.stall := rfl
@[simp] theorem Core.pushLoad_waiting (e : CEntry) : (c.pushLoad e).waiting = c.waiting := rfl
@[simp] theorem Core.pushLoad_wake (e : CEntry) : (c.pushLoad e).wake = c.wake := rfl
@[simp] theorem Core.pushLoad_supply (e : CEntry) : (c.pushLoad e).supply = c.supply := rfl
@[simp] theorem Core.pushLoad_bundles (e : CEntry) : (c.pushLoad e).bundles = c.bundles := rfl
@[simp] theorem Core.pushLoad_port (e : CEntry) : (c.pushLoad e).port = c.port := rfl
@[simp] theorem Core.pushLoad_boundary (e : CEntry) : (c.pushLoad e).boundary = c.boundary := rfl
@[simp] theorem Core.pushLoad_barcs (e : CEntry) : (c.pushLoad e).barcs = c.barcs := rfl
@[simp] theorem Core.pushLoad_arrived (e : CEntry) : (c.pushLoad e).arrived = c.arrived := rfl
@[simp] theorem Core.pushLoad_pass (e : CEntry) : (c.pushLoad e).pass = c.pass := rfl
@[simp] theorem Core.pushLoad_perf (e : CEntry) : (c.pushLoad e).perf = c.perf := rfl
@[simp] theorem Core.pushLoad_vault (e : CEntry) : (c.pushLoad e).vault = c.vault := rfl
@[simp] theorem Core.pushLoad_poison (e : CEntry) : (c.pushLoad e).poison = c.poison := rfl
@[simp] theorem Core.pushLoad_undo (e : CEntry) : (c.pushLoad e).undo = c.undo := rfl
@[simp] theorem Core.pushLoad_retained (e : CEntry) : (c.pushLoad e).retained = c.retained := rfl
@[simp] theorem Core.pushLoad_failed (e : CEntry) : (c.pushLoad e).failed = c.failed := rfl
@[simp] theorem Core.pushStore_seq (e : CEntry) : (c.pushStore e).seq = c.seq := rfl
@[simp] theorem Core.pushStore_regs (e : CEntry) : (c.pushStore e).regs = c.regs := rfl
@[simp] theorem Core.pushStore_ports (e : CEntry) : (c.pushStore e).ports = c.ports := rfl
@[simp] theorem Core.pushStore_eng (e : CEntry) : (c.pushStore e).eng = c.eng := rfl
@[simp] theorem Core.pushStore_ctl (e : CEntry) : (c.pushStore e).ctl = c.ctl := rfl
@[simp] theorem Core.pushStore_prev (e : CEntry) : (c.pushStore e).prev = c.prev := rfl
@[simp] theorem Core.pushStore_ctx (e : CEntry) : (c.pushStore e).ctx = c.ctx := rfl
@[simp] theorem Core.pushStore_stall (e : CEntry) : (c.pushStore e).stall = c.stall := rfl
@[simp] theorem Core.pushStore_waiting (e : CEntry) : (c.pushStore e).waiting = c.waiting := rfl
@[simp] theorem Core.pushStore_wake (e : CEntry) : (c.pushStore e).wake = c.wake := rfl
@[simp] theorem Core.pushStore_supply (e : CEntry) : (c.pushStore e).supply = c.supply := rfl
@[simp] theorem Core.pushStore_bundles (e : CEntry) : (c.pushStore e).bundles = c.bundles := rfl
@[simp] theorem Core.pushStore_port (e : CEntry) : (c.pushStore e).port = c.port := rfl
@[simp] theorem Core.pushStore_boundary (e : CEntry) : (c.pushStore e).boundary = c.boundary := rfl
@[simp] theorem Core.pushStore_barcs (e : CEntry) : (c.pushStore e).barcs = c.barcs := rfl
@[simp] theorem Core.pushStore_arrived (e : CEntry) : (c.pushStore e).arrived = c.arrived := rfl
@[simp] theorem Core.pushStore_pass (e : CEntry) : (c.pushStore e).pass = c.pass := rfl
@[simp] theorem Core.pushStore_perf (e : CEntry) : (c.pushStore e).perf = c.perf := rfl
@[simp] theorem Core.pushStore_vault (e : CEntry) : (c.pushStore e).vault = c.vault := rfl
@[simp] theorem Core.pushStore_poison (e : CEntry) : (c.pushStore e).poison = c.poison := rfl
@[simp] theorem Core.pushStore_undo (e : CEntry) : (c.pushStore e).undo = c.undo := rfl
@[simp] theorem Core.pushStore_retained (e : CEntry) : (c.pushStore e).retained = c.retained := rfl
@[simp] theorem Core.pushStore_failed (e : CEntry) : (c.pushStore e).failed = c.failed := rfl
@[simp] theorem Core.addFlags_seq (t f : Nat) : (c.addFlags t f).seq = c.seq := rfl
@[simp] theorem Core.addFlags_regs (t f : Nat) : (c.addFlags t f).regs = c.regs := rfl
@[simp] theorem Core.addFlags_ports (t f : Nat) : (c.addFlags t f).ports = c.ports := rfl
@[simp] theorem Core.addFlags_eng (t f : Nat) : (c.addFlags t f).eng = c.eng := rfl
@[simp] theorem Core.addFlags_qs (t f : Nat) : (c.addFlags t f).qs = c.qs := rfl
@[simp] theorem Core.addFlags_prev (t f : Nat) : (c.addFlags t f).prev = c.prev := rfl
@[simp] theorem Core.addFlags_ctx (t f : Nat) : (c.addFlags t f).ctx = c.ctx := rfl
@[simp] theorem Core.addFlags_stall (t f : Nat) : (c.addFlags t f).stall = c.stall := rfl
@[simp] theorem Core.addFlags_waiting (t f : Nat) : (c.addFlags t f).waiting = c.waiting := rfl
@[simp] theorem Core.addFlags_wake (t f : Nat) : (c.addFlags t f).wake = c.wake := rfl
@[simp] theorem Core.addFlags_supply (t f : Nat) : (c.addFlags t f).supply = c.supply := rfl
@[simp] theorem Core.addFlags_bundles (t f : Nat) : (c.addFlags t f).bundles = c.bundles := rfl
@[simp] theorem Core.addFlags_port (t f : Nat) : (c.addFlags t f).port = c.port := rfl
@[simp] theorem Core.addFlags_boundary (t f : Nat) : (c.addFlags t f).boundary = c.boundary := rfl
@[simp] theorem Core.addFlags_barcs (t f : Nat) : (c.addFlags t f).barcs = c.barcs := rfl
@[simp] theorem Core.addFlags_arrived (t f : Nat) : (c.addFlags t f).arrived = c.arrived := rfl
@[simp] theorem Core.addFlags_pass (t f : Nat) : (c.addFlags t f).pass = c.pass := rfl
@[simp] theorem Core.addFlags_perf (t f : Nat) : (c.addFlags t f).perf = c.perf := rfl
@[simp] theorem Core.addFlags_vault (t f : Nat) : (c.addFlags t f).vault = c.vault := rfl
@[simp] theorem Core.addFlags_poison (t f : Nat) : (c.addFlags t f).poison = c.poison := rfl
@[simp] theorem Core.addFlags_undo (t f : Nat) : (c.addFlags t f).undo = c.undo := rfl
@[simp] theorem Core.addFlags_retained (t f : Nat) : (c.addFlags t f).retained = c.retained := rfl
@[simp] theorem Core.addFlags_failed (t f : Nat) : (c.addFlags t f).failed = c.failed := rfl
@[simp] theorem Core.setTile_seq (n : Nat) (x : TileBits) : (c.setTile n x).seq = c.seq := rfl
@[simp] theorem Core.setTile_regs (n : Nat) (x : TileBits) : (c.setTile n x).regs = c.regs := rfl
@[simp] theorem Core.setTile_ports (n : Nat) (x : TileBits) : (c.setTile n x).ports = c.ports := rfl
@[simp] theorem Core.setTile_qs (n : Nat) (x : TileBits) : (c.setTile n x).qs = c.qs := rfl
@[simp] theorem Core.setTile_ctl (n : Nat) (x : TileBits) : (c.setTile n x).ctl = c.ctl := rfl
@[simp] theorem Core.setTile_prev (n : Nat) (x : TileBits) : (c.setTile n x).prev = c.prev := rfl
@[simp] theorem Core.setTile_ctx (n : Nat) (x : TileBits) : (c.setTile n x).ctx = c.ctx := rfl
@[simp] theorem Core.setTile_stall (n : Nat) (x : TileBits) : (c.setTile n x).stall = c.stall := rfl
@[simp] theorem Core.setTile_waiting (n : Nat) (x : TileBits) : (c.setTile n x).waiting = c.waiting := rfl
@[simp] theorem Core.setTile_wake (n : Nat) (x : TileBits) : (c.setTile n x).wake = c.wake := rfl
@[simp] theorem Core.setTile_supply (n : Nat) (x : TileBits) : (c.setTile n x).supply = c.supply := rfl
@[simp] theorem Core.setTile_bundles (n : Nat) (x : TileBits) : (c.setTile n x).bundles = c.bundles := rfl
@[simp] theorem Core.setTile_port (n : Nat) (x : TileBits) : (c.setTile n x).port = c.port := rfl
@[simp] theorem Core.setTile_boundary (n : Nat) (x : TileBits) : (c.setTile n x).boundary = c.boundary := rfl
@[simp] theorem Core.setTile_barcs (n : Nat) (x : TileBits) : (c.setTile n x).barcs = c.barcs := rfl
@[simp] theorem Core.setTile_arrived (n : Nat) (x : TileBits) : (c.setTile n x).arrived = c.arrived := rfl
@[simp] theorem Core.setTile_pass (n : Nat) (x : TileBits) : (c.setTile n x).pass = c.pass := rfl
@[simp] theorem Core.setTile_perf (n : Nat) (x : TileBits) : (c.setTile n x).perf = c.perf := rfl
@[simp] theorem Core.setTile_vault (n : Nat) (x : TileBits) : (c.setTile n x).vault = c.vault := rfl
@[simp] theorem Core.setTile_poison (n : Nat) (x : TileBits) : (c.setTile n x).poison = c.poison := rfl
@[simp] theorem Core.setTile_undo (n : Nat) (x : TileBits) : (c.setTile n x).undo = c.undo := rfl
@[simp] theorem Core.setTile_retained (n : Nat) (x : TileBits) : (c.setTile n x).retained = c.retained := rfl
@[simp] theorem Core.setTile_failed (n : Nat) (x : TileBits) : (c.setTile n x).failed = c.failed := rfl
@[simp] theorem Core.setTileFlag_seq (n : Nat) (x : TileBits) (z : Bool) : (c.setTileFlag n x z).seq = c.seq := rfl
@[simp] theorem Core.setTileFlag_regs (n : Nat) (x : TileBits) (z : Bool) : (c.setTileFlag n x z).regs = c.regs := rfl
@[simp] theorem Core.setTileFlag_ports (n : Nat) (x : TileBits) (z : Bool) : (c.setTileFlag n x z).ports = c.ports := rfl
@[simp] theorem Core.setTileFlag_qs (n : Nat) (x : TileBits) (z : Bool) : (c.setTileFlag n x z).qs = c.qs := rfl
@[simp] theorem Core.setTileFlag_ctl (n : Nat) (x : TileBits) (z : Bool) : (c.setTileFlag n x z).ctl = c.ctl := rfl
@[simp] theorem Core.setTileFlag_prev (n : Nat) (x : TileBits) (z : Bool) : (c.setTileFlag n x z).prev = c.prev := rfl
@[simp] theorem Core.setTileFlag_ctx (n : Nat) (x : TileBits) (z : Bool) : (c.setTileFlag n x z).ctx = c.ctx := rfl
@[simp] theorem Core.setTileFlag_stall (n : Nat) (x : TileBits) (z : Bool) : (c.setTileFlag n x z).stall = c.stall := rfl
@[simp] theorem Core.setTileFlag_waiting (n : Nat) (x : TileBits) (z : Bool) : (c.setTileFlag n x z).waiting = c.waiting := rfl
@[simp] theorem Core.setTileFlag_wake (n : Nat) (x : TileBits) (z : Bool) : (c.setTileFlag n x z).wake = c.wake := rfl
@[simp] theorem Core.setTileFlag_supply (n : Nat) (x : TileBits) (z : Bool) : (c.setTileFlag n x z).supply = c.supply := rfl
@[simp] theorem Core.setTileFlag_bundles (n : Nat) (x : TileBits) (z : Bool) : (c.setTileFlag n x z).bundles = c.bundles := rfl
@[simp] theorem Core.setTileFlag_port (n : Nat) (x : TileBits) (z : Bool) : (c.setTileFlag n x z).port = c.port := rfl
@[simp] theorem Core.setTileFlag_boundary (n : Nat) (x : TileBits) (z : Bool) : (c.setTileFlag n x z).boundary = c.boundary := rfl
@[simp] theorem Core.setTileFlag_barcs (n : Nat) (x : TileBits) (z : Bool) : (c.setTileFlag n x z).barcs = c.barcs := rfl
@[simp] theorem Core.setTileFlag_arrived (n : Nat) (x : TileBits) (z : Bool) : (c.setTileFlag n x z).arrived = c.arrived := rfl
@[simp] theorem Core.setTileFlag_pass (n : Nat) (x : TileBits) (z : Bool) : (c.setTileFlag n x z).pass = c.pass := rfl
@[simp] theorem Core.setTileFlag_perf (n : Nat) (x : TileBits) (z : Bool) : (c.setTileFlag n x z).perf = c.perf := rfl
@[simp] theorem Core.setTileFlag_vault (n : Nat) (x : TileBits) (z : Bool) : (c.setTileFlag n x z).vault = c.vault := rfl
@[simp] theorem Core.setTileFlag_poison (n : Nat) (x : TileBits) (z : Bool) : (c.setTileFlag n x z).poison = c.poison := rfl
@[simp] theorem Core.setTileFlag_undo (n : Nat) (x : TileBits) (z : Bool) : (c.setTileFlag n x z).undo = c.undo := rfl
@[simp] theorem Core.setTileFlag_retained (n : Nat) (x : TileBits) (z : Bool) : (c.setTileFlag n x z).retained = c.retained := rfl
@[simp] theorem Core.setTileFlag_failed (n : Nat) (x : TileBits) (z : Bool) : (c.setTileFlag n x z).failed = c.failed := rfl
@[simp] theorem Core.setRing_seq (n : Nat) (r : Ring) : (c.setRing n r).seq = c.seq := rfl
@[simp] theorem Core.setRing_ports (n : Nat) (r : Ring) : (c.setRing n r).ports = c.ports := rfl
@[simp] theorem Core.setRing_eng (n : Nat) (r : Ring) : (c.setRing n r).eng = c.eng := rfl
@[simp] theorem Core.setRing_qs (n : Nat) (r : Ring) : (c.setRing n r).qs = c.qs := rfl
@[simp] theorem Core.setRing_ctl (n : Nat) (r : Ring) : (c.setRing n r).ctl = c.ctl := rfl
@[simp] theorem Core.setRing_prev (n : Nat) (r : Ring) : (c.setRing n r).prev = c.prev := rfl
@[simp] theorem Core.setRing_ctx (n : Nat) (r : Ring) : (c.setRing n r).ctx = c.ctx := rfl
@[simp] theorem Core.setRing_stall (n : Nat) (r : Ring) : (c.setRing n r).stall = c.stall := rfl
@[simp] theorem Core.setRing_waiting (n : Nat) (r : Ring) : (c.setRing n r).waiting = c.waiting := rfl
@[simp] theorem Core.setRing_wake (n : Nat) (r : Ring) : (c.setRing n r).wake = c.wake := rfl
@[simp] theorem Core.setRing_supply (n : Nat) (r : Ring) : (c.setRing n r).supply = c.supply := rfl
@[simp] theorem Core.setRing_bundles (n : Nat) (r : Ring) : (c.setRing n r).bundles = c.bundles := rfl
@[simp] theorem Core.setRing_port (n : Nat) (r : Ring) : (c.setRing n r).port = c.port := rfl
@[simp] theorem Core.setRing_boundary (n : Nat) (r : Ring) : (c.setRing n r).boundary = c.boundary := rfl
@[simp] theorem Core.setRing_barcs (n : Nat) (r : Ring) : (c.setRing n r).barcs = c.barcs := rfl
@[simp] theorem Core.setRing_arrived (n : Nat) (r : Ring) : (c.setRing n r).arrived = c.arrived := rfl
@[simp] theorem Core.setRing_pass (n : Nat) (r : Ring) : (c.setRing n r).pass = c.pass := rfl
@[simp] theorem Core.setRing_perf (n : Nat) (r : Ring) : (c.setRing n r).perf = c.perf := rfl
@[simp] theorem Core.setRing_vault (n : Nat) (r : Ring) : (c.setRing n r).vault = c.vault := rfl
@[simp] theorem Core.setRing_poison (n : Nat) (r : Ring) : (c.setRing n r).poison = c.poison := rfl
@[simp] theorem Core.setRing_undo (n : Nat) (r : Ring) : (c.setRing n r).undo = c.undo := rfl
@[simp] theorem Core.setRing_retained (n : Nat) (r : Ring) : (c.setRing n r).retained = c.retained := rfl
@[simp] theorem Core.setRing_failed (n : Nat) (r : Ring) : (c.setRing n r).failed = c.failed := rfl
@[simp] theorem Core.setC_seq (n x : Nat) : (c.setC n x).seq = c.seq := rfl
@[simp] theorem Core.setC_regs (n x : Nat) : (c.setC n x).regs = c.regs := rfl
@[simp] theorem Core.setC_ports (n x : Nat) : (c.setC n x).ports = c.ports := rfl
@[simp] theorem Core.setC_qs (n x : Nat) : (c.setC n x).qs = c.qs := rfl
@[simp] theorem Core.setC_ctl (n x : Nat) : (c.setC n x).ctl = c.ctl := rfl
@[simp] theorem Core.setC_prev (n x : Nat) : (c.setC n x).prev = c.prev := rfl
@[simp] theorem Core.setC_ctx (n x : Nat) : (c.setC n x).ctx = c.ctx := rfl
@[simp] theorem Core.setC_stall (n x : Nat) : (c.setC n x).stall = c.stall := rfl
@[simp] theorem Core.setC_waiting (n x : Nat) : (c.setC n x).waiting = c.waiting := rfl
@[simp] theorem Core.setC_wake (n x : Nat) : (c.setC n x).wake = c.wake := rfl
@[simp] theorem Core.setC_supply (n x : Nat) : (c.setC n x).supply = c.supply := rfl
@[simp] theorem Core.setC_bundles (n x : Nat) : (c.setC n x).bundles = c.bundles := rfl
@[simp] theorem Core.setC_port (n x : Nat) : (c.setC n x).port = c.port := rfl
@[simp] theorem Core.setC_boundary (n x : Nat) : (c.setC n x).boundary = c.boundary := rfl
@[simp] theorem Core.setC_barcs (n x : Nat) : (c.setC n x).barcs = c.barcs := rfl
@[simp] theorem Core.setC_arrived (n x : Nat) : (c.setC n x).arrived = c.arrived := rfl
@[simp] theorem Core.setC_pass (n x : Nat) : (c.setC n x).pass = c.pass := rfl
@[simp] theorem Core.setC_perf (n x : Nat) : (c.setC n x).perf = c.perf := rfl
@[simp] theorem Core.setC_vault (n x : Nat) : (c.setC n x).vault = c.vault := rfl
@[simp] theorem Core.setC_poison (n x : Nat) : (c.setC n x).poison = c.poison := rfl
@[simp] theorem Core.setC_undo (n x : Nat) : (c.setC n x).undo = c.undo := rfl
@[simp] theorem Core.setC_retained (n x : Nat) : (c.setC n x).retained = c.retained := rfl
@[simp] theorem Core.setC_failed (n x : Nat) : (c.setC n x).failed = c.failed := rfl
@[simp] theorem Core.setBound_seq (k x : Nat) : (c.setBound k x).seq = c.seq := rfl
@[simp] theorem Core.setBound_regs (k x : Nat) : (c.setBound k x).regs = c.regs := rfl
@[simp] theorem Core.setBound_ports (k x : Nat) : (c.setBound k x).ports = c.ports := rfl
@[simp] theorem Core.setBound_qs (k x : Nat) : (c.setBound k x).qs = c.qs := rfl
@[simp] theorem Core.setBound_ctl (k x : Nat) : (c.setBound k x).ctl = c.ctl := rfl
@[simp] theorem Core.setBound_prev (k x : Nat) : (c.setBound k x).prev = c.prev := rfl
@[simp] theorem Core.setBound_ctx (k x : Nat) : (c.setBound k x).ctx = c.ctx := rfl
@[simp] theorem Core.setBound_stall (k x : Nat) : (c.setBound k x).stall = c.stall := rfl
@[simp] theorem Core.setBound_waiting (k x : Nat) : (c.setBound k x).waiting = c.waiting := rfl
@[simp] theorem Core.setBound_wake (k x : Nat) : (c.setBound k x).wake = c.wake := rfl
@[simp] theorem Core.setBound_supply (k x : Nat) : (c.setBound k x).supply = c.supply := rfl
@[simp] theorem Core.setBound_bundles (k x : Nat) : (c.setBound k x).bundles = c.bundles := rfl
@[simp] theorem Core.setBound_port (k x : Nat) : (c.setBound k x).port = c.port := rfl
@[simp] theorem Core.setBound_boundary (k x : Nat) : (c.setBound k x).boundary = c.boundary := rfl
@[simp] theorem Core.setBound_barcs (k x : Nat) : (c.setBound k x).barcs = c.barcs := rfl
@[simp] theorem Core.setBound_arrived (k x : Nat) : (c.setBound k x).arrived = c.arrived := rfl
@[simp] theorem Core.setBound_pass (k x : Nat) : (c.setBound k x).pass = c.pass := rfl
@[simp] theorem Core.setBound_perf (k x : Nat) : (c.setBound k x).perf = c.perf := rfl
@[simp] theorem Core.setBound_vault (k x : Nat) : (c.setBound k x).vault = c.vault := rfl
@[simp] theorem Core.setBound_poison (k x : Nat) : (c.setBound k x).poison = c.poison := rfl
@[simp] theorem Core.setBound_undo (k x : Nat) : (c.setBound k x).undo = c.undo := rfl
@[simp] theorem Core.setBound_retained (k x : Nat) : (c.setBound k x).retained = c.retained := rfl
@[simp] theorem Core.setBound_failed (k x : Nat) : (c.setBound k x).failed = c.failed := rfl
@[simp] theorem Core.inFlight_seq (due n : Nat) : (c.inFlight due n).seq = c.seq := rfl
@[simp] theorem Core.inFlight_regs (due n : Nat) : (c.inFlight due n).regs = c.regs := rfl
@[simp] theorem Core.inFlight_ports (due n : Nat) : (c.inFlight due n).ports = c.ports := rfl
@[simp] theorem Core.inFlight_qs (due n : Nat) : (c.inFlight due n).qs = c.qs := rfl
@[simp] theorem Core.inFlight_ctl (due n : Nat) : (c.inFlight due n).ctl = c.ctl := rfl
@[simp] theorem Core.inFlight_prev (due n : Nat) : (c.inFlight due n).prev = c.prev := rfl
@[simp] theorem Core.inFlight_ctx (due n : Nat) : (c.inFlight due n).ctx = c.ctx := rfl
@[simp] theorem Core.inFlight_stall (due n : Nat) : (c.inFlight due n).stall = c.stall := rfl
@[simp] theorem Core.inFlight_waiting (due n : Nat) : (c.inFlight due n).waiting = c.waiting := rfl
@[simp] theorem Core.inFlight_wake (due n : Nat) : (c.inFlight due n).wake = c.wake := rfl
@[simp] theorem Core.inFlight_supply (due n : Nat) : (c.inFlight due n).supply = c.supply := rfl
@[simp] theorem Core.inFlight_bundles (due n : Nat) : (c.inFlight due n).bundles = c.bundles := rfl
@[simp] theorem Core.inFlight_port (due n : Nat) : (c.inFlight due n).port = c.port := rfl
@[simp] theorem Core.inFlight_boundary (due n : Nat) : (c.inFlight due n).boundary = c.boundary := rfl
@[simp] theorem Core.inFlight_barcs (due n : Nat) : (c.inFlight due n).barcs = c.barcs := rfl
@[simp] theorem Core.inFlight_arrived (due n : Nat) : (c.inFlight due n).arrived = c.arrived := rfl
@[simp] theorem Core.inFlight_pass (due n : Nat) : (c.inFlight due n).pass = c.pass := rfl
@[simp] theorem Core.inFlight_perf (due n : Nat) : (c.inFlight due n).perf = c.perf := rfl
@[simp] theorem Core.inFlight_vault (due n : Nat) : (c.inFlight due n).vault = c.vault := rfl
@[simp] theorem Core.inFlight_poison (due n : Nat) : (c.inFlight due n).poison = c.poison := rfl
@[simp] theorem Core.inFlight_undo (due n : Nat) : (c.inFlight due n).undo = c.undo := rfl
@[simp] theorem Core.inFlight_retained (due n : Nat) : (c.inFlight due n).retained = c.retained := rfl
@[simp] theorem Core.inFlight_failed (due n : Nat) : (c.inFlight due n).failed = c.failed := rfl
@[simp] theorem Core.own_seq (r : List (Nat × Nat)) (due : Nat) : (c.own r due).seq = c.seq := rfl
@[simp] theorem Core.own_regs (r : List (Nat × Nat)) (due : Nat) : (c.own r due).regs = c.regs := rfl
@[simp] theorem Core.own_ports (r : List (Nat × Nat)) (due : Nat) : (c.own r due).ports = c.ports := rfl
@[simp] theorem Core.own_qs (r : List (Nat × Nat)) (due : Nat) : (c.own r due).qs = c.qs := rfl
@[simp] theorem Core.own_ctl (r : List (Nat × Nat)) (due : Nat) : (c.own r due).ctl = c.ctl := rfl
@[simp] theorem Core.own_prev (r : List (Nat × Nat)) (due : Nat) : (c.own r due).prev = c.prev := rfl
@[simp] theorem Core.own_ctx (r : List (Nat × Nat)) (due : Nat) : (c.own r due).ctx = c.ctx := rfl
@[simp] theorem Core.own_stall (r : List (Nat × Nat)) (due : Nat) : (c.own r due).stall = c.stall := rfl
@[simp] theorem Core.own_waiting (r : List (Nat × Nat)) (due : Nat) : (c.own r due).waiting = c.waiting := rfl
@[simp] theorem Core.own_wake (r : List (Nat × Nat)) (due : Nat) : (c.own r due).wake = c.wake := rfl
@[simp] theorem Core.own_supply (r : List (Nat × Nat)) (due : Nat) : (c.own r due).supply = c.supply := rfl
@[simp] theorem Core.own_bundles (r : List (Nat × Nat)) (due : Nat) : (c.own r due).bundles = c.bundles := rfl
@[simp] theorem Core.own_port (r : List (Nat × Nat)) (due : Nat) : (c.own r due).port = c.port := rfl
@[simp] theorem Core.own_boundary (r : List (Nat × Nat)) (due : Nat) : (c.own r due).boundary = c.boundary := rfl
@[simp] theorem Core.own_barcs (r : List (Nat × Nat)) (due : Nat) : (c.own r due).barcs = c.barcs := rfl
@[simp] theorem Core.own_arrived (r : List (Nat × Nat)) (due : Nat) : (c.own r due).arrived = c.arrived := rfl
@[simp] theorem Core.own_pass (r : List (Nat × Nat)) (due : Nat) : (c.own r due).pass = c.pass := rfl
@[simp] theorem Core.own_perf (r : List (Nat × Nat)) (due : Nat) : (c.own r due).perf = c.perf := rfl
@[simp] theorem Core.own_vault (r : List (Nat × Nat)) (due : Nat) : (c.own r due).vault = c.vault := rfl
@[simp] theorem Core.own_poison (r : List (Nat × Nat)) (due : Nat) : (c.own r due).poison = c.poison := rfl
@[simp] theorem Core.own_undo (r : List (Nat × Nat)) (due : Nat) : (c.own r due).undo = c.undo := rfl
@[simp] theorem Core.own_retained (r : List (Nat × Nat)) (due : Nat) : (c.own r due).retained = c.retained := rfl
@[simp] theorem Core.own_failed (r : List (Nat × Nat)) (due : Nat) : (c.own r due).failed = c.failed := rfl
@[simp] theorem Core.count_seq (e : PerfEvent) : (c.count e).seq = c.seq := rfl
@[simp] theorem Core.count_regs (e : PerfEvent) : (c.count e).regs = c.regs := rfl
@[simp] theorem Core.count_ports (e : PerfEvent) : (c.count e).ports = c.ports := rfl
@[simp] theorem Core.count_eng (e : PerfEvent) : (c.count e).eng = c.eng := rfl
@[simp] theorem Core.count_qs (e : PerfEvent) : (c.count e).qs = c.qs := rfl
@[simp] theorem Core.count_ctl (e : PerfEvent) : (c.count e).ctl = c.ctl := rfl
@[simp] theorem Core.count_prev (e : PerfEvent) : (c.count e).prev = c.prev := rfl
@[simp] theorem Core.count_ctx (e : PerfEvent) : (c.count e).ctx = c.ctx := rfl
@[simp] theorem Core.count_stall (e : PerfEvent) : (c.count e).stall = c.stall := rfl
@[simp] theorem Core.count_waiting (e : PerfEvent) : (c.count e).waiting = c.waiting := rfl
@[simp] theorem Core.count_wake (e : PerfEvent) : (c.count e).wake = c.wake := rfl
@[simp] theorem Core.count_supply (e : PerfEvent) : (c.count e).supply = c.supply := rfl
@[simp] theorem Core.count_bundles (e : PerfEvent) : (c.count e).bundles = c.bundles := rfl
@[simp] theorem Core.count_port (e : PerfEvent) : (c.count e).port = c.port := rfl
@[simp] theorem Core.count_boundary (e : PerfEvent) : (c.count e).boundary = c.boundary := rfl
@[simp] theorem Core.count_barcs (e : PerfEvent) : (c.count e).barcs = c.barcs := rfl
@[simp] theorem Core.count_arrived (e : PerfEvent) : (c.count e).arrived = c.arrived := rfl
@[simp] theorem Core.count_pass (e : PerfEvent) : (c.count e).pass = c.pass := rfl
@[simp] theorem Core.count_perf (e : PerfEvent) : (c.count e).perf = c.perf.set 0 e.num (c.perf.get 0 e.num + 1) := rfl
@[simp] theorem Core.count_vault (e : PerfEvent) : (c.count e).vault = c.vault := rfl
@[simp] theorem Core.count_poison (e : PerfEvent) : (c.count e).poison = c.poison := rfl
@[simp] theorem Core.count_undo (e : PerfEvent) : (c.count e).undo = c.undo := rfl
@[simp] theorem Core.count_retained (e : PerfEvent) : (c.count e).retained = c.retained := rfl
@[simp] theorem Core.count_failed (e : PerfEvent) : (c.count e).failed = c.failed := rfl
@[simp] theorem Core.markPoison_seq (l : List Nat) : (c.markPoison l).seq = c.seq := rfl
@[simp] theorem Core.markPoison_regs (l : List Nat) : (c.markPoison l).regs = c.regs := rfl
@[simp] theorem Core.markPoison_ports (l : List Nat) : (c.markPoison l).ports = c.ports := rfl
@[simp] theorem Core.markPoison_eng (l : List Nat) : (c.markPoison l).eng = c.eng := rfl
@[simp] theorem Core.markPoison_qs (l : List Nat) : (c.markPoison l).qs = c.qs := rfl
@[simp] theorem Core.markPoison_ctl (l : List Nat) : (c.markPoison l).ctl = c.ctl := rfl
@[simp] theorem Core.markPoison_prev (l : List Nat) : (c.markPoison l).prev = c.prev := rfl
@[simp] theorem Core.markPoison_ctx (l : List Nat) : (c.markPoison l).ctx = c.ctx := rfl
@[simp] theorem Core.markPoison_stall (l : List Nat) : (c.markPoison l).stall = c.stall := rfl
@[simp] theorem Core.markPoison_waiting (l : List Nat) : (c.markPoison l).waiting = c.waiting := rfl
@[simp] theorem Core.markPoison_wake (l : List Nat) : (c.markPoison l).wake = c.wake := rfl
@[simp] theorem Core.markPoison_supply (l : List Nat) : (c.markPoison l).supply = c.supply := rfl
@[simp] theorem Core.markPoison_bundles (l : List Nat) : (c.markPoison l).bundles = c.bundles := rfl
@[simp] theorem Core.markPoison_port (l : List Nat) : (c.markPoison l).port = c.port := rfl
@[simp] theorem Core.markPoison_boundary (l : List Nat) : (c.markPoison l).boundary = c.boundary := rfl
@[simp] theorem Core.markPoison_barcs (l : List Nat) : (c.markPoison l).barcs = c.barcs := rfl
@[simp] theorem Core.markPoison_arrived (l : List Nat) : (c.markPoison l).arrived = c.arrived := rfl
@[simp] theorem Core.markPoison_pass (l : List Nat) : (c.markPoison l).pass = c.pass := rfl
@[simp] theorem Core.markPoison_perf (l : List Nat) : (c.markPoison l).perf = c.perf := rfl
@[simp] theorem Core.markPoison_vault (l : List Nat) : (c.markPoison l).vault = c.vault := rfl
@[simp] theorem Core.markPoison_undo (l : List Nat) : (c.markPoison l).undo = c.undo := rfl
@[simp] theorem Core.markPoison_retained (l : List Nat) : (c.markPoison l).retained = c.retained := rfl
@[simp] theorem Core.markPoison_failed (l : List Nat) : (c.markPoison l).failed = c.failed := rfl
@[simp] theorem Core.send_flight (d : Delivery) : (c.send d).qs.flight = insertDelivery d c.qs.flight := rfl
@[simp] theorem Core.pushLoad_loads (e : CEntry) : (c.pushLoad e).qs.loads = c.qs.loads ++ [e] := rfl
@[simp] theorem Core.pushLoad_stores (e : CEntry) : (c.pushLoad e).qs.stores = c.qs.stores := rfl
@[simp] theorem Core.pushStore_loads (e : CEntry) : (c.pushStore e).qs.loads = c.qs.loads := rfl
@[simp] theorem Core.pushStore_stores (e : CEntry) : (c.pushStore e).qs.stores = c.qs.stores ++ [e] := rfl
@[simp] theorem Core.addFlags_fpflags (t f : Nat) : (c.addFlags t f).ctl.fpflags = c.ctl.fpflags ||| BitVec.ofNat 64 f := rfl
@[simp] theorem Core.store_seq (a : Nat) (b : List Byte) : (c.store a b).seq = c.seq := rfl
@[simp] theorem Core.store_regs (a : Nat) (b : List Byte) : (c.store a b).regs = c.regs := rfl
@[simp] theorem Core.store_ports (a : Nat) (b : List Byte) : (c.store a b).ports = c.ports := rfl
@[simp] theorem Core.store_eng (a : Nat) (b : List Byte) : (c.store a b).eng = c.eng := rfl
@[simp] theorem Core.store_qs (a : Nat) (b : List Byte) : (c.store a b).qs = c.qs := rfl
@[simp] theorem Core.store_ctl (a : Nat) (b : List Byte) : (c.store a b).ctl = c.ctl := rfl
@[simp] theorem Core.store_prev (a : Nat) (b : List Byte) : (c.store a b).prev = c.prev := rfl
@[simp] theorem Core.store_ctx (a : Nat) (b : List Byte) : (c.store a b).ctx = c.ctx := rfl
@[simp] theorem Core.store_stall (a : Nat) (b : List Byte) : (c.store a b).stall = c.stall := rfl
@[simp] theorem Core.store_waiting (a : Nat) (b : List Byte) : (c.store a b).waiting = c.waiting := rfl
@[simp] theorem Core.store_wake (a : Nat) (b : List Byte) : (c.store a b).wake = c.wake := rfl
@[simp] theorem Core.store_supply (a : Nat) (b : List Byte) : (c.store a b).supply = c.supply := rfl
@[simp] theorem Core.store_bundles (a : Nat) (b : List Byte) : (c.store a b).bundles = c.bundles := rfl
@[simp] theorem Core.store_port (a : Nat) (b : List Byte) : (c.store a b).port = c.port := rfl
@[simp] theorem Core.store_boundary (a : Nat) (b : List Byte) : (c.store a b).boundary = c.boundary := rfl
@[simp] theorem Core.store_barcs (a : Nat) (b : List Byte) : (c.store a b).barcs = c.barcs := rfl
@[simp] theorem Core.store_arrived (a : Nat) (b : List Byte) : (c.store a b).arrived = c.arrived := rfl
@[simp] theorem Core.store_pass (a : Nat) (b : List Byte) : (c.store a b).pass = c.pass := rfl
@[simp] theorem Core.store_perf (a : Nat) (b : List Byte) : (c.store a b).perf = c.perf := rfl
@[simp] theorem Core.store_vault (a : Nat) (b : List Byte) : (c.store a b).vault = c.vault.store a b := rfl
@[simp] theorem Core.store_retained (a : Nat) (b : List Byte) : (c.store a b).retained = c.retained := rfl
@[simp] theorem Core.store_failed (a : Nat) (b : List Byte) : (c.store a b).failed = c.failed := rfl
@[simp] theorem Core.storeNum_seq (a n x : Nat) : (c.storeNum a n x).seq = c.seq := rfl
@[simp] theorem Core.storeNum_regs (a n x : Nat) : (c.storeNum a n x).regs = c.regs := rfl
@[simp] theorem Core.storeNum_ports (a n x : Nat) : (c.storeNum a n x).ports = c.ports := rfl
@[simp] theorem Core.storeNum_eng (a n x : Nat) : (c.storeNum a n x).eng = c.eng := rfl
@[simp] theorem Core.storeNum_qs (a n x : Nat) : (c.storeNum a n x).qs = c.qs := rfl
@[simp] theorem Core.storeNum_ctl (a n x : Nat) : (c.storeNum a n x).ctl = c.ctl := rfl
@[simp] theorem Core.storeNum_prev (a n x : Nat) : (c.storeNum a n x).prev = c.prev := rfl
@[simp] theorem Core.storeNum_ctx (a n x : Nat) : (c.storeNum a n x).ctx = c.ctx := rfl
@[simp] theorem Core.storeNum_stall (a n x : Nat) : (c.storeNum a n x).stall = c.stall := rfl
@[simp] theorem Core.storeNum_waiting (a n x : Nat) : (c.storeNum a n x).waiting = c.waiting := rfl
@[simp] theorem Core.storeNum_wake (a n x : Nat) : (c.storeNum a n x).wake = c.wake := rfl
@[simp] theorem Core.storeNum_supply (a n x : Nat) : (c.storeNum a n x).supply = c.supply := rfl
@[simp] theorem Core.storeNum_bundles (a n x : Nat) : (c.storeNum a n x).bundles = c.bundles := rfl
@[simp] theorem Core.storeNum_port (a n x : Nat) : (c.storeNum a n x).port = c.port := rfl
@[simp] theorem Core.storeNum_boundary (a n x : Nat) : (c.storeNum a n x).boundary = c.boundary := rfl
@[simp] theorem Core.storeNum_barcs (a n x : Nat) : (c.storeNum a n x).barcs = c.barcs := rfl
@[simp] theorem Core.storeNum_arrived (a n x : Nat) : (c.storeNum a n x).arrived = c.arrived := rfl
@[simp] theorem Core.storeNum_pass (a n x : Nat) : (c.storeNum a n x).pass = c.pass := rfl
@[simp] theorem Core.storeNum_perf (a n x : Nat) : (c.storeNum a n x).perf = c.perf := rfl
@[simp] theorem Core.storeNum_vault (a n x : Nat) : (c.storeNum a n x).vault = c.vault.setNum a n x := rfl
@[simp] theorem Core.storeNum_retained (a n x : Nat) : (c.storeNum a n x).retained = c.retained := rfl
@[simp] theorem Core.storeNum_failed (a n x : Nat) : (c.storeNum a n x).failed = c.failed := rfl
@[simp] theorem Core.freeze_seq (t : TrapInfo) (n : Nat) : (c.freeze t n).seq = c.seq := rfl
@[simp] theorem Core.freeze_regs (t : TrapInfo) (n : Nat) : (c.freeze t n).regs = c.regs := rfl
@[simp] theorem Core.freeze_ports (t : TrapInfo) (n : Nat) : (c.freeze t n).ports = c.ports := rfl
@[simp] theorem Core.freeze_eng (t : TrapInfo) (n : Nat) : (c.freeze t n).eng = c.eng := rfl
@[simp] theorem Core.freeze_qs (t : TrapInfo) (n : Nat) : (c.freeze t n).qs = c.qs := rfl
@[simp] theorem Core.freeze_prev (t : TrapInfo) (n : Nat) : (c.freeze t n).prev = c.prev := rfl
@[simp] theorem Core.freeze_ctx (t : TrapInfo) (n : Nat) : (c.freeze t n).ctx = c.ctx := rfl
@[simp] theorem Core.freeze_stall (t : TrapInfo) (n : Nat) : (c.freeze t n).stall = none := rfl
@[simp] theorem Core.freeze_waiting (t : TrapInfo) (n : Nat) : (c.freeze t n).waiting = none := rfl
@[simp] theorem Core.freeze_wake (t : TrapInfo) (n : Nat) : (c.freeze t n).wake = c.wake := rfl
@[simp] theorem Core.freeze_supply (t : TrapInfo) (n : Nat) : (c.freeze t n).supply = c.supply := rfl
@[simp] theorem Core.freeze_bundles (t : TrapInfo) (n : Nat) : (c.freeze t n).bundles = c.bundles := rfl
@[simp] theorem Core.freeze_port (t : TrapInfo) (n : Nat) : (c.freeze t n).port = c.port := rfl
@[simp] theorem Core.freeze_boundary (t : TrapInfo) (n : Nat) : (c.freeze t n).boundary = c.boundary := rfl
@[simp] theorem Core.freeze_barcs (t : TrapInfo) (n : Nat) : (c.freeze t n).barcs = c.barcs := rfl
@[simp] theorem Core.freeze_arrived (t : TrapInfo) (n : Nat) : (c.freeze t n).arrived = c.arrived := rfl
@[simp] theorem Core.freeze_pass (t : TrapInfo) (n : Nat) : (c.freeze t n).pass = c.pass := rfl
@[simp] theorem Core.freeze_perf (t : TrapInfo) (n : Nat) : (c.freeze t n).perf = c.perf := rfl
@[simp] theorem Core.freeze_vault (t : TrapInfo) (n : Nat) : (c.freeze t n).vault = c.vault := rfl
@[simp] theorem Core.freeze_poison (t : TrapInfo) (n : Nat) : (c.freeze t n).poison = c.poison := rfl
@[simp] theorem Core.freeze_undo (t : TrapInfo) (n : Nat) : (c.freeze t n).undo = c.undo := rfl
@[simp] theorem Core.freeze_retained (t : TrapInfo) (n : Nat) : (c.freeze t n).retained = c.retained := rfl
@[simp] theorem Core.freeze_failed (t : TrapInfo) (n : Nat) : (c.freeze t n).failed = c.failed := rfl
@[simp] theorem Core.freeze_run (t : TrapInfo) (n : Nat) : (c.freeze t n).ctl.run = .frozen t n := rfl

/-! ### Firmware's reads, and the tasks that come back -/

theorem MemSys.fails_none (m : MemSys) (a n : Nat) (h : m.failing = none) : m.fails a n = false := by simp [MemSys.fails, h]

theorem MemSys.fetched_of_none (m : MemSys) (a n : Nat) (h : m.failing = none) : m.fetched a n = m.homeBytes a n := by
  simp [MemSys.fetched, MemSys.fails_none m a n h]

theorem State.endReads_of_none (l : List (Nat × Nat)) (h : s.dev.sys.failing = none) : s.endReads l = s := by
  simp [State.endReads, h]

theorem State.bringBack_of_none (n : Nat) (h : s.returning n = none) : s.bringBack n = s := by simp [State.bringBack, h]


end Sys2Proof.Machine
end

