-- ==== Sys2Proof/Laws/Issue.lean ====
section
/-!
SUPPORT. What issuing a word can do: its effect, a stall, an arrival, or a trap or fault taken at issue; and what the checks
at issue say when they pass.
-/
namespace Sys2Proof.Machine

/-! ### Sequences of checks -/

@[simp] theorem bind_ok {ε α β : Type} (a : α) (f : α → Except ε β) : (Except.ok a >>= f) = f a := rfl
@[simp] theorem bind_error {ε α β : Type} (e : ε) (f : α → Except ε β) :
    ((Except.error e : Except ε α) >>= f) = .error e := rfl
@[simp] theorem pure_ok {ε α : Type} (a : α) : (pure a : Except ε α) = .ok a := rfl

/-- A sequence succeeds when both parts do. -/
theorem bind_eq_ok {ε α β : Type} (x : Except ε α) (f : α → Except ε β) (b : β) :
    (x >>= f) = .ok b ↔ ∃ a, x = .ok a ∧ f a = .ok b := by
  cases x <;> simp

@[simp] theorem need_true (c : Cause) : need true c = .ok () := rfl
@[simp] theorem need_false (c : Cause) : need false c = .error (.trap c) := rfl
@[simp] theorem waitWhile_false (e : PerfEvent) : waitWhile false e = .ok () := rfl
@[simp] theorem waitWhile_true (e : PerfEvent) : waitWhile true e = .error (.stall e) := rfl
@[simp] theorem waitFor_none : waitFor none = .ok () := rfl

theorem need_eq_ok (b : Bool) (c : Cause) (x : Unit) : need b c = .ok x ↔ b = true := by cases b <;> simp [need]
theorem waitWhile_eq_ok (b : Bool) (e : PerfEvent) (x : Unit) : waitWhile b e = .ok x ↔ b = false := by
  cases b <;> simp [waitWhile]
theorem waitFor_eq_ok (w : Option PerfEvent) (x : Unit) : waitFor w = .ok x ↔ w = none := by cases w <;> simp [waitFor]

/-! ### Issue -/

/-- A word whose checks pass has its effect. -/
theorem issue_ok {n : Nat} {act : State → Except Stop State} {s t : State} (h : act s = .ok t) :
    issue n act s = .next t := by simp [issue, h]

/-- A word that traps at issue leaves a frozen core (R81, R248). -/
theorem issue_trap {n : Nat} {act : State → Except Stop State} {s : State} {k : Cause} (h : act s = .error (.trap k)) :
    issue n act s = .next (takeTrap { cause := k, slot := n } s.cycle s) := by simp [issue, h]

/-- A word that stalls leaves a stalled core (R87). -/
theorem issue_stall {n : Nat} {act : State → Except Stop State} {s : State} {e : PerfEvent}
    (h : act s = .error (.stall e)) : issue n act s = .next (s.mod fun c => { c with stall := some e }) := by
  simp [issue, h]

@[simp] theorem issueIf_true (n : Nat) (act : State → Except Stop State) (s : State) :
    issueIf n true act s = issue n act s := rfl
@[simp] theorem issueIf_false (n : Nat) (act : State → Except Stop State) (s : State) :
    issueIf n false act s = .next s := rfl

/-- Issuing a word always answers a next state. -/
theorem issue_next (n : Nat) (act : State → Except Stop State) (s : State) : ∃ t, issue n act s = .next t := by
  unfold issue
  split <;> exact ⟨_, rfl⟩

theorem issueIf_next (n : Nat) (g : Bool) (act : State → Except Stop State) (s : State) :
    ∃ t, issueIf n g act s = .next t := by
  cases g
  · exact ⟨s, rfl⟩
  · exact issue_next n act s

/-- All that issuing a word can do: its effect, or a change of nothing but the stall, the wait, the arrival, or, where it watches
memory, a stall in the state that its look at it leaves, or a trap or fault taken. -/
theorem issue_cases {n : Nat} {act : State → Except Stop State} {s t : State} (h : issue n act s = .next t) :
    act s = .ok t ∨
    (∃ e w a, t = s.mod fun c => { c with stall := some e, waiting := w, arrived := a }) ∨
    (∃ l u, act s = .error (.watch l u) ∧
      t = u.mod fun c => { c with stall := some .stallg, waiting := some (c.keepWaiting s.cycle l) }) ∨
    (∃ i, t = takeTrap i s.cycle s) := by
  unfold issue at h
  split at h <;> cases h
  · next h => exact .inl h
  · next e _ => exact .inr (.inl ⟨e, s.core.waiting, s.core.arrived, rfl⟩)
  · next e l _ => exact .inr (.inl ⟨e, _, s.core.arrived, rfl⟩)
  · next l u hw => exact .inr (.inr (.inl ⟨l, u, hw, rfl⟩))
  · exact .inr (.inl ⟨.stallg, s.core.waiting, _, rfl⟩)
  · next i _ => exact .inr (.inr (.inr ⟨i, rfl⟩))
  · next k _ => exact .inr (.inr (.inr ⟨_, rfl⟩))

theorem issueIf_cases {n : Nat} {g : Bool} {act : State → Except Stop State} {s t : State}
    (h : issueIf n g act s = .next t) :
    (g = true ∧ act s = .ok t) ∨ (g = false ∧ t = s) ∨
    (∃ e w a, t = s.mod fun c => { c with stall := some e, waiting := w, arrived := a }) ∨
    (∃ l u, act s = .error (.watch l u) ∧
      t = u.mod fun c => { c with stall := some .stallg, waiting := some (c.keepWaiting s.cycle l) }) ∨
    (∃ i, t = takeTrap i s.cycle s) := by
  cases g
  · cases h; exact .inr (.inl ⟨rfl, rfl⟩)
  · rcases issue_cases h with h | h
    · exact .inl ⟨rfl, h⟩
    · exact .inr (.inr h)

/-- A step on a core that exists answers a next state; one on a core that does not is a fault (R1). -/
theorem onCore_of_lt {n : Nat} (f : State → State) (s : State) (h : n < 512) : onCore n f s = .next (s.on n f) := by
  simp [onCore, Nat.not_le.mpr h]

theorem onCore_of_le {n : Nat} (f : State → State) (s : State) (h : 512 ≤ n) :
    onCore n f s = .fault (.noSuchCore n) := by simp [onCore, h]

/-! ### Taking a trap (R248) -/

theorem takeTrap_core (i : TrapInfo) (n : Nat) (s : State) :
    (takeTrap i n s).core = s.core.freeze i n := rfl
@[simp] theorem takeTrap_others (i : TrapInfo) (n : Nat) (s : State) : (takeTrap i n s).others = s.others := rfl
@[simp] theorem takeTrap_cur (i : TrapInfo) (n : Nat) (s : State) : (takeTrap i n s).cur = s.cur := rfl
@[simp] theorem takeTrap_cycle (i : TrapInfo) (n : Nat) (s : State) : (takeTrap i n s).cycle = s.cycle := rfl
@[simp] theorem takeTrap_agenda (i : TrapInfo) (n : Nat) (s : State) : (takeTrap i n s).agenda = s.agenda := rfl
@[simp] theorem takeTrap_sys (i : TrapInfo) (n : Nat) (s : State) : (takeTrap i n s).dev.sys = s.dev.sys := rfl
@[simp] theorem takeTrap_sched (i : TrapInfo) (n : Nat) (s : State) : (takeTrap i n s).dev.sched = s.dev.sched := rfl
@[simp] theorem takeTrap_code (i : TrapInfo) (n : Nat) (s : State) : (takeTrap i n s).dev.code = s.dev.code := rfl
@[simp] theorem takeTrap_trust (i : TrapInfo) (n : Nat) (s : State) : (takeTrap i n s).dev.trust = s.dev.trust := rfl
@[simp] theorem takeTrap_fabric (i : TrapInfo) (n : Nat) (s : State) : (takeTrap i n s).dev.fabric = s.dev.fabric := rfl
@[simp] theorem takeTrap_health (i : TrapInfo) (n : Nat) (s : State) : (takeTrap i n s).dev.health = s.dev.health := rfl

end Sys2Proof.Machine
end

