-- ==== Sys2Proof/Laws/Cores.lean ====
section
/-!
SUPPORT. Cores by number: turning to a core moves nothing but the place where it stands, and a step on one core leaves the
others alone.
-/
namespace Sys2Proof.Machine

@[simp] theorem coreAt_cur (s : State) : s.coreAt s.cur = s.core := by simp [State.coreAt]

theorem get_putCore (t : Table Core) (n k : Nat) (c : Core) :
    Table.get Core.blank (putCore t n c) k = if k = n then c else Table.get Core.blank t k := by
  unfold putCore
  split
  · next h => rw [h, Table.get_insert_same _ _ _ _ (Table.lacks_erase n t)]
  · next h => rw [Table.get_insert_other _ _ _ h, Table.get_erase_other _ _ h]

/-- A core replaced, and the others as before. -/
theorem coreAt_setCore (s : State) (n k : Nat) (c : Core) :
    (s.setCore n c).coreAt k = if k = n then c else s.coreAt k := by
  unfold State.setCore
  by_cases hn : n = s.cur
  · subst hn; by_cases hk : k = s.cur <;> simp [State.coreAt, hk]
  · simp only [hn, if_false]
    by_cases hk : k = s.cur
    · have : k ≠ n := fun h => hn (h ▸ hk)
      simp [State.coreAt, hk, Ne.symm hn]
    · simp [State.coreAt, hk, get_putCore]

theorem coreAt_modAt (s : State) (n k : Nat) (f : Core → Core) :
    (s.modAt n f).coreAt k = if k = n then f (s.coreAt n) else s.coreAt k := coreAt_setCore s n k _

theorem coreAt_mod (s : State) (k : Nat) (f : Core → Core) :
    (s.mod f).coreAt k = if k = s.cur then f s.core else s.coreAt k := by
  by_cases h : k = s.cur <;> simp [State.coreAt, h]

/-- Turning to a core leaves every core as it is. -/
@[simp] theorem coreAt_turnTo (s : State) (n k : Nat) : (s.turnTo n).coreAt k = s.coreAt k := by
  unfold State.turnTo
  by_cases hn : n = s.cur
  · simp [hn]
  · simp only [hn, if_false]
    by_cases hk : k = n
    · subst hk; simp [State.coreAt, hn]
    · by_cases hc : k = s.cur
      · subst hc; simp [State.coreAt, hk, get_putCore]
      · simp [State.coreAt, hk, hc, get_putCore, Table.get_erase_other _ _ hk]

@[simp] theorem turnTo_core (s : State) (n : Nat) : (s.turnTo n).core = s.coreAt n := by
  unfold State.turnTo State.coreAt; split <;> rfl
@[simp] theorem turnTo_cur (s : State) (n : Nat) : (s.turnTo n).cur = n := by
  unfold State.turnTo; split
  · next h => exact h.symm
  · rfl
@[simp] theorem turnTo_dev (s : State) (n : Nat) : (s.turnTo n).dev = s.dev := by unfold State.turnTo; split <;> rfl
@[simp] theorem turnTo_cycle (s : State) (n : Nat) : (s.turnTo n).cycle = s.cycle := by
  unfold State.turnTo; split <;> rfl
@[simp] theorem turnTo_agenda (s : State) (n : Nat) : (s.turnTo n).agenda = s.agenda := by
  unfold State.turnTo; split <;> rfl

@[simp] theorem on_cur (s : State) (n : Nat) (f : State → State) : (s.on n f).cur = s.cur := by simp [State.on]
theorem on_dev (s : State) (n : Nat) (f : State → State) : (s.on n f).dev = (f (s.turnTo n)).dev := by simp [State.on]
theorem coreAt_on (s : State) (n k : Nat) (f : State → State) :
    (s.on n f).coreAt k = (f (s.turnTo n)).coreAt k := by simp [State.on]

/-- A change to one core, carried out there: that core changes, and nothing else does. -/
theorem on_mod (s : State) (n : Nat) (f : Core → Core) :
    (∀ k, (s.on n (·.mod f)).coreAt k = if k = n then f (s.coreAt n) else s.coreAt k) ∧
    (s.on n (·.mod f)).dev = s.dev ∧ (s.on n (·.mod f)).cycle = s.cycle := by
  refine ⟨fun k => ?_, ?_, ?_⟩
  · rw [coreAt_on, coreAt_mod]; simp
  · simp [State.on]
  · simp [State.on]

@[simp] theorem coreAt_sys (s : State) (f : MemSys → MemSys) (k : Nat) : (s.sys f).coreAt k = s.coreAt k := rfl
@[simp] theorem coreAt_sched (s : State) (f : Sched → Sched) (k : Nat) : (s.sched f).coreAt k = s.coreAt k := rfl
@[simp] theorem coreAt_mgmt (s : State) (f : Mgmt → Mgmt) (k : Nat) : (s.mgmt f).coreAt k = s.coreAt k := rfl
@[simp] theorem coreAt_code (s : State) (f : Code → Code) (k : Nat) : (s.code f).coreAt k = s.coreAt k := rfl
@[simp] theorem coreAt_trust (s : State) (f : Trust → Trust) (k : Nat) : (s.trust f).coreAt k = s.coreAt k := rfl
@[simp] theorem coreAt_fabric (s : State) (f : Fabric → Fabric) (k : Nat) : (s.fabric f).coreAt k = s.coreAt k := rfl
@[simp] theorem coreAt_health (s : State) (f : Health → Health) (k : Nat) : (s.health f).coreAt k = s.coreAt k := rfl

@[simp] theorem setCore_dev (s : State) (n : Nat) (c : Core) : (s.setCore n c).dev = s.dev := by
  unfold State.setCore; split <;> rfl
@[simp] theorem setCore_cur (s : State) (n : Nat) (c : Core) : (s.setCore n c).cur = s.cur := by
  unfold State.setCore; split <;> rfl
@[simp] theorem setCore_cycle (s : State) (n : Nat) (c : Core) : (s.setCore n c).cycle = s.cycle := by
  unfold State.setCore; split <;> rfl
@[simp] theorem modAt_dev (s : State) (n : Nat) (f : Core → Core) : (s.modAt n f).dev = s.dev := setCore_dev s n _
@[simp] theorem modAt_cur (s : State) (n : Nat) (f : Core → Core) : (s.modAt n f).cur = s.cur := setCore_cur s n _
@[simp] theorem modAt_cycle (s : State) (n : Nat) (f : Core → Core) : (s.modAt n f).cycle = s.cycle :=
  setCore_cycle s n _

end Sys2Proof.Machine
end

