-- ==== Sys2Proof/Laws/Operands.lean ====
section
/-!
SUPPORT. What the shared operations of operand forms can do: checks of addresses, waits for earlier accesses, pops of queues and
rings, and the entry of a word into the port. Each is said once, for any caller to cite.
-/
namespace Sys2Proof.Machine

/-! ### Checks (R161, R162, R164, R190) -/

/-- What a legal range of the own vault meets (R161, R302). -/
theorem checkVault_eq_ok (s : State) (a n align : Nat) :
    s.checkVault a n align = .ok () ↔
      a + n ≤ vaultSize ∧ s.core.bankWait a n = .ok () ∧ (a % align == 0) = true ∧ s.core.ownsRange a n = true ∧
        s.core.hazard s.cycle a n = false := by
  simp only [State.checkVault, bind_eq_ok, need_eq_ok, exists_const, decide_eq_true_eq, Bool.not_eq_true']
  tauto

/-- What a legal access of the own vault meets (R161, R190). -/
theorem checkLocal_eq_ok (s : State) (a n align : Nat) :
    s.checkLocal a n align = .ok () ↔
      (s.core.mine.any (·.landsIn a n)) = false ∧ s.checkVault a n align = .ok () := by
  simp only [State.checkLocal, Core.bringWait, bind_eq_ok, waitWhile_eq_ok, exists_const]

/-- What a legal cluster access meets, and where it goes (R162). -/
theorem checkCluster_eq_ok (s : State) (ca n align m off : Nat) :
    s.checkCluster ca n align = .ok (m, off) ↔
      (ca / 2 ^ 26 == 0 && decide (off + n ≤ vaultSize)) = true ∧ m < s.core.ctl.size ∧ (off % align == 0) = true ∧
        ca / vaultSize % 16 = m ∧ ca % vaultSize = off := by
  simp only [State.checkCluster, bind_eq_ok, need_eq_ok, exists_const, pure_ok, Except.ok.injEq, Prod.mk.injEq, decide_eq_true_eq]
  constructor
  · rintro ⟨h1, h2, h3, rfl, rfl⟩; exact ⟨h1, h2, h3, rfl, rfl⟩
  · rintro ⟨h1, h2, h3, rfl, rfl⟩; exact ⟨h1, h2, h3, rfl, rfl⟩

/-- What an access waits for (R164): no earlier acquire is pending, and a release may take effect. -/
theorem orderWait_eq_ok (s : State) (o : BitVec 3) (e : PerfEvent) :
    s.orderWait o e = .ok () ↔
      s.core.acquirePending s.core.bundles = false ∧
        (isRelease o = true → s.mayRelease s.core.bundles s.core.ctx.scope = true) := by
  simp only [State.orderWait, bind_eq_ok, waitWhile_eq_ok, exists_const, Bool.and_eq_false_iff, Bool.not_eq_false']
  constructor
  · rintro ⟨h1, h2⟩; exact ⟨h1, fun h => h2.resolve_left (by simp [h])⟩
  · rintro ⟨h1, h2⟩
    refine ⟨h1, ?_⟩
    cases h : isRelease o
    · exact .inl rfl
    · exact .inr (h2 h)

/-- A plain access waits for earlier acquires alone. -/
theorem orderWait_plain (s : State) (e : PerfEvent) :
    s.orderWait 0 e = .ok () ↔ s.core.acquirePending s.core.bundles = false := by
  simp [orderWait_eq_ok, isRelease, bitOf]

/-- Room in the port, where the gather engine's words have their places too (R184, R198). -/
theorem portRoom_eq_ok (c : Core) : portRoom c = .ok () ↔ c.port.length + c.qs.gathers.length < 32 := by
  simp [portRoom, waitWhile_eq_ok]

/-! ### Pops (R79, R88, R113, R182) -/

/-- A pop of the data queue takes its head. -/
theorem popData_cases {s s' : State} {x : Nat} (h : s.popData = .ok (x, s')) :
    ∃ v r, s.core.qs.data = v :: r ∧ x = v.toNat ∧ s' = s.mod fun c => { c with qs := { c.qs with data := r } } := by
  unfold State.popData at h
  split at h
  · next v r hd => cases h; exact ⟨v, r, hd, rfl, rfl⟩
  · cases h

/-- A pop of the scale queue takes its first words. -/
theorem popScales_cases {s s' : State} {n : Nat} {l : List Nat} (h : s.popScales n = .ok (l, s')) :
    n ≤ s.core.qs.scale.length ∧ l = (s.core.qs.scale.take n).map (·.toNat) ∧
      s' = s.mod fun c => { c with qs := { c.qs with scale := c.qs.scale.drop n } } := by
  unfold State.popScales at h
  dsimp only at h
  split at h
  · next hn => cases h; exact ⟨hn, rfl, rfl⟩
  · cases h

/-- A pop of a ring reads the next element of a filled slot of a bound consumer handle, once earlier acquires have
performed and every TLDX has brought its bytes there, and goes on to the next element or releases the slot. -/
theorem popRing_cases {s s' : State} {n x : Nat} (h : s.popRing n = .ok (x, s')) :
    (s.core.ring n).bound = true ∧ (s.core.ring n).producer = false ∧
      s.core.acquirePending s.core.bundles = false ∧ (s.core.ring n).count ≠ 0 ∧
      s.core.mine.any (·.landsIn ((s.core.ring n).slotAt (s.core.ring n).slot + 128 + 128 * (s.core.ring n).elem) 128) = false ∧
      x = s.core.vault.num ((s.core.ring n).slotAt (s.core.ring n).slot + 128 + 128 * (s.core.ring n).elem) 128 ∧
      s' = if (s.core.ring n).elem + 2 = (s.core.ring n).sz then (s.releaseSlots n 1).mod (·.countPop n)
        else s.mod fun c => c.setRing n { s.core.ring n with elem := (s.core.ring n).elem + 1 } := by
  simp only [State.popRing, Core.bringWait, bind_eq_ok, need_eq_ok, waitWhile_eq_ok, exists_const, Bool.not_eq_true'] at h
  obtain ⟨h1, h2, h3, h⟩ := h
  by_cases h4 : (s.core.ring n).count = 0
  · rw [if_pos h4] at h
    cases hf : s.core.ringFilling n <;> simp [hf, need, waitWhile] at h
  · rw [if_neg h4] at h
    simp only [bind_eq_ok, waitWhile_eq_ok, exists_const, pure_ok] at h
    obtain ⟨hb, h⟩ := h
    refine ⟨h1, h2, h3, h4, hb, ?_⟩
    by_cases h5 : (s.core.ring n).elem + 2 = (s.core.ring n).sz
    · rw [if_pos h5] at h
      have e := Prod.mk.inj (Except.ok.inj h)
      exact ⟨e.1.symm, e.2.symm.trans (if_pos h5).symm⟩
    · rw [if_neg h5] at h
      have e := Prod.mk.inj (Except.ok.inj h)
      exact ⟨e.1.symm, e.2.symm.trans (if_neg h5).symm⟩

/-! ### The port (R184) -/

@[simp] theorem enter_dev (s : State) (e : GEntry) : (s.enter e).dev = s.dev := rfl
@[simp] theorem enter_cur (s : State) (e : GEntry) : (s.enter e).cur = s.cur := rfl
@[simp] theorem enter_cycle (s : State) (e : GEntry) : (s.enter e).cycle = s.cycle := rfl
@[simp] theorem enter_others (s : State) (e : GEntry) : (s.enter e).others = s.others := rfl
@[simp] theorem enter_regs (s : State) (e : GEntry) : (s.enter e).core.regs = s.core.regs := rfl
@[simp] theorem enter_vault (s : State) (e : GEntry) : (s.enter e).core.vault = s.core.vault := rfl
@[simp] theorem enter_port (s : State) (e : GEntry) : (s.enter e).core.port = s.core.port ++ [e] := rfl

end Sys2Proof.Machine
end

