-- ==== Sys2Proof/Laws/Quiet.lean ====
section
/-!
SUPPORT. Reading an operand is quiet: queues, ring handles and the random-bits counter apart, it leaves the machine as it is. The
relation composes, and every shared operation that reads an operand has its lemma here.
-/
namespace Sys2Proof.Machine

/-- Two cores that differ at most in their ring handles, queues, literal count and previous reads. -/
structure QuietCore (c d : Core) : Prop where
  seq : d.seq = c.seq
  g : d.regs.g = c.regs.g
  v : d.regs.v = c.regs.v
  p : d.regs.p = c.regs.p
  q : d.regs.q = c.regs.q
  b : d.regs.b = c.regs.b
  xt : d.regs.xt = c.regs.xt
  td : d.regs.td = c.regs.td
  k : d.regs.k = c.regs.k
  ports : d.ports = c.ports
  eng : d.eng = c.eng
  ctl : d.ctl = c.ctl
  vault : d.vault = c.vault
  port : d.port = c.port
  flight : d.qs.flight = c.qs.flight

/-- Two machines whose cores differ at most so, with the same surroundings. -/
structure Quiet (s t : State) : Prop where
  dev : t.dev = s.dev
  cur : t.cur = s.cur
  cycle : t.cycle = s.cycle
  agenda : t.agenda = s.agenda
  core : QuietCore s.core t.core
  cores : ∀ n, QuietCore (s.coreAt n) (t.coreAt n)

theorem QuietCore.rfl (c : Core) : QuietCore c c := by constructor <;> exact Eq.refl _

theorem QuietCore.trans {a b c : Core} (h : QuietCore a b) (k : QuietCore b c) : QuietCore a c := by
  constructor
  · exact k.seq.trans h.seq
  · exact k.g.trans h.g
  · exact k.v.trans h.v
  · exact k.p.trans h.p
  · exact k.q.trans h.q
  · exact k.b.trans h.b
  · exact k.xt.trans h.xt
  · exact k.td.trans h.td
  · exact k.k.trans h.k
  · exact k.ports.trans h.ports
  · exact k.eng.trans h.eng
  · exact k.ctl.trans h.ctl
  · exact k.vault.trans h.vault
  · exact k.port.trans h.port
  · exact k.flight.trans h.flight

theorem Quiet.rfl (s : State) : Quiet s s := ⟨Eq.refl _, Eq.refl _, Eq.refl _, Eq.refl _, .rfl _, fun _ => .rfl _⟩

theorem Quiet.trans {r s t : State} (h : Quiet r s) (k : Quiet s t) : Quiet r t :=
  ⟨k.dev.trans h.dev, k.cur.trans h.cur, k.cycle.trans h.cycle, k.agenda.trans h.agenda, h.core.trans k.core,
    fun n => (h.cores n).trans (k.cores n)⟩

/-- A quiet change of the current core. -/
theorem quiet_mod (s : State) (f : Core → Core) (h : QuietCore s.core (f s.core)) : Quiet s (s.mod f) := by
  refine ⟨Eq.refl _, Eq.refl _, Eq.refl _, Eq.refl _, h, fun n => ?_⟩
  rw [coreAt_mod]
  split
  · next e => subst e; rw [coreAt_cur]; exact h
  · exact .rfl _

theorem modAt_agenda (s : State) (n : Nat) (f : Core → Core) : (s.modAt n f).agenda = s.agenda := by
  unfold State.modAt State.setCore; split <;> exact Eq.refl _

/-- A quiet change of any core. -/
theorem quiet_modAt (s : State) (n : Nat) (f : Core → Core) (h : QuietCore (s.coreAt n) (f (s.coreAt n))) :
    Quiet s (s.modAt n f) := by
  have hc : ∀ k, QuietCore (s.coreAt k) ((s.modAt n f).coreAt k) := fun k => by
    rw [coreAt_modAt]
    split
    · next e => subst e; exact h
    · exact .rfl _
  refine ⟨modAt_dev s n f, modAt_cur s n f, modAt_cycle s n f, modAt_agenda s n f, ?_, hc⟩
  have e := hc s.cur
  rw [coreAt_cur] at e
  have e' := coreAt_cur (s.modAt n f)
  rw [modAt_cur] at e'
  rwa [e'] at e

theorem quiet_setRing (c : Core) (n : Nat) (r : Ring) : QuietCore c (c.setRing n r) := by constructor <;> exact Eq.refl _

/-- The release of slots changes a ring handle of the core alone, and notes what the commit will free (R181, R182). -/
theorem quiet_releaseSlots (s : State) (h n : Nat) : Quiet s (s.releaseSlots h n) :=
  quiet_mod s (fun c =>
    { c.setRing h { s.core.ring h with
        slot := if (s.core.ring h).cnt = 0 then 0 else ((s.core.ring h).slot + n) % (s.core.ring h).cnt, elem := 0
        count := (s.core.ring h).count - n } with
      ctx := { c.ctx with
        freed := if (s.core.ring h).peer then c.ctx.freed ++ [((s.core.ring h).pm, h, n)] else c.ctx.freed } })
    (by constructor <;> exact Eq.refl _)

theorem quiet_popRing {s s' : State} {n x : Nat} (h : s.popRing n = .ok (x, s')) : Quiet s s' := by
  obtain ⟨-, -, -, -, -, -, rfl⟩ := popRing_cases h
  split
  · exact (quiet_releaseSlots s n 1).trans (quiet_mod _ _ (by constructor <;> exact Eq.refl _))
  · exact quiet_mod s _ (quiet_setRing _ _ _)

theorem quiet_popData {s s' : State} {x : Nat} (h : s.popData = .ok (x, s')) : Quiet s s' := by
  obtain ⟨v, r, -, -, rfl⟩ := popData_cases h
  exact quiet_mod s _ (by constructor <;> exact Eq.refl _)

theorem quiet_popScales {s s' : State} {n : Nat} {l : List Nat} (h : s.popScales n = .ok (l, s')) : Quiet s s' := by
  obtain ⟨-, -, rfl⟩ := popScales_cases h
  exact quiet_mod s _ (by constructor <;> exact Eq.refl _)

theorem quiet_popRandom (s : State) : Quiet s s.popRandom.2 :=
  quiet_mod s (fun c => { c with qs := { c.qs with rngCtr := c.qs.rngCtr + 1 } }) (by constructor <;> exact Eq.refl _)

theorem quiet_pure {s s' : State} {y x : Nat} (h : (pure (y, s) : Except Stop (Nat × State)) = .ok (x, s')) : Quiet s s' := by
  cases h; exact .rfl s

/-- Reading any source is quiet (R43, R112, R113). -/
theorem quiet_source {s s' : State} {spec : BitVec 9} {x : Nat} (h : s.source spec = .ok (x, s')) : Quiet s s' := by
  unfold State.source at h
  by_cases h1 : spec.toNat < 0x20
  · rw [if_pos h1] at h
    cases hr : s.core.readG spec.toNat <;> rw [hr] at h <;> cases h; exact .rfl s
  rw [if_neg h1] at h
  by_cases h2 : spec.toNat < 0x40
  · rw [if_pos h2] at h
    cases hr : s.core.readV (spec.toNat - 0x20) <;> rw [hr] at h <;> cases h; exact .rfl s
  rw [if_neg h2] at h
  by_cases h3 : spec.toNat < 0x50
  · rw [if_pos h3] at h; exact quiet_pure h
  rw [if_neg h3] at h
  by_cases h4 : spec.toNat < 0x58
  · rw [if_pos h4] at h; exact quiet_pure h
  rw [if_neg h4] at h
  by_cases h5 : spec.toNat = 0x58
  · rw [if_pos h5] at h; exact quiet_pure h
  rw [if_neg h5] at h
  by_cases h6 : spec.toNat = 0x59
  · rw [if_pos h6] at h; exact quiet_pure h
  rw [if_neg h6] at h
  by_cases h7 : spec.toNat = 0x5A
  · rw [if_pos h7] at h; exact quiet_pure h
  rw [if_neg h7] at h
  by_cases h8 : spec.toNat = 0x5B
  · rw [if_pos h8] at h; exact quiet_pure h
  rw [if_neg h8] at h
  by_cases h9 : spec.toNat < 0x80
  · rw [if_pos h9] at h; exact quiet_pure h
  rw [if_neg h9] at h
  by_cases h10 : spec.toNat < 0x88
  · rw [if_pos h10] at h; exact quiet_popRing h
  rw [if_neg h10] at h
  by_cases h11 : spec.toNat = 0x88
  · rw [if_pos h11] at h
    have e : s.popRandom.2 = s' := congrArg Prod.snd (Except.ok.inj h)
    exact e ▸ quiet_popRandom s
  rw [if_neg h11] at h
  by_cases h12 : spec.toNat = 0x89
  · rw [if_pos h12] at h; exact quiet_popData h
  rw [if_neg h12] at h
  exact quiet_pure h

/-- Literal words are counted and nothing else changes (R149). -/
theorem quiet_literals {s s' : State} {n : Nat} {l : List (List Byte)} (h : s.literals n = .ok (l, s')) : Quiet s s' := by
  simp only [State.literals, bind_eq_ok, need_eq_ok, exists_const] at h
  obtain ⟨-, h⟩ := h
  split at h
  · cases h
  · cases h; exact quiet_mod s _ (by constructor <;> exact Eq.refl _)

end Sys2Proof.Machine
end

