-- ==== Sys2Proof/Tests/Slice0.lean ====
section
/-!
SUPPORT. Tests: every slot word's decoding from words written out from the spec's encodings, an ill-formed term for each check of
WellFormed, one step of a few instructions, known values, and a witness for the hypotheses of each obligation.
-/
namespace Sys2Proof.Tests
open Sys2Proof Sys2Proof.Machine Sys2Proof.Claims
set_option Elab.async false
set_option maxRecDepth 8000
theorem test_decode_branch_1 :
    decodeSlot 0 0b000001_11_000000000000000000000000 = .ok (.br 3) ∧
    decodeSlot 0 0b000010_01_1_1110_0000000000000000000 = .ok (.brp 1 1 0xe) ∧
    decodeSlot 0 0b000011_01_1_110_101_00000000000000000 = .ok (.brv 1 1 6 5) ∧
    decodeSlot 0 0b000100_01_1_00010_01110_0000000000000 = .ok (.prep 1 1 2 0xe) ∧
    decodeSlot 0 0b000101_10_1_1110100000011_1000101100 = .ok (.prepi 2 1 0x1d03 0x22c) ∧
    decodeSlot 0 0b000110_10_000000000000000000000000 = .ok (.call 2) ∧
    decodeSlot 0 0b000111_1_0000000000000000000000000 = .ok (.ret 1) ∧
    decodeSlot 0 0b001000_0_1000010111110_000100100011 = .ok (.loopImm 0x10be 0x123) := by
  decide

theorem test_decode_branch_2 :
    decodeSlot 0 0b001000_1_00000000_00011_000100100011 = .ok (.loopReg 3 0x123) ∧
    decodeSlot 0 0b001001_0_1111_110100010_000100100011 = .ok (.loopmImm 0xf 0x1a2 0x123) ∧
    decodeSlot 0 0b001001_1_0111_0000_01111_000100100011 = .ok (.loopmReg 7 0xf 0x123) ∧
    decodeSlot 0 0b001010_11_000000_110_000000000000000 = .ok (.exitl 3 6) ∧
    decodeSlot 0 0b001010_01_1_1_0111_011_000000000000000 = .ok (.exitlCond 1 1 7 3) ∧
    decodeSlot 0 0b001011_111_0_1100001100101100101010 = .ok (.setstrImm 7 0x30cb2a) ∧
    decodeSlot 0 0b001011_110_1_00000000000000000_10111 = .ok (.setstrReg 6 0x17) ∧
    decodeSlot 0 0b001100_00000000000000000000000000 = .ok (.endTask) := by
  decide

theorem test_decode_branch_3 :
    decodeSlot 0 0b001101_01011_000000000000000000000 = .ok (.endHold 0xb) ∧
    decodeSlot 0 0b001110_00000000000000000000000000 = .ok (.barc) ∧
    decodeSlot 0 0b001111_0000000000_1100010110110011 = .ok (.trap 0xc5b3) ∧
    decodeSlot 0 0b010000_0000000000_1000100001111100 = .ok (.brk 0x887c) ∧
    decodeSlot 0 0b010001_01111_1001_00000000000000000 = .ok (.ccrr 0xf 9) ∧
    decodeSlot 0 0b010010_00100_0101_00000000000000000 = .ok (.ccrw 4 5) ∧
    decodeSlot 0 0b010011_01111111_1_00011_00111_0000000 = .ok (.waite 0x7f 1 3 7) ∧
    decodeSlot 0 0b010100_0011100010_0000000000000000 = .ok (.adapt 0xe2) := by
  decide

theorem test_decode_transport_1 :
    decodeSlot 2 0b00_001000101_110100101_000000_100101 = .ok (.move 1 0x45 0x1a5 0x25) ∧
    decodeSlot 2 0b10_000100111_001111011110010_100101 = .ok (.moveImmediate 1 0x27 0x1ef2 0x25) ∧
    decodeSlot 2 0b11_111110101111111110001100111101 = .ok (.longImmediate 1 0x3ebfe33d) ∧
    decodeSlot 2 0b01_00_1_0000001_00_1_00_100111101_100101 = .ok (.add 1 1 1 0x13d 0x25) ∧
    decodeSlot 2 0b01_00_1_0000010_00_1_00_100111101_100101 = .ok (.sub 1 1 1 0x13d 0x25) ∧
    decodeSlot 2 0b01_00_1_0000011_00_1_00_100111101_100101 = .ok (.mul 1 1 1 0x13d 0x25) ∧
    decodeSlot 2 0b01_00_1_0000100_00_1_00_100111101_100101 = .ok (.mulh 1 1 1 0x13d 0x25) ∧
    decodeSlot 2 0b01_00_1_0000101_00_1_00_100111101_100101 = .ok (.mulhu 1 1 1 0x13d 0x25) := by
  decide

theorem test_decode_transport_2 :
    decodeSlot 2 0b01_00_1_0000110_00_1_00_100111101_100101 = .ok (.and 1 1 1 0x13d 0x25) ∧
    decodeSlot 2 0b01_00_1_0000111_00_1_00_100111101_100101 = .ok (.or 1 1 1 0x13d 0x25) ∧
    decodeSlot 2 0b01_00_1_0001000_00_1_00_100111101_100101 = .ok (.xor 1 1 1 0x13d 0x25) ∧
    decodeSlot 2 0b01_00_1_0001001_00_1_00_100111101_100101 = .ok (.andn 1 1 1 0x13d 0x25) ∧
    decodeSlot 2 0b01_00_1_0001010_00_1_00_100111101_100101 = .ok (.shl 1 1 1 0x13d 0x25) ∧
    decodeSlot 2 0b01_00_1_0001011_00_1_00_100111101_100101 = .ok (.shr 1 1 1 0x13d 0x25) ∧
    decodeSlot 2 0b01_00_1_0001100_00_1_00_100111101_100101 = .ok (.sar 1 1 1 0x13d 0x25) ∧
    decodeSlot 2 0b01_00_1_0001101_00_1_00_100111101_100101 = .ok (.rotl 1 1 1 0x13d 0x25) := by
  decide

theorem test_decode_transport_3 :
    decodeSlot 2 0b01_00_1_0001110_00_1_00_100111101_100101 = .ok (.min 1 1 1 0x13d 0x25) ∧
    decodeSlot 2 0b01_00_1_0001111_00_1_00_100111101_100101 = .ok (.max 1 1 1 0x13d 0x25) ∧
    decodeSlot 2 0b01_00_1_0010000_00_1_00_100111101_100101 = .ok (.minu 1 1 1 0x13d 0x25) ∧
    decodeSlot 2 0b01_00_1_0010001_00_1_00_100111101_100101 = .ok (.maxu 1 1 1 0x13d 0x25) ∧
    decodeSlot 2 0b01_00_1_0010010_00_1_00_100111101_100101 = .ok (.clz 1 1 1 0x13d 0x25) ∧
    decodeSlot 2 0b01_00_1_0010011_00_1_00_100111101_100101 = .ok (.popc 1 1 1 0x13d 0x25) ∧
    decodeSlot 2 0b01_00_1_0010100_00_1_00_100111101_100101 = .ok (.sel 1 1 1 0x13d 0x25) ∧
    decodeSlot 2 0b01_00_1_0010101_00_1_00_100111101_100101 = .ok (.ceq 1 1 1 0x13d 0x25) := by
  decide

theorem test_decode_transport_4 :
    decodeSlot 2 0b01_00_1_0010110_00_1_00_100111101_100101 = .ok (.cne 1 1 1 0x13d 0x25) ∧
    decodeSlot 2 0b01_00_1_0010111_00_1_00_100111101_100101 = .ok (.clt 1 1 1 0x13d 0x25) ∧
    decodeSlot 2 0b01_00_1_0011000_00_1_00_100111101_100101 = .ok (.cle 1 1 1 0x13d 0x25) ∧
    decodeSlot 2 0b01_00_1_0011001_00_1_00_100111101_100101 = .ok (.cltu 1 1 1 0x13d 0x25) ∧
    decodeSlot 2 0b01_00_1_0011010_00_1_00_100111101_100101 = .ok (.cleu 1 1 1 0x13d 0x25) ∧
    decodeSlot 2 0b01_00_1_0011011_00_1_00_100111101_100101 = .ok (.divu 1 1 1 0x13d 0x25) ∧
    decodeSlot 2 0b01_00_1_0011100_00_1_00_100111101_100101 = .ok (.remu 1 1 1 0x13d 0x25) ∧
    decodeSlot 2 0b01_00_1_0011101_00_1_00_100111101_100101 = .ok (.madd 1 1 1 0x13d 0x25) := by
  decide

theorem test_decode_transport_5 :
    decodeSlot 2 0b01_00_1_0011110_00_1_00_100111101_100101 = .ok (.bfx 1 1 1 0x13d 0x25) ∧
    decodeSlot 2 0b01_00_1_0011111_00_1_00_100111101_100101 = .ok (.bfi 1 1 1 0x13d 0x25) ∧
    decodeSlot 2 0b01_01_1_0000001_100_10_100111101_100101 = .ok (.vadd 1 1 4 2 0x13d 0x25) ∧
    decodeSlot 2 0b01_01_1_0000010_100_10_100111101_100101 = .ok (.vsub 1 1 4 2 0x13d 0x25) ∧
    decodeSlot 2 0b01_01_1_0000011_100_10_100111101_100101 = .ok (.vmul 1 1 4 2 0x13d 0x25) ∧
    decodeSlot 2 0b01_01_1_0000100_100_10_100111101_100101 = .ok (.vfma 1 1 4 2 0x13d 0x25) ∧
    decodeSlot 2 0b01_01_1_0000101_100_10_100111101_100101 = .ok (.vfms 1 1 4 2 0x13d 0x25) ∧
    decodeSlot 2 0b01_01_1_0000110_100_10_100111101_100101 = .ok (.vmin 1 1 4 2 0x13d 0x25) := by
  decide

theorem test_decode_transport_6 :
    decodeSlot 2 0b01_01_1_0000111_100_10_100111101_100101 = .ok (.vmax 1 1 4 2 0x13d 0x25) ∧
    decodeSlot 2 0b01_01_1_0001000_100_10_100111101_100101 = .ok (.vabs 1 1 4 2 0x13d 0x25) ∧
    decodeSlot 2 0b01_01_1_0001001_100_10_100111101_100101 = .ok (.vneg 1 1 4 2 0x13d 0x25) ∧
    decodeSlot 2 0b01_01_1_0001010_100_10_100111101_100101 = .ok (.vceq 1 1 4 2 0x13d 0x25) ∧
    decodeSlot 2 0b01_01_1_0001011_100_10_100111101_100101 = .ok (.vcne 1 1 4 2 0x13d 0x25) ∧
    decodeSlot 2 0b01_01_1_0001100_100_10_100111101_100101 = .ok (.vclt 1 1 4 2 0x13d 0x25) ∧
    decodeSlot 2 0b01_01_1_0001101_100_10_100111101_100101 = .ok (.vcle 1 1 4 2 0x13d 0x25) ∧
    decodeSlot 2 0b01_01_1_0001110_010_10_100111101_100101 = .ok (.vcun 1 1 2 2 0x13d 0x25) := by
  decide

theorem test_decode_transport_7 :
    decodeSlot 2 0b01_01_1_0001111_100_10_100111101_100101 = .ok (.vsel 1 1 4 2 0x13d 0x25) ∧
    decodeSlot 2 0b01_01_1_0010000_100_10_100111101_100101 = .ok (.vand 1 1 4 2 0x13d 0x25) ∧
    decodeSlot 2 0b01_01_1_0010001_100_10_100111101_100101 = .ok (.vor 1 1 4 2 0x13d 0x25) ∧
    decodeSlot 2 0b01_01_1_0010010_100_10_100111101_100101 = .ok (.vxor 1 1 4 2 0x13d 0x25) ∧
    decodeSlot 2 0b01_01_1_0010011_101_10_100111101_100101 = .ok (.vshl 1 1 5 2 0x13d 0x25) ∧
    decodeSlot 2 0b01_01_1_0010100_110_10_100111101_100101 = .ok (.vshr 1 1 6 2 0x13d 0x25) ∧
    decodeSlot 2 0b01_01_1_0010101_100_10_100111101_100101 = .ok (.vsar 1 1 4 2 0x13d 0x25) ∧
    decodeSlot 2 0b01_01_1_0010110_100_10_100111101_100101 = .ok (.vcvt 1 1 4 2 0x13d 0x25) := by
  decide

theorem test_decode_transport_8 :
    decodeSlot 2 0b01_01_1_0010111_001_10_100111101_100101 = .ok (.vqnt 1 1 1 2 0x13d 0x25) ∧
    decodeSlot 2 0b01_01_1_0011000_010_10_100111101_100101 = .ok (.vdqnt 1 1 2 2 0x13d 0x25) ∧
    decodeSlot 2 0b01_01_1_0011001_100_10_100111101_100101 = .ok (.vredadd 1 1 4 2 0x13d 0x25) ∧
    decodeSlot 2 0b01_01_1_0011010_100_10_100111101_100101 = .ok (.vredmax 1 1 4 2 0x13d 0x25) ∧
    decodeSlot 2 0b01_01_1_0011011_100_10_100111101_100101 = .ok (.vredmin 1 1 4 2 0x13d 0x25) ∧
    decodeSlot 2 0b01_01_1_0011100_100_10_100111101_100101 = .ok (.vbcast 1 1 4 2 0x13d 0x25) ∧
    decodeSlot 2 0b01_01_1_0011101_100_10_100111101_100101 = .ok (.vperm 1 1 4 2 0x13d 0x25) ∧
    decodeSlot 2 0b01_01_1_0011110_100_10_100111101_100101 = .ok (.vscan 1 1 4 2 0x13d 0x25) := by
  decide

theorem test_decode_transport_9 :
    decodeSlot 2 0b01_01_1_0011111_100_10_100111101_100101 = .ok (.viota 1 1 4 2 0x13d 0x25) ∧
    decodeSlot 2 0b01_01_1_0100000_100_10_100111101_100101 = .ok (.vcomp 1 1 4 2 0x13d 0x25) ∧
    decodeSlot 2 0b01_01_1_0100001_100_10_100111101_100101 = .ok (.vshift 1 1 4 2 0x13d 0x25) ∧
    decodeSlot 2 0b01_01_1_0100010_011_10_100111101_100101 = .ok (.vpack 1 1 3 2 0x13d 0x25) ∧
    decodeSlot 2 0b01_01_1_0100011_110_10_100111101_100101 = .ok (.vunpk 1 1 6 2 0x13d 0x25) ∧
    decodeSlot 2 0b01_01_1_0100100_100_10_100111101_100101 = .ok (.vclamp 1 1 4 2 0x13d 0x25) ∧
    decodeSlot 2 0b01_01_1_0100101_001_10_100111101_100101 = .ok (.vround 1 1 1 2 0x13d 0x25) ∧
    decodeSlot 2 0b01_100_0000001_000_10_100111101_100101 = .ok (.exp2 1 2 0x13d 0x25) := by
  decide

theorem test_decode_transport_10 :
    decodeSlot 2 0b01_100_0000010_000_10_100111101_100101 = .ok (.log2 1 2 0x13d 0x25) ∧
    decodeSlot 2 0b01_100_0000011_000_10_100111101_100101 = .ok (.rcp 1 2 0x13d 0x25) ∧
    decodeSlot 2 0b01_100_0000100_000_10_100111101_100101 = .ok (.rsqrt 1 2 0x13d 0x25) ∧
    decodeSlot 2 0b01_100_0000101_000_10_100111101_100101 = .ok (.sqrt 1 2 0x13d 0x25) ∧
    decodeSlot 2 0b01_100_0000110_000_10_100111101_100101 = .ok (.tanh 1 2 0x13d 0x25) := by
  decide

theorem test_decode_weight_1 :
    decodeSlot 6 0b00001_001000_001010_10101000_100_0000 = .ok (.wmac 1 8 0xa 0xa8 4) ∧
    decodeSlot 6 0b00010_000100_00_0011_11110011_110_0000 = .ok (.wmacy 1 4 3 0xf3 6) ∧
    decodeSlot 6 0b00011_011010_001010_00000000_110_0000 = .ok (.wadd 1 0x1a 0xa 6) ∧
    decodeSlot 6 0b00100_001010_101011_00000000_010_0000 = .ok (.wsub 1 0xa 0x2b 2) ∧
    decodeSlot 6 0b00101_110111_00_0001_00000000_100_0000 = .ok (.waddy 1 0x37 1 4) ∧
    decodeSlot 6 0b00110_100100_00_1110_00000000_011_0000 = .ok (.wsuby 1 0x24 0xe 3) ∧
    decodeSlot 6 0b00111_00_1111_010101_11100000_010_0000 = .ok (.ymac 1 0xf 0x15 0xe0 2) ∧
    decodeSlot 6 0b01000_00_0011_100011_00000000_001_0000 = .ok (.yadd 1 3 0x23 1) := by
  decide

theorem test_decode_weight_2 :
    decodeSlot 6 0b01001_00_0100_011000_00000000_110_0000 = .ok (.ysub 1 4 0x18 6) ∧
    decodeSlot 6 0b01010_00_0100_00000000000000_011_0000 = .ok (.yclr 1 4 3) ∧
    decodeSlot 6 0b01011_101110_00000000000000_010_0000 = .ok (.wclr 1 0x2e 2) ∧
    decodeSlot 6 0b01100_111010_0_01000_00000000_010_0000 = .ok (.wflush 1 0x3a 8 2) ∧
    decodeSlot 6 0b01101_010001_110011_00000000_111_0000 = .ok (.wcpy 1 0x11 0x33 7) := by
  decide

theorem test_decode_tile_1 :
    decodeSlot 7 0b000001_01_00_11_0110_1111_100101_00000000000000000000000000000000000000 = .ok (.mma 1 3 6 0xf 0x25) ∧
    decodeSlot 7 0b000010_01_00_01_1111_0000_100101_00000000000000000000000000000000000000 = .ok (.mmal 1 1 0xf 0x25) ∧
    decodeSlot 7 0b000011_10_00_10_0110_0000_100101_00000000000000000000000000000000000000 = .ok (.mmals 2 2 6 0x25) ∧
    decodeSlot 7 0b000100_10_00_10_0001_1101_100101_00000000000000000000000000000000000000 = .ok (.mmat 2 2 1 0xd 0x25) ∧
    decodeSlot 7 0b000101_10_000000_10_0000_100101_010_1_10_000100100110_1_000_1000001010101101 = .ok (.mflush 2 2 2 1 2 0x126 1 0x82ad 0x25) ∧
    decodeSlot 7 0b000110_0000_11_00000000_100101_00000000000000000000000000000000000000 = .ok (.mclr 3 0x25) ∧
    decodeSlot 7 0b000111_00_000000000000_100101_1_00000000000000000000000000000_00000101 = .ok (.mfmt 0 1 5 0x25) ∧
    decodeSlot 7 0b001000_00000000000000_100101_00000000000000000000000000000000000000 = .ok (.mdrain 0x25) := by
  decide

theorem test_decode_tile_2 :
    decodeSlot 7 0b001001_00_1100_00000000_100101_00000000000000000000000000000000000000 = .ok (.tzero 0xc 0x25) ∧
    decodeSlot 7 0b001010_00_0101_1101_0000_100101_1_0000000000000000000000000000000000000 = .ok (.ttrn 5 0xd 1 0x25) ∧
    decodeSlot 7 0b001011_00_1100_0111_0000_100101_010001_0100001_01001_1_0000000000000000000 = .ok (.topk 0xc 7 0x11 0x21 9 1 0x25) ∧
    decodeSlot 7 0b001100_00_1010_0001_0000_100101_000000_1000000_10000_1_0000000000000000000 = .ok (.rowmax 0xa 1 0x40 0x10 1 0x25) ∧
    decodeSlot 7 0b001101_00_1100_00000000_100101_101_1_011_101001001100001_1101111111001000 = .ok (.tqnt 0xc 5 1 3 0x5261 0xdfc8 0x25) ∧
    decodeSlot 7 0b001110_000000_1011_0000_100101_00000000000000000000000000000000000000 = .ok (.maskld 0xb 0x25) := by
  decide

theorem test_decode_local_1 :
    decodeSlot 8 0b000001_001_100101_111_10_1_10111_000000_10011101110111001110100110100111 = .ok (.ld 1 0x25 7 2 1 0x17 0x9ddce9a7) ∧
    decodeSlot 8 0b000010_010_100101_110_10_0_00010_000000_10000111000110100011000111111011 = .ok (.st 2 0x25 6 2 2 0x871a31fb) ∧
    decodeSlot 8 0b000011_001_100101_100_000_01000_000000_10010001011111010110101011010110 = .ok (.vld 1 0x25 4 8 0x917d6ad6) ∧
    decodeSlot 8 0b000100_010_100101_110_000_11010_000000_00101010101111011110100101010100 = .ok (.vst 2 0x25 6 0x1a 0x2abde954) ∧
    decodeSlot 8 0b000101_001_100101_011_00_1010_00000000_10011101001101001110001101111100 = .ok (.tldl 1 0x25 3 0xa 0x9d34e37c) ∧
    decodeSlot 8 0b000110_010_100101_101_00_1010_00000000_11111011101111000100100111011011 = .ok (.tstl 2 0x25 5 0xa 0xfbbc49db) ∧
    decodeSlot 8 0b000111_001_100101_101_111010_00000000_11111110001000101010001111101110 = .ok (.xld 1 0x25 5 0x3a 0xfe22a3ee) ∧
    decodeSlot 8 0b001000_001_100101_111_00000000000000_10110110000011110001011110110001 = .ok (.xsc 1 0x25 7 0xb60f17b1) := by
  decide

theorem test_decode_local_2 :
    decodeSlot 8 0b001001_011_100101_100_1_110_10111_11111_11011100110110001000100111011100 = .ok (.amol 3 0x25 4 1 6 0x17 0x1f 0xdcd889dc) ∧
    decodeSlot 8 0b001010_000_100101_11010_00000000000000000000000000000000000000000000 = .ok (.acqb 0x25 0x1a) ∧
    decodeSlot 8 0b001011_000_100101_10001_00000000000000000000000000000000000000000000 = .ok (.relb 0x25 0x11) ∧
    decodeSlot 8 0b001100_001_100101_010_00011_000000000_10010001001000011000000101110011 = .ok (.tdl 1 0x25 2 3 0x91218173) ∧
    decodeSlot 8 0b001101_001_100101_110_01_0_01110_11010_0_11100111111111010111011111110101 = .ok (.vlds 1 0x25 6 1 0xe 0x1a 0xe7fd77f5) := by
  decide

theorem test_decode_cluster_1 :
    decodeSlot 9 0b000001_001_100101_011_10_1_10010_000000_11000010001010011001010001011100 = .ok (.ldc 1 0x25 3 2 1 0x12 0xc229945c) ∧
    decodeSlot 9 0b000010_010_100101_010_10_0_00011_000000_01011111000100000101010110000111 = .ok (.stc 2 0x25 2 2 3 0x5f105587) ∧
    decodeSlot 9 0b000011_001_100101_100_000_11011_000000_10011000010101100100101010110100 = .ok (.vldc 1 0x25 4 0x1b 0x98564ab4) ∧
    decodeSlot 9 0b000100_010_100101_111_000_11001_000000_10110001101010011101110010100111 = .ok (.vstc 2 0x25 7 0x19 0xb1a9dca7) ∧
    decodeSlot 9 0b000101_001_100101_011_00_1010_00000000_01011100000101111100100010001111 = .ok (.tldc 1 0x25 3 0xa 0x5c17c88f) ∧
    decodeSlot 9 0b000110_001_100101_101_1111_11001_00000_01110011010100001011101010001010 = .ok (.tldm 1 0x25 5 0xf 0x19 0x7350ba8a) ∧
    decodeSlot 9 0b000111_000_100101_0111_000000000000000000000000000000000000000000000 = .ok (.arm 0x25 7) ∧
    decodeSlot 9 0b001000_011_100101_011_1_110_10000_11001_11100000100100111101001011000001 = .ok (.amoc 3 0x25 3 1 6 0x10 0x19 0xe093d2c1) := by
  decide

theorem test_decode_cluster_2 :
    decodeSlot 9 0b001001_000_100101_0000000000000000000000000000000000000000000000000 = .ok (.mark 0x25) := by
  decide

theorem test_decode_global_1 :
    decodeSlot 10 0b000001_001_100101_01011_0_0111_001_110_0_00011001101001000001010110010001 = .ok (.tld 1 0x25 0xb 7 1 6 0x19a41591) ∧
    decodeSlot 10 0b000001_001_100101_11100_1_0_011_101_010_0_11010010001010001110110100100100 = .ok (.tldRing 1 0x25 0x1c 3 5 2 0xd228ed24) ∧
    decodeSlot 10 0b000010_010_100101_10110_0_1010_110_011_0_11100011000010011001001110001011 = .ok (.tst 2 0x25 0x16 0xa 6 3 0xe309938b) ∧
    decodeSlot 10 0b000011_001_100101_111_100_101_00000000_00110011010101101111000001110000 = .ok (.tldx 1 0x25 7 4 5 0x3356f070) ∧
    decodeSlot 10 0b000100_010_100101_011_100_110_00000000_00110011011111000111111111001011 = .ok (.tstx 2 0x25 3 4 6 0x337c7fcb) ∧
    decodeSlot 10 0b000101_000_100101_110_11110_10_000000000000000000000000000000000000000 = .ok (.xlate 0x25 6 0x1e 2) ∧
    decodeSlot 10 0b000110_010_100101_110_1110_0101_1_00000_01101111010111001111000010111001 = .ok (.cpy 2 0x25 6 0xe 5 1 0x6f5cf0b9) ∧
    decodeSlot 10 0b000111_000_100101_11001_11_001001_000000000000000000000000000000000000 = .ok (.gath 0x25 0x19 3 9) := by
  decide

theorem test_decode_global_2 :
    decodeSlot 10 0b001000_010_100101_111_1111_0101_1_00000_01110011110010111011011110111100 = .ok (.kapp 2 0x25 7 0xf 5 1 0x73cbb7bc) ∧
    decodeSlot 10 0b001001_010_100101_001_1111_1110_1_00000_10001111110100000100010100111111 = .ok (.pmatch 2 0x25 1 0xf 0xe 1 0x8fd0453f) ∧
    decodeSlot 10 0b001010_010_100101_110_1100_1001_1_00000_11000001101011100101001100011101 = .ok (.pins 2 0x25 6 0xc 9 1 0xc1ae531d) ∧
    decodeSlot 10 0b001011_010_100101_001_0001_0110_1_00000_11110101110100011110111110101100 = .ok (.prel 2 0x25 1 1 6 1 0xf5d1efac) ∧
    decodeSlot 10 0b001100_010_100101_010_0101_0101_1_00000_11000110000010011101110100111001 = .ok (.blend 2 0x25 2 5 5 1 0xc609dd39) ∧
    decodeSlot 10 0b001101_010_100101_101_0100_0110_1_00000_01110010110011101111100011111000 = .ok (.coll 2 0x25 5 4 6 1 0x72cef8f8) ∧
    decodeSlot 10 0b001110_010_100101_101_1011_1100_1_00000_11001011001001110101011101001001 = .ok (.asn 2 0x25 5 0xb 0xc 1 0xcb275749) ∧
    decodeSlot 10 0b001111_010_100101_101_1011_0010_1_00000_01011010010111111000001101010001 = .ok (.launch 2 0x25 5 0xb 2 1 0x5a5f8351) := by
  decide

theorem test_decode_global_3 :
    decodeSlot 10 0b010000_001_100101_01000_10011_00110_0000000000000000000000000000000000 = .ok (.waitm 1 0x25 8 0x13 6) ∧
    decodeSlot 10 0b010001_011_100101_100_1_110_00001_10010_11011101010100011111000111100101 = .ok (.amog 3 0x25 4 1 6 1 0x12 0xdd51f1e5) ∧
    decodeSlot 10 0b010010_000_100101_0000000000000000000000000000000000000000000000000 = .ok (.fence 0x25) ∧
    decodeSlot 10 0b010011_000_100101_00101_01011_0111_00000000000000000000000000000000000 = .ok (.icinv 0x25 5 0xb 7) ∧
    decodeSlot 10 0b010100_000_100101_001_10111_00000000000000000000000000000000000000000 = .ok (.dgstAbsorb 0x25 1 0x17) ∧
    decodeSlot 10 0b010100_000_100101_101_00000_011_1101_00_11101110010000000000001010101000 = .ok (.dgstEmit 0x25 3 0xd 0xee4002a8) ∧
    decodeSlot 10 0b010100_000_100101_110_0000000000000000000000000000000000000000000000 = .ok (.dgstReset 0x25) ∧
    decodeSlot 10 0b010101_010_100101_010_0011_1110_1_00000_11000110101000010111000000111100 = .ok (.decant 2 0x25 2 3 0xe 1 0xc6a1703c) := by
  decide

theorem test_decode_global_4 :
    decodeSlot 10 0b010110_001_100101_0010_11110_0000000000000000000000000000000000000000 = .ok (.cwait 1 0x25 2 0x1e) := by
  decide

theorem test_decode_queue_1 :
    decodeSlot 11 0b00001_110010_101_10001001_1001000100 = .ok (.sld 0x32 5 0x89 0x244) ∧
    decodeSlot 11 0b00010_110010_00111_0000000000000000 = .ok (.sldl 0x32 7) ∧
    decodeSlot 11 0b00011_110010_10001_1_000000000000000 = .ok (.ixp 0x32 0x11 1) ∧
    decodeSlot 11 0b00100_110010_000000000000000000000 = .ok (.nextChunk 0x32) ∧
    decodeSlot 11 0b00101_110010_01110_11100_00000000000 = .ok (.rngk 0x32 0xe 0x1c) ∧
    decodeSlot 11 0b00110_110010_001_11100010_0000000000 = .ok (.rwait 0x32 1 0xe2) ∧
    decodeSlot 11 0b00111_110010_010_10000101_0000000000 = .ok (.radv 0x32 2 0x85) ∧
    decodeSlot 11 0b01000_110010_011_00111000_0000000000 = .ok (.rpub 0x32 3 0x38) := by
  decide

theorem test_decode_queue_2 :
    decodeSlot 11 0b01001_110010_111_00110_0000000000000 = .ok (.rcfg 0x32 7 6) := by
  decide
theorem test_wf_refuses_guards :
    Instr.wf (.add 0 0 0 0x100 0x07) = false ∧ Instr.wf (.add 0 0 0 0x100 0x27) = true ∧
    Instr.wf (.mclr 1 0x1F) = false ∧ Instr.wf (.ld 0 1 0 0 0 0 0) = false ∧ Instr.wf (.nextChunk 0x10) = false := by
  decide

theorem test_wf_refuses_operands :
    Instr.wf (.move 0 1 0x5C 0) = false ∧ Instr.wf (.move 0 1 0x8A 0) = false ∧ Instr.wf (.move 0 0x5C 0 0) = false ∧
    Instr.wf (.move 0 0x80 0 0) = false ∧ Instr.wf (.moveImmediate 0 0x62 0 0) = false ∧
    Instr.wf (.move 0 0x60 0x62 0) = true ∧ Instr.wf (.mul 0 0 0 0x63 0) = false := by
  decide

theorem test_wf_refuses_types :
    Instr.wf (.vadd 0 0 7 0 0x40 0) = false ∧ Instr.wf (.vadd 0 0 0 3 0x40 0) = false ∧
    Instr.wf (.vcun 0 0 3 0 0x40 0) = false ∧ Instr.wf (.vshl 0 0 1 0 0x40 0) = false ∧
    Instr.wf (.vsar 0 0 6 0 0x40 0) = false ∧ Instr.wf (.vqnt 0 0 5 0 0x40 0) = false ∧
    Instr.wf (.vpack 0 0 5 0 0x40 0) = false ∧ Instr.wf (.vunpk 0 0 3 0 0x40 0) = false ∧
    Instr.wf (.vround 0 0 4 0 0x40 0) = false ∧ Instr.wf (.exp2 0 3 0x40 0) = false := by
  decide

theorem test_wf_refuses_branch_fields :
    Instr.wf (.brv 0 0 0 2) = false ∧ Instr.wf (.prep 0 0 0 1) = false ∧ Instr.wf (.prepi 0 0 0 1) = false ∧
    Instr.wf (.loopImm 1 0) = false ∧ Instr.wf (.loopReg 1 0) = false ∧ Instr.wf (.loopmImm 0 1 1) = false ∧
    Instr.wf (.loopmReg 1 1 0) = false ∧ Instr.wf (.exitl 0 0) = false ∧ Instr.wf (.exitlCond 0 0 0 7) = false ∧
    Instr.wf (.ccrr 0 10) = false ∧ Instr.wf (.ccrw 0 15) = false := by
  decide

theorem test_wf_refuses_tile_fields :
    Instr.wf (.mmals 0 0 3 0) = false ∧ Instr.wf (.mflush 0 0 0 0 3 0 0 0 0) = false ∧
    Instr.wf (.mfmt 1 1 0 0) = false ∧ Instr.wf (.mfmt 0 0 16 0) = false ∧ Instr.wf (.mfmt 0 1 2 0) = false ∧
    Instr.wf (.topk 0 0 0 8 1 0 0) = false ∧ Instr.wf (.topk 0 0 33 8 1 0 0) = false ∧
    Instr.wf (.topk 0 0 1 65 1 0 0) = false ∧ Instr.wf (.topk 0 0 1 8 17 0 0) = false ∧
    Instr.wf (.rowmax 0 0 0 1 0 0) = false ∧ Instr.wf (.rowmax 0 0 8 0 0 0) = false := by
  decide

theorem test_wf_refuses_memory_fields :
    Instr.wf (.ld 2 0 0 0 0 0 0) = false ∧ Instr.wf (.ld 0 0 0 3 1 0 0) = false ∧ Instr.wf (.st 1 0 0 0 0 0) = false ∧
    Instr.wf (.amol 4 0 0 0 0 0 0 0) = false ∧ Instr.wf (.amoc 0 0 0 0 7 0 0 0) = false ∧
    Instr.wf (.ldc 0 0 0 3 1 0 0) = false ∧ Instr.wf (.vstc 3 0 0 0 0) = false ∧ Instr.wf (.tldx 0 0 0 0 7 0) = false ∧
    Instr.wf (.tstx 0 0 0 0 7 0) = false ∧ Instr.wf (.xlate 0 0 0 3) = false ∧ Instr.wf (.tst 1 0 0 0 0 0 0) = false := by
  decide

theorem test_wf_refuses_engine_fields :
    Instr.wf (.cpy 0 0 0 0 1 0 0) = false ∧ Instr.wf (.cpy 1 0 0 0 0 0 0) = false ∧ Instr.wf (.decant 0 0 0 0 3 0 0) = false ∧
    Instr.wf (.waitm 2 0 0 0 0) = false ∧ Instr.wf (.cwait 2 0 0 0) = false ∧ Instr.wf (.dgstAbsorb 0 5 0) = false ∧
    Instr.wf (.dgstAbsorb 0 2 8) = false ∧ Instr.wf (.dgstAbsorb 0 3 1) = false ∧ Instr.wf (.sldl 0 8) = false := by
  decide

theorem test_wf_refuses_absent_parties :
    Instr.wf (.mmaDelivery 512) = false ∧ Instr.wf (.transferArrival 600 0) = false ∧ Instr.wf (.schedulerCycle 4) = false ∧
    Instr.wf (.writeBufferDrain 4 0) = false ∧ Instr.wf (.groupEviction 2 0 0 true) = false ∧
    Instr.wf (.hostSnoop 2 0 []) = false ∧ Instr.wf (.evqCtlWrite 16 0) = false ∧ Instr.wf (.vaultScrub 512 0 .clean) = false ∧
    Instr.wf (.mmaDelivery 511) = true := by
  decide

theorem test_decode_refuses :
    decodeSlot 0 0 = .error .unassigned ∧ decodeSlot 0 0x54000000 = .error .unassigned ∧
    decodeSlot 0 0x30000001 = .error .reserved ∧ decodeSlot 0 0x20001000 = .error .field ∧
    decodeSlot 1 0x52600000 = .error .unassigned ∧ decodeSlot 5 0x08000001 = .error .reserved ∧
    decodeSlot 7 0x1800004000000000 = .error .field ∧ decodeSlot 12 0 = .error .shape := by
  decide
/-! ### States that the statements' conditions hold of -/

/-- A core at work: member 0 of a gang of four that owns every bank, with p5 set and a few registers. -/
def atWork : Core :=
  { Core.blank with
    regs := { Regs.entry with g := [(1, 7), (2, 0x80), (3, 0x1000)], v := [(2, 9)], p := [(5, true)], q := [(1, 3)], b := [(1, 0x40)] }
    ctl := { Ctl.idle with run := .running, owned := BitVec.allOnes 64, size := 4, task := 1 } }

/-- The machine with a core at work as its current one, at a cycle. -/
def working (c : Core) : State := { State.reset with cycle := 1000, core := c }

/-- The core at work in a machine. -/
def w0 : State := working atWork

/-- A tile register with data, and one that is zero. -/
def wTile : State := working { atWork with eng := { Engines.entry with t := [(2, ⟨5, false⟩)] } }

theorem witness_integer_words :
    w0.core.guardP 0x25 = true ∧ w0.core.intFree 1 ≤ w0.cycle ∧ w0.source 0x1FF = .ok (255, w0) :=
  ⟨by decide, by decide, rfl⟩

/-- A pop is a source too: the data queue's word moves into the unit and is gone. -/
theorem witness_popped_source :
    let s := working { atWork with qs := { Queues.entry with data := [12] } }
    s.core.guardP 0 = true ∧ s.core.intFree 0 ≤ s.cycle ∧ s.source 0x89 = .ok (12, working { atWork with qs := Queues.entry }) :=
  ⟨by decide, by decide, rfl⟩

theorem witness_moves :
    let s := working { atWork with ctx := { Ctx.empty with words := [.longImmediate 1 5] } }
    s.core.guardP 0x25 = true ∧ s.source 3 = .ok (0x1000, s) ∧ partnerLong 1 w0.core.ctx.words = none ∧
      partnerLong 0 s.core.ctx.words = some 5 :=
  ⟨by decide, rfl, by decide, by decide⟩

/-- A lane mask that includes lanes, and one that excludes all of them, where a reduction writes nothing. -/
theorem witness_vector_words :
    w0.core.guardV 0x29 = true ∧ (w0.claim 2 2).source 0x22 = .ok (9, w0.claim 2 2) ∧
      (∃ r, vredaddOp (vectorArgs w0.core 0 3 0 9) (w0.core.guardLanes 0x29) = .ok (some r)) ∧
      vredaddOp (vectorArgs w0.core 0 3 0 9) (w0.core.guardLanes 0x28) = .ok none :=
  ⟨by decide, rfl, ⟨⟨32, List.replicate 8 (9, 0)⟩, by decide +kernel⟩, by decide⟩

theorem witness_integer_lanes :
    let v := vectorArgs w0.core 1 4 2 9
    3 ≤ v.ty ∧ v.ty ≤ 6 ∧ v.s = typeWidth v.ty := by decide +kernel

theorem witness_special_functions :
    w0.core.guardV 0x25 = true ∧ w0.source 0x22 = .ok (9, w0) := ⟨by decide, rfl⟩

/-- A lane mask at either end of its range of specifiers. -/
theorem witness_select_lanes :
    w0.core.guardV 0 = true ∧ (w0.claim 0 1).source 0x51 = .ok (3, w0.claim 0 1) ∧
      0x50 ≤ (0x50#9).toNat ∧ (0x50#9).toNat < 0x58 ∧ 0x50 ≤ (0x57#9).toNat ∧ (0x57#9).toNat < 0x58 :=
  ⟨by decide, rfl, by decide, by decide, by decide, by decide⟩

theorem witness_weight_accumulation :
    w0.core.immOk 3 = true ∧ w0.core.boundAt (4 + 63) + 128 * (3#8).toInt.natAbs ≤ boundMax ∧
      w0.core.boundAt (68 + 15) + 128 ≤ boundMax := by decide +kernel

/-- A bound that the next accumulation passes. -/
theorem witness_accumulation_past_bound :
    let s := working { atWork with eng := { Engines.entry with bound := [(4, BitVec.ofNat 64 boundMax), (68, BitVec.ofNat 64 boundMax)] } }
    s.core.immOk 1 = true ∧ boundMax < s.core.boundAt (4 + 0) + 128 * (1#8).toInt.natAbs ∧
      boundMax < s.core.boundAt (68 + 0) + 128 * (1#8).toInt.natAbs := by decide +kernel

/-- The formats of the exit take two or four registers. -/
theorem witness_weight_flush :
    let s := working { atWork with qs := { Queues.entry with scale := [0x3F80] } }
    s.core.qs.scale = 0x3F80 :: [] ∧ (28#5).toNat % (if outFmt s.core.eng.wfmt.toNat = f32 then 4 else 2) = 0 := by decide +kernel

theorem witness_tile_products :
    wTile.core.guardP 0x25 = true ∧ wTile.core.eng.arrayFree ≤ wTile.cycle ∧
      wTile.core.boundAt 3 + mmaBound (wTile.core.pairOf 1) ≤ boundMax ∧ wTile.core.readTile 2 = .ok ⟨5, false⟩ ∧
      wTile.core.readTile 3 = .ok Tile.blank ∧ (2#4).toNat % 2 = 0 := by decide +kernel

/-- 128 scales queued, and rows that fit the pitch. -/
theorem witness_tile_flush :
    let s := working { atWork with qs := { Queues.entry with scale := List.replicate 128 0x3F80 } }
    s.core.guardP 0 = true ∧ rowBytes (s.core.fmtAt 0) ≤ 64 * (4#12).toNat ∧ 128 ≤ s.core.qs.scale.length ∧
      (∀ r ∈ [[], flushRows (s.core.bAt 0 + 64 * (16#16).toNat) 4 (s.core.fmtAt 0)],
        s.exitWait r (flushRows (s.core.bAt 0 + 64 * (16#16).toNat) 4 (s.core.fmtAt 0)) = .ok ()) ∧
      inVault (flushRows (s.core.bAt 0 + 64 * (16#16).toNat) 4 (s.core.fmtAt 0)) = .ok () ∧
      s.core.eng.exitFree ≤ s.cycle := by decide +kernel

theorem witness_tile_control :
    w0.core.guardP 0 = true ∧ w0.fmtBusy 3 = false ∧ w0.fmtBusy 4 = false ∧ w0.core.tilePending 15 = false ∧
      w0.core.readTile 0 = .ok Tile.blank ∧ maskOk (Tile.blank.data.toNat % 2 ^ 512) = true ∧
      w0.core.eng.arrayFree ≤ w0.cycle ∧ w0.core.eng.exitFree ≤ w0.cycle ∧ w0.core.eng.shuffleFree ≤ w0.cycle := by
  decide +kernel

theorem witness_tile_shuffles :
    wTile.core.guardP 0x25 = true ∧ wTile.core.readTile 2 = .ok ⟨5, false⟩ ∧ wTile.core.tilePending 1 = false ∧
      wTile.core.eng.shuffleFree ≤ wTile.cycle := by decide +kernel

theorem witness_tile_quantisation :
    w0.core.guardP 0 = true ∧ w0.core.tilePending 1 = false ∧ w0.core.eng.exitFree ≤ w0.cycle ∧
      w0.exitWait [(w0.core.bAt 1 + 64 * (0#16).toNat, 16384)] [(w0.core.bAt 1 + 64 * (0#16).toNat, 16384), (w0.core.bAt 0 + 128 * (0x7000#15).toNat, 128)] = .ok () ∧
      w0.core.bAt 1 + 64 * (0#16).toNat + 16384 ≤ vaultSize ∧ w0.core.bAt 0 + 128 * (0x7000#15).toNat + 128 ≤ vaultSize := by
  decide +kernel

theorem witness_entry_conversion : 0 < 4097 ∧ (127 : Nat) < 128 := by decide

/-- The last bytes of the vault are in it, and one byte further is not; a bank that is not owned, and an odd address. -/
theorem witness_local_access_checks :
    let s := working { atWork with ctl := { Ctl.idle with owned := 2 } }
    w0.core.mine.any (·.landsIn (vaultSize - 8) 8) = false ∧ w0.core.pendingIn (vaultSize - 8) 8 = false ∧
      vaultSize - 8 + 8 ≤ vaultSize ∧ (vaultSize - 8) % 8 = 0 ∧ w0.core.ownsRange (vaultSize - 8) 8 = true ∧
      w0.core.hazard w0.cycle (vaultSize - 8) 8 = false ∧ ¬ vaultSize - 4 + 8 ≤ vaultSize ∧ (vaultSize - 9) % 8 ≠ 0 ∧
      s.core.ownsRange 0 8 = false := by decide +kernel

theorem witness_local_loads :
    localOk w0 1 (w0.core.ea 0 (0x30000#32).toNat) 128 128 ∧ localOk w0 0 (w0.core.ea 1 (0x3FFF78#32).toNat) 8 8 ∧
      localOk w0 1 (w0.core.ea 1 (0#32).toNat) 4096 64 ∧ w0.core.armed 15 = false := by
  unfold localOk; decide +kernel

theorem witness_descriptor_load : w0.core.guardP 0 = true ∧ localOk w0 0 (w0.core.ea 1 (0#32).toNat) 64 64 := by
  unfold localOk; decide +kernel

theorem witness_strided_load :
    w0.core.guardP 0 = true ∧ w0.core.readG 2 = .ok 0x80 ∧
      w0.loadEach 0 (2 ^ (3#2).toNat) (stridedAddrs (w0.core.ea 1 (0#32).toNat) ((0x80#64).setWidth 32).toInt (128 / 2 ^ (3#2).toNat)) =
        .ok (List.replicate 16 0, w0) := ⟨by decide, by decide, rfl⟩

theorem witness_local_stores :
    localOk w0 2 (w0.core.ea 1 (0x3FFFBF#32).toNat) 1 1 ∧ localOk w0 0 (w0.core.ea 0 (0x3FFF80#32).toNat) 128 128 ∧
      w0.core.readG 3 = .ok 0x1000 ∧ w0.core.readV 2 = .ok 9 ∧ wTile.core.readTile 2 = .ok ⟨5, false⟩ ∧
      localOk wTile 0 (wTile.core.ea 1 (0#32).toNat) 4096 64 := by
  unfold localOk; decide +kernel

/-- A compare-and-swap has a comparand, and the others have none. -/
theorem witness_local_atomics :
    w0.core.guardP 0 = true ∧ w0.core.readG 1 = .ok 7 ∧ w0.core.comparand 6 2 = .ok 0x80 ∧
      w0.core.comparand 0 2 = .ok 0 ∧ localOk w0 3 (w0.core.ea 1 (0#32).toNat) 8 8 := by
  unfold localOk; decide +kernel

theorem witness_bank_ownership :
    w0.core.guardP 0 = true ∧ w0.core.readG 1 = .ok 7 ∧ 7#64 &&& w0.core.ctl.pendingBanks = 0 ∧
      w0.heldElsewhere (7#64 &&& ~~~w0.core.ctl.owned) = false := by decide +kernel

theorem witness_cluster_loads :
    w0.core.guardP 0 = true ∧ queueRoom w0.core.qs.loads = .ok () ∧
      w0.checkCluster (w0.core.ea 0 (0xC00040#32).toNat) 128 64 = .ok (3, 0x40) ∧ w0.core.armed 1 = false ∧
      w0.core.readG 1 = .ok 7 ∧ w0.multicastCount < 4 ∧ (7#64).toNat % 2 ^ 16 / 2 ^ w0.core.ctl.size = 0 := by decide +kernel

theorem witness_cluster_stores :
    w0.core.guardP 0 = true ∧ queueRoom w0.core.qs.stores = .ok () ∧ w0.core.readG 1 = .ok 7 ∧ w0.core.readV 2 = .ok 9 ∧
      w0.core.comparand 6 2 = .ok 0x80 ∧ w0.checkCluster (w0.core.ea 1 (0x7FFFB8#32).toNat) 8 8 = .ok (1, 0x3FFFF8) := by
  decide +kernel

/-- An entry of the load queue. -/
def wEntry : CEntry :=
  { kind := .ld 1 8 false, member := 1, off := 0x40, size := 8, issued := 900, bundle := 0, scope := 0, acquire := false, release := false }

theorem witness_arm_and_mark :
    let s := working { atWork with qs := { Queues.entry with loads := [wEntry] } }
    w0.core.guardP 0 = true ∧ w0.core.qs.loads = [] ∧ w0.core.qs.stores = [] ∧ s.core.guardP 0 = true ∧
      s.core.qs.loads.all (·.markId.isNone) = true ∧ s.core.qs.loads ≠ [] := by decide +kernel
/-- Global memory with one address space: VA 0x10000 is mapped writable at 0x80000, and tensor 0 has two tiles, the first at 0x40000 and
the second not present. -/
def wMem : Memory :=
  [(0x10000, 0x50001), (0x50000, 0x60001), (0x60000, 0x70001), (0x70008, 0x80103), (0x20000, 0x30000), (0x20008, 0x100000002),
    (0x30000, 0x5000000000040003), (0x30008, 0x7000000000041001)].foldl (fun m x => m.setNum x.1 8 x.2) []

/-- The device with that memory, firmware running. -/
def wDev : Dev :=
  { Dev.reset with sys := { MemSys.reset with mem := wMem, asids := [(1, some ⟨0x10000, 0x20000, 1⟩)] }
                   trust := { Trust.reset with running := true } }

/-- A tensor descriptor of tensor 0, whose first coordinate is the tile. -/
def wDesc : BitVec 512 := BitVec.ofNat 512 (ofLanes 32 [0x80000000, 0, 2, 1, 1, 1, 1])

/-- A translation of VA 0x10000 for reads and writes. -/
def wXt : BitVec 128 := BitVec.ofNat 128 (0x10000 + 8 * 2 ^ 64 + 2 ^ 100 + 3 * 2 ^ 106 + 2 ^ 112)

/-- A core in that address space with the descriptor, the translation, a bound consumer ring and a producer of the same core's ring. -/
def wGlobalCore : Core :=
  { atWork with
    regs := { atWork.regs with td := [(3, wDesc)], xt := [(1, wXt)], g := [(1, 0x10000), (2, 64), (3, 0x1000)]
                               h := [(2, ⟨true, BitVec.ofNat 64 (0x100000 + 33 * 2 ^ 24 + 4 * 2 ^ 32), 0, 0, 1, 1⟩),
                                     (4, ⟨true, BitVec.ofNat 64 (0x200000 + 2 * 2 ^ 24 + 4 * 2 ^ 32 + 3 * 2 ^ 41 + 5 * 2 ^ 47), 3, 0, 2, 0⟩),
                                     (5, ⟨true, BitVec.ofNat 64 (0x200000 + 2 * 2 ^ 24 + 4 * 2 ^ 32 + 2 ^ 42), 0, 0, 0, 0⟩)] }
    ctl := { atWork.ctl with asid := 1 }
    ctx := { Ctx.empty with scope := 2 } }

/-- The machine with that core and that memory. -/
def wGlobal : State := { State.reset with cycle := 1000, core := wGlobalCore, dev := wDev }

/-- The tile that coordinates 0 and 1 name. -/
def wRef (k : Nat) : TileRef := ⟨1, 0, k, [k, 0, 0, 0], false, false⟩

theorem witness_tensor_transfers :
    wGlobal.core.guardP 0 = true ∧ wGlobal.core.port.length < 32 ∧ wGlobal.tensor 3 0 0 1 = .ok (wRef 1) ∧
      wGlobal.core.armed 2 = false ∧ ringWait wGlobal.core (wGlobal.core.ring 2) = .ok () ∧
      (wGlobal.core.ring 2).takesTiles = true ∧ wGlobal.core.readTile 2 = .ok Tile.blank := by decide +kernel

theorem witness_flat_transfers :
    wGlobal.core.readG 1 = .ok 0x10000 ∧ wGlobal.core.acquirePending wGlobal.core.bundles = false ∧
      wGlobal.flat 1 (0xFFC0#32) (64 * 2 ^ (0#3).toNat) 64 false (wGlobal.core.bAt 1 % 64 == 0) = .ok (0x1FFC0, some 0x8FFC0) ∧
      wGlobal.checkVault (wGlobal.core.bAt 1) (64 * 2 ^ (0#3).toNat) 64 = .ok () ∧
      wGlobal.flat 1 0 (64 * 2 ^ (6#3).toNat) 64 true (wGlobal.core.bAt 1 % 64 == 0) = .ok (0x10000, some 0x80000) ∧
      wGlobal.checkLocal (wGlobal.core.bAt 1) (64 * 2 ^ (6#3).toNat) 64 = .ok () ∧
      wGlobal.core.comparand 6 2 = .ok 64 ∧ wGlobal.flat 1 8 8 8 true true = .ok (0x10008, some 0x80008) := by decide +kernel

/-- A vault that holds a block of each command at a multiple of 64. -/
def wBlocks : Memory :=
  [(0, [(8, 0x10000), (8, 0x20000), (4, 128), (1, 0)]),
   (64, [(8, 0x10000), (1, 3), (3, 0), (4, 0x8000), (4, 0x8200)]),
   (128, [(8, 0x10000), (4, 32), (4, 0), (4, 0x8000), (2, 2)]),
   (192, [(8, 0x10000), (4, 32), (4, 0), (4, 0x8000), (2, 0), (2, 2)]),
   (256, [(4, 0x8000), (2, 2)]),
   (320, [(4, 9), (2, 2), (2, 1), (1, 1), (1, 1), (1, 0), (1, 0), (4, 0x8000), (4, 0x9000), (2, 64)]),
   (384, [(4, 9), (2, 2), (2, 1), (1, 6)]),
   (448, [(4, 0x10000), (4, 0x8000), (4, 0x8080), (4, 0x20000), (2, 1), (1, 8), (1, 1), (4, 0x3F800000), (4, 0), (4, 10)]),
   (512, [(8, 1), (8, 0), (8, 0), (4, 1), (2, 1), (1, 0), (1, 63), (1, 15), (1, 0), (2, 64), (4, 0x8000), (4, 0), (2, 1)]),
   (576, [(4, 0xA000), (4, 0xB000), (1, 1), (1, 2)]),
   (0xA000, [(4, 0x80000000), (4, 0), (4, 2), (4, 1), (4, 1), (4, 1), (4, 1)])].foldl
    (fun m x => m.store x.1 (fieldBytes x.2)) []

/-- The machine with those blocks. -/
def wEngine : State := wGlobal.mod fun c => { c with vault := wBlocks }

/-- Block `k` of the vault. -/
def wBlock (k : Nat) : BitVec 512 := BitVec.ofNat 512 (wEngine.core.vault.num (64 * k) 64)

theorem witness_engine_commands :
    wEngine.core.guardP 0 = true ∧ wEngine.core.acquirePending wEngine.core.bundles = false ∧ wEngine.dispatches wEngine.cur = true ∧ wEngine.core.port.length < 32 ∧
      (3#4).toNat < wEngine.core.ctl.size ∧ wEngine.core.ea 0 (0x40#32).toNat = 0x40 ∧
      (∀ k < 10, wEngine.checkLocal (64 * k) 64 64 = .ok () ∧ wEngine.core.poisoned (64 * k) 64 = false) := by decide +kernel

theorem witness_engine_blocks :
    wEngine.checkCpy (wBlock 0) = .ok 0 ∧ checkKapp (wBlock 1) = .ok 0 ∧ checkTrellis pmatchOk (wBlock 2) = .ok 0 ∧
      checkTrellis pinsOk (wBlock 3) = .ok 0 ∧ checkTrellis prelOk (wBlock 4) = .ok 0 ∧
      checkCollective blendOk wEngine.core.ctx.scope (wBlock 5) = .ok 0 ∧
      checkCollective collOk wEngine.core.ctx.scope (wBlock 6) = .ok 0 ∧ checkAsn (wBlock 7) = .ok 0 ∧
      checkLaunch (wBlock 8) = .ok 0 ∧ wEngine.checkDecant (wBlock 9) = .ok () := by decide +kernel

/-- Core 2 of a cluster is no dispatch core. -/
theorem witness_launch_needs_dispatch_core :
    let s : State := { w0 with cur := 2 }
    s.core.guardP 0 = true ∧ s.dispatches s.cur = false := by decide +kernel

/-- The counter at the value waited for, and half the range further, where it is still waited for. -/
theorem witness_counter_wait :
    let s := working { atWork with regs := { atWork.regs with k := [(2, 7)] } }
    s.core.guardP 0 = true ∧ s.core.readG 1 = .ok 7 ∧ (s.core.kAt 2 - (7#64).setWidth 32).toNat < 2 ^ 31 ∧
      2 ^ 31 ≤ (s.core.kAt 3 - (7#64).setWidth 32).toNat := by decide +kernel

/-- A release that must wait for a store of an earlier bundle, and one that need not. -/
theorem witness_fence :
    let s := working { atWork with bundles := 1, qs := { Queues.entry with stores := [wEntry] } }
    w0.core.guardP 0 = true ∧ w0.mayRelease w0.core.bundles w0.core.ctx.scope = true ∧
      s.mayRelease s.core.bundles s.core.ctx.scope = false := by decide +kernel

/-- A line read, with nothing of it bad. -/
theorem watches {x : Except Stop (Option (BitVec 512) × Bool × State)}
    (h : (match x with
      | .ok (some 0, false, _) => true
      | _ => false) = true) : ∃ s', x = .ok (some 0, false, s') := by
  split at h
  · exact ⟨_, rfl⟩
  · cases h

/-- The line has changed; a request has come; the limit has passed; and it has not. -/
theorem witness_memory_wait :
    let s := wGlobal.mod fun c => { c with waiting := some { since := 990, line := some 1 } }
    let r := wGlobal.mod fun c => { c with ctl := { c.ctl with preempt := true } }
    wGlobal.core.guardP 0 = true ∧ wGlobal.core.readG 1 = .ok 0x10000 ∧ wGlobal.core.readG 2 = .ok 64 ∧
      wGlobal.orderWait 0 .stallg = .ok () ∧ (0x10000#64).toNat % 64 = 0 ∧
      (∃ s', wGlobal.watched ((0x10000#64).toNat % 2 ^ 57) = .ok (some 0, false, s')) ∧
      (∃ s', s.watched ((0x10000#64).toNat % 2 ^ 57) = .ok (some 0, false, s')) ∧ s.core.waiting = some { since := 990, line := some 1 } ∧ (0 : BitVec 512) ≠ 1 ∧
      r.core.waiting = none ∧ r.core.ctl.preempt = true ∧ wGlobal.core.waiting = none ∧ wGlobal.core.ctl.preempt = false ∧
      (wGlobal.core.waiting.map (·.since)).getD wGlobal.cycle + (0#64).toNat % 2 ^ 32 ≤ wGlobal.cycle ∧
      ¬ (wGlobal.core.waiting.map (·.since)).getD wGlobal.cycle + (64#64).toNat % 2 ^ 32 ≤ wGlobal.cycle :=
  ⟨by decide +kernel, by decide +kernel, by decide +kernel, by decide +kernel, by decide +kernel, watches (by decide +kernel),
    watches (by decide +kernel), by decide +kernel, by decide +kernel, by decide +kernel, by decide +kernel, by decide +kernel, by decide +kernel, by decide +kernel,
    by decide +kernel⟩

theorem witness_gather_and_provenance :
    w0.core.guardP 0x25 = true ∧ w0.core.port.length < 32 ∧ w0.core.readG 3 = .ok 0x1000 ∧ w0.core.readG 2 = .ok 0x80 ∧
      w0.absorbData 0 1 = .ok [7, 0, 0, 0, 0, 0, 0, 0] ∧ w0.absorbData 3 0 = .ok [0x20, 0] ∧
      w0.checkLocal (w0.core.ea 1 (0x3FFFA0#32).toNat) 32 32 = .ok () := by decide +kernel

/-- Scales from the vault's end, and room for one more address entry. -/
theorem witness_queue_pushes :
    w0.core.guardP 0 = true ∧ w0.orderWait 0 .stallld = .ok () ∧
      w0.readScales ((List.range ((1#8).toNat + 1)).map fun i => (w0.core.bAt 1 + 32 * (2#10).toNat + 2 * i) % 2 ^ 32) =
        .ok ([0, 0], w0) ∧ scaleRoom w0.core ((1#8).toNat + 1) = .ok () ∧ w0.core.readV 2 = .ok 9 ∧ w0.core.qs.addr.length < 64 :=
  ⟨by decide +kernel, by decide +kernel, rfl, by decide +kernel, by decide +kernel, by decide +kernel⟩

theorem witness_random_bits : w0.core.readG 1 = .ok 7 ∧ w0.core.readG 2 = .ok 0x80 ∧ (15 : Nat) < 16 := by decide +kernel

theorem witness_rings :
    wGlobal.core.guardP 0 = true ∧ wGlobal.core.readG 3 = .ok 0x1000 ∧
      ringOk ⟨true, BitVec.ofNat 64 (0x100000 + 33 * 2 ^ 24 + 4 * 2 ^ 32), 0, 0, 0, 0⟩ wGlobal.core.ctl.size = true ∧
      wGlobal.core.mine.any (·.fills 1) = false ∧ ringUse (wGlobal.core.ring 2) 1 = .ok () ∧ ringUse (wGlobal.core.ring 4) 2 = .ok () ∧
      (1#8).toNat ≤ (wGlobal.core.ring 2).count ∧ (wGlobal.core.ring 2).count < (2#8).toNat ∧
      (wGlobal.core.ring 2).producer = false ∧ (wGlobal.core.ring 4).producer = true ∧ (2#8).toNat ≤ (wGlobal.core.ring 4).count ∧
      (wGlobal.coreAt (wGlobal.member (wGlobal.core.ring 4).pm)).holds wGlobal.core.ctl.task = true ∧
      ((wGlobal.coreAt (wGlobal.member (wGlobal.core.ring 4).pm)).ring (wGlobal.core.ring 4).ph).fits wGlobal.core.ctl.member = true := by
  decide +kernel
/-- A machine whose current core has a page of code, and literals in it, with room for 65 words before their end. -/
def wCode : State :=
  ((State.reset.withFetchWord 32 0x30000000).mod fun c =>
    { c with seq := { c.seq with lpc := 0x400 }, ctl := { c.ctl with litEnd := 0x1440, owned := BitVec.ofNat 64 (2 ^ 64 - 1) } })

/-- What answers something is read. -/
theorem succeeds {ε α β : Type} {x : Except ε (α × β)} (h : x.toOption.isSome = true) : ∃ a b, x = .ok (a, b) := by
  cases x with
  | error e => cases h
  | ok p => exact ⟨p.1, p.2, rfl⟩

theorem witness_literals :
    (∃ ws s', wCode.literals (literalCount (wCode.core.pairOf 0)) = .ok (ws, s')) ∧
      (∃ ws s', wCode.literals (1 + literalCount (wCode.core.pairOf 0)) = .ok (ws, s')) ∧
      (∃ ls s', wCode.literals ((7#5).toNat + 1) = .ok (ls, s')) ∧ scaleRoom wCode.core (32 * ((7#5).toNat + 1)) = .ok () ∧
      wCode.core.readTile 0 = .ok Tile.blank ∧ wCode.core.readTile 1 = .ok Tile.blank :=
  ⟨succeeds (by decide +kernel), succeeds (by decide +kernel), succeeds (by decide +kernel), by decide +kernel, by decide +kernel, by decide +kernel⟩

/-- A PC at the end of its range, one that is no multiple of 4, and an LPC that is no multiple of 64; and displacements below
zero, which wrap. -/
theorem witness_target_buffers :
    let s := working { atWork with regs := { atWork.regs with g := [(1, BitVec.ofNat 64 (2 ^ 57 - 4)), (2, 0x40), (3, 0x42)] } }
    s.core.readG 1 = .ok (BitVec.ofNat 64 (2 ^ 57 - 4)) ∧ s.core.readG 2 = .ok 0x40 ∧ s.core.readG 3 = .ok 0x42 ∧
      (BitVec.ofNat 64 (2 ^ 57 - 4)).toNat % 4 = 0 ∧ (0x40#64).toNat % 64 = 0 ∧ (0x42#64).toNat % 4 ≠ 0 ∧ (0x42#64).toNat % 64 ≠ 0 ∧
      ((2 ^ 57 - 4 : Nat) : Int) = ((s.core.ctx.pc.toNat : Int) + 4 * (0x1FFF#13).toInt) % 2 ^ 57 ∧
      ((2 ^ 57 - 64 : Nat) : Int) = ((s.core.seq.lpc.toNat : Int) + 64 * (0x3FF#10).toInt) % 2 ^ 57 := by decide +kernel

/-- A level whose body is 0x100 to 0x13F. -/
def wLevel (modulo : Bool) : Level := ⟨modulo, 0, 3, 2, 0x100, 0x140, 0, [], true⟩

/-- A sequencer in that level with a buffer inside the body's ends, one outside, and one that is not ready. -/
def wSeq : Seq :=
  { Seq.entry with pc := 0x104, levels := [wLevel false],
                   tb := [(0, some ⟨0x13C, none, 1000, []⟩), (1, some ⟨0x140, none, 0, []⟩), (2, some ⟨0x100, none, 1001, []⟩)] }

/-- A core with that sequencer. -/
def wLoop : State := working { atWork with seq := wSeq }

theorem witness_control_transfers :
    wLoop.core.seq.tb.get none 0 = some ⟨0x13C, none, 1000, []⟩ ∧ 1000 ≤ wLoop.cycle ∧ holdsIn wLoop.core wLoop.core.seq.levels 0x13C ∧
      wLoop.core.seq.tb.get none 3 = none ∧ wLoop.core.seq.tb.get none 1 = some ⟨0x140, none, 0, []⟩ ∧
      ¬ holdsIn wLoop.core wLoop.core.seq.levels 0x140 ∧ wLoop.core.seq.tb.get none 2 = some ⟨0x100, none, 1001, []⟩ ∧ wLoop.cycle < 1001 ∧
      wLoop.core.pAt 5 = true ∧ wLoop.core.pAt 6 = false := by
  refine ⟨by decide +kernel, by decide +kernel, ?_, by decide +kernel, by decide +kernel, ?_, by decide +kernel, by decide +kernel,
    by decide +kernel, by decide +kernel⟩
  · intro l h
    obtain rfl : wLevel false = l := Option.some.inj h
    decide
  · intro h
    exact absurd (h _ rfl).2 (by decide)

/-- At the shallowest depth, at the depth at which a frame makes room, in a LOOPM level, and at the deepest. -/
def wCall (depth : Nat) (modulo : Bool) : State :=
  working { atWork with seq := { wSeq with levels := if modulo then [wLevel true] else [], depth := depth }
                        ctl := { atWork.ctl with stack := some (0x8000, 0x440) } }

theorem witness_calls :
    (wCall 0 false).core.seq.tb.get none 0 = some ⟨0x13C, none, 1000, []⟩ ∧ 1000 ≤ (wCall 0 false).cycle ∧
      (wCall 0 false).core.seq.inLoopm = false ∧ (wCall 13 false).core.seq.depth < 14 + (wCall 13 false).core.seq.spilled ∧
      (wCall 14 false).core.seq.depth < 31 ∧ 14 + (wCall 14 false).core.seq.spilled ≤ (wCall 14 false).core.seq.depth ∧
      (wCall 14 false).core.ctl.stack = some (0x8000, 0x440) ∧ (wCall 14 false).core.seq.spillPtr + 64 ≤ 0x440 ∧
      (wCall 14 false).core.waiting = none ∧ (998 : Nat) + 2 ≤ (wCall 14 false).cycle ∧
      (wCall 1 true).core.seq.inLoopm = true ∧ 31 ≤ (wCall 31 false).core.seq.depth := by decide +kernel

/-- Call depth 1, where g31 and g30 are windowed registers 31 and 30 of physical number. -/
def wCallee (link : Nat) : State :=
  working { atWork with seq := { Seq.entry with depth := 1 }
                        regs := { atWork.regs with g := [(windowKey 1 14, BitVec.ofNat 64 link), (windowKey 1 15, 0x200)] } }

theorem witness_returns :
    (wCallee (2 ^ 60)).core.readG 31 = .ok 0x200 ∧ (wCallee (2 ^ 60)).core.readG 30 = .ok (BitVec.ofNat 64 (2 ^ 60)) ∧
      (wCallee (2 ^ 60)).core.seq.levels.find? (·.depth == (wCallee (2 ^ 60)).core.seq.depth) = none ∧
      (wCallee (2 ^ 60)).core.seq.depth ≠ 0 ∧ (0x200#64).toNat % 4 = 0 ∧
      (wCallee (2 ^ 60)).core.seq.spilled ≤ (wCallee (2 ^ 60)).core.seq.depth - 1 ∧
      fieldOf (BitVec.ofNat 64 (2 ^ 60)).toNat 59 57 = 0 ∧ w0.core.seq.depth = 0 ∧ w0.core.readG 31 = .ok 0 ∧
      w0.core.readG 30 = .ok 0 := by decide +kernel

/-- An ADAPT of hook 5 at the bottom of memory, in a version whose live table has a segment of tenant 3 for it. -/
def wAdapter (tenants : Nat) (depth : Nat) (adapter : BitVec 3) : State :=
  let s := (State.reset.withFetchWord 32 0x50050000).mod fun c =>
    { c with seq := { c.seq with depth := depth, adapter := adapter }, ctl := { c.ctl with tenants := BitVec.ofNat 7 tenants }
             regs := { c.regs with g := [(windowKey 1 14, BitVec.ofNat 64 (2 ^ 57 + 0x40))] } }
  s.code fun c => { c with objects := [{ wordObject 0 with
    versions := [⟨0, [(0, 0, 0), (65536, 65536, 0)], [(0, 5, 3, 0x10000, 0x11000)]⟩] }] }

theorem witness_adapter_calls :
    (wAdapter 1 0 0).core.seq.adapter = 0 ∧ (wAdapter 1 0 0).core.seq.inLoopm = false ∧
      (wAdapter 1 0 0).nextSegment (5#10).toNat 0 = none ∧ (wAdapter 4 0 0).nextSegment (5#10).toNat 0 = some (3, 0x10000, 0x11000) ∧
      (wAdapter 4 0 0).core.seq.depth < 31 ∧ (wAdapter 4 0 0).core.seq.depth < 14 + (wAdapter 4 0 0).core.seq.spilled ∧
      (wAdapter 4 0 2).core.seq.adapter ≠ 0 := by decide +kernel

/-- A RET from the segment of tenant 1, with and without a later tenant that has one. -/
theorem witness_adapter_return :
    (wAdapter 5 1 1).core.readG 31 = .ok 0 ∧ (wAdapter 5 1 1).core.readG 30 = .ok (BitVec.ofNat 64 (2 ^ 57 + 0x40)) ∧
      (wAdapter 5 1 1).core.seq.depth ≠ 0 ∧ fieldOf (BitVec.ofNat 64 (2 ^ 57 + 0x40)).toNat 59 57 = 1 ∧
      (returned (wAdapter 5 1 1) (fieldOf (BitVec.ofNat 64 (2 ^ 57 + 0x40)).toNat 63 60) 0 none).adaptAt 0 = some (8, some 5) ∧
      (wAdapter 5 1 1).nextSegment 5 1 = some (3, 0x10000, 0x11000) ∧ (wAdapter 1 1 1).nextSegment 5 1 = none := by decide +kernel

/-- Counts of zero and more, a level that may be opened, a seventh one, and one inside a LOOPM level. -/
theorem witness_loops :
    w0.core.seq.inLoopm = false ∧ w0.core.readG 1 = .ok 7 ∧ (7#64).toNat % 2 ^ 32 ≠ 0 ∧ w0.core.readG 9 = .ok 0 ∧
      w0.core.seq.levels.length < 6 ∧ wLoop.core.seq.inLoopm = false ∧ (wCall 0 true).core.seq.inLoopm = true ∧
      6 ≤ (working { atWork with seq := { wSeq with levels := List.replicate 6 (wLevel false) } }).core.seq.levels.length ∧
      (working { atWork with seq := { wSeq with levels := List.replicate 6 (wLevel false) } }).core.seq.inLoopm = false := by
  decide +kernel

theorem witness_pending_strides : w0.core.readG 3 = .ok 0x1000 := by decide

/-- One level to leave, and more than there are. -/
theorem witness_level_exits :
    wLoop.core.seq.tb.get none 1 = some ⟨0x140, none, 0, []⟩ ∧ 0 ≤ wLoop.cycle ∧
      (1#3).toNat ≤ (wLoop.core.seq.levels.filter (·.depth == wLoop.core.seq.depth)).length ∧
      holdsIn wLoop.core (wLoop.core.seq.levels.drop (1#3).toNat) 0x140 ∧
      (wLoop.core.seq.levels.filter (·.depth == wLoop.core.seq.depth)).length < (2#3).toNat ∧
      wLoop.core.pAt 5 = true ∧ wLoop.core.pAt 4 = false := by
  refine ⟨by decide +kernel, by decide +kernel, by decide +kernel, ?_, by decide +kernel, by decide +kernel, by decide +kernel⟩
  intro l h
  exact nomatch (show (none : Option Level) = some l from h)

theorem witness_endings :
    let s := working { atWork with ctl := { atWork.ctl with rab := true } }
    w0.core.ctl.rab = false ∧ s.core.ctl.rab = true ∧ w0.core.readG 1 = .ok 7 ∧ s.core.readG 1 = .ok 7 := by decide +kernel

/-- A gang that has passed, a gang of one, and a gang of four that has not. -/
theorem witness_cluster_barrier :
    let s := working { atWork with pass := some 1000 }
    let t := working { atWork with ctl := { atWork.ctl with size := 1 } }
    (s.core.pass = some 1000 ∧ 1000 ≤ s.cycle) ∧
      (t.core.pass = none ∧ t.core.arrived = none ∧ t.core.ctl.size = 1 ∧ t.core.qs.loads = [] ∧ t.core.qs.stores = []) ∧
      w0.core.pass = none ∧ w0.core.ctl.size ≠ 1 := by decide +kernel

theorem witness_control_registers : w0.core.readG 2 = .ok 0x80 ∧ (7 : BitVec 4) = 7 ∧ (6 : BitVec 4) ≠ 7 := by decide +kernel

/-- Handle 2 holds a slot; the limit has passed, and has not; handle 0 is not bound. -/
theorem witness_event_wait :
    let s := wGlobal.mod fun c => { c with ctx := { c.ctx with filled0 := 4 } }
    let w := wGlobal.mod fun c => { c with waiting := some { since := 936, line := none } }
    wGlobal.core.readG 2 = .ok 64 ∧ wGlobal.core.readG 9 = .ok 0 ∧
      (∀ i < 8, (4#8).getLsbD i = true → (wGlobal.core.ring i).bound = true) ∧
      (4 &&& s.core.ctx.filled0).toNat ≠ 0 ∧ (4 &&& wGlobal.core.ctx.filled0).toNat = 0 ∧
      (min ((0#64).toNat % 2 ^ 32) 65536 = 0 ∧ wGlobal.core.waiting = none) ∧
      (w.core.waiting = some { since := 936, line := none } ∧ 936 + min ((64#64).toNat % 2 ^ 32) 65536 ≤ w.cycle) ∧
      min ((64#64).toNat % 2 ^ 32) 65536 ≠ 0 ∧ (∃ i < 8, (1#8).getLsbD i = true ∧ (wGlobal.core.ring i).bound = false) := by
  decide +kernel
/-- Core 3 of the machine, at work beside the current core 0. -/
def beside (c : Core) (d : Dev) : State := { State.reset with cycle := 1000, others := [(3, c)], dev := d }

/-- A core with results due: a fill of the scale queue, a NEXT's word, and results for its registers. -/
def wDue : Core :=
  { atWork with qs := { Queues.entry with
      fills := [⟨1000, 0, [5], false⟩, ⟨1001, 0, [6], false⟩], nexts := [⟨1000, 16, 31, 9⟩] } }

theorem witness_result_deliveries :
    let s := beside wDue Dev.reset
    let g := beside { atWork with qs := { Queues.entry with flight := [⟨1000, 17, .g 4, 12, ones 64, 1, none⟩] } } Dev.reset
    let b := beside { wDue with qs := { wDue.qs with flight := [⟨1000, 17, .g 31, 12, ones 64, 0, none⟩] } } Dev.reset
    let r := beside { atWork with qs := { Queues.entry with
      flight := [⟨1000, 17, .res .ia, 12, ones 64, 0, none⟩, ⟨1000, 18, .res .ia, 13, ones 64, 0, none⟩] } } Dev.reset
    (3 < 512 ∧ (s.coreAt 3).delivers = true) ∧ (s.coreAt 3).qs.nexts = [⟨1000, 16, 31, 9⟩] ∧ 1000 ≤ s.cycle ∧ (31 ≠ 0) ∧
      (s.coreAt 3).qs.flight = [] ∧ (g.coreAt 3).qs.flight = [⟨1000, 17, .g 4, 12, ones 64, 1, none⟩] ∧
      (b.coreAt 3).qs.nexts = [⟨1000, 16, 31, 9⟩] ∧ (b.coreAt 3).qs.flight = [⟨1000, 17, .g 31, 12, ones 64, 0, none⟩] ∧ (16 : Nat) < 17 ∧
      (r.coreAt 3).qs.flight = [⟨1000, 17, .res .ia, 12, ones 64, 0, none⟩, ⟨1000, 18, .res .ia, 13, ones 64, 0, none⟩] := by
  decide +kernel

/-- A product that is dense, one that is sparse, and one that is skipped. -/
theorem witness_product_delivery :
    let j : MmaJob := ⟨1000, 7, 3, 0, false, false, false, 1, 0, 1, 0, 1⟩
    let s := beside { atWork with eng := { Engines.entry with mmas := [j] } } Dev.reset
    (s.coreAt 3).delivers = true ∧ (s.coreAt 3).eng.mmas = [j] ∧ j.due ≤ s.cycle ∧ j.skip = false ∧
      ¬ (j.sparse = true ∧ j.transposed = true) ∧ { j with skip := true }.skip = true ∧
      ¬ ({ j with sparse := true }.sparse = true ∧ { j with sparse := true }.transposed = true) := by decide +kernel

theorem witness_exit_delivery :
    let x : ExitJob := .mflush 1000 7 0 0 0 [] [] 0x1000 4 false 0 0 0
    let y : ExitJob := .tqnt 1000 7 0x2000 [1, 2]
    let s := beside { atWork with eng := { Engines.entry with exits := [x] } } Dev.reset
    let r := beside { atWork with eng := { Engines.entry with exits := [y] } } Dev.reset
    (s.coreAt 3).eng.exits = [x] ∧ (r.coreAt 3).eng.exits = [y] ∧ rowBytes (0#8).toNat ≤ 64 * 4 := by decide +kernel

/-- An accumulator of zeros passes the check; one whose element 1 is 1 in its first channel alone does not. -/
theorem witness_exit_elements : (elemAt (0#217088).toNat 0).passes 0 = true ∧ (elemAt (0#217088).toNat 4095).passes 0 = true ∧
    (elemAt (BitVec.ofNat 217088 (2 ^ 53)).toNat 1).passes 0 = false ∧ (elemAt (BitVec.ofNat 217088 (2 ^ 53)).toNat 0).passes 0 = true := by
  decide +kernel

/-- The entry loads from member 1, or stores there. -/
theorem witness_cluster_steps :
    let s := beside { atWork with qs := { Queues.entry with loads := [wEntry] } } Dev.reset
    let e := { wEntry with kind := .st [1, 2] }
    let r := beside { atWork with qs := { Queues.entry with stores := [e] } } Dev.reset
    (s.coreAt 3).qs.loads = wEntry :: [] ∧ (s.coreAt 3).qs.stores = [] ∧ wEntry.kind = .ld 1 8 false ∧ wEntry.size = 8 ∧
      (s.turnTo 3).mayPerform wEntry = true ∧ (r.coreAt 3).qs.stores = e :: [] ∧ (r.coreAt 3).qs.loads = [] ∧
      e.kind = .st [1, 2] ∧ (r.turnTo 3).mayPerform e = true := by decide +kernel

theorem witness_cluster_releases :
    let s := beside { atWork with eng := { Engines.entry with armed := [(2, true)] } }
      { Dev.reset with sys := { MemSys.reset with multicasts := [⟨0, 2, [3], 5⟩] } }
    let b := beside { atWork with ctl := { atWork.ctl with size := 1, base := 3 }, arrived := some 990 } Dev.reset
    s.dev.sys.multicasts = [⟨0, (2#4).toNat, [3], 5⟩] ∧ (s.coreAt 3).armed (2#4).toNat = true ∧ (s.coreAt 3).ctl.run = .running ∧
      (b.turnTo 3).barrierMet = true ∧ 3 ∈ (b.turnTo 3).alive := by decide +kernel

/-- A word in the port of the task that runs. -/
def wWord (op : GOp) : GEntry :=
  { op := op, task := 1, asid := 1, order := 10, bundle := 0, issued := 990, scope := 0, acquire := false, release := false, kcore := 3,
    kc := 2, faulted := none, kept := false, progress := [], failed := false, bad := false, started := false, got := none, finished := none }

/-- A running task of one core, core 3. -/
def wTask : Task :=
  { id := 1, group := 0, base := 3, size := 1, first := 0, cnt := 1, state := .running, requested := false, incoming := none, ended := [],
    contexts := [], banks := [], held := [], holding := [] }

/-- The device of the global words, with the task. -/
def wTaskDev : Dev := { wDev with sched := { wDev.sched with tasks := [wTask] } }

/-- Core 3 with a word in its port. -/
def wPort (op : GOp) : State := beside { wGlobalCore with ctl := { wGlobalCore.ctl with size := 1, base := 3 }, port := [wWord op] } wTaskDev

/-- The entry of tile `k`. -/
def wTileEntry (k bits : Nat) : TileEntry := ⟨0x30000 + 8 * k, bits, ⟨0x30000, 2, 0, false⟩⟩

theorem witness_transfer_arrivals :
    let s := wPort (.tldTile 2 (wRef 0))
    let x := wTileEntry 0 0x5000000000040003
    settled s 3 ∧ (s.coreAt 3).port[0]? = some (wWord (.tldTile 2 (wRef 0))) ∧
      (s.turnTo 3).mayTransfer 0 (wWord (.tldTile 2 (wRef 0))) = true ∧ (s.coreAt 3).ctl.run = .running ∧ (s.coreAt 3).ctl.task = 1 ∧
      (s.turnTo 3).reach (wRef 0) = .ok x ∧ x.here = true ∧ x.poisoned = false := by unfold settled; decide +kernel

theorem witness_absent_tile :
    let s := wPort (.tldTile 2 (wRef 1))
    let x := wTileEntry 1 0x7000000000041001
    (s.turnTo 3).mayTransfer 0 (wWord (.tldTile 2 (wRef 1))) = true ∧ (s.turnTo 3).reach (wRef 1) = .ok x ∧ x.here = false := by
  decide +kernel

theorem witness_translation_arrival :
    let s := wPort (.xlate 1 0x1FFFF 2)
    (s.turnTo 3).mayTransfer 0 (wWord (.xlate 1 0x1FFFF 2)) = true ∧
      (∃ p s', (s.turnTo 3).translate 1 0x1FFFF ((2 : Nat) != 0) = .ok (p, s')) :=
  ⟨by decide +kernel, succeeds (by decide +kernel)⟩

/-- A gather of 4-byte elements. -/
def wJob : GatherJob :=
  { base := 0x10000, size := 4, left := 1, order := 10, bundle := 0, kept := false, faulted := none, failed := false }

/-- An entry of sixteen indices and that gather. -/
def wGather : State :=
  beside { wGlobalCore with qs := { Queues.entry with addr := [5], gathers := [wJob] } } wTaskDev

theorem witness_gather_push :
    (wGather.coreAt 3).qs.gathers = wJob :: [] ∧ (wGather.coreAt 3).qs.addr = 5 :: [] ∧
      (wGather.coreAt 3).qs.data.length < 64 ∧
      (∃ l s', (wGather.turnTo 3).elementPieces (gatherWord (wGather.coreAt 3)) 4 ((List.range 16).map fun i =>
        (0x10000 + laneOf 32 (5#512).toNat i * 4) % 2 ^ 57) = .ok (l, s')) :=
  ⟨by decide +kernel, by decide +kernel, by decide +kernel, succeeds (by decide +kernel)⟩

theorem witness_ring_slots :
    let e := wWord (.tldRing 2 (wRef 0))
    let s := wPort (.tldRing 2 (wRef 0))
    let x := wTileEntry 0 0x5000000000040003
    settled s 3 ∧ (s.coreAt 3).retained = [] ∧ (s.coreAt 3).port[0]? = some e ∧ (s.coreAt 3).ctl.run = .running ∧
      (s.turnTo 3).isOver 1 = false ∧ (s.turnTo 3).mayTransfer 0 e = true ∧ (s.turnTo 3).fillWaits e 2 = false ∧
      (∀ b < 64, (s.turnTo 3).savedBank 3 1 b = none) ∧ (s.turnTo 3).reach (wRef 0) = .ok x ∧ x.here = true ∧ x.poisoned = false := by
  unfold settled; decide +kernel

theorem witness_command_completes :
    let e : GEntry := { wWord (.cmd .cpy 0x40 0) with finished := some ⟨7, 0, [], 0⟩ }
    let s := beside { wGlobalCore with port := [e] } wTaskDev
    settled s 3 ∧ (s.coreAt 3).port[0]? = some e ∧ wideScope e.scope = false ∧ e.kcore = 3 ∧ e.task = (s.coreAt 3).ctl.task ∧
      (s.coreAt 3).ctl.run = .running ∧ (s.coreAt 3).retained = [] ∧ (s.turnTo 3).savedBank 3 e.task 0 = none := by
  unfold settled; decide +kernel

theorem witness_invalidation_completes :
    let s := (wPort (.icinv 0 64)).code fun c => { c with objects := [wordObject 0] }
    settled s 3 ∧ (s.coreAt 3).port[0]? = some (wWord (.icinv 0 64)) ∧ (s.turnTo 3).wordOrdered (wWord (.icinv 0 64)) = true ∧
      s.codeMapped 0 64 60 = true ∧ s.codeMapped 0 64 64 = false := by unfold settled; decide +kernel

/-- Code written to its home after the code stream unit has fetched its line: the old word is fetched until the line is dropped or
an ICINV discards it (R267). -/
theorem test_stale_code :
    let s := (State.reset.placeWord 32 0x01000000).streamCode 0 0 true
    let t := s.sys fun m => { m with mem := m.mem.store 0 [7, 0, 0, 0] }
    s.codeWords 0 1 = some [0, 0, 0, 1] ∧ t.codeWords 0 1 = some [0, 0, 0, 1] ∧
      (t.discardCode 64 64).codeWords 0 1 = some [0, 0, 0, 1] ∧ (t.discardCode 0 4).codeWords 0 1 = some [7, 0, 0, 0] ∧
      (t.streamCode 0 0 false).codeWords 0 1 = some [7, 0, 0, 0] := by decide +kernel

/-- An object whose kernel's entry is VA 1, loaded in address space 1. -/
def wKernel : Kernel := ⟨1, 0x11000, 100, 64, [], List.range 64⟩
/-- The object. -/
def wObj : Obj := { wordObject 0x10000 with handle := 1, asid := 1, kernels := [wKernel] }

/-- A dispatch core, core 1, that names that address space, with a LAUNCH of four chunks in its port. -/
def wLaunch : State :=
  let b := BitVec.ofNat 512 (leNat (fieldBytes [(8, 1), (8, 0), (8, 0), (4, 4), (2, 1), (1, 0), (1, 63), (1, 15), (1, 0), (2, 64),
    (4, 0x8000), (4, 0), (2, 1)]))
  { State.reset with cycle := 1000, others := [(1, { wGlobalCore with port := [wWord (.cmd .launch 0x40 b)] })]
                     dev := { wTaskDev with code := ⟨[wObj], 2, 0⟩, sched := { wTaskDev.sched with dispatch := [(1, [1])] } } }

theorem witness_launch_accept :
    let b := BitVec.ofNat 512 (leNat (fieldBytes [(8, 1), (8, 0), (8, 0), (4, 4), (2, 1), (1, 0), (1, 63), (1, 15), (1, 0), (2, 64),
      (4, 0x8000), (4, 0), (2, 1)]))
    let e := wWord (.cmd .launch 0x40 b)
    (wLaunch.coreAt 1).port[0]? = some e ∧ (wLaunch.turnTo 1).wordOrdered e = true ∧
      (wLaunch.turnTo 1).kernelAt (blkField b 44 2) (blkField b 0 8) = some (wObj, 0) ∧
      (wLaunch.turnTo 1).mayName 1 (blkField b 44 2) = true ∧ (wLaunch.turnTo 1).queueRoom b = true ∧ blkField b 33 1 = 0 ∧
      (match (wLaunch.turnTo 1).engineVault e (blkField b 36 4) (blkField b 34 2) with
        | .ok p => p == List.replicate 64 0
        | .error _ => false) = true := by decide +kernel

/-- A DECANT that met a tile which has been promoted meanwhile. -/
def wAbsent : TrapInfo := { cause := .trans, slot := 10, tensor := true, tid := 0, tile := 0 }
/-- Its word. -/
def wFaulted : GEntry := { wWord (.cmd .decant 0x40 0) with faulted := some wAbsent }

theorem witness_fault_resolution :
    let s := beside { wGlobalCore with port := [wFaulted] } wTaskDev
    (s.coreAt 3).port[0]? = some wFaulted ∧ (s.turnTo 3).engineFault wFaulted = true ∧
      (s.turnTo 3).serve wFaulted.asid 0 0 wAbsent 0 = .done (s.turnTo 3) :=
  ⟨by decide +kernel, by decide +kernel, rfl⟩
/-- A boundary fault that waits, and a request that has been overrun. -/
theorem witness_boundary_traps :
    let s := beside { atWork with boundary := [{ cause := .brk, slot := 15 }] } Dev.reset
    let r := beside { atWork with ctl := { atWork.ctl with preempt := true, bound := 9, overrun := 10 } } Dev.reset
    (s.coreAt 3).delivers = true ∧ (s.coreAt 3).wake ≤ s.cycle ∧ (s.coreAt 3).boundary = [{ cause := .brk, slot := 15 }] ∧
      (r.coreAt 3).boundary = [] ∧ (r.coreAt 3).ctl.preempt = true ∧ (r.coreAt 3).ctl.bound < (r.coreAt 3).ctl.overrun ∧
      (r.coreAt 3).ctl.run = .running := by decide +kernel

/-- A TRAP with the largest code that is resumed, a BRK, and an issue trap. -/
theorem witness_trap_returns :
    let frozen := fun i => beside { atWork with ctl := { atWork.ctl with run := .frozen i 990 } } Dev.reset
    (∀ i ∈ [({ cause := .trap, slot := 15, code := 0x7FFF } : TrapInfo), { cause := .brk, slot := 15 }, { cause := .vrange, slot := 8 }],
      ((frozen i).coreAt 3).ctl.run = .frozen i 990 ∧ i.port = none) ∧ (990 : Nat) ≤ (frozen { cause := .brk, slot := 15 }).cycle ∧
      Cause.vrange.code < 0x30 ∧ ((frozen { cause := .brk, slot := 15 }).coreAt 3).ctl.draining = false := by decide +kernel

theorem witness_idle_scheduler : w0.pick 3 = none ∧ w0.served 3 = none ∧ w0.pick 0 = none ∧ w0.served 0 = none := by decide +kernel

/-- A group of one-core tasks in queue 5 of die 0. -/
def wGroup : Group :=
  { id := 0, kent := 1, done := 0, dval := 0, count := 4, minch := 1, size := 1, queue := 5, dies := 1, tenants := 0, asid := 1,
    params := [], tlms := [], remaining := 0, blocks := 1, object := 1, version := 0, kernel := 0, core := 1 }

/-- That group with its task in a state and core 3 as its member. -/
def wSched (c : Core) (t : Task) : State :=
  beside c { wDev with sched := { wDev.sched with groups := [wGroup], queued := [(5, 0)], tasks := [t] } }

theorem witness_resume_selected :
    let s := wSched Core.blank { wTask with state := .saved }
    s.served 0 = none ∧ (match s.pick 0 with
      | some (0, 5, .resume 1) => true
      | _ => false) = true := by decide +kernel

theorem witness_preempt_request :
    let s := wSched { atWork with ctl := { atWork.ctl with size := 1, base := 3 } } wTask
    s.task? 1 = some wTask ∧ s.mayRequest wTask = true ∧ 3 ∈ s.liveCores wTask := by decide +kernel

theorem witness_preemption_save :
    let t := { wTask with requested := true }
    let s := wSched { atWork with ctl := { atWork.ctl with size := 1, base := 3, run := .point 990 } } t
    s.task? 1 = some t ∧ s.maySave t = true ∧ 3 ∈ s.liveCores t := by decide +kernel

theorem witness_task_resume :
    let t := { wTask with state := .restoring, contexts := [(3, atWork)] }
    let s := wSched Core.blank t
    s.task? 1 = some t ∧ t.ended = [] ∧ t.banks = [] ∧ t.held = [] ∧ atWork.ctl.pendingBanks = 0 ∧ atWork.ctl.draining = false := by
  decide +kernel

theorem witness_task_drain_end :
    let s := wSched { atWork with ctl := { atWork.ctl with size := 1, base := 3, run := .ending, draining := true } } wTask
    (s.coreAt 3).spent = true ∧ (s.coreAt 3).ctl.pendingBanks = 0 ∧ s.dev.fabric.colls = [] := by decide +kernel

theorem witness_done_write :
    let s := wSched Core.blank { wTask with state := .ended }
    s.group? 0 = some wGroup ∧ s.groupDone wGroup = true := by decide +kernel

/-- Writes in die 0's buffer: one to another die's HBM, one to a tile there, and one to a peer. -/
def wBuffer (w : WEntry) : State :=
  { w0 with dev := { wDev with sys := { wDev.sys with wbuf := [w] }
                               fabric := { wDev.fabric with conns := [⟨7, 0, true, 5, 9, 16, [], [], 0, []⟩] } } }

theorem witness_buffer_drains :
    let a : WEntry := { die := 0, addr := 0x3000000000, data := [1, 2] }
    let b : WEntry :=
      { die := 0, addr := 0x3000000000, data := [1, 2], tiles := [{ entry := 0x30000, summary := 0, whole := false }] }
    let p : WEntry := { die := 0, addr := 0x6000000000040, data := List.replicate 64 3 }
    (∀ w ∈ [a, b, p], (wBuffer w).dev.sys.buffered 0 0 = some w ∧ (wBuffer w).dev.sys.behind 0 0 w = false) ∧
      isPeer a.addr = false ∧ (wBuffer a).reachable a.addr = true ∧ 0x30000 + 8 ≤ b.addr ∧ isPeer p.addr = true ∧
      (wBuffer p).dev.fabric.connTo (sliceOf p.addr) = some ⟨7, 0, true, 5, 9, 16, [], [], 0, []⟩ ∧ p.sendable = true ∧
      (⟨7, 0, true, 5, 9, 16, [], [], 0, []⟩ : Conn).room = true := by decide +kernel

/-- The choice among one frame is that frame. -/
theorem only_choice (s : State) : s.anyOf 1 = 0 := by simp [State.anyOf, Nat.mod_one]

/-- The memory of the global words, with one free frame. -/
def wTiers : State := { w0 with dev := { wDev with sys := { wDev.sys with frames := [(0x100000, 4096)] } } }

theorem witness_tier_moves :
    wTiers.lookup 1 0 0 = .ok (wTileEntry 0 0x5000000000040003) ∧ (wTileEntry 0 0x5000000000040003).tier = 0 ∧
      wTiers.reachable (wTileEntry 0 0x5000000000040003).addr = true ∧ wTiers.dev.sys.wbuf = [] ∧ wTiers.dev.sys.hostq = [] ∧ wTiers.tileInUse (wTileEntry 0 0x5000000000040003).at_ = false ∧
      wTiers.lookup 1 0 1 = .ok (wTileEntry 1 0x7000000000041001) ∧
      wTiers.dev.sys.lost.get false 0x30008 = false ∧ (∃ u, wTiers.takeFrame 4096 0 = some (0x100000, u)) ∧ 0x30008 + 8 ≤ 0x100000 := by
  refine ⟨by decide +kernel, by decide +kernel, by decide +kernel, by decide +kernel, by decide +kernel, by decide +kernel,
    by decide +kernel, by decide +kernel, ?_, by decide⟩
  have h : wTiers.carve 4096 4096 (fun a => wTiers.tier a == some 0) = some (0x100000, []) := by
    have f : (wTiers.dev.sys.frames.filter fun x => (wTiers.tier x.1 == some 0) && holds 4096 4096 x) = [(0x100000, 4096)] := by
      decide +kernel
    simp only [State.carve, f, List.length_singleton, only_choice]
    decide +kernel
  exact ⟨_, by rw [State.takeFrame, State.takeRun, h]⟩

/-- A tree of a root and one leaf with an empty group, and a page of far memory that a region's withdrawal takes. -/
def wTree : State :=
  { w0 with dev := { wDev with sys := { wDev.sys with
      mem := [(0x80058, 0x10100), (0x80140, 1), (0x80148, 0x10300), (0x80150, 0x10000), (0x80168, 4), (0x30000, 0x400000000000B)].foldl
        (fun m x => m.setNum x.1 8 x.2) wMem
      roots := [(2 ^ 32, some (0x10000, 1))] } } }

/-- The tree with one page in the leaf's group, which stands in HBM. -/
def wFullTree : State :=
  { wTree with dev := { wTree.dev with sys := { wTree.dev.sys with
      mem := ((wTree.dev.sys.mem.setNum 0x30000 8 0x5000000000040003).setNum 0x80300 4 1).setNum 0x80310 8 0 } } }

theorem witness_group_eviction :
    wTree.dev.sys.roots.get none (1 * 2 ^ 32 + 0) = some (0x10000, 1) ∧ wTree.treeBusy = false ∧ wTree.mayEvict 1 0x10000 0x10100 true = true ∧
      wTree.mayEvict 1 0x10000 0x10100 false = false ∧ wFullTree.mayEvict 1 0x10000 0x10100 false = true ∧
      wFullTree.mayEvict 1 0x10000 0x10100 true = false ∧ (wTree.unlink 1 0x10100).toOption.isSome = true := by decide +kernel

/-- The lowest and the highest region of far memory, ranges beside them, and the entry of a tile that lies in one. -/
theorem witness_far_region :
    (0x4000000000000 - 1 < 0x4000000000000) ∧ 0x6000000000000 < 0x5FFFFFFFFF000 + 0x2000 ∧
      wTree.entriesAt 0x4000000000000 0x1000 = [wTileEntry 0 0x400000000000B] ∧
      wTree.dev.sys.mem.num 0x30000 8 = 0x400000000000B ∧ bitOf 0x400000000000B 1 = true ∧
      unmapped (wTree.setEntry (wTileEntry 0 0x400000000000B) (0x400000000000B - 2)) 0x4000000000000 0x1000 := by
  refine ⟨by decide, by decide, by decide +kernel, by decide +kernel, by decide, ?_⟩
  intro x hx sp hs
  obtain rfl : x = (1, some ⟨0x10000, 0x20000, 1⟩) := List.mem_singleton.mp hx
  obtain rfl : (⟨0x10000, 0x20000, 1⟩ : Asid) = sp := Option.some.inj hs
  decide +kernel
/-! ### Scrubbing -/

/-- The memory of the global words with tensor 1 made a KV tensor of one page, whose side array is at 0xA0000. -/
def wKvMem : Memory :=
  [(0x20020, 0x90000), (0x20028, 0x300000001), (0x20030, 0xA0000), (0x90000, 0x5000000000100003)].foldl
    (fun m x => m.setNum x.1 8 x.2) wMem

/-- The machine with that memory and a checksum recorded for the page. -/
def wKv (crc : Nat) : State :=
  { State.reset with dev := { wDev with sys := { wDev.sys with mem := wKvMem.setNum 0xA0008 4 crc, asids := [(1, some ⟨0x10000, 0x20000, 2⟩)] } } }

/-- Its page. -/
def wKvEntry : TileEntry := ⟨0x90000, 0x5000000000100003, ⟨0x90000, 1, 0xA0000, true⟩⟩

/-- Reading beside the recorded checksum does not see it. -/
theorem wKv_beside (crc a n : Nat) (h : a + n ≤ 0xA0008 ∨ 0xA000C ≤ a) :
    (wKv crc).dev.sys.homeBytes a n = (wKv 0).dev.sys.homeBytes a n := by
  refine List.map_congr_left fun i hi => ?_
  have l := List.mem_range.mp hi
  simp only [wKv, Memory.setNum]
  rw [Memory.read_store_other _ _ _ _ (by rw [leBytes_length]; omega), Memory.read_store_other _ _ _ _ (by rw [leBytes_length]; omega)]

theorem wKv_lookup (crc : Nat) : (wKv crc).lookup 1 1 0 = .ok wKvEntry := by
  have a : (wKv crc).space 1 = (wKv 0).space 1 := rfl
  have d : (wKv crc).dirEntry 1 1 = (wKv 0).dirEntry 1 1 := by
    simp only [State.dirEntry, a, MemSys.homeNum]
    rw [show (wKv 0).space 1 = some ⟨0x10000, 0x20000, 2⟩ by decide +kernel]
    simp only [wKv_beside crc (0x20000 + 32 * 1) 8 (by decide), wKv_beside crc (0x20000 + 32 * 1 + 8) 4 (by decide),
      wKv_beside crc (0x20000 + 32 * 1 + 12) 1 (by decide), wKv_beside crc (0x20000 + 32 * 1 + 16) 8 (by decide)]
    rfl
  have e : (wKv 0).dirEntry 1 1 = some ⟨0x90000, 1, 0xA0000, true⟩ := by decide +kernel
  have m : (wKv crc).dev.sys.homeNum (0x90000 + 8 * 0) 8 = 0x5000000000100003 := by
    rw [MemSys.homeNum, wKv_beside crc (0x90000 + 8 * 0) 8 (by decide)]; decide +kernel
  simp only [State.lookup, d, e, m]
  rfl

/-- A checksum has 32 bits. -/
theorem crc_bound (l : List Byte) : ∀ c : Nat, c < 2 ^ 32 → l.foldl crcByte c < 2 ^ 32 := by
  induction l with
  | nil => exact fun c h => h
  | cons b r ih =>
    refine fun c h => ih _ ?_
    have step : ∀ (n : List Nat) (x : Nat), x < 2 ^ 32 →
        n.foldl (fun x _ => if x % 2 = 1 then (x / 2) ^^^ 0x82F63B78 else x / 2) x < 2 ^ 32 := by
      intro n
      induction n with
      | nil => exact fun x h => h
      | cons a n ih =>
        refine fun x h => ih _ ?_
        show (if x % 2 = 1 then (x / 2) ^^^ 0x82F63B78 else x / 2) < 2 ^ 32
        split
        · exact Nat.xor_lt_two_pow (by omega) (by decide)
        · omega
    exact step _ _ (Nat.xor_lt_two_pow h (Nat.lt_trans b.isLt (by decide)))

/-- A page whose recorded checksum agrees, and the same page with another one recorded. -/
theorem witness_checksums :
    (∀ c, (wKv c).lookup 1 1 0 = .ok wKvEntry ∧ (wKv c).dev.sys.wbuf = [] ∧ ((wKv c).evq 5).en = false) ∧
      wKvEntry.dir.kv = true ∧ bitOf wKvEntry.bits 1 = true ∧ bitOf wKvEntry.bits 4 = false ∧
      let side := wKvEntry.dir.side wKvEntry.tile
      let crc := fun c => pageCrc ((wKv c).dev.sys.homeBytes wKvEntry.addr 4096) ((wKv c).dev.sys.homeNum side 1)
        ((wKv c).dev.sys.homeNum (side + 1) 1)
      (∃ c, crc c = (wKv c).dev.sys.homeNum (side + 8) 4) ∧ (∃ c, crc c ≠ (wKv c).dev.sys.homeNum (side + 8) 4) := by
  refine ⟨fun c => ⟨wKv_lookup c, rfl, rfl⟩, rfl, by decide +kernel, by decide +kernel, ?_⟩
  have hs : wKvEntry.dir.side wKvEntry.tile = 0xA0000 := by decide +kernel
  have ha : wKvEntry.addr = 0x100000 := by decide +kernel
  simp only [hs, ha]
  have k : ∀ c, pageCrc ((wKv c).dev.sys.homeBytes 0x100000 4096) ((wKv c).dev.sys.homeNum 0xA0000 1)
      ((wKv c).dev.sys.homeNum (0xA0000 + 1) 1) = pageCrc ((wKv 0).dev.sys.homeBytes 0x100000 4096)
      ((wKv 0).dev.sys.homeNum 0xA0000 1) ((wKv 0).dev.sys.homeNum (0xA0000 + 1) 1) := by
    intro c
    simp only [MemSys.homeNum, wKv_beside c 0x100000 4096 (by decide), wKv_beside c 0xA0000 1 (by decide),
      wKv_beside c (0xA0000 + 1) 1 (by decide)]
  have n : ∀ c, (wKv c).dev.sys.homeNum (0xA0000 + 8) 4 = c % 256 ^ 4 := fun c => Memory.num_setNum wKvMem 0xA0008 4 c
  generalize hx : pageCrc ((wKv 0).dev.sys.homeBytes 0x100000 4096) ((wKv 0).dev.sys.homeNum 0xA0000 1)
    ((wKv 0).dev.sys.homeNum (0xA0000 + 1) 1) = x at k
  have lt : x < 2 ^ 32 := by
    rw [← hx, pageCrc, crc32c]; exact Nat.xor_lt_two_pow (crc_bound _ _ (by decide)) (by decide)
  exact ⟨⟨x, by rw [k, n]; omega⟩, ⟨x + 1, by rw [k, n]; omega⟩⟩

/-- A tile that was corrected twice, and lines of the first tier, of which the last is none. -/
theorem witness_scrub_lines :
    let s : State := { wGlobal with dev := { wDev with health := { wDev.health with tileFixes := [(0x30000, 2)] } } }
    s.lookup 1 0 0 = .ok (wTileEntry 0 0x5000000000040003) ∧ bitOf (wTileEntry 0 0x5000000000040003).bits 1 = true ∧
      2 ≤ s.dev.health.tileFixes.get 0 (wTileEntry 0 0x5000000000040003).at_ ∧ s.dev.sys.wbuf.all (!·.sworn) = true ∧ (s.evq 5).en = false ∧
      (wTileEntry 0 0x5000000000040003).dir.kv = false ∧ s.tier 0x40000 = some 0 ∧ lastLine (0x40000 / 64 * 64) = false ∧
      s.tier 0 = some 0 ∧ lastLine (hbmEnd - 64) = true ∧
      s.entriesAt (0x40FC0 / 64 * 64) 64 = [wTileEntry 0 0x5000000000040003] := by decide +kernel
/-! ### The management window -/

/-- The number that fields of MCMD make: each a place in bytes and a value. -/
def wCmd (l : List (Nat × Nat)) : BitVec 512 := BitVec.ofNat 512 (l.map fun f => f.2 * 256 ^ f.1).sum

/-- A device with a command under way, its bytes those of the fields given, and host memory that begins as given. -/
def wBusy (l : List (Nat × Nat)) (host : List (Nat × Nat × Nat)) (objs : List Obj) : State :=
  { State.reset with dev := { wDev with
      mgmt := { wDev.mgmt with busy := true, mseq := 5, taken := wCmd l }
      sys := { wDev.sys with mem := host.foldl (fun m x => m.setNum (hostAddr x.1) x.2.1 x.2.2) wMem }
      code := ⟨objs, 2, 0x20000⟩ } }

/-- The machine with a command under way, and the reserved bytes that a command of the code leaves zero. -/
theorem witness_commands :
    (∀ c ∈ [1, 2, 3, 4, 5, 6, 7, 8], underWay (wBusy [(0, c), (5, 1), (15, 1)] [] []) c 5 ∨ c = 6 ∨ c = 8) ∧
      underWay (wBusy [(0, 6), (8, 4), (43, 1)] [] []) 6 5 ∧ (wBusy [(0, 6), (8, 4), (43, 1)] [] []).cmd 8 1 = 4 ∧
      underWay (wBusy [(0, 8), (16, 1), (48, 0x4000)] [] []) 8 5 ∧ (wBusy [(0, 8), (16, 1), (48, 0x4000)] [] []).cmd 60 4 = 0 ∧
      (wBusy [(0, 8), (16, 1), (48, 0x4000)] [] []).reachable (hostAddr 0) = true ∧
      (wBusy [(0, 8), (16, 1), (48, 0x4000)] [] []).cmd 48 8 + 512 ≤ 2 ^ 51 ∧ (wBusy [(0, 9)] [] []).cmdOk = false ∧
      (wBusy [(0, 2), (16, 1)] [] []).cmdOk = false ∧ (wBusy [(0, 2), (1, 1)] [] []).cmdOk = false ∧
      (wBusy [(0, 2), (8, 1)] [] [wObj]).target = some wObj ∧ underWay (wBusy [(0, 2), (8, 1)] [] [wObj]) 2 5 ∧
      underWay (wBusy [(0, 4), (8, 1)] [] [wObj]) 4 5 := by unfold underWay; decide +kernel

/-- An object of 224 bytes without code: its section table names an empty bundle section and the signature of 32 bytes, here the
digest of the 192 bytes before it. -/
def wObject (flags base digest : Nat) : List Byte :=
  fieldBytes [(4, 0x314F5A45), (2, 1), (2, 2), (4, flags), (4, 0), (8, 224), (8, 0), (32, base),
    (2, 3), (2, 0), (4, 128), (4, 0), (4, 0), (2, 11), (2, 0), (4, 192), (4, 32), (4, 0), (32, 0), (64, 0), (32, digest)]

/-- What can be loaded is loaded somewhere. -/
theorem loads {α β : Type} {x : Option (α × β)} (h : x.isSome = true) : ∃ a b, x = some (a, b) := by
  cases x with
  | none => cases h
  | some p => exact ⟨p.1, p.2, rfl⟩

/-- A LOAD of one such object. -/
def wLoad : State :=
  wBusy [(0, 1), (4, 1), (8, 0x100), (16, 1)]
    [(0x100, 8, 0x1000), (0x108, 8, 224), (0x110, 8, 0x2000),
     (0x1000, 224, leNat (wObject 0 0 0x4f3317541b2ee09b75fc386397be3ef9c11d8de6e85eaa1623e19c99268efe37))] []

/-- The digest is that of the 192 bytes, worked out with another SHAKE256. -/
theorem witness_load :
    let b := wObject 0 0 0x4f3317541b2ee09b75fc386397be3ef9c11d8de6e85eaa1623e19c99268efe37
    underWay wLoad 1 5 ∧ wLoad.cmd 16 2 = 1 ∧ zeroAt (wLoad.hostRead (wLoad.cmd 8 8) 32) 24 8 = true ∧
      wLoad.loadStatus (wLoad.cmd 4 2) (wLoad.hostRead (wLoad.loadEntry 0).1 (wLoad.loadEntry 0).2.1) = (0, b) ∧ isSealReq b = false ∧
      isPortable (wLoad.hostRead (wLoad.loadEntry 0).1 (wLoad.loadEntry 0).2.1) = false ∧ wLoad.reachable (hostAddr 0) = true ∧
      (∃ o u, wLoad.loadObject (wLoad.cmd 4 2) b ((bankMaps [b]).headD []) none = some (o, u)) := by
  refine ⟨by unfold underWay; decide +kernel, by decide +kernel, by decide +kernel, by decide +kernel, by decide +kernel, by decide +kernel,
    by decide +kernel, loads (by decide +kernel)⟩

/-- An install of an adapter without segments. -/
def wInstall : State :=
  wBusy [(0, 5), (4, 1), (8, 0x1000), (16, 224), (24, 0x3000)]
    [(0x1000, 224, leNat (wObject 2 7 0x3fa917b8e90150e5628b523509b9bc59b97ee3efd781ccb1f33c7e108addd424))] [{ wObj with digest := 7 }]

theorem witness_install :
    let b := wObject 2 7 0x3fa917b8e90150e5628b523509b9bc59b97ee3efd781ccb1f33c7e108addd424
    underWay wInstall 5 5 ∧ wInstall.loadStatus (wInstall.cmd 4 2) (wInstall.hostRead (wInstall.cmd 8 8) (wInstall.cmd 16 8)) = (0, b) ∧
      isAdapter b = true ∧ isPortable (wInstall.hostRead (wInstall.cmd 8 8) (wInstall.cmd 16 8)) = false ∧
      wInstall.byDigest (wInstall.cmd 4 2) (BitVec.ofNat 256 (numAt b 32 32)) = some { wObj with digest := 7 } ∧
      hooksFit { wObj with digest := 7 } b = true ∧
      (∃ o u, wInstall.loadObject (wInstall.cmd 4 2) b ((bankMaps [b]).headD []) none = some (o, u)) := by
  refine ⟨by unfold underWay; decide +kernel, by decide +kernel, by decide +kernel, by decide +kernel, by decide +kernel, by decide +kernel,
    loads (by decide +kernel)⟩
/-- A compile whose request is no legal one. -/
theorem witness_compile :
    let s := wBusy [(0, 7), (4, 1), (8, 0x10000)] [] []
    underWay s 7 5 ∧ ∃ q u st n v w, s.spaceRead (s.cmd 4 2) (s.cmd 8 8) 64 = some (q, u) ∧ u.compile (s.cmd 4 2) q = some (st, n, v) ∧
      v.spaceWrite (s.cmd 4 2) (s.cmd 8 8 + 56) (leBytes 8 (st + n * 2 ^ 32)) = some w := by
  refine ⟨by unfold underWay; decide +kernel, ?_⟩
  generalize hx : (wBusy [(0, 7), (4, 1), (8, 0x10000)] [] []).spaceRead ((wBusy [(0, 7), (4, 1), (8, 0x10000)] [] []).cmd 4 2)
    ((wBusy [(0, 7), (4, 1), (8, 0x10000)] [] []).cmd 8 8) 64 = x
  have g : ((x.map fun p => !abetteOk p.1).getD false) = true := by rw [← hx]; decide +kernel
  have h : ((x.bind fun p => p.2.spaceWrite 1 (0x10000 + 56) (leBytes 8 1)).isSome) = true := by rw [← hx]; decide +kernel
  cases x with
  | none => cases g
  | some p =>
    obtain ⟨w, hw⟩ := Option.isSome_iff_exists.mp h
    have bad : (!abetteOk p.1) = true := g
    refine ⟨p.1, p.2, 1, 0, p.2, w, rfl, by simp [State.compile, bad], ?_⟩
    have a : (wBusy [(0, 7), (4, 1), (8, 0x10000)] [] []).cmd 4 2 = 1 := by decide +kernel
    have b : (wBusy [(0, 7), (4, 1), (8, 0x10000)] [] []).cmd 8 8 = 0x10000 := by decide +kernel
    rw [a, b]; exact hw

/-- A SWAPCODE of the one page of an object by a page of one byte, with one frame free. -/
def wSwap : State :=
  let s := wBusy [(0, 3), (8, 1), (16, 0x1000), (24, 224), (32, 3), (40, 1)]
    [(0x1000, 224, leNat (fieldBytes [(4, 0x314F5A45), (2, 1), (2, 2), (4, 0), (4, 0), (8, 224), (8, 0), (32, 0),
      (2, 3), (2, 0), (4, 128), (4, 1), (4, 0), (2, 11), (2, 0), (4, 192), (4, 32), (4, 0), (32, 0), (64, 1),
      (32, 0x7b710c0c211c1209c38826fcc3b1a321a18a79359485b805285fdd0cbef229d)]))]
    [{ wObj with bva := 0x20000, blen := 4, versions := [⟨1, [(0x20000, 0x200000, 0)], []⟩] }]
  { s with dev := { s.dev with sys := { s.dev.sys with frames := [(0x100000, 65536)] } } }

/-- Entries dropped outside an address leave what is read there. -/
theorem read_filter (m : Memory) (p : Nat × Byte → Bool) (a : Nat) (h : ∀ b, p (a, b) = true) :
    Memory.read (List.filter p m) a = m.read a := by
  induction m with
  | nil => rfl
  | cons x r ih =>
    have ih : Table.get Memory.blank (List.filter p r) a = Table.get Memory.blank r a := ih
    by_cases hx : x.1 = a
    · have k : p x = true := by have := h x.2; rwa [← hx] at this
      simp [Memory.read, k, Table.get_cons, hx]
    · by_cases k : p x = true
      · simp [Memory.read, k, Table.get_cons, hx, ih]
      · simp [Memory.read, k, Table.get_cons, hx, ih]

/-- A page written to a frame leaves what lies before the frame. -/
theorem read_fill (m : MemSys) (a n : Nat) (bs : List Byte) (x : Nat) (h : x < a) : (m.fill a n bs).mem.read x = m.mem.read x := by
  rw [MemSys.fill, Memory.read_store_other _ _ _ _ (Or.inl h), read_filter]
  intro b
  simp; omega

theorem num_fill (m : MemSys) (a n : Nat) (bs : List Byte) (x k : Nat) (h : x + k ≤ a) : (m.fill a n bs).homeNum x k = m.homeNum x k := by
  rw [MemSys.homeNum, MemSys.homeNum, MemSys.homeBytes, MemSys.homeBytes,
    List.map_congr_left fun i hi => read_fill m a n bs (x + i) (by have := List.mem_range.mp hi; omega)]

/-- A table that is there is used. -/
theorem table_there (s : State) (at_ : Nat) (h : bitOf (s.dev.sys.homeNum at_ 8) 0 = true)
    (g : bitOf (s.dev.sys.homeNum at_ 8) 11 = false) (z : fieldOf (s.dev.sys.homeNum at_ 8) 15 12 = 0) : s.ensureTable at_ = .ok (frameAddr (s.dev.sys.homeNum at_ 8), s) := by
  simp [State.ensureTable, h, g, z]

theorem witness_swap :
    let o : Obj := { wObj with bva := 0x20000, blen := 4, versions := [⟨1, [(0x20000, 0x200000, 0)], []⟩] }
    let b := wSwap.hostRead (wSwap.cmd 16 8) (wSwap.cmd 24 8)
    underWay wSwap 3 5 ∧ wSwap.target = some o ∧ wSwap.swapStatus o b = 0 ∧ o.versions = ⟨1, [(0x20000, 0x200000, 0)], []⟩ :: [] ∧
      ∃ ps u, wSwap.loadPages o.asid ((o.sectionPages (wSwap.cmd 32 1)).1 + 65536 * wSwap.cmd 36 4) (o.newPages b (wSwap.cmd 32 1)
        ((o.sectionPages (wSwap.cmd 32 1)).1 + 65536 * wSwap.cmd 36 4)) =
        some (ps, u) := by
  intro o b
  refine ⟨by unfold underWay; decide +kernel, by decide +kernel, by decide +kernel, rfl, ?_⟩
  have n : (o.newPages b (wSwap.cmd 32 1) ((o.sectionPages (wSwap.cmd 32 1)).1 + 65536 * wSwap.cmd 36 4)).length = 1 := by
    simp only [Obj.newPages, pagesOf, List.length_map]
    decide +kernel
  obtain ⟨p, hp⟩ := List.length_eq_one_iff.mp n
  have hv : (o.sectionPages (wSwap.cmd 32 1)).1 + 65536 * wSwap.cmd 36 4 = 0x20000 := by decide +kernel
  have c : wSwap.carve 65536 65536 (fun a => wSwap.tier a == some 0) = some (0x100000, []) := by
    have f : (wSwap.dev.sys.frames.filter fun x => (wSwap.tier x.1 == some 0) && holds 65536 65536 x) = [(0x100000, 65536)] := by decide +kernel
    simp only [State.carve, f, List.length_singleton, only_choice]
    decide +kernel
  rw [hp, hv]
  simp only [State.loadPages, State.takeFrame, State.takeRun, c, Option.bind_eq_bind, Option.bind_some]
  generalize hu : (wSwap.sys fun m => { m.purge 0x100000 65536 with frames := [] }) = u
  have um : ∀ x, x + 8 ≤ 0x100000 → ((u.sys fun m => m.fill 0x100000 65536 p).dev.sys.homeNum x 8) = wSwap.dev.sys.homeNum x 8 := by
    intro x hx
    refine (num_fill u.dev.sys _ _ _ x 8 hx).trans ?_
    rw [← hu]; rfl
  generalize hw : (u.sys fun m => m.fill 0x100000 65536 p) = w
  rw [hw] at um
  have sp : w.space o.asid = some ⟨0x10000, 0x20000, 1⟩ := by rw [← hw, ← hu]; rfl
  have e0 : w.dev.sys.homeNum 0x10000 8 = 0x50001 := (um _ (by decide)).trans (by decide +kernel)
  have e1 : w.dev.sys.homeNum 0x50000 8 = 0x60001 := (um _ (by decide)).trans (by decide +kernel)
  have e2 : w.dev.sys.homeNum 0x60000 8 = 0x70001 := (um _ (by decide)).trans (by decide +kernel)
  have t0 : w.ensureTable 0x10000 = .ok (0x50000, w) := by rw [table_there w _ (by rw [e0]; decide) (by rw [e0]; decide) (by rw [e0]; decide), e0]; rfl
  have t1 : w.ensureTable 0x50000 = .ok (0x60000, w) := by rw [table_there w _ (by rw [e1]; decide) (by rw [e1]; decide) (by rw [e1]; decide), e1]; rfl
  have t2 : w.ensureTable 0x60000 = .ok (0x70000, w) := by rw [table_there w _ (by rw [e2]; decide) (by rw [e2]; decide) (by rw [e2]; decide), e2]; rfl
  simp [State.mapPage, State.leafPlace, sp, t0, t1, t2, pure, bind, Except.bind, Except.pure]
/-! ### The window, the host, the links -/

theorem witness_window :
    let s := wBusy [] [] []
    let idle := fun (b : Word64) (k : Nat) => ({ State.reset with dev := { wDev with mgmt := { wDev.mgmt with
      evq := wDev.mgmt.evq.set none k (some { Evq.blank with base := b, log2n := 20, ridx := 3 }) } } } : State)
    s.dev.mgmt.busy = true ∧ (idle 0 0).dev.mgmt.busy = false ∧ (1 : Word64) ≠ (idle 0 0).dev.mgmt.mseq ∧
      (idle 0 0).dev.trust.running = true ∧ (∀ k ∈ [0, 8], ((idle 0x40 k).evq k).en = false ∧ ((idle 0x40 k).evq k).base.toNat % 64 = 0 ∧
        ((idle 0x40 k).evq k).log2n.toNat = 20 ∧ ((idle 0x41 k).evq k).base.toNat % 64 ≠ 0) ∧ (1 : Byte).getLsbD 0 = true ∧
      (∀ owed, let h : State := { s with dev := { s.dev with mgmt := { s.dev.mgmt with holdoff := [(8, true)], owed := [(8, owed)] } } }
        h.dev.mgmt.holdoff.get false 8 = true ∧ h.dev.mgmt.owed.get false 8 = owed ∧ h.reachable (hostAddr 0) = true) := by decide +kernel

/-- A write that ends with its frame, one to a guarded frame, one beside the provenance log and one beyond HBM; a line of the host's
memory. -/
theorem witness_host_accesses :
    let s : State := { wGlobal with dev := { wDev with sys := { wDev.sys with guarded := [(5, true)] }
                                                       trust := { wDev.trust with provBase := 0x100000 } } }
    (0x4FFFE : Nat) < hbmEnd ∧ 0x4FFFE % 65536 + 2 ≤ 65536 ∧ s.inProvenance 0x4FFFE = false ∧ s.inProvenance (0x4FFFE + 2 - 1) = false ∧
      s.dev.sys.guarded.get false (0x4FFFE / 65536) = false ∧ s.marksAt 0x4FFFE 2 = [] ∧ s.marksAt 0x40FFF 1 ≠ [] ∧
      s.dev.sys.guarded.get false (0x50000 / 65536) = true ∧ s.inProvenance 0x50000 = false ∧ (s.evq 0).en = false ∧
      s.inProvenance 0x100000 = true ∧ s.dev.trust.running = true ∧ s.dev.trust.provBase < hbmEnd ∧
      s.dev.sys.guarded.get false (s.dev.trust.provBase / 65536) = false ∧ s.marksAt s.dev.trust.provBase 8 = [] ∧
      isHost (64 * (0x8000000000000 / 64)) = true := by decide +kernel

/-- A transfer from host memory under way, one from HBM, and links up and down. -/
theorem witness_links :
    let mem := wMem.setNum 0x70008 8 (0x8000000000000 + 0x1C3)
    let d : Dev := { wTaskDev with sys := { wTaskDev.sys with mem := mem }, fabric := { wTaskDev.fabric with down := [(3 * 2 ^ 16, true)] } }
    let e := wWord (.tldx 0x1FFC0 none 64 0x40)
    let s := beside { wGlobalCore with port := [e] } d
    let h := wPort (.tldx 0x1FFC0 none 64 0x40)
    (s.coreAt 3).port[0]? = some e ∧ e.finished = none ∧ (s.turnTo 3).readsWhere e behindLink = true ∧
      (h.coreAt 3).port[0]? = some e ∧ (h.turnTo 3).readsWhere e behindLink = false ∧ (s.evq 7).en = false ∧
      s.dev.fabric.down.get false (3 * 2 ^ 16 + 0) = true ∧ s.dev.fabric.down.get false (0 * 2 ^ 16 + 65535) = false := by decide +kernel

/-! ### The fabric -/

/-- A connection, and a device whose only one it is. -/
def wConn : Conn := ⟨7, 0, true, 5, 9, 16, [], [], 0, [(3, 3, 10, 0x6000000000000)]⟩
/-- The machine with connections. -/
def wNet (cs : List Conn) : State :=
  { wGlobal with dev := { wDev with fabric := { wDev.fabric with conns := cs, groups := [(0, [4, 5])], announced := [(23, true)] } } }

/-- A packet in its turn. -/
def wPacket (addr : Nat) (payload : List Byte) : Packet := ⟨7, 9, 5, 0, addr, 3, payload.length, payload, 1, false⟩

theorem witness_packets :
    let s := wNet [wConn]
    inTurn s (wPacket 0x40 (List.replicate 64 1)) wConn ∧ inTurn s (wPacket 0 []) wConn ∧
      s.marksAt 0x1000 64 = [] ∧ (wPacket 0 []).tag ∈ wConn.readsOut.map (·.1) ∧ s.dev.sys.badFrames = [] ∧ 1 ≤ wConn.window ∧
      (∀ e ∈ s.entriesAt 0x40000 4096, e.poisoned = false) ∧ s.entriesAt 0x40000 4096 ≠ [] ∧
      (wPacket (hbmEnd - 64) (List.replicate 64 1)).addr + 64 ≤ hbmEnd ∧ (wPacket 0 []).ackSeq - 1 = 4 := by
  unfold inTurn; decide +kernel

/-- Groups, ports, and a collective of the whole system. -/
theorem witness_fabric :
    let s := wNet []
    let x : OutPacket := ⟨7, 1, 4, 0, 0, 0, 0, 0, [], 7⟩
    let old : OutPacket := { x with sends := 8 }
    let w : State := { State.reset with dev := { Dev.reset with fabric := { Dev.reset.fabric with conns := [⟨7, 0, true, 5, 9, 16, [old], [], 0, []⟩] } } }
    let u : Collective := ⟨0, 4 * 2 ^ 32, 6, ⟨0, 0, 0⟩, [], [], []⟩
    inTurn (wNet [wConn]) (wPacket 0 (List.replicate 8 0 ++ List.replicate 8 1)) wConn ∧ s.dev.fabric.colls = [] ∧
      ((wPacket 0 (List.replicate 8 0 ++ List.replicate 8 1)).payload.getD 7 0) = 0 ∧ isSystem u.domain = true ∧ u.tag = 6 ∧
      (∃ g ∈ s.dev.fabric.groups, 5 ∈ g.2) ∧ s.dev.trust.running = true ∧ s.dev.fabric.conns = [] ∧ (s.evq 7).en = false ∧
      s.dev.fabric.announced.get false 23 = true ∧ s.dev.fabric.announced.get false 0 = false ∧ x.sends < 8 ∧ 8 ≤ old.sends ∧
      w.dev.fabric.conns = [⟨7, 0, true, 5, 9, 16, [old], [], 0, []⟩] ∧ w.dev.sys.asids = [] ∧ w.dev.sys.wbuf = [] ∧ w.dev.fabric.colls = [] ∧
      (w.evq 7).en = false := by unfold inTurn; decide +kernel
/-! ### Health and boot -/

theorem witness_power :
    ∀ c ∈ [1500, 1550, 1850, 1900], 1500 ≤ c ∧ c ≤ 1900 ∧ c % 50 = 0 ∧
      ({ State.reset with dev := { Dev.reset with health := { Dev.reset.health with clock := c } } } : State).dev.health.clock = c := by
  decide +kernel

/-- Core 511 worn, with both spares of its cluster left and with both used. -/
def wWorn (used : Nat) : State :=
  { State.reset with dev := { Dev.reset with health := { Dev.reset.health with
      corrected := Table.set 0 [] (hardKey 0 511) 1, sparesUsed := Table.set 0 [] (unitKey 0 31) used, tempHigh := used == 1 } } }

theorem witness_health :
    (∀ k ∈ [6, 7, 8], ((wWorn 1).evq k).en = false) ∧ ((wWorn 1).coreAt 511).ctl.run = .idle ∧ (wWorn 1).dev.sched.tasks = [] ∧
      (wWorn 1).worn 0 511 = true ∧ (wWorn 1).hasSpare 0 511 = true ∧ (wWorn 2).worn 0 511 = true ∧
      (wWorn 2).hasSpare 0 511 = false ∧ (wWorn 2).dev.health.retired.get false (unitKey 0 511) = false ∧
      (wWorn 2).dev.health.tempHigh = false ∧ (wWorn 1).dev.health.tempHigh = true ∧ (840 : Int) < 841 := by decide +kernel

/-- The boot ROM in a step. -/
def wBoot (step : Nat) (window failed : Bool) : State :=
  { State.reset with dev := { Dev.reset with trust := { Trust.reset with bootStep := step, urlWindow := window, bootFailed := failed } } }

/-- The boot ROM in a step, with port 11 up. -/
def wBootPort (step : Nat) : State :=
  { State.reset with dev := { Dev.reset with trust := { Trust.reset with bootStep := step, urlWindow := false, bootPort := some 11 } } }

theorem witness_boot :
    (wBoot 1 true false).dev.trust.inStep 1 = true ∧ (wBoot 1 true false).bringUp.portUp = true ∧ (wBoot 1 true false).dev.trust.bootPort = none ∧
      (wBoot 1 true false).dev.fabric.down.get false (2 ^ 16) = false ∧ (wBootPort 11).portUp = true ∧ (wBootPort 3).portUp = true ∧ (wBoot 1 true false).dev.trust.bootUrl = none ∧
      (wBootPort 11).dev.trust.inStep 11 = true ∧ (wBoot 2 true false).dev.trust.inStep 2 = true ∧
      urlOk (ascii "http://[2001:db8::1]/cz9.img") = true ∧ (wBoot 2 false false).dev.trust.dhcpUrl = none ∧
      (wBoot 2 false true).dev.trust.bootFailed = true ∧ (wBootPort 3).dev.trust.inStep 3 = true ∧
      (∀ v, imageOk v [] = false) ∧
      ({ wGlobal with dev := { wDev with trust := { wDev.trust with unsigned := 1, ckptBase := 0x100000 } } } : State).reachable 0x100000 = true :=
  ⟨by decide +kernel, by decide +kernel, rfl, by decide +kernel, by decide +kernel, by decide +kernel, rfl, by decide +kernel,
    by decide +kernel, by decide +kernel, rfl, rfl, by decide +kernel, fun _ => by simp [imageOk, numAt, leNat], by decide +kernel⟩

/-- An image of one empty stage, which the ROM takes where its key's digest is the fused one and the signature agrees: both are the
device's own (log entry 10), so no image is taken or refused by them here. -/
def wImage : List Byte :=
  fieldBytes [(4, 0x57465A43), (4, 1), (4, 1), (4, 210), (57, 5), (7, 0), (4, 96), (4, 0), (8, 0), (114, 0)]

theorem witness_image (h : digest256 ((wImage.drop 16).take 57) = Config.fusedKeyHash)
    (k : Config.ed448Verify ((wImage.drop 16).take 57) (ascii "CZ9-FW") (wImage.take (wImage.length - 114)) (wImage.drop (wImage.length - 114)) = true) :
    imageOk 1 wImage = true := by
  have a : (numAt wImage 0 4 == 0x57465A43 && 1 ≤ numAt wImage 8 4 && numAt wImage 8 4 ≤ 8 && numAt wImage 12 4 == wImage.length &&
    wImage.length ≤ 2 ^ 26 && 80 + 16 * numAt wImage 8 4 + 114 ≤ wImage.length) = true := by decide +kernel
  have b : ((List.range (numAt wImage 8 4)).all fun i => decide (80 + 16 * numAt wImage 8 4 ≤ (imageStage wImage i).1) &&
    decide ((imageStage wImage i).1 + (imageStage wImage i).2.1 ≤ wImage.length - 114)) = true := by decide +kernel
  have c : (decide ((1 : BitVec 32).toNat ≤ numAt wImage 4 4)) = true := by decide +kernel
  simp only [imageOk]
  rw [Bool.and_eq_true, Bool.and_eq_true, Bool.and_eq_true, Bool.and_eq_true]
  exact ⟨⟨⟨⟨a, by rw [h]; exact beq_self_eq_true _⟩, c⟩, k⟩, b⟩
/-! ### Steps -/

/-- The machine after reset with a header and a word where the current core fetches its next bundle. -/
def wFetch (header word : Nat) : State :=
  (State.reset.withFetchWord 32 0).sys fun m => { m with mem := (m.mem.setNum 0 4 header).setNum 4 4 word }

/-- What the current core fetches. -/
def fetched (s : State) : Option RawBundle := (awake s).fetch.toOption

/-- Bundles of one word, an idle one, and ones that trap: a missing word, a reserved header bit, a word that is no
instruction. -/
theorem witness_steps :
    (∀ s ∈ [wFetch 2 0x80A00040, wFetch 0x8B000000 0, wFetch 0x1000 0, wFetch 1 0xF8000000], mayTry s) ∧
      fetched (wFetch 2 0x80A00040) = some ⟨2, 0, [(1, 0x80A00040, 1)], 2⟩ ∧
      decodeSlot 1 0x80A00040 = .ok (.moveImmediate 0 5 1 0) ∧
      fetched (wFetch 0x8B000000 0) = some ⟨0x8B000000, 0, [], 1⟩ ∧ (0x8B000000 : Nat) % 2 ^ 24 = 0 ∧
      (wFetch 2 0x80A00040).lanesHeld = 0 ∧
      (∃ b n, fetched (wFetch 0x1000 0) = some b ∧ headerTrap true b = some n) ∧
      fetched (wFetch 1 0xF8000000) = some ⟨1, 0, [(0, 0xF8000000, 1)], 2⟩ ∧ (decodeSlot 0 0xF8000000).toOption = none := by
  refine ⟨?_, by decide +kernel, by decide +kernel, by decide +kernel, by decide +kernel, by decide +kernel, ?_, by decide +kernel,
    by decide +kernel⟩
  · unfold mayTry; decide +kernel
  · exact ⟨⟨0x1000, 0, [], 1⟩, 0, by decide +kernel, by decide +kernel⟩

/-- A bundle of one word has nothing that two words could clash in, and claims no lane group held. -/
theorem witness_lone_word :
    (crossTrap [⟨1, 0x80A00040, .moveImmediate 0 5 1 0⟩] = none) ∧ (laneTrap 0 [⟨1, 0x80A00040, .moveImmediate 0 5 1 0⟩] = none) ∧
      (crossTrap [⟨12, 0x8B000000, .idle 2 11⟩] = none) ∧ (laneTrap 0 [⟨12, 0x8B000000, .idle 2 11⟩] = none) :=
  ⟨by decide +kernel, by decide +kernel, by decide +kernel, by decide +kernel⟩

/-- What an instruction answers on the machine as the bundle opens. -/
theorem witness_exec :
    ∃ t, exec (.moveImmediate 0 5 1 0) ((awake (wFetch 2 0x80A00040)).opening ⟨2, 0, [(1, 0x80A00040, 1)], 2⟩
      [⟨1, 0x80A00040, .moveImmediate 0 5 1 0⟩]) = .next t ∧ t.core.stall = none := by
  refine ⟨_, rfl, by decide +kernel⟩

/-- A part of the state after a step. -/
def after {α : Type} (f : State → α) (s : State) : Option α :=
  match step s with
  | .next t => some (f t)
  | _ => none

/-- R28, R54, R78: the immediate 1 is on its way to g5 for the next cycle, the PC moves past header and word, and the bundle is
counted. -/
theorem test_step_move :
    after (fun t => (t.core.qs.flight.map fun d => (d.due, d.dest, d.value), t.core.seq.pc, t.core.bundles)) (wFetch 2 0x80A00040) =
      some ([(1, .g 5, 1)], 8, 1) := by decide +kernel

/-- R31: an idle bundle of c = 11 keeps the core from issuing for 12 cycles. -/
theorem test_step_idle : after (fun t => (t.core.seq.pc, t.core.wake)) (wFetch 0x0B000000 0) = some (4, 12) := by decide +kernel

/-- R48, R247: a word that is no instruction freezes the core before anything has changed. -/
theorem test_step_illop :
    after (fun t => (match t.core.ctl.run with
      | .frozen f _ => (f.cause.code, f.slot)
      | _ => (0, 99), t.core.seq.pc)) (wFetch 1 0xF8000000) = some ((Cause.illop.code, 0), 0) := by decide +kernel

/-- R28: END. -/
theorem test_step_end : after (fun t => decide (t.core.ctl.run = .ending)) (wFetch 1 0x30000000) = some true := by decide +kernel

/-- A word of the opcode table stands where the next step fetches it and is that step's instruction. -/
theorem test_fetch_word :
    after (fun t => t.core.qs.flight.map fun d => (d.dest, d.value)) (State.reset.withFetchWord 32 0x80A00040) = some [(.g 5, 1)] ∧
      decodeTableWord 32 0x80A00040 = some (.moveImmediate 0 5 1 0) ∧ decodeTableWord 32 0x30000000 = some .endTask ∧
      decodeTableWord 64 0x0412300000000000 = some (.mma 0 1 2 3 0) := by decide +kernel

/-! ### Known values -/

/-- CRC-32C's published check value: of the nine characters 123456789. -/
theorem test_crc : crc32c (ascii "123456789") = 0xE3069283 := by decide +kernel

/-- SHAKE256 of the empty string, the first 32 bytes, as FIPS 202's examples give them. -/
theorem test_shake : digest256 [] = 0x2f76d56e64270cb5821bb862ea52cd3f24eb3e74eb3f3b23138da80b2bddb946 := by decide +kernel

/-- A canonical machine that steps, and an instruction of the transport slot with its word. -/
theorem witness_canonical :
    (wFetch 2 0x80A00040).canonical ∧ (after (fun _ => ()) (wFetch 2 0x80A00040)).isSome = true ∧
      slotOf (.moveImmediate 0 5 1 0) = some 1 ∧ (Instr.moveImmediate 0 5 1 0).wf = true ∧
      encodeNat (.moveImmediate 0 5 1 0) = 0x80A00040 := by
  refine ⟨⟨by decide +kernel, fun n => ?_⟩, by decide +kernel, by decide +kernel, by decide +kernel, by decide +kernel⟩
  unfold State.coreAt
  split <;> rfl

/-- Guards that are false, with and without inversion. -/
theorem witness_false_guards :
    w0.core.guardP 0x26 = false ∧ w0.core.guardP 0x35 = false ∧ w0.core.intFree 1 ≤ w0.cycle ∧ w0.core.guardV 0x26 = false ∧
      plainGuard (.move 0 5 6 0x26) = some 0x26 ∧ intGuard (.add 0 1 0 3 0x26) = some (0x26, 1) ∧
      sfGuard (.exp2 0 0 0 0x26) = some 0x26 ∧ vecGuard (.vadd 0 0 0 1 0 0x26) = some (0x26, 1) ∧
      rowBytes (w0.core.fmtAt 0) ≤ 64 * (16#6).toNat := by decide +kernel

/-- No core above 511 is current, and a step that is no fault. -/
theorem witness_goes_on : w0.agenda = [] ∧ w0.cur < 512 ∧ State.reset.agenda = [] ∧ State.reset.cur < 512 := by decide +kernel
/-! ### More states that meet hypotheses -/

/-- Room in the port, and a word more than it takes; a literal that is there, and one that is not. -/
theorem witness_room :
    hasRoom w0.core ∧ hasRoom wGlobal.core ∧ hasRoom wEngine.core ∧ wCode.core.qs.litReady ≤ wCode.cycle ∧
      (let s := wCode.mod fun c => { c with qs := { c.qs with litReady := 1 } }; s.cycle < s.core.qs.litReady) := by
  unfold hasRoom; decide +kernel

/-- A member at work, a bundle that popped nothing and one that popped a slot. -/
theorem witness_ring_members :
    (wGlobal.coreAt (wGlobal.member (wGlobal.core.ring 4).pm)).ctl.run ≠ .idle ∧
      (2#8).toNat ≤ (wGlobal.core.ring 2).count + (wGlobal.mod fun c => { c with ctx := { c.ctx with popped := [(2, 1)] } }).core.ctx.popped.get 0 2 ∧
      (wGlobal.core.ring 2).count + wGlobal.core.ctx.popped.get 0 2 < (2#8).toNat := by decide +kernel

/-- A spill that may go on, a buffer never prepared, and a gang of one whose queues hold what its own bundle put there. -/
theorem witness_spill_and_barrier :
    (wCall 14 false).core.acquirePending (wCall 14 false).core.bundles = false ∧ (wCall 0 false).core.seq.tb.get none 3 = none ∧
      (let s := working { atWork with ctl := { atWork.ctl with size := 1 }, qs := { Queues.entry with loads := [wEntry] } }
       ∀ e ∈ s.core.qs.loads ++ s.core.qs.stores, e.bundle = s.core.bundles) := by decide +kernel

/-- A gather with nothing to wait for, whose elements are all in this package. -/
theorem witness_gather_sources :
    (wGather.coreAt 3).acquirePending 0 = false ∧ wGather.dev.fabric.refused 3 (gatherWord (wGather.coreAt 3)).key = false ∧
      (match (wGather.turnTo 3).elementPieces (gatherWord (wGather.coreAt 3)) 4 ((List.range 16).map fun i =>
          (0x10000 + laneOf 32 (5#512).toNat i * 4) % 2 ^ 57) with
        | .ok (l, s) => l.all fun p => !isPeer p.1 && s.reachable p.1
        | .error _ => false) = true := by decide +kernel

/-- A tile for a ring that has come, with nothing ahead of it. -/
theorem witness_ring_fill :
    let e : GEntry := { wWord (.tldRing 2 (wRef 0)) with got := some (0, List.replicate 4096 0) }
    let s := beside { wGlobalCore with ctl := { wGlobalCore.ctl with size := 1, base := 3 }, port := [e] } wTaskDev
    (wWord (.tldRing 2 (wRef 0))).got = none ∧ e.finished = none ∧ e.faulted = none ∧ (s.coreAt 3).port[0]? = some e ∧
      (s.turnTo 3).fillWaits e 2 = false ∧ (∀ f ∈ (s.coreAt 3).port.take 0, f.task = e.task → sameRing e.op f.op = false) := by
  decide +kernel

/-- The task of a BRK with a debug session, and one without. -/
theorem witness_debug :
    let s := beside { atWork with ctl := { atWork.ctl with run := .frozen { cause := .brk, slot := 15 } 990 } }
      { Dev.reset with mgmt := { Dev.reset.mgmt with sessions := [atWork.ctl.task] } }
    (s.coreAt 3).ctl.task ∈ s.dev.mgmt.sessions ∧ (s.coreAt 3).ctl.task ∉ Dev.reset.mgmt.sessions ∧ (s.coreAt 3).ctl.draining = false := by
  decide +kernel

/-- A scheduler that has had its turn of the cycle, and one that has not. -/
theorem witness_scheduler_turns :
    (w0.sched fun d => { d with turned := d.turned.set 0 3 (w0.cycle + 1) }).dev.sched.turned.get 0 3 = w0.cycle + 1 ∧
      w0.dev.sched.turned.get 0 3 ≠ w0.cycle + 1 ∧
      (match exec (.schedulerCycle 3) w0 with
        | .next u => u.cycle == w0.cycle
        | _ => false) = true := by decide +kernel

/-- A write behind an earlier one to its bytes, one of two parts, and one whose link is down. -/
theorem witness_buffered :
    let a : WEntry := { die := 0, addr := 0x3000000000, data := [1, 2] }
    let c : WEntry := { die := 0, addr := 0x3000000000, data := [1, 2], also := [(0x3000000100, [3])] }
    let h : WEntry := { die := 0, addr := 0x8000000000000, data := [1] }
    let s : State := { wBuffer h with dev := { (wBuffer h).dev with fabric := { (wBuffer h).dev.fabric with down := [(2 * 2 ^ 16, true)] } } }
    ((wBuffer a).sys fun m => { m with wbuf := [a, a] }).dev.sys.buffered 0 1 = some a ∧
      ((wBuffer a).sys fun m => { m with wbuf := [a, a] }).dev.sys.behind 0 1 a = true ∧ (wBuffer c).dev.sys.buffered 0 0 = some c ∧
      (wBuffer c).dev.sys.behind 0 0 c = false ∧ (wBuffer c).reachable c.addr = true ∧ c.addr + c.data.length ≤ 0x3000000100 ∧
      s.dev.sys.buffered 0 0 = some h ∧ s.dev.sys.behind 0 0 h = false ∧ isPeer h.addr = false ∧ s.reachable h.addr = false ∧
      (s.evq 7).en = false := by decide +kernel

/-- No page maps the tile's frame. -/
theorem witness_unmapped : unmapped wTiers 0x40000 4096 := by
  intro x hx sp hs
  obtain rfl : x = (1, some ⟨0x10000, 0x20000, 1⟩) := List.mem_singleton.mp hx
  obtain rfl : (⟨0x10000, 0x20000, 1⟩ : Asid) = sp := Option.some.inj hs
  decide +kernel

/-- An invalidation with a write accepted and not performed, and objects to be sealed: the digests are worked out with another
SHAKE256. -/
theorem witness_sealed_objects :
    (let s := (wBusy [(0, 6), (8, 4)] [] []).sys fun m => { m with wbuf := [{ die := 0, addr := 0x3000000000, data := [1] }] }
     underWay s 6 5 ∧ s.cmd 8 1 = 4 ∧ s.dev.sys.wbuf ≠ []) ∧
      (let b := wObject 4 0 0x6a5ea331ee68370e5305ce5bba4ebf0573ed747dca6bf4bc14a650aa01f770a
       wLoad.loadStatus 1 b = (0, b) ∧ isSealReq b = true ∧ isPortable b = false) ∧
      (let b := wObject 6 7 0x8aff6d83b0e58277ea35f0346c0ec046b6d044a86093f9e9d6712486e286998
       wInstall.loadStatus 1 b = (0, b) ∧ isSealReq b = true ∧ isAdapter b = true) := by unfold underWay; decide +kernel

/-- Host records that are off and a read that has not failed; frames of a peer's packets that are withdrawn, guarded, and neither;
and a contribution of rank 0 of two. -/
theorem witness_packet_frames :
    let n := wNet [wConn]
    let s : State := { n with dev := { n.dev with trust := { n.dev.trust with provBase := 0x100000 } } }
    let g := s.sys fun m => { m with withdrawn := [(1, true)], guarded := [(2, true)] }
    let p := fieldBytes [(2, 0), (2, 0), (2, 2), (1, 0), (1, 0), (4, 0), (4, 0)]
    (s.evq 0).en = false ∧ (wWord (.tldx 0x1FFC0 none 64 0x40)).failed = false ∧ g.dev.sys.gone 0x10000 64 = true ∧
      g.dev.sys.gone 0x20000 64 = false ∧ g.dev.sys.guarded.get false (0x20000 / 65536) = true ∧
      (∀ i, i < 64 → s.dev.sys.guarded.get false ((0x1000 + i) / 65536) = false ∧ s.inProvenance (0x1000 + i) = false) ∧
      s.dev.sys.gone 0x1000 64 = false ∧ inTurn s (wPacket 0 p) wConn ∧ p.getD 7 0 = 0 ∧ (p.drop 2).take 2 = p.take 2 ∧
      2 ≤ leNat ((p.drop 4).take 2) ∧ s.dev.fabric.late = [] ∧ s.dev.sched.tasks = [] := by
  unfold inTurn; decide +kernel

/-- Rows whose terms are all different, with a sum that two of them share; and words that go beside one another, or not. -/
theorem witness_abette :
    (let rows := (workedMatrix.panelRows 0).map workedMatrix.terms
     (∀ r ∈ rows, r.Nodup) ∧ (shareSums 15 rows).1 = [([(0, 3), (2, -2), (3, 6)], [0, 2])]) ∧
      (clearRow 1).beside (clearRow 0) = true ∧ (clearRow 0).dest = some 0 ∧ (clearRow 0).beside (clearRow 0) = false := by
  decide +kernel

/-- R368: the worked panel's code. -/
theorem test_worked_panel : workedMatrix.slotCode 0 = fieldBytes workedPanel.flatten := by decide +kernel

/-! ### States for the clauses about waits, failures and data -/

/-- An accumulator of the y registers at the largest bound added to one of the a registers that is there too. -/
theorem witness_sum_past_bound :
    let s := working { atWork with eng := { Engines.entry with bound := [(4, BitVec.ofNat 64 boundMax), (68, BitVec.ofNat 64 boundMax)] } }
    s.core.immOk 1 = true ∧ boundMax < s.core.boundAt (4 + 0) + (1#8).toInt.natAbs * s.core.boundAt (68 + 0) ∧
      boundMax < s.core.boundAt (4 + 0) + s.core.boundAt (68 + 0) ∧ boundMax < s.core.boundAt (68 + 0) + 128 := by decide +kernel

/-- A literal not yet there for an MMALS on tile registers 14 and 15. -/
theorem witness_literal_wait :
    let s := wCode.mod fun c => { c with qs := { c.qs with litReady := 1 } }
    s.core.guardP 0 = true ∧ s.core.eng.arrayFree ≤ s.cycle ∧ s.core.readTile 14 = .ok Tile.blank ∧ s.core.readTile ((14 + 1) % 16) = .ok Tile.blank ∧
      s.cycle < s.core.qs.litReady := by decide +kernel

/-- Nothing is retained in the vault. -/
theorem witness_nothing_retained : w0.core.retained = [] ∧ wTile.core.retained = [] ∧ wGlobal.core.retained = [] := by decide

/-- A transfer on its way into the range, a bank pending, and bytes that the exit unit owns. -/
theorem witness_local_waits :
    let e : GEntry := { op := .tldx 0x10000 none 64 0x100, task := 1, asid := 1, order := 10, bundle := 0, issued := 990, scope := 0,
                        acquire := false, release := false, kcore := 0, kc := 0, faulted := none, kept := false, progress := [],
                        failed := false, bad := false, started := false, got := none, finished := none }
    let b := working { atWork with port := [e] }
    let p := working { atWork with ctl := { atWork.ctl with pendingBanks := 1 } }
    let x := working { atWork with eng := { Engines.entry with hazards := [⟨0x100, 0x140, 1024⟩] } }
    b.core.mine.any (·.landsIn 0x13F 1) = true ∧ b.core.mine.any (·.landsIn 0x140 1) = false ∧ p.core.mine.any (·.landsIn 0xFFFF 1) = false ∧
      0xFFFF + 1 ≤ vaultSize ∧ p.core.pendingIn 0xFFFF 1 = true ∧ x.core.mine.any (·.landsIn 0x13F 1) = false ∧
      x.core.pendingIn 0x13F 1 = false ∧ x.core.ownsRange 0x13F 1 = true ∧ x.core.hazard x.cycle 0x13F 1 = true ∧
      x.core.hazard x.cycle 0x140 1 = false := by decide +kernel

/-- Cluster addresses at the ends of the gang, of a vault and of an alignment. -/
theorem witness_cluster_checks :
    ¬ (2 ^ 26 < 2 ^ 26 ∧ 2 ^ 26 % vaultSize + 1 ≤ vaultSize) ∧ ¬ (vaultSize - 4 < 2 ^ 26 ∧ (vaultSize - 4) % vaultSize + 8 ≤ vaultSize) ∧
      (4 * vaultSize < 2 ^ 26 ∧ 4 * vaultSize % vaultSize + 8 ≤ vaultSize ∧ w0.core.ctl.size ≤ 4 * vaultSize / vaultSize) ∧
      (4 * vaultSize - 8) / vaultSize < w0.core.ctl.size ∧ (4 * vaultSize - 8) % vaultSize % 8 = 0 ∧
      (4 * vaultSize - 12) % vaultSize % 8 ≠ 0 ∧ (4 * vaultSize - 12) / vaultSize < w0.core.ctl.size := by decide +kernel

/-- Accesses that fail: one byte past the vault, an odd address, and a member outside the gang. -/
theorem witness_failing_accesses :
    w0.core.guardP 0 = true ∧ w0.orderWait 0 .stallld = .ok () ∧ w0.orderWait 1 .stallld = .ok () ∧
      w0.checkLocal (w0.core.ea 0 (0x3FFFFC#32).toNat) 8 8 = .error (.trap .vrange) ∧
      w0.checkLocal (w0.core.ea 1 (4#32).toNat) 8 8 = .error (.trap .valign) ∧ w0.core.readG 1 = .ok 7 ∧ w0.core.readV 2 = .ok 9 ∧
      wTile.core.readTile 2 = .ok ⟨5, false⟩ ∧ w0.core.comparand 6 2 = .ok 0x80 ∧ queueRoom w0.core.qs.loads = .ok () ∧
      queueRoom w0.core.qs.stores = .ok () ∧ w0.checkCluster (w0.core.ea 0 (0x1000000#32).toNat) 8 8 = .error (.trap .crange) := by
  decide +kernel

/-- Waits that have met no bad line. -/
theorem witness_good_waits :
    let s := wGlobal.mod fun c => { c with waiting := some { since := 990, line := some 1 } }
    (∀ w, wGlobal.core.waiting = some w → w.bad = false) ∧ (∀ w, s.core.waiting = some w → w.bad = false) := by
  refine ⟨fun w h => ?_, fun w h => ?_⟩
  · cases h
  · cases h; rfl

/-- A return to a group that has been spilled, at its first attempt and five cycles on. -/
theorem witness_fill :
    let c := { atWork with seq := { Seq.entry with depth := 15, spilled := 15, spillPtr := 0x40 }
                           ctl := { atWork.ctl with stack := some (0x8000, 0x440) }
                           regs := { atWork.regs with g := [(windowKey 15 14, 0x40), (windowKey 15 15, 0x200)] } }
    let s := working c
    let w := working { c with waiting := some { since := 995, line := none } }
    s.core.readG 31 = .ok 0x200 ∧ s.core.readG 30 = .ok 0x40 ∧ s.core.seq.levels.find? (·.depth == s.core.seq.depth) = none ∧
      s.core.seq.depth ≠ 0 ∧ (0x200#64).toNat % 4 = 0 ∧ s.core.seq.depth - 1 < s.core.seq.spilled ∧ fieldOf (0x40#64).toNat 59 57 = 0 ∧
      s.core.ctl.stack = some (0x8000, 0x440) ∧ s.core.acquirePending s.core.bundles = false ∧ (0 : Nat) = s.core.seq.spillPtr - 64 ∧
      s.core.pendingIn (0x8000 + 0) 64 = false ∧ s.core.mine.any (·.landsIn (0x8000 + 0) 64) = false ∧ s.core.waiting = none ∧
      w.core.waiting = some { since := 995, line := none } ∧ 995 + 5 ≤ w.cycle := by decide +kernel

/-- A spill into a stack region of which no bank is pending and no byte is on its way. -/
theorem witness_spill :
    (wCall 14 false).core.pendingIn (0x8000 + (wCall 14 false).core.seq.spillPtr) 64 = false ∧
      (wCall 14 false).core.mine.any (·.landsIn (0x8000 + (wCall 14 false).core.seq.spillPtr) 64) = false := by decide +kernel

/-- Handles bound before the bundle, and one that is not. -/
theorem witness_bound_handles :
    let s := wGlobal.mod fun c => { c with ctx := { c.ctx with bound0 := 0x34 } }
    (∀ i < 8, (4#8).getLsbD i = true → s.core.ctx.bound0.getLsbD i = true) ∧ (∃ i < 8, (1#8).getLsbD i = true ∧ s.core.ctx.bound0.getLsbD i = false) := by
  decide +kernel

/-- A tile that lands where no NEXT is due. -/
theorem witness_tile_landing :
    let s := beside { atWork with qs := { Queues.entry with flight := [⟨1000, 17, .tileL 2, 5, ones 32768, 0, none⟩]
                                                            nexts := [⟨1001, 16, 31, 9⟩] } } Dev.reset
    (s.coreAt 3).qs.flight = [⟨1000, 17, .tileL 2, 5, ones 32768, 0, none⟩] ∧ (∀ j ∈ (s.coreAt 3).qs.nexts, s.cycle < j.due) ∧
      (s.coreAt 3).delivers = true := by
  refine ⟨rfl, ?_, by decide +kernel⟩
  decide +kernel

/-- What answers a list of one range is read. -/
theorem one_range {ε : Type} {x : Except ε (List (Nat × Nat) × State)} {l : List (Nat × Nat)}
    (h : (match x with
      | .ok (y, _) => y == l
      | .error _ => false) = true) : ∃ s', x = .ok (l, s') := by
  cases x with
  | error e => cases h
  | ok p => exact ⟨p.2, by rw [← eq_of_beq h]⟩

/-- The memory of the global words with tile 0 writable. -/
def wStores (op : GOp) : State :=
  beside { wGlobalCore with ctl := { wGlobalCore.ctl with size := 1, base := 3 }, port := [wWord op] }
    { wTaskDev with sys := { wTaskDev.sys with mem := wMem.setNum 0x30000 8 0x5000000000040043 } }

theorem witness_tile_store :
    let e := wWord (.tst (wRef 0) 5)
    let s := wStores (.tst (wRef 0) 5)
    let x := wTileEntry 0 0x5000000000040043
    settled s 3 ∧ (s.coreAt 3).port[0]? = some e ∧ (s.turnTo 3).mayTransfer 0 e = true ∧ e.task = (s.coreAt 3).ctl.task ∧
      (s.coreAt 3).ctl.run = .running ∧ e.acquire = false ∧ (s.turnTo 3).reach (wRef 0) = .ok x ∧ bitOf x.bits 6 = true ∧
      bitOf x.bits 7 = false ∧ x.here = true ∧ x.dir.kv = false ∧ x.at_ + 8 ≤ x.addr := by
  unfold settled; decide +kernel

/-- A flat store, a flat load and an atomic at VA 0x10000, which its page has at 0x80000. -/
theorem witness_flat_arrivals :
    let st := wWord (.tstx 0x10000 none [1, 2])
    let ld := wWord (.tldx 0x10000 none 64 0x40)
    let am := wWord (.amog 0x10008 none (6#3).toNat 8 1 2 1)
    (∀ e ∈ [st, ld, am], (wPort e.op).turnTo 3 |>.mayTransfer 0 e) ∧
      (∃ s', ((wPort st.op).turnTo 3).flatPieces st true 0x10000 [1, 2].length none = .ok ([(0x80000, [1, 2].length)], s')) ∧
      (∃ s', ((wPort ld.op).turnTo 3).flatPieces ld false 0x10000 64 none = .ok ([(0x80000, 64)], s')) ∧
      (∃ s', ((wPort am.op).turnTo 3).flatPieces am true 0x10008 8 none = .ok ([(0x80008, 8)], s')) ∧
      isPeer 0x80000 = false ∧ ((wPort ld.op).coreAt 3).retained = [] ∧ (∀ b, ((wPort ld.op).turnTo 3).savedBank 3 ld.task b = none) ∧
      (match ((wPort ld.op).turnTo 3).flatPieces ld false 0x10000 64 none with
        | .ok (_, s) => s.reachable 0x80000 && !s.readFailed ld && (s.marksAt 0x80000 2).isEmpty
        | .error _ => false) = true ∧
      (match ((wPort am.op).turnTo 3).flatPieces am true 0x10008 8 none with
        | .ok (_, s) => !s.noAtomics 0x80008 && !s.dev.sys.under (dieOf 3) 0x80008 8 && (s.marksAt 0x80008 8).isEmpty
        | .error _ => false) = true :=
  ⟨by decide +kernel, one_range (by decide +kernel), one_range (by decide +kernel), one_range (by decide +kernel), by decide, rfl,
    fun _ => rfl, by decide +kernel, by decide +kernel⟩

theorem witness_gather_free : (wGather.coreAt 3).gatherHeld wJob = false ∧ wGather.dev.sys.under (dieOf 3) 0x40000 4096 = false := by
  decide +kernel

/-- Core 3 with a command in its port and its block at 0x40 of the vault. -/
def wCommand (k : CmdKind) (m : Memory) (b : BitVec 512) : State :=
  beside { wGlobalCore with ctl := { wGlobalCore.ctl with size := 1, base := 3 }, vault := m, port := [wWord (.cmd k 0x40 b)] } wTaskDev

/-- Its block is looked into, and completes at once. -/
theorem wCommand_ready (k : CmdKind) (m : Memory) (b : BitVec 512) (h : ((wCommand k m b).turnTo 3).cmdReady (wWord (.cmd k 0x40 b)) = true) :
    readyCommand (wCommand k m b) 3 0 ((wCommand k m b).coreAt 3) (wWord (.cmd k 0x40 b)) k 0x40 b :=
  ⟨by decide, rfl, rfl, rfl, fun f hf _ => List.mem_singleton.mp hf, rfl, rfl, rfl, rfl, rfl, rfl, rfl, rfl, rfl, rfl, rfl, rfl,
    fun _ => rfl, h⟩

/-- Blocks of copies up to the end of a page: within the vault, from memory, and into it. -/
def wCopy (src dst flags : Nat) : BitVec 512 := BitVec.ofNat 512 (leNat (fieldBytes [(8, src), (8, dst), (4, 64), (1, flags)]))

theorem witness_copies :
    let v := wCommand .cpy [] (wCopy 0x1FFC0 0x400 3)
    let r := wCommand .cpy [] (wCopy 0x1FFC0 0x400 2)
    let w := wCommand .cpy [] (wCopy 0x400 0x1FFC0 1)
    (v.turnTo 3).cmdReady (wWord (.cmd .cpy 0x40 (wCopy 0x1FFC0 0x400 3))) = true ∧
      (r.turnTo 3).cmdReady (wWord (.cmd .cpy 0x40 (wCopy 0x1FFC0 0x400 2))) = true ∧
      (w.turnTo 3).cmdReady (wWord (.cmd .cpy 0x40 (wCopy 0x400 0x1FFC0 1))) = true ∧
      cpyBlock (wCopy 0x1FFC0 0x400 3) = ⟨0x1FFC0, 0x400, 64, true, true, false⟩ ∧
      cpyBlock (wCopy 0x1FFC0 0x400 2) = ⟨0x1FFC0, 0x400, 64, false, true, false⟩ ∧
      cpyBlock (wCopy 0x400 0x1FFC0 1) = ⟨0x400, 0x1FFC0, 64, true, false, false⟩ ∧ 0x1FFC0 % 65536 + 64 ≤ 65536 ∧
      (v.turnTo 3).enginePoisoned 3 1 0x1FFC0 64 = false ∧ (w.turnTo 3).enginePoisoned 3 1 0x400 64 = false ∧
      (∃ bs s', (r.turnTo 3).engineBytes (wWord (.cmd .cpy 0x40 (wCopy 0x1FFC0 0x400 2))) (0x1FFC0 % 2 ^ 57) 64 = .ok (bs, s')) ∧
      (∃ s', (w.turnTo 3).enginePieces (wWord (.cmd .cpy 0x40 (wCopy 0x400 0x1FFC0 1))) true (0x1FFC0 % 2 ^ 57) 64 =
        .ok ([(0x8FFC0, 64)], s')) :=
  ⟨by decide +kernel, by decide +kernel, by decide +kernel, by rfl, by rfl, by rfl, by decide, by decide +kernel, by decide +kernel,
    succeeds (by decide +kernel), one_range (by decide +kernel)⟩

/-- An output, with the flags of its arithmetic, that stands beside its status word. -/
theorem witness_command_output :
    let e : GEntry := { wWord (.cmd .asn 0x40 0) with finished := some ⟨1, 5, [(0x400, [1, 2])], 1⟩ }
    let s := beside { wGlobalCore with port := [e] } wTaskDev
    (s.coreAt 3).port[0]? = some e ∧ wideScope e.scope = false ∧ e.acquire = false ∧ e.task = (s.coreAt 3).ctl.task ∧
      (s.coreAt 3).retained = [] ∧ (∀ j, (s.turnTo 3).savedBank 3 e.task j = none) ∧ CmdKind.asn ≠ .launch ∧ 0x40 + 64 ≤ 0x400 := by
  refine ⟨rfl, by decide +kernel, rfl, rfl, rfl, fun _ => rfl, by decide, by decide⟩

/-- An assignment of one row to two columns. -/
def wAuction : BitVec 512 :=
  BitVec.ofNat 512 (leNat (fieldBytes [(4, 0x10000), (4, 0x8000), (4, 0x8080), (4, 0x20000), (2, 1), (1, 2), (1, 1), (4, 0x3F800000), (4, 0), (4, 10)]))

theorem witness_assignment :
    let s := wCommand .asn [] wAuction
    let e := wWord (.cmd .asn 0x40 wAuction)
    (s.turnTo 3).cmdReady e = true ∧ (∃ tile, (s.turnTo 3).engineVault e (blkField wAuction 0 4) (256 * blkField wAuction 16 2) = .ok tile) ∧
      (∃ caps, (s.turnTo 3).engineVault e (blkField wAuction 4 4) 128 = .ok caps) ∧
      blkField wAuction 8 4 + 2 * 64 ≤ blkField wAuction 12 4 ∧ 0x40 + 64 ≤ blkField wAuction 8 4 := by
  refine ⟨by decide +kernel, ⟨_, rfl⟩, ⟨_, rfl⟩, by decide +kernel, by decide +kernel⟩

/-- The second of two COLL words of a tag within a cluster, each with one number, and a BLEND. -/
def wSum : BitVec 512 :=
  BitVec.ofNat 512 (leNat (fieldBytes [(4, 9), (2, 2), (2, 1), (1, 0), (3, 0), (4, 0x8000), (4, 0x9000), (4, 1)]))

theorem witness_merges :
    let e := wWord (.cmd .coll 0x40 wSum)
    let x : Contribution := ⟨2, 77, collSig wSum, 0, [0, 0, 128, 63]⟩
    let s0 := wCommand .coll [] wSum
    let u : Collective := ⟨0, (s0.turnTo 3).domainOf e, 9, collSig wSum, [x], [], []⟩
    let s : State := { s0 with dev := { s0.dev with fabric := { s0.dev.fabric with colls := [u] } } }
    (s.turnTo 3).cmdReady e = true ∧ e.collSig? = some (collSig wSum) ∧ (collSig wSum).p = 2 ∧ s.dev.fabric.colls = [u] ∧
      u.domain = (s.turnTo 3).domainOf e ∧ isSystem u.domain = false ∧ u.tag = e.tag ∧ x.key ≠ e.key ∧ s.dev.fabric.late = [] ∧ blkField wSum 6 2 = 1 ∧
      (collSig wSum).op ≠ 5 ∧ (∀ j ∈ s.dev.sched.tasks, j.ended = []) ∧ (∃ y, (s.turnTo 3).payload e (collSig wSum) = .ok y) := by
  refine ⟨by decide +kernel, by decide +kernel, by decide +kernel, rfl, by decide +kernel, by decide +kernel, by decide +kernel,
    by decide +kernel, rfl, by decide +kernel, by decide +kernel, by decide +kernel, ⟨_, rfl⟩⟩

/-- A page of a KV tensor that sequences may append to, empty, which the entry at VA 0x10000 names. -/
def wAppend : BitVec 512 := BitVec.ofNat 512 (leNat (fieldBytes [(8, 0x10000), (1, 0), (3, 0), (4, 0x8000), (4, 0x8200)]))
/-- The machine with a KAPP to it. -/
def wKapp : State :=
  let s := wCommand .kapp [] wAppend
  { s with dev := { s.dev with sys := { s.dev.sys with
      mem := (wKvMem.setNum 0x90000 8 0x5000000000100023).setNum 0x80000 8 0x100000000, asids := [(1, some ⟨0x10000, 0x20000, 2⟩)] } } }
/-- Its page. -/
def wKappPage : TileEntry := ⟨0x90000, 0x5000000000100023, ⟨0x90000, 1, 0xA0000, true⟩⟩

theorem witness_append :
    let e := wWord (.cmd .kapp 0x40 wAppend)
    let x := wKappPage
    (wKapp.turnTo 3).cmdReady e = true ∧ x.dir.kv = true ∧ bitOf x.bits 5 = true ∧ x.here = true ∧ x.poisoned = false ∧
      (wKapp.turnTo 3).dev.sys.lag.get false (dieOf 3) = false ∧ homeDie x.addr = some (dieOf 3) ∧
      homeDie (x.dir.side x.tile) = some (dieOf 3) ∧ homeDie (x.dir.side x.tile + 8) = some (dieOf 3) ∧ (wKapp.evq 5).en = false ∧
      x.at_ + 8 ≤ x.addr ∧ x.at_ + 8 ≤ x.dir.side x.tile ∧ x.dir.side x.tile + 512 ≤ x.addr ∧
      (∃ ks, (wKapp.turnTo 3).engineVault e (blkField wAppend 12 4) 512 = .ok ks) ∧
      (match (wKapp.turnTo 3).engineNum e (blkField wAppend 0 8) 8 with
        | .ok (spte, s) => (match s.lookup e.asid (fieldOf spte 55 32) (spte % 2 ^ 32) with
          | .ok y => y == x && (s.readPage y).cnt == blkField wAppend 8 1 && decide ((s.readPage y).ref ≤ 1) && s.dev.sys.wbuf.isEmpty && s.dev.sys.hostq.isEmpty &&
              ((s.readPage y).append (blkField wAppend 8 1) (List.replicate 128 0) (List.replicate 128 0)).isSome
          | .error _ => false)
        | .error _ => false) = true := by
  refine ⟨by decide +kernel, by decide +kernel, by decide +kernel, by decide +kernel, by decide +kernel, by decide +kernel,
    by decide +kernel, by decide +kernel, by decide +kernel, rfl, by decide +kernel, by decide +kernel, by decide +kernel,
    ⟨_, rfl⟩, by decide +kernel⟩

/-- A queue whose group has chunks left, with its kernel loaded. -/
theorem witness_start_chunk :
    let g := { wGroup with remaining := 4 }
    let s := beside Core.blank { wDev with code := ⟨[wObj], 2, 0⟩, sched := { wDev.sched with groups := [g], queued := [(5, 0)] } }
    s.dev.sched.turned.get 0 0 ≠ s.cycle + 1 ∧ s.served 0 = none ∧ (match s.pick 0 with
      | some (0, 5, .chunk h b) => h == g && b < 512
      | _ => false) = true ∧ s.group? g.id = some g ∧ g.remaining ≠ 0 ∧ s.dev.code.find g.object = some wObj ∧
      wObj.kernels[g.kernel]? = some wKernel := by
  decide +kernel

/-- A group that is done with a place for its value. -/
theorem witness_done_value :
    let g := { wGroup with done := 0x10000, dval := 7 }
    let s := wSched Core.blank { wTask with state := .ended }
    g.done ≠ 0 ∧ (∃ s', s.range g.asid.toNat true g.done 8 = .ok ([(0x80000, 8)], s')) ∧ isPeer 0x80000 = false ∧
      (match s.range g.asid.toNat true g.done 8 with
        | .ok (_, s) => (s.marksAt 0x80000 8).isEmpty
        | .error _ => false) = true := by
  refine ⟨by decide, one_range (by decide +kernel), by decide, by decide +kernel⟩

/-- A tile that a DECANT may read, and one whose entry a write is on its way to. -/
theorem witness_tile_in_use :
    let s := beside { wGlobalCore with port := [wWord (.cmd .decant 0x40 0)] } wTaskDev
    let m := wGlobal.sys fun m => { m with wbuf := [{ die := 0, addr := 0x3000000000, data := [1], also := [(0x30000, [1])] }] }
    s.lookup 1 0 0 = .ok (wTileEntry 0 0x5000000000040003) ∧ s.tileInUse (wTileEntry 0 0x5000000000040003).at_ = true ∧
      m.lookup 1 0 0 = .ok (wTileEntry 0 0x5000000000040003) ∧ m.dev.sys.moving (wTileEntry 0 0x5000000000040003).at_ = true := by
  decide +kernel

/-- Buffered writes without reference counts, no tile on its way to a new place, and no host write waiting. -/
theorem witness_plain_writes :
    (∀ w ∈ [({ die := 0, addr := 0x3000000000, data := [1, 2] } : WEntry),
        { die := 0, addr := 0x3000000000, data := [1, 2], tiles := [{ entry := 0x30000, summary := 0, whole := false }] }],
      w.refs = [] ∧ w.place = none) ∧ wGlobal.dev.sys.hostq = [] ∧ wGlobal.dev.sys.lag.get false 4 = false := by decide +kernel

/-- A host's URL within its window, and a lane of a Phoulaip link. -/
theorem witness_boot_url :
    (wBoot 2 true false).dev.trust.inStep 2 = true ∧ (wBoot 2 true false).dev.trust.urlWindow = true ∧ serdesBase - 1 < serdesBase ∧
      urlOk (ascii "http://h/" ++ List.replicate 54 0x61) = true ∧ urlOk (ascii "http://h/" ++ List.replicate 55 0x61) = false := by
  decide +kernel

/-- A busy integer unit, and a full port of a dispatch core. -/
theorem witness_busy :
    let s := working { atWork with qs := { Queues.entry with ibFree := 1001 } }
    let f := wGlobal.mod fun c => { c with port := List.replicate 31 (wWord (.icinv 0 64)), qs := { c.qs with gathers := [wJob] } }
    intGuard (.add 0 1 0 3 0x26) = some (0x26, 1) ∧ s.cycle < s.core.intFree 1 ∧ plainGuard (.fence 0) = some 0 ∧
      slotOf (.fence 0) = some 10 ∧ plainGuard (.launch 0 0 0 0 0 0 0) = some 0 ∧ slotOf (.launch 0 0 0 0 0 0 0) = some 10 ∧
      f.core.guardP 0 = true ∧ 32 ≤ f.core.port.length + f.core.qs.gathers.length ∧ f.dispatches f.cur = true := by decide +kernel

/-- Two words in one bundle. -/
theorem witness_pairs : ((pairWords [clearRow 0, clearRow 1]).map List.length) = [2] ∧ ((pairWords [clearRow 0, clearRow 0]).map List.length) = [1, 1] := by
  decide +kernel

/-- Around the products of Abette's literal form a flush stays only where the scale words are there, stores go through b1, and one word
stays of a slot (R320). -/
theorem test_literal_words :
    literalBundle 127 [(7, encodeNat (.mflush 0 1 1 0 0 4 0 0 0))] = (127, []) ∧
    literalBundle 128 [(7, encodeNat (.mflush 0 1 1 0 0 4 0 0 0)), (7, encodeNat (.mdrain 0))] = (0, [.mflush 0 1 1 0 0 4 0 0 0]) ∧
    literalBundle 0 [(8, encodeNat (.vst 0 0 2 0 0)), (8, encodeNat (.vst 0 0 1 0 0)), (1, 0)] = (0, [.vst 0 0 1 0 0]) := by
  decide +kernel

/-! ### Waits before checks, and reads that fail -/

/-- A core with a TLDX of its task under way into its vault at an offset. -/
def wBringing (dst : Nat) : State := working { atWork with port := [wWord (.tldx 0x10000 none 64 dst)] }

/-- Bytes of the own vault that a TLDX is to bring, others, and those of another member; an atomic reads them and a store does not. -/
theorem witness_own_bring :
    let ca := w0.core.ctl.member * vaultSize + 0x40
    (wBringing 0x40).ownBring ca 8 ≠ .ok () ∧ (wBringing 0x80).ownBring ca 8 = .ok () ∧ w0.ownBring ca 8 = .ok () ∧
      (wBringing 0x40).ownBring (ca + vaultSize) 8 = .ok () ∧ (CKind.amo 0 8 0 0 0).reads = true ∧ (CKind.st [1]).reads = false ∧
      (wBringing 0x40).core.guardP 0 = true := by decide +kernel

/-- A command whose ring waits for nothing, one whose block is out of place, one whose fields are ill, and a counter outside the gang. -/
theorem witness_command_traps :
    hasRoom wEngine.core ∧ wEngine.core.acquirePending wEngine.core.bundles = false ∧
      (∀ k < 10, wEngine.core.mine.any (·.landsIn (64 * k) 64) = false ∧ wEngine.core.pendingIn (64 * k) 64 = false) ∧
      wEngine.core.commandRing .cpy (wBlock 0) = .ok () ∧ wEngine.core.commandRing .decant (wBlock 9) = .ok () ∧
      wEngine.checkLocal 0x44 64 64 = .error (.trap .valign) ∧ wEngine.checkLocal vaultSize 64 64 = .error (.trap .vrange) ∧
      checkKapp (BitVec.allOnes 512) = .error (.trap .eparm) ∧ wEngine.core.ctl.size ≤ (15#4).toNat ∧
      (let s : State := { w0 with cur := 2 }
       hasRoom s.core ∧ s.core.acquirePending s.core.bundles = false ∧
        s.core.mine.any (·.landsIn (s.core.ea 0 (0x40#32).toNat) 64) = false ∧ s.core.pendingIn (s.core.ea 0 (0x40#32).toNat) 64 = false) := by
  unfold hasRoom; decide +kernel

/-- A tile that its own die's port still writes, and a slot that a word has filled. -/
theorem witness_buffered_tile :
    let w : WEntry := { die := 0, addr := 0x40000, data := [1], tiles := [{ entry := 0x30000, summary := 0, whole := false }] }
    let p := wPort (.tldRing 2 (wRef 0))
    let s := p.sys fun m => { m with wbuf := [w] }
    s.dev.sys.under (dieOf 3) 0x40000 4096 = true ∧ (∀ x ∈ s.dev.sys.wbuf, x.die = dieOf 3) ∧ s.dev.sys.hostq = [] ∧
      (s.turnTo 3).mayTransfer 0 (wWord (.tldRing 2 (wRef 0))) = true ∧
      (s.turnTo 3).reach (wRef 0) = .ok (wTileEntry 0 0x5000000000040003) ∧
      (∀ x ∈ (wStores (.tst (wRef 0) 5)).dev.sys.wbuf, x.sworn = true → x.die = dieOf 3) ∧
      (∀ x ∈ s.dev.sys.wbuf, x.sworn = false) := by decide +kernel

/-- A core on which a saved task may go on, and one that has failed. -/
theorem witness_usable :
    let t := { wTask with state := .restoring, contexts := [(3, atWork)] }
    (wSched Core.blank t).usable 3 = true ∧ (wSched { Core.blank with failed := true } t).usable 3 = false := by decide +kernel

/-- A read of firmware that fails, of a line behind a link or not, and a tile on a line whose read fails. -/
theorem witness_failing :
    behindLink (64 * (0x8000000000000 / 64)) = true ∧ behindLink (64 * 5) = false ∧ (wTiers.evq 0).en = false ∧
      wTiers.dev.sys.fails 0x40000 4096 = false ∧
      (wTiers.sys fun m => { m with failing := some (0x40FC0 / 64) }).dev.sys.fails 0x40000 4096 = true := by decide +kernel

/-- The port that the ROM has brought up with its link, and lost. -/
theorem witness_boot_port :
    (wBootPort 3).dev.trust.running = false ∧ (wBootPort 3).dev.trust.bootPort = some 11 ∧
      (wBootPort 3).dev.fabric.down.get false (2 ^ 16 + 11) = false ∧ (wBoot 3 false false).portUp = false := by decide +kernel

/-- An input and an output of a routine in the literal form. -/
theorem witness_literal_places : 65535 < 65536 ∧ 127 < (([true] : List Bool).map fun x => if x then 128 else 64).sum ∧ 65535 ∈ [65535] := by
  decide

end Sys2Proof.Tests
end

section
/-!
PROOFS. Integer triggers (R115 to R119): how one issues, once; and that each operation on numbers below 2^w is the operation on
bit vectors of width w.
-/
open Sys2Proof Sys2Proof.Machine Sys2Proof.Claims

namespace Sys2Proof.CoreProofs

/-! ### Numbers as bit vectors -/

/-- The two's-complement pattern of an integer is the bit vector that it makes. -/
theorem wrapTo_eq_toNat_ofInt (w : Nat) (v : Int) : wrapTo w v = (BitVec.ofInt w v).toNat :=
  (BitVec.toNat_ofInt v).symm

/-- The signed number of a bit vector's bits is its signed value. -/
theorem signedOf_toNat {w : Nat} (x : BitVec w) : signedOf w x.toNat = x.toInt := by
  simp only [signedOf, Nat.mod_eq_of_lt x.isLt, BitVec.toInt_eq_toNat_cond]

/-- A Bool as a number is the bit vector 1 or 0 of any width but 0. -/
theorem bit_eq_toNat_truth {w : Nat} (hw : 0 < w) (b : Bool) : bit b = (truth w b).toNat := by
  cases b
  · simp [bit, truth]
  · simp [bit, truth, Nat.mod_eq_of_lt (Nat.one_lt_two_pow hw.ne')]

/-- What an integer unit delivers, at either width (R117): the sign extension of the operation's bits. -/
theorem intResult_toNat_32 (x : BitVec 32) : intResult 1 x.toNat = (x.signExtend 64).toNat := by
  rw [intResult, if_pos rfl, wrapTo_eq_toNat_ofInt, signedOf_toNat]; rfl

theorem intResult_toNat_64 (x : BitVec 64) : intResult 0 x.toNat = x.toNat := by
  rw [intResult, if_neg (by decide), Nat.mod_eq_of_lt x.isLt]

/-! ### Integer triggers (R115 to R117) -/

/-- An operation on numbers below 2^w computes an operation on bit vectors, at every width. -/
def Computes (f : Nat → Nat → Nat → Nat → Nat) (op : ∀ w : Nat, BitVec w → BitVec w → BitVec w → BitVec w) : Prop :=
  ∀ w, 0 < w → ∀ a t b : BitVec w, f w a.toNat t.toNat b.toNat = (op w a t b).toNat

/-- The delivered number of such an operation is the one that the bit-vector operation delivers. -/
theorem Computes.intResult {f op} (h : Computes f op) (t : BitVec 1) (a x b : Nat) :
    intResult t (f (intWidth t) (a % 2 ^ intWidth t) (x % 2 ^ intWidth t) (b % 2 ^ intWidth t)) = intOut t op a x b := by
  have hn : ∀ w n : Nat, n % 2 ^ w = (BitVec.ofNat w n).toNat := fun w n => (BitVec.toNat_ofNat n w).symm
  rcases (by decide : ∀ t : BitVec 1, t = 0 ∨ t = 1) t with rfl | rfl
  · simp only [intWidth, intOut, if_neg (by decide : ¬(0 : BitVec 1) = 1), hn, h 64 (by decide), intResult_toNat_64]
  · simp only [intWidth, intOut, if_pos, hn, h 32 (by decide), intResult_toNat_32]

section
variable {m : BitVec 2} {u t : BitVec 1} {src : BitVec 9} {g : BitVec 6} {s s' : State} {x : Nat}

/-- An integer trigger whose guard holds, on a free unit with a readable source: its result is on its way, and a divide
holds its unit for 34 cycles (R116, R117, R119). -/
theorem execInt_of_free {lat divides f op} (h : Computes f op) (hg : s.core.guardP g = true)
    (hu : s.core.intFree u ≤ s.cycle) (hs : s.source src = .ok (x, s')) :
    execInt m u t src g lat divides f s =
      .next ((if divides then s'.mod (·.occupyInt u (s'.cycle + 34)) else s').result (1 + m.toNat) lat (.res (intUnit u))
        (intOut t op (s.core.ports.a (intUnit u)) x (s.core.ports.b (intUnit u))) (ones 64) 0) := by
  refine issue_ok ?_
  simp only [intTrigger, hg, hs, if_true, Nat.not_lt.mpr hu, decide_false, waitWhile_false, bind_ok, pure_ok, h.intResult]

end

/-- An integer word that computes an operation and takes its unit for no longer than its own cycle. -/
theorem integerWord_of_computes {i lat f op}
    (hi : ∀ m u t src g s, exec (i m u t src g) s = execInt m u t src g lat false f s) (h : Computes f op) :
    integerWord i lat op := fun m u t src g s s' x hg hu hs => by
  rw [hi, execInt_of_free h hg hu hs]; rfl

/-! ### The integer operations on numbers are those on bit vectors (R118) -/

section
variable {w : Nat} (a t b : BitVec w)

theorem wrapTo_add : wrapTo w (a.toNat + t.toNat : Int) = (a + t).toNat := by
  rw [wrapTo_eq_toNat_ofInt, BitVec.ofInt_add, BitVec.ofInt_natCast, BitVec.ofInt_natCast, BitVec.ofNat_toNat,
    BitVec.ofNat_toNat, BitVec.setWidth_eq, BitVec.setWidth_eq]

theorem wrapTo_sub : wrapTo w ((a.toNat : Int) - t.toNat) = (a - t).toNat := by
  rw [wrapTo_eq_toNat_ofInt]
  congr 1
  apply BitVec.eq_of_toInt_eq
  rw [BitVec.toInt_ofInt, BitVec.toInt_sub]
  simp [BitVec.toInt_eq_toNat_bmod]

theorem wrapTo_mul : wrapTo w (signedOf w a.toNat * signedOf w t.toNat) = (a * t).toNat := by
  rw [wrapTo_eq_toNat_ofInt, signedOf_toNat, signedOf_toNat, BitVec.ofInt_mul, BitVec.ofInt_toInt, BitVec.ofInt_toInt]

theorem wrapTo_mulh : wrapTo w (signedOf w a.toNat * signedOf w t.toNat / (2 ^ w : Int)) =
    (BitVec.ofInt w (a.toInt * t.toInt / 2 ^ w)).toNat := by
  rw [wrapTo_eq_toNat_ofInt, signedOf_toNat, signedOf_toNat]

theorem toNat_mulhu : a.toNat * t.toNat / 2 ^ w = (BitVec.ofNat w (a.toNat * t.toNat / 2 ^ w)).toNat := by
  have h : a.toNat * t.toNat / 2 ^ w < 2 ^ w := Nat.div_lt_of_lt_mul (Nat.mul_lt_mul'' a.isLt t.isLt)
  rw [BitVec.toNat_ofNat, Nat.mod_eq_of_lt h]

theorem wrapTo_madd : wrapTo w (signedOf w a.toNat * signedOf w t.toNat + b.toNat) = (a * t + b).toNat := by
  rw [wrapTo_eq_toNat_ofInt, signedOf_toNat, signedOf_toNat, BitVec.ofInt_add, BitVec.ofInt_mul, BitVec.ofInt_toInt,
    BitVec.ofInt_toInt, BitVec.ofInt_natCast, BitVec.ofNat_toNat, BitVec.setWidth_eq]

theorem toNat_andn : a.toNat &&& (ones w ^^^ t.toNat) = (a &&& ~~~t).toNat := by
  rw [ones, ← BitVec.toNat_allOnes, ← BitVec.toNat_xor, BitVec.allOnes_xor, BitVec.toNat_and]

theorem toNat_shl : a.toNat * 2 ^ shiftCount w t.toNat % 2 ^ w = (a <<< countOf t).toNat := by
  rw [BitVec.toNat_shiftLeft, Nat.shiftLeft_eq]; rfl

theorem toNat_shr : a.toNat / 2 ^ shiftCount w t.toNat = (a >>> countOf t).toNat := by
  rw [BitVec.toNat_ushiftRight, Nat.shiftRight_eq_div_pow]; rfl

theorem wrapTo_sar : wrapTo w (signedOf w a.toNat / (2 ^ shiftCount w t.toNat : Int)) =
    (a.sshiftRight (countOf t)).toNat := by
  rw [wrapTo_eq_toNat_ofInt, signedOf_toNat, BitVec.sshiftRight, Int.shiftRight_eq_div_pow]
  simp [shiftCount, countOf]

theorem toNat_rotl (hw : 0 < w) :
    (a.toNat * 2 ^ shiftCount w t.toNat % 2 ^ w) ||| (a.toNat / 2 ^ (w - shiftCount w t.toNat)) =
      (a.rotateLeft (countOf t)).toNat := by
  have hk : countOf t < w := Nat.mod_lt _ hw
  rw [BitVec.rotateLeft_def, Nat.mod_eq_of_lt hk, BitVec.toNat_or, BitVec.toNat_shiftLeft, BitVec.toNat_ushiftRight,
    Nat.shiftLeft_eq, Nat.shiftRight_eq_div_pow]; rfl

/-- A choice by a signed compare, as MIN and MAX make it. -/
theorem toNat_signed_choice (x y : BitVec w) :
    (if signedOf w x.toNat < signedOf w y.toNat then t.toNat else a.toNat) = (if x.slt y then t else a).toNat := by
  simp only [signedOf_toNat, BitVec.slt, decide_eq_true_eq, apply_ite BitVec.toNat]

theorem toNat_minu : min a.toNat t.toNat = (if t.ult a then t else a).toNat := by
  rw [apply_ite BitVec.toNat, BitVec.ult]
  simp only [decide_eq_true_eq]
  split <;> omega

theorem toNat_maxu : max a.toNat t.toNat = (if a.ult t then t else a).toNat := by
  rw [apply_ite BitVec.toNat, BitVec.ult]
  simp only [decide_eq_true_eq]
  split <;> omega

theorem toNat_sel : (if t.toNat = 0 then b.toNat else a.toNat) = (if t = 0#w then b else a).toNat := by
  simp only [BitVec.toNat_eq (x := t), BitVec.toNat_ofNat, Nat.zero_mod, apply_ite BitVec.toNat]

theorem toNat_beq : (a.toNat == t.toNat) = (a == t) := by
  rw [Bool.eq_iff_iff, beq_iff_eq, beq_iff_eq, BitVec.toNat_inj]

theorem toNat_ceq (hw : 0 < w) : bit (a.toNat == t.toNat) = (truth w (a == t)).toNat := by
  rw [toNat_beq, bit_eq_toNat_truth hw]

theorem toNat_cne (hw : 0 < w) : bit (a.toNat != t.toNat) = (truth w (a != t)).toNat := by
  have h : (a.toNat != t.toNat) = (a != t) := congrArg (!·) (toNat_beq a t)
  rw [h, bit_eq_toNat_truth hw]

theorem toNat_clt (hw : 0 < w) : bit (signedOf w a.toNat < signedOf w t.toNat) = (truth w (a.slt t)).toNat := by
  rw [signedOf_toNat, signedOf_toNat, bit_eq_toNat_truth hw]; rfl

theorem toNat_cle (hw : 0 < w) : bit (signedOf w a.toNat ≤ signedOf w t.toNat) = (truth w (a.sle t)).toNat := by
  rw [signedOf_toNat, signedOf_toNat, bit_eq_toNat_truth hw]; rfl

/-- The leading zeros of a number below 2^w are the places above its highest 1 bit. -/
theorem leadingZeros_eq_sub_size (n : Nat) : leadingZeros w n = w - n.size := by
  by_cases h : n = 0
  · simp [leadingZeros, h]
  · have hs : n.size = Nat.log2 n + 1 :=
      le_antisymm (Nat.size_le.mpr Nat.lt_log2_self) (Nat.lt_size.mpr (Nat.log2_self_le h))
    rw [leadingZeros, if_neg h, hs, Nat.sub_sub, Nat.add_comm]

theorem toNat_clz : leadingZeros w t.toNat = (BitVec.ofNat w (w - t.toNat.size)).toNat := by
  have h : w - t.toNat.size < 2 ^ w := (Nat.sub_le _ _).trans_lt w.lt_two_pow_self
  rw [leadingZeros_eq_sub_size, BitVec.toNat_ofNat, Nat.mod_eq_of_lt h]

/-- A bit of a number is a bit of its bit vector. -/
theorem bitOf_eq_testBit (x i : Nat) : bitOf x i = x.testBit i := by
  rw [bitOf, Nat.testBit_eq_decide_div_mod_eq, beq_eq_decide]

theorem popCount_eq_countP : popCount w t.toNat = (List.range w).countP fun i => t.getLsbD i := by
  rw [popCount, ← List.countP_eq_length_filter]
  exact List.countP_congr fun i _ => by rw [bitOf_eq_testBit, BitVec.getLsbD]

theorem toNat_popc : popCount w t.toNat = (BitVec.ofNat w ((List.range w).countP fun i => t.getLsbD i)).toNat := by
  have h : (List.range w).countP (fun i => t.getLsbD i) < 2 ^ w :=
    (List.countP_le_length.trans_eq List.length_range).trans_lt w.lt_two_pow_self
  rw [popCount_eq_countP, BitVec.toNat_ofNat, Nat.mod_eq_of_lt h]

theorem fieldPos_eq (n : Nat) : fieldPos n = n % 64 := by simp [fieldPos, fieldOf]

theorem fieldLen_eq (n : Nat) : fieldLen n = min 64 (n / 64 % 128) := by simp [fieldLen, fieldOf]

theorem toNat_bfx : bfxOf w a.toNat t.toNat = (fieldOut w a t).toNat := by
  have h : a.toNat / 2 ^ (t.toNat % 64) % 2 ^ min 64 (t.toNat / 64 % 128) < 2 ^ w :=
    (Nat.mod_le _ _).trans_lt ((Nat.div_le_self _ _).trans_lt a.isLt)
  simp only [bfxOf, fieldOut, fieldPos_eq, fieldLen_eq, Bool.or_eq_true, decide_eq_true_eq, apply_ite BitVec.toNat,
    BitVec.toNat_ofNat, Nat.zero_mod, Nat.mod_eq_of_lt h]

/-- A bit of a field of ones: those from the field's place to its end. -/
theorem testBit_ones_shifted (len pos i : Nat) :
    (ones len * 2 ^ pos).testBit i = decide (pos ≤ i ∧ i < pos + len) := by
  rw [Nat.testBit_mul_two_pow, ones, Nat.testBit_two_pow_sub_one, Bool.eq_iff_iff]
  simp only [Bool.and_eq_true, decide_eq_true_eq]
  omega

/-- BFI bit by bit: within the field the bits of b, moved up, and elsewhere those of a. -/
theorem testBit_bfiOf {i : Nat} (hi : i < w) : (bfiOf w a.toNat t.toNat b.toNat).testBit i =
    if fieldPos t.toNat ≤ i ∧ i < fieldPos t.toNat + fieldLen t.toNat then b.getLsbD (i - fieldPos t.toNat)
    else a.getLsbD i := by
  by_cases h0 : fieldLen t.toNat = 0
  · have hn : ¬(fieldPos t.toNat ≤ i ∧ i < fieldPos t.toNat + fieldLen t.toNat) := by omega
    rw [bfiOf, if_pos h0, if_neg hn, BitVec.getLsbD]
  · have hones : (ones w).testBit i = true := by rw [ones, Nat.testBit_two_pow_sub_one, decide_eq_true hi]
    simp only [bfiOf, if_neg h0, Nat.testBit_or, Nat.testBit_and, Nat.testBit_xor, Nat.testBit_mod_two_pow,
      testBit_ones_shifted, hi, decide_true, Bool.true_and, BitVec.getLsbD, hones]
    split
    · next h => simp [h, Nat.testBit_mul_two_pow]
    · next h => simp [h]

theorem bfiOf_lt : bfiOf w a.toNat t.toNat b.toNat < 2 ^ w := by
  unfold bfiOf
  split
  · exact a.isLt
  · exact Nat.or_lt_two_pow (Nat.and_le_left.trans_lt a.isLt) (Nat.and_le_left.trans_lt (Nat.mod_lt _ (by positivity)))

theorem toNat_bfi : bfiOf w a.toNat t.toNat b.toNat = (BitVec.ofFnLE fun i : Fin w =>
    if t.toNat % 64 ≤ i.val ∧ i.val < t.toNat % 64 + min 64 (t.toNat / 64 % 128) then b.getLsbD (i.val - t.toNat % 64)
    else a.getLsbD i.val).toNat := by
  refine Nat.eq_of_testBit_eq fun i => ?_
  rw [BitVec.testBit_toNat, BitVec.getLsbD_ofFnLE]
  split
  · next hi => rw [testBit_bfiOf a t b hi, fieldPos_eq, fieldLen_eq]
  · next hi => exact Nat.testBit_lt_two_pow ((bfiOf_lt a t b).trans_le (Nat.pow_le_pow_right (by decide) (not_lt.mp hi)))

end

/-! Each arm of `exec` below is `execInt` of an operation on numbers, by definition. -/

theorem integerArithmetic_holds : integerArithmetic :=
  ⟨integerWord_of_computes (fun _ _ _ _ _ _ => rfl) fun _ _ a t _ => wrapTo_add a t,
   integerWord_of_computes (fun _ _ _ _ _ _ => rfl) fun _ _ a t _ => wrapTo_sub a t,
   integerWord_of_computes (fun _ _ _ _ _ _ => rfl) fun _ _ a t _ => wrapTo_mul a t,
   integerWord_of_computes (fun _ _ _ _ _ _ => rfl) fun _ _ a t _ => wrapTo_mulh a t,
   integerWord_of_computes (fun _ _ _ _ _ _ => rfl) fun _ _ a t _ => toNat_mulhu a t,
   integerWord_of_computes (fun _ _ _ _ _ _ => rfl) fun _ _ a t b => wrapTo_madd a t b⟩

theorem integerLogicAndShifts_holds : integerLogicAndShifts :=
  ⟨integerWord_of_computes (fun _ _ _ _ _ _ => rfl) fun _ _ a t _ => (BitVec.toNat_and a t).symm,
   integerWord_of_computes (fun _ _ _ _ _ _ => rfl) fun _ _ a t _ => (BitVec.toNat_or a t).symm,
   integerWord_of_computes (fun _ _ _ _ _ _ => rfl) fun _ _ a t _ => (BitVec.toNat_xor a t).symm,
   integerWord_of_computes (fun _ _ _ _ _ _ => rfl) fun _ _ a t _ => toNat_andn a t,
   integerWord_of_computes (fun _ _ _ _ _ _ => rfl) fun _ _ a t _ => toNat_shl a t,
   integerWord_of_computes (fun _ _ _ _ _ _ => rfl) fun _ _ a t _ => toNat_shr a t,
   integerWord_of_computes (fun _ _ _ _ _ _ => rfl) fun _ _ a t _ => wrapTo_sar a t,
   integerWord_of_computes (fun _ _ _ _ _ _ => rfl) fun _ hw a t _ => toNat_rotl a t hw⟩

theorem integerChoices_holds : integerChoices :=
  ⟨integerWord_of_computes (fun _ _ _ _ _ _ => rfl) fun _ _ a t _ => toNat_signed_choice a t t a,
   integerWord_of_computes (fun _ _ _ _ _ _ => rfl) fun _ _ a t _ => toNat_signed_choice a t a t,
   integerWord_of_computes (fun _ _ _ _ _ _ => rfl) fun _ _ a t _ => toNat_minu a t,
   integerWord_of_computes (fun _ _ _ _ _ _ => rfl) fun _ _ a t _ => toNat_maxu a t,
   integerWord_of_computes (fun _ _ _ _ _ _ => rfl) fun _ _ a t b => toNat_sel a t b,
   integerWord_of_computes (fun _ _ _ _ _ _ => rfl) fun _ hw a t _ => toNat_ceq a t hw,
   integerWord_of_computes (fun _ _ _ _ _ _ => rfl) fun _ hw a t _ => toNat_cne a t hw,
   integerWord_of_computes (fun _ _ _ _ _ _ => rfl) fun _ hw a t _ => toNat_clt a t hw,
   integerWord_of_computes (fun _ _ _ _ _ _ => rfl) fun _ hw a t _ => toNat_cle a t hw,
   integerWord_of_computes (fun _ _ _ _ _ _ => rfl) fun _ hw a t _ => bit_eq_toNat_truth hw (a.ult t),
   integerWord_of_computes (fun _ _ _ _ _ _ => rfl) fun _ hw a t _ => bit_eq_toNat_truth hw (a.ule t)⟩

theorem integerCountsAndFields_holds : integerCountsAndFields :=
  ⟨integerWord_of_computes (fun _ _ _ _ _ _ => rfl) fun _ _ _ t _ => toNat_clz t,
   integerWord_of_computes (fun _ _ _ _ _ _ => rfl) fun _ _ _ t _ => toNat_popc t,
   integerWord_of_computes (fun _ _ _ _ _ _ => rfl) fun _ _ a t _ => toNat_bfx a t,
   integerWord_of_computes (fun _ _ _ _ _ _ => rfl) fun _ _ a t b => toNat_bfi a t b⟩

/-- Settles O1: an integer trigger delivers its operation (`execInt_of_free`), and each operation on numbers is the one on bit
vectors. -/
theorem integerResults : Obligations.IntegerResults :=
  ⟨integerArithmetic_holds, integerLogicAndShifts_holds, integerChoices_holds, integerCountsAndFields_holds⟩

/-! ### Division (R118, R119) -/

theorem toNat_divu {w : Nat} (a t : BitVec w) :
    divuOf w a.toNat t.toNat = (if t = 0#w then BitVec.allOnes w else a / t).toNat := by
  simp only [divuOf, BitVec.toNat_eq (x := t), BitVec.toNat_ofNat, Nat.zero_mod, apply_ite BitVec.toNat,
    BitVec.toNat_allOnes, BitVec.toNat_udiv]

theorem toNat_remu {w : Nat} (a t : BitVec w) :
    remuOf a.toNat t.toNat = (if t = 0#w then a else a % t).toNat := by
  simp only [remuOf, BitVec.toNat_eq (x := t), BitVec.toNat_ofNat, Nat.zero_mod, apply_ite BitVec.toNat,
    BitVec.toNat_umod]

@[simp] theorem intFree_result (s : State) (u : BitVec 1) (slot lat : Nat) (d : Dest) (x m fl : Nat) (e : Option TrapInfo) :
    (s.result slot lat d x m fl e).core.intFree u = s.core.intFree u := rfl

@[simp] theorem intFree_occupyInt (c : Core) (u : BitVec 1) (till : Nat) : (c.occupyInt u till).intFree u = till := by
  rcases (by decide : ∀ u : BitVec 1, u = 0 ∨ u = 1) u with rfl | rfl <;> rfl
@[simp] theorem occupyInt_vault (c : Core) (u : BitVec 1) (till : Nat) : (c.occupyInt u till).vault = c.vault := by
  unfold Core.occupyInt; split <;> rfl
@[simp] theorem occupyInt_regs (c : Core) (u : BitVec 1) (till : Nat) : (c.occupyInt u till).regs = c.regs := by
  unfold Core.occupyInt; split <;> rfl
@[simp] theorem occupyInt_bundles (c : Core) (u : BitVec 1) (till : Nat) : (c.occupyInt u till).bundles = c.bundles := by
  unfold Core.occupyInt; split <;> rfl
@[simp] theorem occupyInt_flight (c : Core) (u : BitVec 1) (till : Nat) :
    (c.occupyInt u till).qs.flight = c.qs.flight := by
  unfold Core.occupyInt; split <;> rfl

/-- What a divide leaves (R119): the result on its way, its unit held as long, and the rest as reading the source left it. -/
theorem execInt_of_divides {m : BitVec 2} {u t : BitVec 1} {src : BitVec 9} {g : BitVec 6} {s s' : State} {x : Nat}
    {f op} (h : Computes f op) (hg : s.core.guardP g = true) (hu : s.core.intFree u ≤ s.cycle)
    (hs : s.source src = .ok (x, s')) :
    ∃ r, execInt m u t src g 34 true f s = .next r ∧ r.core.intFree u = s'.cycle + 34 ∧ r.core.vault = s'.core.vault ∧
      r.core.regs = s'.core.regs ∧ r.dev = s'.dev ∧ r.others = s'.others ∧
      r.core.qs.flight = insertDelivery ⟨s'.cycle + 34, s'.core.orderOf (1 + m.toNat), .res (intUnit u),
        intOut t op (s.core.ports.a (intUnit u)) x (s.core.ports.b (intUnit u)), ones 64, 0, none⟩ s'.core.qs.flight := by
  refine ⟨_, execInt_of_free h hg hu hs, ?_⟩
  simp [Core.orderOf]

/-- Settles O2: both divides issue as every integer trigger does, and hold their unit. -/
theorem integerDivision : Obligations.IntegerDivision := fun _ _ _ _ _ _ _ _ hg hu hs =>
  ⟨execInt_of_divides (fun _ _ a t _ => toNat_divu a t) hg hu hs,
   execInt_of_divides (fun _ _ a t _ => toNat_remu a t) hg hu hs⟩

end Sys2Proof.CoreProofs
end

section
/-!
PROOFS. Words of the spec's tables, read by the decoder.
-/
open Sys2Proof Sys2Proof.Machine Sys2Proof.Claims

namespace Sys2Proof.CoreProofs

/-- Settles O50: the decoder evaluated on each word. -/
theorem decodeSampleWords : Obligations.DecodeSampleWords := by
  unfold Obligations.DecodeSampleWords
  decide

end Sys2Proof.CoreProofs
end

section
/-!
PROOFS. Control registers and the wait for events (R22, R108, R109).
-/
open Sys2Proof Sys2Proof.Machine Sys2Proof.Claims

namespace Sys2Proof.CoreProofs

/-! ### Control registers (R22, R58, R108) -/

/-- The value of a ccr register is the one that R22's table gives. -/
theorem ccr_eq_ccrValue (s : State) (n : Nat) : s.ccr n = ccrValue s n := by
  rcases n with _ | _ | _ | _ | _ | _ | _ | _ | _ | n <;>
    simp only [State.ccr, ccrValue, bit, decide_eq_true_eq, mul_ite, mul_one, mul_zero, Nat.mul_comm, Nat.reducePow]

theorem controlRegisters_holds : controlRegisters := by
  intro r n s
  refine ⟨?_, fun x hx => ?_⟩
  · rw [← ccr_eq_ccrValue]
    rfl
  · show execCcrw r n s = _
    refine issue_ok ?_
    simp only [hx, bind_ok, pure_ok, Core.flagsOf]
    split <;> rfl

/-! ### The wait for events (R77, R109) -/

/-- No handle of a mask is unbound. -/
theorem and_not_eq_zero_iff {w : Nat} (r b : BitVec w) :
    r &&& ~~~b = 0 ↔ ∀ i < w, r.getLsbD i = true → b.getLsbD i = true := by
  constructor
  · intro h i hi hr
    have hb : (r &&& ~~~b).getLsbD i = false := by rw [h]; exact BitVec.getLsbD_zero
    simpa [hi, hr] using hb
  · intro h
    refine BitVec.eq_of_getLsbD_eq fun i hi => ?_
    cases hr : r.getLsbD i
    · simp [hr]
    · simp [hr, hi, h i hi hr]

/-- A stall of `n` cycles is over: it is none, or `n` cycles have passed since the bundle's first attempt. -/
theorem holdFor_over {s : State} {n : Nat} {e : PerfEvent}
    (h : n = 0 ∧ s.core.waiting = none ∨ ∃ w, s.core.waiting = some w ∧ w.since + n ≤ s.cycle) : s.holdFor n e = .ok () := by
  rcases h with ⟨rfl, hw⟩ | ⟨w, hw, hn⟩
  · rw [State.holdFor, hw]; rfl
  · rw [State.holdFor, hw]; exact if_pos hn

/-- A stall begins at the bundle's first attempt. -/
theorem holdFor_first {s : State} {n : Nat} {e : PerfEvent} (hn : n ≠ 0) (hw : s.core.waiting = none) :
    s.holdFor n e = .error (.hold e none) := by
  rw [State.holdFor, hw]; exact if_neg hn

/-- Issuing a word asks of its act only what it does in this state. -/
theorem issue_congr {n : Nat} {act act' : State → Except Stop State} {s : State} (h : act s = act' s) :
    issue n act s = issue n act' s := by
  unfold issue; rw [h]

/-- A word that begins such a stall leaves a stalled core that counts from this cycle (R109). -/
theorem issue_hold_first {n : Nat} {act : State → Except Stop State} {s : State} {e : PerfEvent} {l : Option (BitVec 512)}
    (h : act s = .error (.hold e l)) (hw : s.core.waiting = none) :
    issue n act s = .next (s.mod fun c => { c with stall := some e, waiting := some { since := s.cycle, line := l } }) := by
  simp only [issue, h, State.mod, Core.keepWaiting, hw]

/-- The events that a WAITE of the handles `r` finds: those with a filled slot, and a request to pre-empt (R109). -/
def eventsFound (r : BitVec 8) (e : BitVec 1) (s : State) : Nat :=
  (r &&& s.core.ctx.filled0).toNat + (if e = 1 && s.core.ctl.preempt then 256 else 0)

theorem eventsFound_lt (r : BitVec 8) (e : BitVec 1) (s : State) : eventsFound r e s < 2 ^ 64 := by
  have h := (r &&& s.core.ctx.filled0).isLt
  unfold eventsFound
  split <;> omega

/-- What a WAITE does once its handles are known to be bound. -/
def waitAndSend (r : BitVec 8) (e : BitVec 1) (d : BitVec 5) (lim : Word64) (s : State) : Except Stop State := do
  if eventsFound r e s = 0 then s.holdFor (min (lim.toNat % 2 ^ 32) 65536) .stallring
  return s.writeG (s.core.gKey d.toNat) (eventsFound r e s)

section
variable {r : BitVec 8} {e : BitVec 1} {d t : BitVec 5} {s : State} {lim : Word64}

theorem execWaite_of_bound (hl : s.core.readG t.toNat = .ok lim) (hb : r &&& ~~~s.core.ctx.bound0 = 0) :
    exec (.waite r e d t) s = issue 0 (waitAndSend r e d lim) s := by
  show execWaite r e d t s = _
  refine issue_congr ?_
  simp only [hl, hb, bind_ok, beq_self_eq_true, need_true]
  rfl

theorem execWaite_of_unbound (hl : s.core.readG t.toNat = .ok lim) (hb : r &&& ~~~s.core.ctx.bound0 ≠ 0) :
    exec (.waite r e d t) s = .next (takeTrap { cause := .illop, slot := 0 } s.cycle s) := by
  show execWaite r e d t s = _
  refine issue_trap ?_
  simp only [hl, bind_ok, beq_eq_false_iff_ne.mpr hb, need_false, bind_error]

theorem waitAndSend_of_found (h : eventsFound r e s ≠ 0) :
    waitAndSend r e d lim s = .ok (s.result 0 1 (.g (s.core.gKey d.toNat)) (eventsFound r e s) (ones 64) 0) := by
  simp only [waitAndSend, if_neg h, pure_ok, State.writeG, Nat.mod_eq_of_lt (eventsFound_lt r e s)]

theorem waitAndSend_of_none (h : eventsFound r e s = 0) :
    waitAndSend r e d lim s = (s.holdFor (min (lim.toNat % 2 ^ 32) 65536) .stallring >>= fun _ =>
      .ok (s.result 0 1 (.g (s.core.gKey d.toNat)) 0 (ones 64) 0)) := by
  simp only [waitAndSend, h, if_true, pure_ok, State.writeG, Nat.zero_mod]

end

theorem eventWait_holds : eventWait := by
  intro r e d t s lim hl
  refine ⟨fun hb hit hh => ?_, fun ⟨i, hi, hr, hb⟩ => ?_⟩
  · have hx : hit = eventsFound r e s := by simpa [eventsFound] using hh
    rw [execWaite_of_bound hl ((and_not_eq_zero_iff r s.core.ctx.bound0).mpr hb), hx]
    refine ⟨fun h => issue_ok (waitAndSend_of_found h), fun h => ⟨fun hw => ?_, fun hn hw => ?_⟩⟩
    · refine issue_ok ?_
      rw [waitAndSend_of_none h, holdFor_over hw, bind_ok]
    · refine issue_hold_first ?_ hw
      rw [waitAndSend_of_none h, holdFor_first hn hw, bind_error]
  · refine execWaite_of_unbound hl fun h => ?_
    exact absurd ((and_not_eq_zero_iff _ _).mp h i hi hr) (by simp [hb])

/-- Settles O28: the registers one by one, and WAITE by the events it finds. -/
theorem controlRegisters : Obligations.ControlRegisters := ⟨controlRegisters_holds, eventWait_holds⟩

end Sys2Proof.CoreProofs
end

section
/-!
PROOFS. Deliveries (R16, R115): what is due on one core lands there, and nothing else changes.
-/
open Sys2Proof Sys2Proof.Machine Sys2Proof.Claims

namespace Sys2Proof.CoreProofs

/-! ### Steps that change one core -/

/-- A core is changed alone. -/
theorem onlyCore_on_mod (s : State) (n : Nat) (f : Core → Core) : onlyCore s (s.on n (·.mod f)) n (f (s.coreAt n)) := by
  obtain ⟨hcores, hdev, hcycle⟩ := on_mod s n f
  refine ⟨by rw [hcores, if_pos rfl], fun k hk => by rw [hcores, if_neg hk], hdev, hcycle, on_cur s n _, ?_⟩
  simp [State.on]

/-- A delivery step on a core that is not frozen changes that core by what is due now, and nothing else. -/
theorem onCore_of_delivers {n : Nat} {s : State} {c : Core} (hn : n < 512) (hc : c = s.coreAt n) (hd : c.delivers = true)
    (f : Nat → Core → Core) :
    ∃ t, onCore n (fun s => if s.core.delivers then s.mod (f s.cycle) else s) s = .next t ∧
      onlyCore s t n (f s.cycle c) := by
  subst hc
  refine ⟨s.on n (·.mod (f s.cycle)), ?_, onlyCore_on_mod s n _⟩
  rw [onCore_of_lt _ _ hn]
  simp [State.on, hd]

/-! ### Values put at their destinations -/

/-- A write under the mask of a whole register replaces what it holds. -/
theorem overlay_ones {w : Nat} (old : BitVec w) (x : Nat) : overlay old (ones w) x = BitVec.ofNat w x := by
  have h : BitVec.ofNat w (ones w) = BitVec.allOnes w := BitVec.eq_of_toNat_eq (by simp [ones])
  rw [overlay, h, BitVec.not_allOnes, BitVec.and_zero, BitVec.zero_or, BitVec.and_allOnes]

theorem put_g (c : Core) (k x : Nat) :
    c.put (.g k) (ones 64) x =
      if k = 0 then c else { c with regs := { c.regs with g := c.regs.g.set 0 k (BitVec.ofNat 64 x) } } := by
  rw [Core.put, overlay_ones]; rfl

theorem put_res_ia (c : Core) (x : Nat) :
    c.put (.res .ia) (ones 64) x = { c with ports := { c.ports with iaR := BitVec.ofNat 64 x } } := by
  rw [Core.put, Core.setPorts, Ports.setR, overlay_ones]

/-! ### What is due lands (R16, R115) -/

/-- Deliveries that are all due land in the order in which they stand. -/
theorem deliver_of_due {c : Core} {t : Nat} {l : List Delivery} (hf : c.qs.flight = l) (h : ∀ d ∈ l, d.due ≤ t) :
    c.deliver t = Core.landAll t { c with qs := { c.qs with flight := [] } } l := by
  have hall : (l.filter fun d => decide (d.due ≤ t) && true) = l :=
    List.filter_eq_self.mpr fun d hd => by simp [h d hd]
  have hnone : (l.filter fun d => !(decide (d.due ≤ t) && true)) = [] :=
    List.filter_eq_nil_iff.mpr fun d hd => by simp [h d hd]
  rw [Core.deliver, Core.deliverIf, hf, hall, hnone]

/-- Where no NEXT is due, only the results of units land. -/
theorem landNexts_of_later {c : Core} {t : Nat} (h : ∀ j ∈ c.qs.nexts, t < j.due) : c.landNexts t = c.deliver t := by
  have hall : (c.qs.nexts.filter fun j => !decide (j.due ≤ t)) = c.qs.nexts :=
    List.filter_eq_self.mpr fun j hj => by simp [h j hj]
  have hnone : (c.qs.nexts.filter fun j => decide (j.due ≤ t)) = [] :=
    List.filter_eq_nil_iff.mpr fun j hj => by simp [h j hj]
  rw [Core.landNexts, hall, hnone]; rfl

/-- A NEXT that is due lands among the results in flight. -/
theorem landNexts_of_one {c : Core} {t : Nat} {j : NextJob} (hj : c.qs.nexts = [j]) (hd : j.due ≤ t) :
    c.landNexts t = (({ c with qs := { c.qs with nexts := [] } } : Core).send j.delivery).deliver t := by
  simp [Core.landNexts, hj, hd]

/-- One delivery lands: its value and its flags. -/
theorem landAll_one (t : Nat) (c : Core) (d : Delivery) :
    Core.landAll t c [d] = ((if d.flags = 0 then c.put d.dest d.mask d.value
      else (c.put d.dest d.mask d.value).addFlags t d.flags).noteErr d.err) := by
  simp [Core.landAll, Core.land, hiddenBy]

section
variable {c : Core} {t : Nat}

theorem pushScales_eq : c.pushScales t = { c with qs := { c.qs with
    scale := c.qs.scale ++ (c.qs.fills.filter fun f => f.due ≤ t).flatMap (·.words)
    fills := c.qs.fills.filter fun f => t < f.due } } := by
  simp only [Core.pushScales, ← decide_not, Nat.not_le]

/-- A NEXT's result alone is written to its register (R178). -/
theorem landNexts_alone {j : NextJob} (hn : c.qs.nexts = [j]) (hd : j.due ≤ t) (hg : j.g ≠ 0) (hf : c.qs.flight = []) :
    c.landNexts t = { c with
      qs := { c.qs with nexts := [] }, regs := { c.regs with g := c.regs.g.set 0 j.g j.value } } := by
  rw [landNexts_of_one hn hd, deliver_of_due (l := [j.delivery]) (by simp [Core.send, hf, insertDelivery])
    (by simp [NextJob.delivery, hd]), landAll_one]
  simp [NextJob.delivery, put_g, hg, Core.noteErr, Core.send, hf]

/-- A NEXT's result is overtaken by a later move to its register that lands in the same cycle (R16). -/
theorem landNexts_before {j : NextJob} {o x : Nat} (hn : c.qs.nexts = [j]) (hd : j.due ≤ t) (hg : j.g ≠ 0)
    (hf : c.qs.flight = [⟨j.due, o, .g j.g, x, ones 64, 0, none⟩]) (ho : j.order < o) :
    (c.landNexts t).qs.nexts = [] ∧ (c.landNexts t).qs.flight = [] ∧ (c.landNexts t).gAt j.g = BitVec.ofNat 64 x := by
  have hs : (({ c with qs := { c.qs with nexts := [] } } : Core).send j.delivery).qs.flight =
      [j.delivery, ⟨j.due, o, .g j.g, x, ones 64, 0, none⟩] := by
    simp [Core.send, hf, insertDelivery, NextJob.delivery, ho]
  rw [landNexts_of_one hn hd, deliver_of_due hs (by simp [NextJob.delivery, hd])]
  simp [Core.landAll, Core.land, hiddenBy, NextJob.delivery, Dest.isRes, put_g, hg, Core.noteErr, Core.send, Core.gAt,
    Table.get_set_same]

/-- A unit's result for a g register is written, but for one of g0 (R17), and its flags join (R57, R58). -/
theorem landNexts_result {due o key x fl : Nat} (hf : c.qs.flight = [⟨due, o, .g key, x, ones 64, fl, none⟩])
    (hd : due ≤ t) (hn : ∀ j ∈ c.qs.nexts, t < j.due) :
    c.landNexts t = { c with
      qs := { c.qs with flight := [] }
      regs := if key = 0 then c.regs else { c.regs with g := c.regs.g.set 0 key (BitVec.ofNat 64 x) }
      ctl := if fl = 0 then c.ctl else { c.ctl with
        fpflags := c.ctl.fpflags ||| BitVec.ofNat 64 fl
        fresh := (t, if c.ctl.fresh.1 = t then c.ctl.fresh.2 ||| fl else fl) } } := by
  rw [landNexts_of_later hn, deliver_of_due hf (by simpa using hd), landAll_one]
  by_cases hk : key = 0 <;> by_cases hfl : fl = 0 <;> simp [put_g, hk, hfl, Core.noteErr, Core.addFlags]

/-- Of two results due in one bypass register in one cycle the later trigger's stays (R115). -/
theorem landNexts_twice {due o o' x y : Nat}
    (hf : c.qs.flight = [⟨due, o, .res .ia, x, ones 64, 0, none⟩, ⟨due, o', .res .ia, y, ones 64, 0, none⟩])
    (hd : due ≤ t) (hn : ∀ j ∈ c.qs.nexts, t < j.due) :
    c.landNexts t = { c with
      qs := { c.qs with flight := [] }, ports := { c.ports with iaR := BitVec.ofNat 64 y } } := by
  rw [landNexts_of_later hn, deliver_of_due hf (by simp [hd])]
  simp [Core.landAll, Core.land, hiddenBy, Dest.isRes, put_res_ia, Core.noteErr]

/-- A tile that is brought is written whole, with the zero flag of its bytes (R184, R236). -/
theorem landNexts_tile {due o d x : Nat} (hf : c.qs.flight = [⟨due, o, .tileL d, x, ones 32768, 0, none⟩])
    (hd : due ≤ t) (hn : ∀ j ∈ c.qs.nexts, t < j.due) :
    c.landNexts t = ({ c with qs := { c.qs with flight := [] } } : Core).setTile d (BitVec.ofNat 32768 x) := by
  rw [landNexts_of_later hn, deliver_of_due hf (by simpa using hd), landAll_one]
  rfl

end

theorem tileAt_setTile (c : Core) (d k : Nat) (x : TileBits) :
    (c.setTile d x).tileAt k = if k = d then ⟨x, x == 0⟩ else c.tileAt k := Table.get_set _ _ _ _ _

/-- Settles O29: each step on one core lands what is due there. -/
theorem resultDeliveries : Obligations.ResultDeliveries := fun n s c hn hc hd => by
  have step := fun f => onCore_of_delivers hn hc hd f
  refine ⟨?scales, fun j hj hdue hg => ⟨fun hf => ?next, fun o x hf ho => ?nextThenMove⟩,
    fun due o key x fl hf hdue hj => ?result, fun due o o' x y hf hdue hj => ?twoResults,
    fun due o d x hf hdue hj => ?tile, ?stall⟩
  case scales =>
    rw [← pushScales_eq]
    exact step fun t c => c.pushScales t
  case next =>
    rw [← landNexts_alone hj hdue hg hf]
    exact step fun t c => c.landNexts t
  case nextThenMove =>
    obtain ⟨t, ht, hcore, -⟩ := step fun t c => c.landNexts t
    exact ⟨t, ht, hcore ▸ landNexts_before hj hdue hg hf ho⟩
  case result =>
    rw [← landNexts_result hf hdue hj]
    exact step fun t c => c.landNexts t
  case twoResults =>
    rw [← landNexts_twice hf hdue hj]
    exact step fun t c => c.landNexts t
  case tile =>
    obtain ⟨t, ht, hcore, -⟩ := step fun t c => c.landNexts t
    rw [landNexts_tile hf hdue hj] at hcore
    refine ⟨t, ht, ?_⟩
    rw [hcore]
    refine ⟨rfl, ?_, fun k hk => ?_, rfl, rfl⟩
    · rw [tileAt_setTile, if_pos rfl]
    · rw [tileAt_setTile, if_neg hk]; rfl
  case stall =>
    subst hc
    exact ⟨_, onCore_of_lt _ _ hn, onlyCore_on_mod s n fun c => { c with stall := none }⟩

end Sys2Proof.CoreProofs
end

section
/-!
PROOFS. Guards (R39): how each kind of guarded word issues, and what a false guard, a busy unit and a full port leave.
-/
open Sys2Proof Sys2Proof.Machine Sys2Proof.Claims

namespace Sys2Proof.CoreProofs

/-! ### How guarded words issue (R39) -/

section
variable {i : Instr} {g : Guard}

/-- A word of `plainGuard` issues under its guard, whichever slot it stands in. -/
theorem exec_of_plainGuard (h : plainGuard i = some g) (s : State) :
    ∃ n act, exec i s = issueIf n (s.core.guardP g) act s := by
  cases i <;> cases h <;> exact ⟨_, _, rfl⟩

/-- A word of the G slot first asks for room in the port (R184). -/
theorem exec_of_slot_ten (h : plainGuard i = some g) (hs : slotOf i = some 10) (s : State) :
    ∃ rest : State → Except Stop State,
      exec i s = issueIf 10 (s.core.guardP g) (fun s => portRoom s.core >>= fun _ => rest s) s := by
  have transport : ∀ m : BitVec 2, ¬(some (1 + m.toNat) = some 10) := by decide
  cases i <;> cases h
  case move m _ _ => exact absurd hs (transport m)
  case moveImmediate m _ _ => exact absurd hs (transport m)
  all_goals cases hs
  all_goals exact ⟨_, rfl⟩

/-- An integer trigger waits for its unit before it looks at its guard (R116). -/
theorem exec_of_intGuard {u : BitVec 1} (h : intGuard i = some (g, u)) (s : State) :
    ∃ m t src lat divides op, exec i s = execInt m u t src g lat divides op s := by
  cases i <;> cases h <;> exact ⟨_, _, _, _, _, _, rfl⟩

theorem exec_of_sfGuard (h : sfGuard i = some g) (s : State) :
    ∃ m w src lat f, exec i s = execSf m w src g lat f s := by
  cases i <;> cases h <;> unfold exec <;> exact ⟨_, _, _, _, _, rfl⟩

theorem exec_of_vecGuard {w : BitVec 2} (h : vecGuard i = some (g, w)) (s : State) :
    ∃ m u t src lat hold op, exec i s = execVec m u t w src g lat hold op s := by
  cases i <;> cases h <;> exact ⟨_, _, _, _, _, _, _, rfl⟩

end

section
variable {m : BitVec 2} {u t : BitVec 1} {src : BitVec 9} {g : Guard} {s : State}

/-- A busy unit stalls an integer trigger, whatever its guard (R15, R116). -/
theorem execInt_of_busy {lat divides op} (hu : s.cycle < s.core.intFree u) :
    execInt m u t src g lat divides op s = .next (s.mod fun c => { c with stall := some .unitbusy }) := by
  refine issue_stall ?_
  simp only [intTrigger, hu, decide_true, waitWhile_true, bind_error]

/-- On a free unit an integer trigger under a false guard does nothing. -/
theorem execInt_of_guard_false {lat divides op} (hu : s.core.intFree u ≤ s.cycle) (hg : s.core.guardP g = false) :
    execInt m u t src g lat divides op s = .next s := by
  refine issue_ok ?_
  simp [intTrigger, Nat.not_lt.mpr hu, hg]

/-- A vector trigger under a false guard claims its lane groups and does nothing else (R86, R127). -/
theorem execVec_of_guard_false {u : BitVec 1} {t : BitVec 3} {w : BitVec 2} {lat hold op} (hg : s.core.guardV g = false) :
    execVec m u t w src g lat hold op s = .next (s.claim w hold) := by
  refine issue_ok ?_
  simp [hg]

end

/-- Settles O56: each kind of guarded word issues in one way, which a false guard, a busy unit and a full port cut short. -/
theorem guardedWords : Obligations.GuardedWords := fun i s g => by
  refine ⟨fun h hg => ?plain, fun u h hg hu => ?int, fun h hg => ?special, fun w h hg => ?vector,
    fun f c bb md mk pitch cl off h hg => ?flush, fun u h hu => ?busy, fun h hs hg hp => ?full⟩
  case plain =>
    obtain ⟨n, act, he⟩ := exec_of_plainGuard h s
    rw [he, hg, issueIf_false]
  case int =>
    obtain ⟨m, t, src, lat, divides, op, he⟩ := exec_of_intGuard h s
    rw [he, execInt_of_guard_false hu hg]
  case special =>
    obtain ⟨m, w, src, lat, f, he⟩ := exec_of_sfGuard h s
    rw [he, execSf, hg, issueIf_false]
  case vector =>
    obtain ⟨m, u, t, src, lat, hold, op, he⟩ := exec_of_vecGuard h s
    exact ⟨_, he.trans (execVec_of_guard_false hg)⟩
  case flush =>
    subst h
    show execMflush f c bb md mk pitch cl off g s = _
    rw [execMflush, execX, hg, issueIf_false]
  case busy =>
    obtain ⟨m, t, src, lat, divides, op, he⟩ := exec_of_intGuard h s
    rw [he, execInt_of_busy hu]
  case full =>
    obtain ⟨rest, he⟩ := exec_of_slot_ten h hs s
    rw [he, hg, issueIf_true]
    refine issue_stall ?_
    simp only [portRoom, hp, decide_true, waitWhile_true, bind_error]

end Sys2Proof.CoreProofs
end

section
/-!
PROOFS. Encoding and decoding (R28, R38, R39, R47): a row's word is its fixed bits with a value in each of its fields, and where no
two fields have a bit in common, each field is read back; so the candidate of an instruction's own word is the instruction.
-/
open Sys2Proof Sys2Proof.Machine Sys2Proof.Claims

namespace Sys2Proof.CoreProofs

/-! ### Words of rows -/

/-- The fields of a row of the encoding tables: the width and the lowest bit of each. -/
abbrev Layout := List (Nat × Nat)

/-- A value for each field of a layout, at its width. -/
inductive Layout.Values : Layout → Type where
  | nil : Layout.Values []
  | cons {n lo : Nat} {fs : Layout} (x : BitVec n) (v : Layout.Values fs) : Layout.Values ((n, lo) :: fs)

/-- The word of a row: its fixed bits with the values of its fields put in. -/
def wordOf (base : Nat) : {fs : Layout} → fs.Values → Nat
  | _, .nil => base
  | _, .cons (lo := lo) x v => place x lo + wordOf base v

/-! `pack` of placed fields is the word of their layout, by definition. -/

theorem pack_nil (base : Nat) : pack base [] = wordOf base .nil := rfl
theorem pack_cons (base x : Nat) (xs : List Nat) : pack base (x :: xs) = x + pack base xs := rfl
theorem place_add_wordOf {n : Nat} (x : BitVec n) (lo base : Nat) {fs : Layout} (v : fs.Values) :
    place x lo + wordOf base v = wordOf base (.cons (lo := lo) x v) := rfl

/-- The `n` bits from bit `lo` on are bits of no field of the layout. -/
def Layout.misses (fs : Layout) (n lo : Nat) : Bool := fs.all fun f => decide (lo + n ≤ f.2) || decide (f.2 + f.1 ≤ lo)

/-- No two fields have a bit in common, and the row's fixed bits are zero where a field is. -/
def Layout.fits (base : Nat) : Layout → Bool
  | [] => true
  | f :: r => decide (base / 2 ^ f.2 % 2 ^ f.1 = 0) && Layout.misses r f.1 f.2 && Layout.fits base r

/-- The value of the field that is the `n` bits from bit `lo` on. -/
def valueAt (n lo : Nat) : {fs : Layout} → fs.Values → BitVec n
  | _, .nil => 0
  | _, .cons (n := k) (lo := l) x v => if k = n ∧ l = lo then x.setWidth n else valueAt n lo v

/-! ### Ranges of bits -/

/-- What is added above a range of bits leaves it as it is. -/
theorem range_add_above (x w : Nat) {n lo k : Nat} (h : lo + n ≤ k) :
    (x * 2 ^ k + w) / 2 ^ lo % 2 ^ n = w / 2 ^ lo % 2 ^ n := by
  obtain ⟨j, rfl⟩ := Nat.exists_eq_add_of_le h
  have e : x * 2 ^ (lo + n + j) + w = w + 2 ^ lo * (2 ^ n * (x * 2 ^ j)) := by ring
  rw [e, Nat.add_mul_div_left _ _ (by positivity), Nat.add_mul_mod_self_left]

/-- What is added below a range of bits, where the bits are clear, leaves the range as it is. -/
theorem range_add_below {x w n lo k m : Nat} (h : k + m ≤ lo) (hx : x < 2 ^ m) (hw : w / 2 ^ k % 2 ^ m = 0) :
    (x * 2 ^ k + w) / 2 ^ lo % 2 ^ n = w / 2 ^ lo % 2 ^ n := by
  obtain ⟨j, rfl⟩ := Nat.exists_eq_add_of_le h
  obtain ⟨q, hq⟩ := Nat.dvd_of_mod_eq_zero hw
  have e : (x * 2 ^ k + w) / 2 ^ k / 2 ^ m = w / 2 ^ k / 2 ^ m := by
    rw [Nat.add_comm, Nat.add_mul_div_right _ _ (by positivity), hq, Nat.add_comm,
      Nat.add_mul_div_left _ _ (by positivity), Nat.div_eq_of_lt hx, Nat.zero_add,
      Nat.mul_div_cancel_left _ (by positivity)]
  simp only [Nat.pow_add, ← Nat.div_div_eq_div_mul, e]

section
variable {base : Nat} {fs : Layout} {v : fs.Values}

/-- A range of bits that no field of a row meets holds the row's fixed bits. -/
theorem wordOf_range_of_misses {n lo : Nat} (hfs : fs.fits base = true) (hm : fs.misses n lo = true) :
    wordOf base v / 2 ^ lo % 2 ^ n = base / 2 ^ lo % 2 ^ n := by
  induction v generalizing n lo with
  | nil => rfl
  | cons x v ih =>
    simp only [Layout.fits, Bool.and_eq_true, decide_eq_true_eq] at hfs
    obtain ⟨⟨hb, hf⟩, hr⟩ := hfs
    simp only [Layout.misses, List.all_cons, Bool.and_eq_true, Bool.or_eq_true, decide_eq_true_eq] at hm
    obtain ⟨ha, hm⟩ := hm
    rw [← ih hr hm, wordOf, place]
    rcases ha with ha | ha
    · exact range_add_above _ _ ha
    · exact range_add_below ha x.isLt ((ih hr hf).trans hb)

/-- A field's range of bits holds the field's value. -/
theorem wordOf_range_of_mem {n lo : Nat} (hfs : fs.fits base = true) (hf : (n, lo) ∈ fs) :
    wordOf base v / 2 ^ lo % 2 ^ n = (valueAt n lo v).toNat := by
  induction v with
  | nil => cases hf
  | @cons k l r x v ih =>
    simp only [Layout.fits, Bool.and_eq_true, decide_eq_true_eq] at hfs
    obtain ⟨⟨hb, hm⟩, hr⟩ := hfs
    have hc : wordOf base v / 2 ^ l % 2 ^ k = 0 := (wordOf_range_of_misses hr hm).trans hb
    by_cases hh : k = n ∧ l = lo
    · obtain ⟨rfl, rfl⟩ := hh
      rw [valueAt, if_pos ⟨rfl, rfl⟩, BitVec.setWidth_eq, wordOf, place, Nat.add_comm,
        Nat.add_mul_div_right _ _ (by positivity), Nat.add_mod, hc, Nat.zero_add, Nat.mod_mod, Nat.mod_eq_of_lt x.isLt]
    · have ht : (n, lo) ∈ r := (List.mem_cons.mp hf).resolve_left fun e => hh (by cases e; exact ⟨rfl, rfl⟩)
      rw [valueAt, if_neg hh, ← ih hr ht, wordOf, place]
      have ha := List.all_eq_true.mp hm _ ht
      simp only [Bool.or_eq_true, decide_eq_true_eq] at ha
      rcases ha with ha | ha
      · exact range_add_below ha x.isLt hc
      · exact range_add_above _ _ ha

/-- A row whose fixed bits and fields lie below bit `n` has a word of `n` bits. -/
theorem wordOf_lt {n : Nat} (hfs : fs.fits base = true) (hb : base < 2 ^ n)
    (hn : (fs.all fun f => decide (f.2 + f.1 ≤ n)) = true) : wordOf base v < 2 ^ n := by
  have hm : fs.misses (wordOf base v) n = true := by
    refine List.all_eq_true.mpr fun f h => ?_
    rw [List.all_eq_true.mp hn f h, Bool.or_true]
  have hz := wordOf_range_of_misses (v := v) hfs hm
  rw [Nat.div_eq_of_lt hb, Nat.zero_mod,
    Nat.mod_eq_of_lt ((Nat.div_le_self _ _).trans_lt Nat.lt_two_pow_self)] at hz
  exact (Nat.div_eq_zero_iff_lt (by positivity)).mp hz

/-! ### Reading a row's word -/

theorem bits_wordOf {n lo : Nat} (hfs : fs.fits base = true) (hf : (n, lo) ∈ fs) :
    bits n (wordOf base v) lo = valueAt n lo v :=
  BitVec.eq_of_toNat_eq (by rw [bits, BitVec.toNat_ofNat, wordOf_range_of_mem hfs hf])

theorem fieldOf_wordOf {hi lo : Nat} (hfs : fs.fits base = true) (hm : fs.misses (hi + 1 - lo) lo = true) :
    fieldOf (wordOf base v) hi lo = base / 2 ^ lo % 2 ^ (hi + 1 - lo) :=
  wordOf_range_of_misses hfs hm

theorem fieldOf_wordOf_of_mem {hi lo : Nat} (hfs : fs.fits base = true) (hf : (hi + 1 - lo, lo) ∈ fs) :
    fieldOf (wordOf base v) hi lo = (valueAt (hi + 1 - lo) lo v).toNat :=
  wordOf_range_of_mem hfs hf

theorem bitOf_wordOf {i : Nat} (hfs : fs.fits base = true) (hm : fs.misses 1 i = true) :
    bitOf (wordOf base v) i = (base / 2 ^ i % 2 == 1) :=
  congrArg (· == 1) (wordOf_range_of_misses hfs hm)

end

/-! ### Slots and units (R28, R41, R44) -/

theorem transport_cases : ∀ m : BitVec 2, m = 0 ∨ m = 1 ∨ m = 2 ∨ m = 3 := by decide

theorem weight_cases : ∀ v : BitVec 1, v = 0 ∨ v = 1 := by decide

theorem candidate_transport (m : BitVec 2) (w : Nat) : candidate (1 + m.toNat) w = candidateM m w := by
  rcases transport_cases m with rfl | rfl | rfl | rfl <;> rfl

theorem candidate_weight (v : BitVec 1) (w : Nat) : candidate (5 + v.toNat) w = candidateW v w := by
  rcases weight_cases v with rfl | rfl <;> rfl

/-- The low bit of a unit number tells the two units of a kind apart (R44). -/
theorem unit_eq (w : Nat) : fieldOf w 29 27 = 2 * fieldOf w 29 28 + fieldOf w 27 27 := by
  simp only [fieldOf]; omega

theorem unit_cases {w k : Nat} (h : fieldOf w 29 28 = k) : fieldOf w 29 27 = 2 * k ∨ fieldOf w 29 27 = 2 * k + 1 := by
  have low : fieldOf w 27 27 < 2 := Nat.mod_lt _ (by decide)
  have e := unit_eq w
  omega

theorem candidateM_of_int {m : BitVec 2} {w : Nat} (hf : fieldOf w 31 30 = 1) (hu : fieldOf w 29 28 = 0) :
    candidateM m w = candidateInt m w := by
  rcases unit_cases hu with e | e <;> simp only [candidateM, hf, e]

theorem candidateM_of_vec {m : BitVec 2} {w : Nat} (hf : fieldOf w 31 30 = 1) (hu : fieldOf w 29 28 = 1) :
    candidateM m w = candidateVec m w := by
  rcases unit_cases hu with e | e <;> simp only [candidateM, hf, e]

theorem candidateM_of_sf {m : BitVec 2} {w : Nat} (hf : fieldOf w 31 30 = 1) (hu : fieldOf w 29 27 = 4) :
    candidateM m w = candidateSf m w := by
  simp only [candidateM, hf, hu]

/-! ### The candidate of an instruction's own word (R47) -/

section
variable {i : Instr} {n : Nat}

/-- The word of an integer trigger is read as that trigger. -/
theorem candidate_encodeNat_of_intGuard {x : Guard × BitVec 1} (h : intGuard i = some x) (hs : slotOf i = some n) :
    candidate n (encodeNat i) = some i := by
  cases i <;> cases h <;> cases hs
  all_goals
    unfold encodeNat
    simp only [pack_nil, pack_cons, place_add_wordOf]
    rw [candidate_transport, candidateM_of_int]
  all_goals simp (disch := decide) [candidateInt, fieldOf_wordOf, bits_wordOf, valueAt]

/-- The word of a vector trigger is read as that trigger. -/
theorem candidate_encodeNat_of_vecGuard {x : Guard × BitVec 2} (h : vecGuard i = some x) (hs : slotOf i = some n) :
    candidate n (encodeNat i) = some i := by
  cases i <;> cases h <;> cases hs
  all_goals
    unfold encodeNat
    simp only [pack_nil, pack_cons, place_add_wordOf]
    rw [candidate_transport, candidateM_of_vec]
  all_goals simp (disch := decide) [candidateVec, fieldOf_wordOf, bits_wordOf, valueAt]

/-- The word of a special-function trigger is read as that trigger. -/
theorem candidate_encodeNat_of_sfGuard {x : Guard} (h : sfGuard i = some x) (hs : slotOf i = some n) :
    candidate n (encodeNat i) = some i := by
  cases i <;> cases h <;> cases hs
  all_goals
    unfold encodeNat
    simp only [pack_nil, pack_cons, place_add_wordOf]
    rw [candidate_transport, candidateM_of_sf]
  all_goals simp (disch := decide) [candidateSf, fieldOf_wordOf, bits_wordOf, valueAt]

/-- A form of DGST that absorbs is none of its other two forms (R208). -/
theorem absorbOk_ne : ∀ (f : BitVec 3) (r : BitVec 5), absorbOk f r = true → f.toNat ≠ 5 ∧ f.toNat ≠ 6 := by decide

/-- The word of any other word with a guard of p0 to p15 is read as that word. -/
theorem candidate_encodeNat_of_plainGuard {x : Guard} (h : plainGuard i = some x) (hs : slotOf i = some n)
    (hw : i.wf = true) : candidate n (encodeNat i) = some i := by
  cases i <;> cases h <;> cases hs
  all_goals
    unfold encodeNat
    simp only [pack_nil, pack_cons, place_add_wordOf]
  case move | moveImmediate =>
    rw [candidate_transport]
    simp (disch := decide) [candidateM, fieldOf_wordOf, bits_wordOf, valueAt]
  case dgstAbsorb f r =>
    obtain ⟨h5, h6⟩ := absorbOk_ne f r (Bool.and_eq_true_iff.mp hw).2
    simp (disch := decide) [candidate, candidateG, fieldOf_wordOf, fieldOf_wordOf_of_mem, bits_wordOf, valueAt, h5, h6]
  all_goals
    simp (disch := decide) [candidate, candidateX, candidateL, candidateC, candidateG, candidateQ,
      fieldOf_wordOf, bits_wordOf, bitOf_wordOf, valueAt]

/-- The word of a word without a guard, or of MFLUSH, is read as that word. -/
theorem candidate_encodeNat_of_unguarded (hi : intGuard i = none) (hv : vecGuard i = none) (hf : sfGuard i = none)
    (hp : plainGuard i = none) (hs : slotOf i = some n) : candidate n (encodeNat i) = some i := by
  cases i <;> cases hi <;> cases hv <;> cases hf <;> cases hp <;> cases hs
  all_goals
    unfold encodeNat
    simp only [pack_nil, pack_cons, place_add_wordOf]
  case longImmediate =>
    rw [candidate_transport]
    simp (disch := decide) [candidateM, fieldOf_wordOf, bits_wordOf, valueAt]
  case wmac | wmacy | wadd | wsub | waddy | wsuby | ymac | yadd | ysub | yclr | wclr | wflush | wcpy =>
    rw [candidate_weight]
    simp (disch := decide) [candidateW, fieldOf_wordOf, bits_wordOf, valueAt]
  all_goals
    simp (disch := decide) [candidate, candidateB, candidateX, fieldOf_wordOf, bits_wordOf, bitOf_wordOf, valueAt]

/-- The word of a well-formed instruction, in its slot, is read as that instruction. -/
theorem candidate_encodeNat (hs : slotOf i = some n) (hw : i.wf = true) : candidate n (encodeNat i) = some i := by
  cases hi : intGuard i with
  | some x => exact candidate_encodeNat_of_intGuard hi hs
  | none =>
  cases hv : vecGuard i with
  | some x => exact candidate_encodeNat_of_vecGuard hv hs
  | none =>
  cases hf : sfGuard i with
  | some x => exact candidate_encodeNat_of_sfGuard hf hs
  | none =>
  cases hp : plainGuard i with
  | some x => exact candidate_encodeNat_of_plainGuard hp hs hw
  | none => exact candidate_encodeNat_of_unguarded hi hv hf hp hs

/-! ### The slot and the size of a word (R28) -/

theorem slotWidth_transport (m : BitVec 2) : slotWidth (1 + m.toNat) = 32 := by
  rcases transport_cases m with rfl | rfl | rfl | rfl <;> rfl

theorem slotWidth_weight (v : BitVec 1) : slotWidth (5 + v.toNat) = 32 := by
  rcases weight_cases v with rfl | rfl <;> rfl

theorem slotOf_lt (hs : slotOf i = some n) : n < 12 := by
  have transport : ∀ m : BitVec 2, 1 + m.toNat < 12 := by decide
  have weight : ∀ v : BitVec 1, 5 + v.toNat < 12 := by decide
  cases i <;> cases hs
  all_goals simp [transport, weight]

/-- An instruction's word fits its slot. -/
theorem encodeNat_lt (hs : slotOf i = some n) : encodeNat i < 2 ^ slotWidth n := by
  cases i <;> cases hs
  all_goals
    unfold encodeNat
    simp only [slotWidth_transport, slotWidth_weight, pack_nil, pack_cons, place_add_wordOf]
    exact wordOf_lt (by decide) (by decide) (by decide)

/-! ### The slot of a candidate (R47) -/

theorem slotOf_of_candidateB {w : Nat} (h : candidateB w = some i) : slotOf i = some 0 := by
  unfold candidateB at h
  repeat' split at h
  all_goals cases h <;> rfl

theorem slotOf_of_candidateX {w : Nat} (h : candidateX w = some i) : slotOf i = some 7 := by
  unfold candidateX at h
  split at h <;> cases h <;> rfl

theorem slotOf_of_candidateL {w : Nat} (h : candidateL w = some i) : slotOf i = some 8 := by
  unfold candidateL at h
  split at h <;> cases h <;> rfl

theorem slotOf_of_candidateC {w : Nat} (h : candidateC w = some i) : slotOf i = some 9 := by
  unfold candidateC at h
  split at h <;> cases h <;> rfl

theorem slotOf_of_candidateG {w : Nat} (h : candidateG w = some i) : slotOf i = some 10 := by
  unfold candidateG at h
  repeat' split at h
  all_goals cases h <;> rfl

theorem slotOf_of_candidateQ {w : Nat} (h : candidateQ w = some i) : slotOf i = some 11 := by
  unfold candidateQ at h
  split at h <;> cases h <;> rfl

theorem slotOf_of_candidateW {v : BitVec 1} {w : Nat} (h : candidateW v w = some i) : slotOf i = some (5 + v.toNat) := by
  unfold candidateW at h
  split at h <;> cases h <;> rfl

theorem slotOf_of_candidateInt {m : BitVec 2} {w : Nat} (h : candidateInt m w = some i) :
    slotOf i = some (1 + m.toNat) := by
  unfold candidateInt at h
  split at h <;> cases h <;> rfl

theorem slotOf_of_candidateVec {m : BitVec 2} {w : Nat} (h : candidateVec m w = some i) :
    slotOf i = some (1 + m.toNat) := by
  unfold candidateVec at h
  split at h <;> cases h <;> rfl

theorem slotOf_of_candidateSf {m : BitVec 2} {w : Nat} (h : candidateSf m w = some i) :
    slotOf i = some (1 + m.toNat) := by
  unfold candidateSf at h
  split at h <;> cases h <;> rfl

theorem slotOf_of_candidateM {m : BitVec 2} {w : Nat} (h : candidateM m w = some i) :
    slotOf i = some (1 + m.toNat) := by
  unfold candidateM at h
  split at h
  · cases h; rfl
  · split at h
    · exact slotOf_of_candidateInt h
    · exact slotOf_of_candidateInt h
    · exact slotOf_of_candidateVec h
    · exact slotOf_of_candidateVec h
    · exact slotOf_of_candidateSf h
    · cases h
  · cases h; rfl
  · cases h; rfl

theorem slotOf_of_candidate {w : Nat} (h : candidate n w = some i) : slotOf i = some n := by
  unfold candidate at h
  split at h
  · exact slotOf_of_candidateB h
  · exact slotOf_of_candidateM h
  · exact slotOf_of_candidateM h
  · exact slotOf_of_candidateM h
  · exact slotOf_of_candidateM h
  · exact slotOf_of_candidateW h
  · exact slotOf_of_candidateW h
  · exact slotOf_of_candidateX h
  · exact slotOf_of_candidateL h
  · exact slotOf_of_candidateC h
  · exact slotOf_of_candidateG h
  · exact slotOf_of_candidateQ h
  · cases h

/-! ### The decoder -/

/-- What a slot's word meets that is read as an instruction (R38, R47). -/
theorem decodeSlot_eq_ok {w : Nat} :
    decodeSlot n w = .ok i ↔ n < 12 ∧ candidate n w = some i ∧ encodeNat i = w ∧ i.wf = true := by
  constructor
  · intro h
    unfold decodeSlot at h
    split at h
    · cases h
    next hn =>
    split at h
    · cases h
    next j hc =>
    split at h
    · cases h
    next he =>
    split at h
    · next hw =>
      cases h
      exact ⟨Nat.not_le.mp hn, hc, not_not.mp he, hw⟩
    · cases h
  · rintro ⟨hn, hc, rfl, hw⟩
    simp [decodeSlot, Nat.not_le.mpr hn, hc, hw]

end

/-- Settles O51: the decoder reads an instruction's own word as its own candidate. -/
theorem decodeEncodeAgree : Obligations.DecodeEncodeAgree := fun _ _ hs hw =>
  decodeSlot_eq_ok.mpr ⟨slotOf_lt hs, candidate_encodeNat hs hw, rfl, hw⟩

/-- Settles O52: what the decoder accepts is a candidate of its slot, well-formed, with that word. -/
theorem decodedWordsAgree : Obligations.DecodedWordsAgree := fun n w i h => by
  obtain ⟨-, hc, rfl, hw⟩ := decodeSlot_eq_ok.mp h
  have hs := slotOf_of_candidate hc
  exact ⟨hs, hw, rfl, encodeNat_lt hs⟩

end Sys2Proof.CoreProofs
end

section
/-!
PROOFS. Moves (R42, R43, R112, R113): an immediate is sign-extended to its destination's width, which is at most that of the pattern
which is made of it.
-/
open Sys2Proof Sys2Proof.Machine Sys2Proof.Claims

namespace Sys2Proof.CoreProofs

/-- No destination is wider than a v register (R43). -/
theorem destOf_width_le (c : Core) (d : BitVec 9) : (c.destOf d).2 ≤ 1024 := by
  simp only [Core.destOf, apply_ite Prod.snd]
  split_ifs <;> decide

/-- The low bits of a two's-complement pattern are the pattern of their width. -/
theorem wrapTo_mod {w k : Nat} (h : w ≤ k) (v : Int) : wrapTo k v % 2 ^ w = wrapTo w v := by
  have hd : ((2 ^ w : Nat) : Int) ∣ ((2 ^ k : Nat) : Int) := Int.natCast_dvd_natCast.mpr (Nat.pow_dvd_pow 2 h)
  have hk : 0 ≤ v % ((2 ^ k : Nat) : Int) := Int.emod_nonneg _ (by positivity)
  zify
  rw [wrapTo, wrapTo, Int.toNat_of_nonneg hk, Int.toNat_of_nonneg (Int.emod_nonneg _ (by positivity))]
  exact_mod_cast Int.emod_emod_of_dvd v hd

/-- The pattern of a signed value is the value sign-extended. -/
theorem wrapTo_toInt {n : Nat} (w : Nat) (x : BitVec n) : wrapTo w x.toInt = (x.signExtend w).toNat := by
  rw [wrapTo_eq_toNat_ofInt, BitVec.signExtend]

theorem immediateValue_of_none {m : BitVec 2} {ws : List Instr} (i : BitVec 15) (h : partnerLong m ws = none) :
    immediateValue ws m i = i.toInt := by
  rw [immediateValue, h]; exact signedOf_toNat i

theorem immediateValue_of_some {m : BitVec 2} {ws : List Instr} {hi : BitVec 30} (i : BitVec 15)
    (h : partnerLong m ws = some hi) : immediateValue ws m i = (hi ++ i).toInt := by
  rw [immediateValue, h, ← signedOf_toNat, BitVec.toNat_append, ← Nat.shiftLeft_add_eq_or_of_lt i.isLt, Nat.shiftLeft_eq]

theorem moveTo_eq (s : State) (m : BitVec 2) (d : BitVec 9) (x : Nat) :
    s.moveTo m d x = s.result (1 + m.toNat) 1 (s.core.destOf d).1 (x % 2 ^ (s.core.destOf d).2)
      (ones (s.core.destOf d).2) 0 := rfl

/-- What an immediate move under a guard that holds sends: its value, sign-extended to the destination's width. -/
theorem execMoveImmediate_of_guard {n : Nat} {m : BitVec 2} {d : BitVec 9} {i : BitVec 15} {g : BitVec 6} {s : State}
    {x : BitVec n} (hg : s.core.guardP g = true) (hx : immediateValue s.core.ctx.words m i = x.toInt) :
    exec (.moveImmediate m d i g) s = .next (s.result (1 + m.toNat) 1 (s.core.destOf d).1
      (x.signExtend (s.core.destOf d).2).toNat (ones (s.core.destOf d).2) 0) := by
  show execMoveImmediate m d i g s = _
  rw [execMoveImmediate, hg, issueIf_true]
  refine issue_ok ?_
  rw [moveTo_eq, hx, wrapTo_mod (destOf_width_le s.core d), wrapTo_toInt]

/-- Settles O3: a source's value, or the immediate's, is sent at the width of its destination. -/
theorem moves : Obligations.Moves := by
  refine ⟨fun m d src g s s' x hg hs => ?plain, fun m d i g s hg hp => ?short, fun m d i g s hi hg hp => ?long,
    fun m i s => rfl⟩
  case plain =>
    show execMove m d src g s = _
    rw [execMove, hg, issueIf_true]
    refine issue_ok ?_
    simp only [hs, bind_ok, moveTo_eq, pure_ok]
  case short => exact execMoveImmediate_of_guard hg (immediateValue_of_none i hp)
  case long => exact execMoveImmediate_of_guard hg (immediateValue_of_some i hp)

end Sys2Proof.CoreProofs
end

section
/-!
PROOFS. The words that end a task, barriers, software traps and idle bundles (R31, R105 to R107).
-/
open Sys2Proof Sys2Proof.Machine Sys2Proof.Claims

namespace Sys2Proof.CoreProofs

/-! ### END and ENDH (R105) -/

theorem endings_holds : endings := by
  rintro s _ rfl
  refine ⟨fun hr => ?_, fun hr => ?_, fun m x hx => ⟨fun hr => ?_, fun hr => ?_⟩⟩
  · show execEndTask s = _
    refine issue_ok ?_
    simp only [hr, Bool.not_false, need_true, bind_ok, pure_ok]; rfl
  · show execEndTask s = _
    refine issue_trap ?_
    simp only [hr, Bool.not_true, need_false, bind_error]
  · show execEndHold m s = _
    refine issue_ok ?_
    simp only [hx, hr, Bool.not_false, need_true, bind_ok, pure_ok]; rfl
  · show execEndHold m s = _
    refine issue_trap ?_
    simp only [hx, hr, Bool.not_true, need_false, bind_ok, bind_error]

/-! ### BARC (R106) -/

/-- The queues hold nothing of an earlier bundle (R77). -/
theorem drainedBefore_of_forall {c : Core} (h : ∀ e ∈ c.qs.loads ++ c.qs.stores, e.bundle = c.bundles) :
    c.drainedBefore = true := by
  simp only [List.mem_append] at h
  have hl : c.qs.loads.any (·.before c.bundles) = false :=
    List.any_eq_false.mpr fun e he => by simp [CEntry.before, h e (.inl he)]
  have hs : c.qs.stores.any (·.before c.bundles) = false :=
    List.any_eq_false.mpr fun e he => by simp [CEntry.before, h e (.inr he)]
  rw [Core.drainedBefore, hl, hs]; rfl

/-- A word that arrives at its barrier leaves a stalled core that has arrived (R106). -/
theorem issue_arrive {n : Nat} {act : State → Except Stop State} {s : State} (h : act s = .error .arrive) :
    issue n act s = .next (s.mod fun c => { c with stall := some .stallg, arrived := some (c.arrived.getD s.cycle) }) := by
  simp only [issue, h]

theorem clusterBarrier_holds : clusterBarrier := by
  refine fun s => ⟨fun hgo => ?_, fun hp hz => ?_⟩
  · show execBarc s = _
    refine issue_ok ?_
    rcases hgo with ⟨t, hp, ht⟩ | ⟨hp, ha, hz, hq⟩
    · simp only [hp, ht, decide_true, if_true]
    · simp only [hp, ha, hz, drainedBefore_of_forall hq, beq_self_eq_true, Option.isNone_none, Bool.and_self, if_true]
  · show execBarc s = _
    refine issue_arrive ?_
    simp only [hp, beq_eq_false_iff_ne.mpr hz, Bool.false_and, Bool.false_eq_true, if_false]

/-! ### TRAP, BRK and idle bundles (R31, R107) -/

theorem softwareTrapsAndIdle_holds : softwareTrapsAndIdle := fun _ =>
  ⟨fun c => ⟨issue_ok (n := 0) (act := fun s => .ok (s.softTrap .trap c)) rfl,
    issue_ok (n := 0) (act := fun s => .ok (s.softTrap .brk c)) rfl⟩, fun _ _ => rfl⟩

/-- Settles O27: the ends by RAB, BARC by its pass, and the words that always issue. -/
theorem endingWords : Obligations.EndingWords := ⟨endings_holds, clusterBarrier_holds, softwareTrapsAndIdle_holds⟩

end Sys2Proof.CoreProofs
end

section
/-!
PROOFS. A core's turn with a bundle that holds one word (R28, R49, R80, R81, R87).
-/
open Sys2Proof Sys2Proof.Machine Sys2Proof.Claims

namespace Sys2Proof.CoreProofs

/-! ### The way to the bundle at PC -/

section
variable {s : State}

/-- A change to the current core, carried out on it by its number. -/
theorem on_cur_mod (s : State) (f : Core → Core) : s.on s.cur (·.mod f) = s.mod f := by
  simp [State.on, State.turnTo]

theorem via_stallEnd (h : s.cur < 512) : s.via (.stallEnd s.cur) = awake s := by
  have e : exec (.stallEnd s.cur) s = .next (awake s) :=
    (onCore_of_lt _ s h).trans (congrArg _ (on_cur_mod s fun c => { c with stall := none }))
  rw [State.via, e]

/-- Without an active level no bundle is skipped (R33, R242). -/
theorem skips_of_no_level (h : s.core.seq.levels = []) : s.skips = none := by
  rw [State.skips, h]; rfl

theorem skipOver_of_no_skip {may : Bool} {fuel : Nat} (h : s.skips = none) :
    State.skipOver may (fuel + 1) s = (s, false) := by
  rw [State.skipOver, h]

/-! The end of a stall changes nothing that the fetch of code reads. -/

theorem codeAddr_awake (s : State) (va : Nat) : (awake s).codeAddr va = s.codeAddr va := rfl

theorem codeWords_awake (s : State) (va n : Nat) : (awake s).codeWords va n = s.codeWords va n := by
  induction n generalizing va with
  | zero => rfl
  | succ n ih => rw [State.codeWords, State.codeWords, ih, codeAddr_awake]; rfl

theorem inBuffer_awake (s : State) (pc : Nat) : (awake s).inBuffer pc = s.inBuffer pc := by
  simp only [State.inBuffer, codeWords_awake, codeAddr_awake]; rfl

theorem outruns_awake (s : State) : (awake s).outruns = s.outruns := by
  simp only [State.outruns, codeWords_awake]; rfl

theorem starved_awake (s : State) : (awake s).starved = s.starved := by
  simp only [State.starved, outruns_awake, inBuffer_awake]; rfl

/-- A step in which the current core's bundle has its turn is an attempt to issue it. -/
theorem step_of_mayTry (h : mayTry s) : step s = (awake s).attempt := by
  obtain ⟨ha, hd, hm, hc, hl, hs, -⟩ := h
  have hk : (awake s).skips = none := skips_of_no_level hl
  have hv : State.skipOver true skipFuel (awake s) = (awake s, false) := skipOver_of_no_skip (fuel := 65535) hk
  show s.happens = _
  rw [State.happens, ha]
  show s.goesOn = _
  rw [State.goesOn, hd, hm]
  show s.turn = _
  simp only [State.turn, via_stallEnd hc, starved_awake, hs, hk, hv, Option.isSome_none, Bool.or_self,
    Bool.false_eq_true, if_false]

/-- With no older cause waiting, a trap of the bundle that tries to issue is taken (R250). -/
theorem trapHere_of_no_boundary (h : s.core.boundary = []) (f : TrapInfo) :
    s.trapHere f = .next (takeTrap f s.cycle s) := by
  simp [State.trapHere, h]

theorem trapHere_awake (h : s.core.boundary = []) (f : TrapInfo) :
    (awake s).trapHere f = .next (takeTrap f s.cycle (awake s)) := trapHere_of_no_boundary (s := awake s) h f

theorem attempt_of_fetch_error {f : TrapInfo} (hf : s.fetch = .error f) : s.attempt = s.trapHere f := by
  rw [State.attempt, hf]

theorem attempt_of_checked_error {b : RawBundle} {f : TrapInfo} (hf : s.fetch = .ok b) (hc : s.core.checked b = .error f) :
    s.attempt = s.trapHere f := by
  simp only [State.attempt, hf, hc]

theorem attempt_of_checked {b : RawBundle} {ws : List BWord} (hf : s.fetch = .ok b) (hc : s.core.checked b = .ok ws) :
    s.attempt = s.settleBundle ws (Progress.all ⟨s.opening b ws, [], [], none⟩ (foldOrder ws)) := by
  simp only [State.attempt, hf, hc]

end

/-! ### A bundle that holds one new word (R28, R34, R48) -/

/-- The only word of a bundle is the new word `w` of slot `n` (R28). -/
def OneWord (b : RawBundle) (n w : Nat) : Prop := n < 12 ∧ b.header = 2 ^ n ∧ b.inc = 0 ∧ b.words = [(n, w, 1)]

theorem bitOf_two_pow (n i : Nat) : bitOf (2 ^ n) i = decide (n = i) := by
  rw [bitOf_eq_testBit, Nat.testBit_two_pow]

section
variable {b : RawBundle} {n w : Nat}

theorem OneWord.not_idle (h : OneWord b n w) : headerIdle b.header = false := by
  obtain ⟨hn, hh, -, -⟩ := h
  rw [hh, headerIdle]
  interval_cases n <;> rfl

/-- Its header keeps every rule of a header. -/
theorem OneWord.headerTrap_eq (h : OneWord b n w) (l : Bool) : headerTrap l b = none := by
  obtain ⟨hn, hh, hi, -⟩ := h
  simp only [headerTrap, hh, hi]
  interval_cases n <;> rfl

theorem OneWord.slotWord_of_ok (h : OneWord b n w) (c : Core) {i : Instr} (hd : decodeSlot n w = .ok i) :
    c.slotWord b n = .ok (some ⟨n, w, i⟩) := by
  obtain ⟨-, -, -, hw⟩ := h
  simp [Core.slotWord, hw, hd]

theorem OneWord.slotWord_of_error (h : OneWord b n w) (c : Core) {r : Reject} (hd : decodeSlot n w = .error r) :
    c.slotWord b n = .error { cause := .illop, slot := n } := by
  obtain ⟨-, -, -, hw⟩ := h
  simp [Core.slotWord, hw, hd]

theorem OneWord.slotWord_other (h : OneWord b n w) (c : Core) {k : Nat} (hk : k ≠ n) : c.slotWord b k = .ok none := by
  obtain ⟨hn, hh, -, hw⟩ := h
  have hp : bitOf b.header (12 + k) = false := by
    rw [hh, bitOf_two_pow]
    exact decide_eq_false (by omega)
  simp [Core.slotWord, hw, hp, Ne.symm hk]

theorem OneWord.slotWords_others (h : OneWord b n w) (c : Core) {l : List Nat} (hl : n ∉ l) : c.slotWords b l = .ok [] := by
  induction l with
  | nil => rfl
  | cons k r ih =>
    simp only [List.mem_cons, not_or] at hl
    rw [Core.slotWords, h.slotWord_other c (Ne.symm hl.1), ih hl.2]; rfl

theorem OneWord.slotWords_of_ok (h : OneWord b n w) (c : Core) {i : Instr} (hd : decodeSlot n w = .ok i) {l : List Nat}
    (hl : n ∈ l) (hn : l.Nodup) : c.slotWords b l = .ok [⟨n, w, i⟩] := by
  induction l with
  | nil => cases hl
  | cons k r ih =>
    obtain ⟨hk, hr⟩ := List.nodup_cons.mp hn
    rw [Core.slotWords]
    by_cases e : n = k
    · subst e
      rw [h.slotWord_of_ok c hd, h.slotWords_others c hk]; rfl
    · rw [h.slotWord_other c (Ne.symm e), ih ((List.mem_cons.mp hl).resolve_left e) hr]; rfl

theorem OneWord.slotWords_of_error (h : OneWord b n w) (c : Core) {r : Reject} (hd : decodeSlot n w = .error r) {l : List Nat}
    (hl : n ∈ l) : c.slotWords b l = .error { cause := .illop, slot := n } := by
  induction l with
  | nil => cases hl
  | cons k l ih =>
    rw [Core.slotWords]
    by_cases e : n = k
    · subst e
      rw [h.slotWord_of_error c hd]; rfl
    · rw [h.slotWord_other c (Ne.symm e), ih ((List.mem_cons.mp hl).resolve_left e)]; rfl

end

section
variable {c : Core} {b : RawBundle}

theorem checked_of_headerTrap {n : Nat} (hl : c.seq.levels = []) (h : headerTrap true b = some n) :
    c.checked b = .error { cause := .illb, slot := n } := by
  rw [Core.checked, hl]
  show illb (headerTrap true b) >>= _ = _
  rw [h]; rfl

theorem OneWord.checked_of_error {n w : Nat} {r : Reject} (h : OneWord b n w) (hd : decodeSlot n w = .error r) :
    c.checked b = .error { cause := .illop, slot := n } := by
  rw [Core.checked, h.headerTrap_eq, h.not_idle, h.slotWords_of_error c hd (List.mem_range.mpr h.1)]; rfl

/-- A bundle that holds one word passes the checks before issue with it. -/
theorem checked_of_holdsOne {x : BWord} (hl : c.seq.levels = []) (h : holdsOne b x) (hx : crossTrap [x] = none) :
    c.checked b = .ok [x] := by
  have hp : c.seq.pastEnd b = none := by rw [Seq.pastEnd, hl]; rfl
  rcases h with ⟨hh, hf, rfl⟩ | ⟨n, w, i, hn, hh, hi, hw, hd, rfl⟩
  · have hidle : headerIdle b.header = true := beq_iff_eq.mpr hh
    have ht : headerTrap c.seq.levels.isEmpty b = none := by simp [headerTrap, hidle, hf]
    simp [Core.checked, ht, hidle, hp, hx, illb]
  · have h1 : OneWord b n w := ⟨hn, hh, hi, hw⟩
    simp [Core.checked, h1.headerTrap_eq, h1.not_idle, h1.slotWords_of_ok c hd (List.mem_range.mpr hn) List.nodup_range, hp,
      hx, illb]

end

/-! ### One word carried out (R80, R81) -/

theorem holdsOne_slot_le {b : RawBundle} {x : BWord} (h : holdsOne b x) : x.slot ≤ 12 := by
  rcases h with ⟨-, -, rfl⟩ | ⟨n, w, i, hn, -, -, -, -, rfl⟩
  · exact le_refl 12
  · exact hn.le

theorem foldOrder_one {x : BWord} (h : x.slot ≤ 12) : foldOrder [x] = [x] := by
  obtain ⟨n, w, i⟩ := x
  replace h : n ≤ 12 := h
  interval_cases n <;> rfl

section
variable {p : Progress} {x : BWord} {t : State} (h : exec x.instr p.s = .next t)
include h

theorem word_of_frozen {f : TrapInfo} {a : Nat} (hr : t.core.ctl.run = .frozen f a) :
    p.word x = { p with traps := p.traps ++ [f] } := by
  simp only [Progress.word, h, hr]

theorem word_of_not_frozen (hr : ∀ f a, t.core.ctl.run ≠ .frozen f a) :
    p.word x = if t.core.stall.isSome then { p with stalls := p.stalls ++ [(x, t)] } else { p with s := t } := by
  simp only [Progress.word, h]

end

/-! ### What becomes of the bundle (R80, R87, R90, R250) -/

section
variable {s : State} {ws : List BWord} {p : Progress}

theorem boundaryCause_of_nil {c : Core} (h : c.boundary = []) : c.boundaryCause = none := by
  rw [Core.boundaryCause, h]; rfl

theorem causeHere_of_none (hb : s.core.boundary = []) (ho : s.core.overran = false) (hl : s.landsHere = false) :
    s.causeHere = none := by
  simp [State.causeHere, boundaryCause_of_nil hb, ho, hl]

/-- A bundle without a trap, where no cause waits, commits, or stalls where a word of it does. -/
theorem settleBundle_of_no_trap (hb : s.core.boundary = []) (ho : s.core.overran = false) (hl : s.landsHere = false)
    (hlane : laneTrap s.lanesHeld ws = none) (hp : p.stop = none) (ht : p.traps = []) :
    s.settleBundle ws p =
      .next (if p.stalls.isEmpty then p.s.committed ws else s.stalled p.s.core.ctx p.stalls) := by
  have hi : (if p.stalls.isEmpty then s.issueTrap ws p.traps else none) = none := by
    simp [State.issueTrap, hlane, ht, lowestTrap]
  simp only [State.settleBundle, hp, hi, boundaryCause_of_nil hb, ho, causeHere_of_none hb ho hl, Option.isSome_none,
    Bool.or_self, Bool.false_eq_true, if_false]

/-- A bundle whose one word traps takes that trap. -/
theorem settleBundle_of_trap {f : TrapInfo} (hlane : laneTrap s.lanesHeld ws = none) (hp : p.stop = none)
    (hs : p.stalls = []) (ht : p.traps = [f]) : s.settleBundle ws p = s.trapHere f := by
  simp [State.settleBundle, hp, hs, State.issueTrap, hlane, ht, lowestTrap]

end

/-- Settles O53: the step is the attempt of the bundle, which passes the checks with its one word; what becomes of it is what became of
the word. -/
theorem stepRunsDecoded : Obligations.StepRunsDecoded := by
  intro s b x t hm hf hx hcross hlane he
  have hturn := step_of_mayTry hm
  obtain ⟨-, -, -, -, hl, -, hland, hb, ho⟩ := hm
  have hstep : step s = (awake s).settleBundle [x] (Progress.word ⟨(awake s).opening b [x], [], [], none⟩ x) := by
    rw [hturn, attempt_of_checked hf (checked_of_holdsOne hl hx hcross), foldOrder_one (holdsOne_slot_le hx)]
    rfl
  refine ⟨fun hs hr => ?commits, fun f a hr => ?traps, fun e hs hr => ?stalls⟩
  case commits =>
    rw [hstep, word_of_not_frozen he hr, hs]
    exact settleBundle_of_no_trap hb ho hland hlane rfl rfl
  case traps =>
    rw [hstep, word_of_frozen he hr]
    exact (settleBundle_of_trap (s := awake s) hlane rfl rfl rfl).trans (trapHere_awake hb f)
  case stalls =>
    rw [hstep, word_of_not_frozen he hr, hs]
    exact settleBundle_of_no_trap hb ho hland hlane rfl rfl

end Sys2Proof.CoreProofs
end

section
/-!
PROOFS. Traps before issue (R29, R38, R48, R49, R248), and what the record of a trap names (R246, R344).
-/
open Sys2Proof Sys2Proof.Machine Sys2Proof.Claims

namespace Sys2Proof.CoreProofs

/-! ### The record of a trap (R246, R344) -/

theorem leNat_append (a b : List Byte) : leNat (a ++ b) = leNat a + 256 ^ a.length * leNat b := by
  induction a with
  | nil => simp [leNat]
  | cons x a ih => simp only [List.cons_append, leNat, ih, List.length_cons, pow_succ]; ring

/-- A record whose first two fields have two bytes each, with a sequence number put after them: its low half is the two fields. -/
theorem leNat_putSeq (a b q : Nat) (r : List (Nat × Nat)) :
    leNat (putSeq (fieldBytes ((2, a) :: (2, b) :: r)) 4 q) % 2 ^ 32 = a % 2 ^ 16 + 2 ^ 16 * (b % 2 ^ 16) := by
  have ht : (fieldBytes ((2, a) :: (2, b) :: r)).take 4 = leBytes 2 a ++ leBytes 2 b := rfl
  rw [putSeq, ht, List.append_assoc, leNat_append, leNat_append, leNat_leBytes, leNat_leBytes, List.length_append,
    leBytes_length, leBytes_length]
  omega

theorem cause_code_lt (c : Cause) : c.code < 256 := by cases c <;> decide

theorem cause_cls_le (c : Cause) : c.cls ≤ 3 := by cases c <;> decide

/-- The value of ccr.cause has 16 bits (R246). -/
theorem causeWord_lt (t : TrapInfo) : t.causeWord < 2 ^ 16 := by
  have hc := cause_code_lt t.cause
  have hk := cause_cls_le t.cause
  unfold TrapInfo.causeWord
  split <;> omega

/-- The record of a trap names the core and the cause (R246, R344). -/
theorem faultRecord_names (s : State) (t : TrapInfo) (q : Nat) (hc : s.cur < 512) :
    (BitVec.ofNat 1024 (leNat (putSeq (s.faultRecord t) 4 q))).toNat % 2 ^ 32 = s.cur + 2 ^ 16 * t.causeWord := by
  have h := leNat_putSeq s.cur t.causeWord q
  rw [Nat.mod_eq_of_lt (causeWord_lt t), Nat.mod_eq_of_lt (by omega : s.cur < 2 ^ 16)] at h
  rw [BitVec.toNat_ofNat, Nat.mod_mod_of_dvd _ (Nat.pow_dvd_pow 2 (by decide : 32 ≤ 1024))]
  exact h _

theorem causeWord_eq (t : TrapInfo) : t.causeWord = t.cause.cls * 2 ^ 12 +
    (if t.cause.cls = 1 ∨ t.cause = .fetch then 15 else t.slot % 16) * 2 ^ 8 + t.cause.code := by
  simp [TrapInfo.causeWord]

/-! The two halves of a 32-bit number, as fields of a longer one. -/

theorem mod_of_halves {x a b : Nat} (h : x % 2 ^ 32 = a + 2 ^ 16 * b) (ha : a < 2 ^ 16) : x % 2 ^ 16 = a := by omega

theorem div_of_halves {x a b : Nat} (h : x % 2 ^ 32 = a + 2 ^ 16 * b) (ha : a < 2 ^ 16) : x / 2 ^ 16 % 2 ^ 16 = b := by
  omega

/-- Settles O54: in a step with a turn for the bundle, what keeps it from being fetched or read is trapped at once, and the record that
a trap leaves begins with the core and the cause. -/
theorem trapsBeforeIssue : Obligations.TrapsBeforeIssue := by
  intro s hm
  have hturn := step_of_mayTry hm
  obtain ⟨-, -, -, hc, hl, -, -, hb, -⟩ := hm
  refine ⟨fun f hf => ?fetch, fun b n hf ht => ?header, fun b n w r hf hn hh hi hw hd => ?word, fun f => ?record⟩
  case fetch =>
    rw [hturn, attempt_of_fetch_error hf, trapHere_awake hb]
  case header =>
    rw [hturn, attempt_of_checked_error hf (checked_of_headerTrap hl ht), trapHere_awake hb]
  case word =>
    rw [hturn, attempt_of_checked_error hf (OneWord.checked_of_error ⟨hn, hh, hi, hw⟩ hd), trapHere_awake hb]
  case record =>
    have hw := faultRecord_names (awake s) f (s.dev.mgmt.evSeq.get 0 (16 + dieOf s.cur) % 2 ^ 32) hc
    have hn : s.cur < 2 ^ 16 := by omega
    exact ⟨_, rfl, mod_of_halves hw hn, (div_of_halves hw hn).trans (causeWord_eq f)⟩

end Sys2Proof.CoreProofs
end

section
/-!
PROOFS. Numbers and vectors (R52, R62, R125 to R138): entry conversion; how a vector trigger issues, once; and that each integer
operation on lanes is the operation on bit vectors of the lanes' width.
-/
open Sys2Proof Sys2Proof.Machine Sys2Proof.Claims Sys2Proof.CoreProofs

namespace Sys2Proof.NumberProofs

/-! ### Entry conversion (R62) -/

theorem residueOf_cast (v : Int) {m : Nat} (hm : 0 < m) : (residueOf v m : Int) = v % m :=
  Int.toNat_of_nonneg (Int.emod_nonneg v (by omega))

theorem residueOf_lt (v : Int) {m : Nat} (hm : 0 < m) : residueOf v m < m := by
  have h : v % (m : Int) < m := Int.emod_lt_of_pos v (by omega)
  have := residueOf_cast v hm
  omega

/-- A lane of a bit vector's number is the lane's bits. -/
theorem laneOf_toNat {n : Nat} (x : BitVec n) (w i : Nat) : laneOf w x.toNat i = (x.extractLsb' (w * i) w).toNat := by
  rw [laneOf, BitVec.extractLsb'_toNat, Nat.shiftRight_eq_div_pow]

/-- Settles O11: a residue is the remainder, and a byte of an x register is signed. -/
theorem entryConversion : Obligations.EntryConversion := by
  refine ⟨fun v m hm => ⟨?_, residueOf_lt v hm⟩, fun _ => rfl, fun c n l _ => ?_, signedOf_toNat⟩
  · rw [residueOf_cast v hm, Int.emod_def]
  · rw [Core.elemX, laneOf_toNat, signedOf_toNat]

/-! ### Vector triggers (R125 to R127) -/

/-- A vector trigger whose guard lets it execute, on a readable source: its operation's result is on its way, or nothing is written. -/
theorem execVec_of_guard {m : BitVec 2} {u : BitVec 1} {t : BitVec 3} {w : BitVec 2} {src : BitVec 9} {g : BitVec 6} {s s' : State}
    {x lat hold : Nat} {op : VOp} {r : Option VResult} (hg : s.core.guardV g = true)
    (hs : (s.claim w hold).source src = .ok (x, s')) (hr : op (vectorArgs s.core u t w x) (s.core.guardLanes g) = .ok r) :
    execVec m u t w src g lat hold op s = .next (match r with
      | some r => s'.vecResult (1 + m.toNat) lat (vecUnit u) r (s.core.guardLanes g r.lanes.length)
      | none => s') := by
  have hr' : op (vectorArgs (s.claim w hold).core u t w x) ((s.claim w hold).core.guardLanes g) = .ok r := hr
  refine issue_ok ?_
  unfold vectorArgs at hr'
  simp only [hg, if_true, trigger, hs, bind_ok, hr']
  cases r <;> rfl

/-- A word whose meaning is the vector trigger of an operation delivers that operation. -/
theorem vectorWord_of_execVec {i : BitVec 2 → BitVec 1 → BitVec 3 → BitVec 2 → BitVec 9 → BitVec 6 → Instr}
    {lat : BitVec 3 → Nat} {hold : Nat} {op : VOp}
    (hi : ∀ m u t w src g s, exec (i m u t w src g) s = execVec m u t w src g (lat t) hold op s) :
    vectorWord i lat hold op := fun m u t w src g s s' x hg hs => by
  rw [hi]
  exact ⟨fun r hr => execVec_of_guard hg hs hr, fun hr => execVec_of_guard hg hs hr⟩

/-- The latency of the element-wise additions, as their meanings write it. -/
theorem addLatency_eq (t : BitVec 3) : (if isF t.toNat then 3 else 2) = addLatency t := by
  simp only [isF, addLatency, decide_eq_true_eq]

/-! Each arm of `exec` below is `execVec` of an operation, by definition. -/

theorem vectorArithmetic_holds : vectorArithmetic :=
  have add : ∀ {i op}, (∀ m u t w src g s, exec (i m u t w src g) s =
      execVec m u t w src g (if isF t.toNat then 3 else 2) 1 op s) → vectorWord i addLatency 1 op := fun hi =>
    vectorWord_of_execVec fun m u t w src g s => by rw [hi, addLatency_eq]
  ⟨add fun _ _ _ _ _ _ _ => rfl, add fun _ _ _ _ _ _ _ => rfl, vectorWord_of_execVec fun _ _ _ _ _ _ _ => rfl,
   vectorWord_of_execVec fun _ _ _ _ _ _ _ => rfl, vectorWord_of_execVec fun _ _ _ _ _ _ _ => rfl,
   add fun _ _ _ _ _ _ _ => rfl, add fun _ _ _ _ _ _ _ => rfl, add fun _ _ _ _ _ _ _ => rfl, add fun _ _ _ _ _ _ _ => rfl,
   vectorWord_of_execVec fun _ _ _ _ _ _ _ => rfl, vectorWord_of_execVec fun _ _ _ _ _ _ _ => rfl⟩

theorem vectorBitsAndCompares_holds : vectorBitsAndCompares := by
  refine ⟨?_, ?_, ?_, ?_, ?_, ?_, ?_, ?_, ?_, ?_, ?_, ?_⟩ <;> exact vectorWord_of_execVec fun _ _ _ _ _ _ _ => rfl

theorem vectorConversionsAndLanes_holds : vectorConversionsAndLanes := by
  refine ⟨?_, ?_, ?_, ?_, ?_, ?_, ?_, ?_, ?_, ?_, ?_, ?_, ?_, ?_⟩ <;> exact vectorWord_of_execVec fun _ _ _ _ _ _ _ => rfl

/-! ### Integer lanes are bit vectors (R52, R128) -/

theorem laneOf_lt (s x i : Nat) : laneOf s x i < 2 ^ s := Nat.mod_lt _ (by positivity)

theorem ofInt_sub (w : Nat) (x y : Int) : BitVec.ofInt w (x - y) = .ofInt w x - .ofInt w y := by
  rw [Int.sub_eq_add_neg, BitVec.ofInt_add, BitVec.ofInt_neg, BitVec.sub_eq_add_neg]

/-- Three lists of lanes walked are the lanes' numbers walked. -/
theorem zip3_map (f : Nat → Nat → Nat → Nat × Nat) (a t b : Nat → Nat) (l : List Nat) :
    zip3 f (l.map a) (l.map t) (l.map b) = l.map fun i => f (a i) (t i) (b i) := by
  induction l with
  | nil => rfl
  | cons i l ih => simp only [List.map_cons, zip3, ih]

/-- An operation that takes a function of the operands in every lane is one on bit vectors, where that function is one on bit vectors
of the lanes' width. -/
theorem integerLanes_of_lane {op : VOp} {lane : ∀ w : Nat, BitVec w → BitVec w → BitVec w → BitVec w}
    (f : Nat → Nat → Nat → Nat → Nat)
    (hop : ∀ v mask, 3 ≤ v.ty → v.s = typeWidth v.ty →
      op v mask = v.own (zip3 (fun a t b => (f v.ty a t b, 0)) v.as v.ts v.bs))
    (hf : ∀ ty, ∀ a t b : BitVec (typeWidth ty), f ty a.toNat t.toNat b.toNat = (lane (typeWidth ty) a t b).toNat) :
    integerLanes op lane := fun v mask hlo _ hs => by
  have hlane : ∀ x i, laneOf v.s x i = (BitVec.ofNat v.s (laneOf v.s x i)).toNat := fun x i => by
    rw [BitVec.toNat_ofNat, Nat.mod_eq_of_lt (laneOf_lt _ _ _)]
  rw [hop v mask hlo hs, VArgs.own, VArgs.as, VArgs.ts, VArgs.bs, lanesOf, lanesOf, lanesOf, zip3_map]
  congr 5
  funext i
  rw [hs] at hlane ⊢
  rw [hlane v.a i, hlane v.t i, hlane v.b i, hf]
  simp only [BitVec.ofNat_toNat, BitVec.setWidth_eq]

/-- The integer in a lane wraps to the lane's bits. -/
theorem ofInt_laneInt (ty : Nat) (a : BitVec (typeWidth ty)) : BitVec.ofInt (typeWidth ty) (laneInt ty a.toNat) = a := by
  rw [laneInt]
  split
  · rw [BitVec.ofInt_natCast, BitVec.ofNat_toNat, BitVec.setWidth_eq]
  · rw [signedOf_toNat, BitVec.ofInt_toInt]

/-- An element-wise integer operation is the one on bit vectors that it is modulo the lanes' width. -/
theorem integerLanes_elementwise {fl : Fmt → Nat → Nat → Nat → Nat × Nat} {int : Int → Int → Int → Int}
    {lane : ∀ w : Nat, BitVec w → BitVec w → BitVec w → BitVec w}
    (h : ∀ (w : Nat) (x y z : Int), BitVec.ofInt w (int x y z) = lane w (.ofInt w x) (.ofInt w y) (.ofInt w z)) :
    integerLanes (elementwise fl int) lane := by
  refine integerLanes_of_lane
    (fun ty a t b => wrapTo (typeWidth ty) (int (laneInt ty a) (laneInt ty t) (laneInt ty b)))
    (fun v mask hty hs => ?_) fun ty a t b => ?_
  · have hf : isF v.ty = false := by simp [isF]; omega
    simp only [elementwise, hf, hs, Bool.false_eq_true, if_false]
  · rw [wrapTo_eq_toNat_ofInt, h, ofInt_laneInt, ofInt_laneInt, ofInt_laneInt]

/-- A bit-moving operation is the one on bit vectors that it is at every width. -/
theorem integerLanes_bitwise {f : Nat → Nat → Nat → Nat} {lane : ∀ w : Nat, BitVec w → BitVec w → BitVec w → BitVec w}
    (h : ∀ (w : Nat) (a t b : BitVec w), f w a.toNat t.toNat = (lane w a t b).toNat) : integerLanes (bitwise f) lane :=
  integerLanes_of_lane (fun ty a t _ => f (typeWidth ty) a t) (fun v mask _ hs => by rw [bitwise, hs])
    fun _ a t b => h _ a t b

section
variable {w : Nat} (a t : BitVec w)

theorem vshlOf_toNat : vshlOf w a.toNat t.toNat = (a <<< t).toNat := by
  rw [vshlOf, BitVec.shiftLeft_eq', BitVec.toNat_shiftLeft, Nat.shiftLeft_eq]
  split
  · next h => rw [Nat.mod_eq_zero_of_dvd (Dvd.dvd.mul_left (Nat.pow_dvd_pow 2 h) _)]
  · rfl

theorem vshrOf_toNat : vshrOf w a.toNat t.toNat = (a >>> t).toNat := by
  rw [vshrOf, BitVec.ushiftRight_eq', BitVec.toNat_ushiftRight, Nat.shiftRight_eq_div_pow]
  split
  · next h => rw [Nat.div_eq_of_lt (a.isLt.trans_le (Nat.pow_le_pow_right (by decide) h))]
  · rfl

/-- A shift right by the width or more leaves the sign. -/
theorem toInt_div_of_le {k : Nat} (h : w ≤ k) : a.toInt / 2 ^ k = if a.toInt < 0 then -1 else 0 := by
  have hlo := BitVec.le_two_mul_toInt (x := a)
  have hhi := BitVec.two_mul_toInt_lt (x := a)
  have hk : (2 : Int) ^ w ≤ 2 ^ k := pow_le_pow_right₀ (by decide) h
  have hpos : (0 : Int) < 2 ^ w := by positivity
  split
  · refine ((Int.ediv_emod_unique (r := a.toInt + 2 ^ k) (by positivity)).mpr ⟨?_, ?_, ?_⟩).1 <;> omega
  · exact Int.ediv_eq_zero_of_lt (by omega) (by omega)

theorem toInt_div_two_pow_min (k : Nat) : a.toInt / 2 ^ min k w = a.toInt / 2 ^ k := by
  rcases le_total k w with h | h
  · rw [min_eq_left h]
  · rw [min_eq_right h, toInt_div_of_le a le_rfl, toInt_div_of_le a h]

theorem vsarOf_toNat : vsarOf w a.toNat t.toNat = (a.sshiftRight t.toNat).toNat := by
  rw [vsarOf, wrapTo_eq_toNat_ofInt, signedOf_toNat, BitVec.sshiftRight, Int.shiftRight_eq_div_pow]
  push_cast
  rw [toInt_div_two_pow_min]

end

theorem vectorIntegerLanes_holds : vectorIntegerLanes :=
  ⟨integerLanes_elementwise fun _ _ _ _ => BitVec.ofInt_add _ _,
   integerLanes_elementwise fun _ _ _ _ => ofInt_sub _ _ _,
   integerLanes_elementwise fun _ _ _ _ => BitVec.ofInt_mul _ _,
   integerLanes_elementwise fun _ _ _ _ => by rw [BitVec.ofInt_add, BitVec.ofInt_mul],
   integerLanes_elementwise fun _ _ _ _ => by rw [ofInt_sub, BitVec.ofInt_mul],
   integerLanes_elementwise fun _ _ _ _ => BitVec.ofInt_neg,
   integerLanes_bitwise fun _ a t _ => (BitVec.toNat_and a t).symm,
   integerLanes_bitwise fun _ a t _ => (BitVec.toNat_or a t).symm,
   integerLanes_bitwise fun _ a t _ => (BitVec.toNat_xor a t).symm,
   integerLanes_bitwise fun _ a t _ => vshlOf_toNat a t,
   integerLanes_bitwise fun _ a t _ => vshrOf_toNat a t,
   integerLanes_bitwise fun _ a t _ => vsarOf_toNat a t⟩

/-- Settles O4: every vector trigger issues in one way (`execVec_of_guard`), and each integer operation on lanes is the one on bit
vectors. -/
theorem vectorWords : Obligations.VectorWords :=
  ⟨vectorArithmetic_holds, vectorBitsAndCompares_holds, vectorConversionsAndLanes_holds, vectorIntegerLanes_holds⟩

end Sys2Proof.NumberProofs
end

section
/-!
PROOFS. The weight engine (R66, R139 to R143): accumulation within the bound and past it, clears and copies, and the vector
registers that a flush sends.
-/
open Sys2Proof Sys2Proof.Machine Sys2Proof.Claims Sys2Proof.CoreProofs

namespace Sys2Proof.NumberProofs

/-! ### Accumulation (R66, R140) -/

theorem imm8_eq_toInt (i : BitVec 8) : imm8 i = i.toInt := signedOf_toNat i

/-- How a word that adds to an accumulator issues, an a register and a y register alike. -/
def AccumulatesAt (i : Instr) (w : BitVec 1) (dest : Dest) (key : Nat) (lm : BitVec 3) (imm : BitVec 8) (old grow : Core → Nat)
    (f : Core → Nat → Residue → Residue) : Prop :=
  ∀ s : State, exec i s = issue (5 + w.toNat) (fun s => do
    need (s.core.immOk imm) .illop
    accumulate w dest key (old s.core) lm (grow s.core) (f s.core) s) s

section
variable {i : Instr} {w : BitVec 1} {dest : Dest} {key : Nat} {lm : BitVec 3} {imm : BitVec 8} {old grow : Core → Nat}
  {f : Core → Nat → Residue → Residue} {legal : Core → Bool}

/-- Within the largest bound the lanes and the bound are sent. -/
theorem AccumulatesAt.accumulates (h : AccumulatesAt i w dest key lm imm old grow f)
    (hl : ∀ c, legal c = true → c.immOk imm = true) :
    accumulates (fun _ => i) legal (5 + w.toNat) dest key lm old grow f := fun s hs hb => by
  rw [h]
  refine issue_ok ?_
  rw [hl _ hs, need_true, bind_ok, accumulate, decide_eq_true hb, need_true]
  rfl

/-- Past the largest bound the word traps. -/
theorem AccumulatesAt.pastBound (h : AccumulatesAt i w dest key lm imm old grow f)
    (hl : ∀ c, legal c = true → c.immOk imm = true) : pastBound i (5 + w.toNat) key legal grow := fun s hs hb => by
  refine ⟨_, (h s).trans (issue_trap (k := .accrange) ?_), rfl, rfl, rfl⟩
  rw [hl _ hs, need_true, bind_ok, accumulate, decide_eq_false (Nat.not_le.mpr hb), need_false]
  rfl

end

/-- A word without an imm8 is legal under every weight pair. -/
theorem immOk_zero (c : Core) : c.immOk 0 = true := by
  rw [Core.immOk, imm8_eq_toInt]; simp

/-- The words that add, each with its register, bound, growth and sum: the arms of `exec`, by definition. -/
theorem accumulatesAt (w : BitVec 1) (a x : BitVec 6) (y : BitVec 4) (i : BitVec 8) (lm : BitVec 3) :
    AccumulatesAt (.wmac w a x i lm) w (.a a.toNat) (4 + a.toNat) lm i (·.accA a.toNat)
      (fun _ => 128 * (imm8 i).natAbs) (fun c l r => rAdd r (rMul (res (imm8 i)) (c.elemX x.toNat l))) ∧
    AccumulatesAt (.wmacy w a y i lm) w (.a a.toNat) (4 + a.toNat) lm i (·.accA a.toNat)
      (fun c => (imm8 i).natAbs * c.boundAt (68 + y.toNat))
      (fun c l r => rAdd r (rMul (res (imm8 i)) (elemAt (c.accY y.toNat) l))) ∧
    AccumulatesAt (.wadd w a x lm) w (.a a.toNat) (4 + a.toNat) lm 0 (·.accA a.toNat)
      (fun _ => 128) (fun c l r => rAdd r (c.elemX x.toNat l)) ∧
    AccumulatesAt (.wsub w a x lm) w (.a a.toNat) (4 + a.toNat) lm 0 (·.accA a.toNat)
      (fun _ => 128) (fun c l r => rSub r (c.elemX x.toNat l)) ∧
    AccumulatesAt (.waddy w a y lm) w (.a a.toNat) (4 + a.toNat) lm 0 (·.accA a.toNat)
      (fun c => c.boundAt (68 + y.toNat)) (fun c l r => rAdd r (elemAt (c.accY y.toNat) l)) ∧
    AccumulatesAt (.wsuby w a y lm) w (.a a.toNat) (4 + a.toNat) lm 0 (·.accA a.toNat)
      (fun c => c.boundAt (68 + y.toNat)) (fun c l r => rSub r (elemAt (c.accY y.toNat) l)) ∧
    AccumulatesAt (.ymac w y x i lm) w (.y y.toNat) (68 + y.toNat) lm i (·.accY y.toNat)
      (fun _ => 128 * (imm8 i).natAbs) (fun c l r => rAdd r (rMul (res (imm8 i)) (c.elemX x.toNat l))) ∧
    AccumulatesAt (.yadd w y x lm) w (.y y.toNat) (68 + y.toNat) lm 0 (·.accY y.toNat)
      (fun _ => 128) (fun c l r => rAdd r (c.elemX x.toNat l)) ∧
    AccumulatesAt (.ysub w y x lm) w (.y y.toNat) (68 + y.toNat) lm 0 (·.accY y.toNat)
      (fun _ => 128) (fun c l r => rSub r (c.elemX x.toNat l)) :=
  ⟨fun _ => rfl, fun _ => rfl, fun _ => rfl, fun _ => rfl, fun _ => rfl, fun _ => rfl, fun _ => rfl, fun _ => rfl, fun _ => rfl⟩

theorem weightAccumulation_holds : weightAccumulation := fun w a x y i lm => by
  obtain ⟨hmac, hmacy, hadd, hsub, haddy, hsuby, hymac, hyadd, hysub⟩ := accumulatesAt w a x y i lm
  simp only [← imm8_eq_toInt]
  exact ⟨hmac.accumulates fun _ => id, hmacy.accumulates fun _ => id, hadd.accumulates fun c _ => immOk_zero c,
    hsub.accumulates fun c _ => immOk_zero c, haddy.accumulates fun c _ => immOk_zero c,
    hsuby.accumulates fun c _ => immOk_zero c, hymac.accumulates fun _ => id, hyadd.accumulates fun c _ => immOk_zero c,
    hysub.accumulates fun c _ => immOk_zero c⟩

theorem accumulationPastBoundTraps_holds : accumulationPastBoundTraps := fun w a x y i lm => by
  obtain ⟨hmac, hmacy, hadd, hsub, haddy, hsuby, hymac, hyadd, hysub⟩ := accumulatesAt w a x y i lm
  simp only [← imm8_eq_toInt]
  exact ⟨hmac.pastBound fun _ => id, hmacy.pastBound fun _ => id, hadd.pastBound fun c _ => immOk_zero c,
    hsub.pastBound fun c _ => immOk_zero c, haddy.pastBound fun c _ => immOk_zero c,
    hsuby.pastBound fun c _ => immOk_zero c, hymac.pastBound fun _ => id, hyadd.pastBound fun c _ => immOk_zero c,
    hysub.pastBound fun c _ => immOk_zero c⟩

theorem weightClearsAndCopies_holds : weightClearsAndCopies := fun _ _ _ _ _ _ => ⟨rfl, rfl, rfl⟩

/-! ### Deliveries put among those in flight (R16) -/

theorem mem_insertDelivery (d e : Delivery) (l : List Delivery) : e ∈ insertDelivery d l ↔ e = d ∨ e ∈ l := by
  induction l with
  | nil => simp [insertDelivery]
  | cons x l ih =>
    rw [insertDelivery]
    split
    · exact List.mem_cons
    · rw [List.mem_cons, ih, List.mem_cons, or_left_comm]

theorem length_insertDelivery (d : Delivery) (l : List Delivery) : (insertDelivery d l).length = l.length + 1 := by
  induction l with
  | nil => rfl
  | cons x l ih =>
    rw [insertDelivery]
    split
    · rfl
    · rw [List.length_cons, ih, List.length_cons]

/-- Those in flight once the deliveries of the places in a list are sent in turn. -/
def sentAll (d : Nat → Delivery) (js : List Nat) (l : List Delivery) : List Delivery :=
  js.foldl (fun l j => insertDelivery (d j) l) l

theorem mem_sentAll (d : Nat → Delivery) (js : List Nat) (l : List Delivery) (e : Delivery) :
    e ∈ sentAll d js l ↔ e ∈ l ∨ ∃ j ∈ js, e = d j := by
  induction js generalizing l with
  | nil => simp [sentAll]
  | cons j js ih =>
    have h : sentAll d (j :: js) l = sentAll d js (insertDelivery (d j) l) := rfl
    rw [h, ih, mem_insertDelivery, List.exists_mem_cons_iff, or_comm (a := e = d j), or_assoc]

theorem length_sentAll (d : Nat → Delivery) (js : List Nat) (l : List Delivery) :
    (sentAll d js l).length = l.length + js.length := by
  induction js generalizing l with
  | nil => rfl
  | cons j js ih =>
    have h : sentAll d (j :: js) l = sentAll d js (insertDelivery (d j) l) := rfl
    rw [h, ih, length_insertDelivery, List.length_cons, Nat.add_right_comm, Nat.add_assoc]

/-! ### WFLUSH (R143) -/

section
variable (w : BitVec 1) (a : BitVec 6) (d : BitVec 5) (lm : BitVec 3)

theorem flushTo_eq_send (sc bits j : Nat) (s : State) :
    s.flushTo w a.toNat bits d lm sc (s.core.flushCheck w a.toNat lm) j =
      s.mod (·.send (flushedVector s w a d lm sc bits j)) := by
  have hfst : ∀ l : List Nat,
      (l.map (s.core.flushLane a.toNat sc)).map (·.1) = l.map fun i => (s.core.flushLane a.toNat sc i).1 :=
    fun _ => List.map_map
  rw [State.flushTo, flushedVector]
  simp only [hfst]
  rfl

/-- The registers of a WFLUSH are sent one by one, each from the accumulator as the word found it. -/
theorem foldl_flushTo (sc bits : Nat) (js : List Nat) (s : State) :
    js.foldl (fun s' j => s'.flushTo w a.toNat bits d lm sc (s.core.flushCheck w a.toNat lm) j) s =
      s.mod fun c => { c with qs := { c.qs with flight := sentAll (flushedVector s w a d lm sc bits) js c.qs.flight } } := by
  induction js generalizing s with
  | nil => rfl
  | cons j js ih =>
    have hv : flushedVector (s.mod (·.send (flushedVector s w a d lm sc bits j))) w a d lm sc bits =
      flushedVector s w a d lm sc bits := rfl
    have h := ih (s.mod (·.send (flushedVector s w a d lm sc bits j)))
    rw [hv] at h
    rw [List.foldl_cons, flushTo_eq_send]
    exact h

end

theorem popScales_one {s : State} {sc : BitVec 16} {rest : List (BitVec 16)} (h : s.core.qs.scale = sc :: rest) :
    s.popScales 1 = .ok ([sc.toNat], s.mod fun c => { c with qs := { c.qs with scale := rest } }) := by
  simp [State.popScales, State.mod, h]

/-- A WFLUSH with a scale queued and aligned destinations: the scale is popped, its registers are sent and WFMT is busy. -/
theorem exec_wflush {w : BitVec 1} {a : BitVec 6} {d : BitVec 5} {lm : BitVec 3} {s : State} {sc : BitVec 16} {rest : List (BitVec 16)}
    (hs : s.core.qs.scale = sc :: rest) (hd : d.toNat % (if outFmt s.core.eng.wfmt.toNat = f32 then 4 else 2) = 0) :
    exec (.wflush w a d lm) s = .next (s.mod fun c => { c with
      qs := { c.qs with
        scale := rest
        flight := sentAll (flushedVector s w a d lm sc.toNat (if outFmt s.core.eng.wfmt.toNat = f32 then 32 else 16))
          (List.range (if outFmt s.core.eng.wfmt.toNat = f32 then 4 else 2)) c.qs.flight }
      eng := { c.eng with busyPairs := (s.cycle + 12, 4) :: c.eng.busyPairs } }) := by
  show execWflush w a d lm s = _
  refine issue_ok ?_
  have hreg : (d.toNat % (if outFmt s.core.eng.wfmt.toNat = f32 then 4 else 2) == 0) = true := beq_iff_eq.mpr hd
  have hsent := foldl_flushTo w a d lm sc.toNat (if outFmt s.core.eng.wfmt.toNat = f32 then 32 else 16)
    (List.range (if outFmt s.core.eng.wfmt.toNat = f32 then 4 else 2))
    (s.mod fun c => { c with qs := { c.qs with scale := rest } })
  simp only [popScales_one hs, bind_ok, hreg, need_true, pure_ok]
  exact congrArg (fun u : State => Except.ok (u.mod fun c => { c with
    eng := { c.eng with busyPairs := (u.cycle + 12, 4) :: c.eng.busyPairs } })) hsent

theorem weightFlush_holds : weightFlush := fun w a d lm s sc rest hs hd => by
  refine ⟨_, exec_wflush hs hd, rfl, rfl, rfl, rfl, rfl, rfl, ?_, fun e => ?_⟩
  · exact (length_sentAll _ _ _).trans (by rw [List.length_range])
  · refine (mem_sentAll _ _ _ e).trans (or_congr .rfl (exists_congr fun j => ?_))
    rw [List.mem_range]
/-- Settles O7: a word that adds issues in one way (`AccumulatesAt`), and a flush sends its registers in turn (`foldl_flushTo`). -/
theorem weightWords : Obligations.WeightWords :=
  ⟨weightAccumulation_holds, accumulationPastBoundTraps_holds, weightClearsAndCopies_holds, weightFlush_holds⟩

end Sys2Proof.NumberProofs
end

section
/-!
PROOFS. The tile engine's products at issue (R66, R146 to R151): what starting one leaves, once, and the waits for literals.
-/
open Sys2Proof Sys2Proof.Machine Sys2Proof.Claims Sys2Proof.CoreProofs

namespace Sys2Proof.NumberProofs

/-- What taking literal words changes: the count of those taken, and when the word behind them is there (R149). -/
theorem literals_cases {s s' : State} {n : Nat} {ws : List (List Byte)} (h : s.literals n = .ok (ws, s')) :
    ∃ lits ready, s' = s.mod fun k => { k with ctx := { k.ctx with lits := lits }, qs := { k.qs with litReady := ready } } := by
  simp only [State.literals, bind_eq_ok, need_eq_ok, exists_const] at h
  obtain ⟨-, h⟩ := h
  split at h
  · cases h
  · cases h; exact ⟨_, _, rfl⟩

/-- A tile-engine word under a guard that holds issues. -/
theorem execX_of_guard {g : BitVec 6} {s : State} (hg : s.core.guardP g = true) (act : State → Except Stop State) :
    execX g act s = issue 7 act s := by rw [execX, hg, issueIf_true]

section
variable {s : State} {f c : BitVec 2} {tr sp skip : Bool} {a0 a1 b : TileBits} {m : BitVec 512}

theorem mmaReady_ok (hfree : s.core.eng.arrayFree ≤ s.cycle)
    (hb : s.core.boundAt c.toNat + mmaBound (s.core.pairOf f.toNat) ≤ boundMax) : s.mmaReady f c = .ok () := by
  have hp : decide (s.core.partFree .array ≤ s.cycle) = true := decide_eq_true hfree
  have hn : decide (s.core.mmaNext f.toNat c.toNat ≤ boundMax) = true := decide_eq_true hb
  rw [State.mmaReady, State.partReady, hp, hn, need_true, need_true, bind_ok]

/-- A product on a free array, within the bound: the job is under way, and the engine alone has changed. -/
theorem startMma_ok (hfree : s.core.eng.arrayFree ≤ s.cycle)
    (hb : s.core.boundAt c.toNat + mmaBound (s.core.pairOf f.toNat) ≤ boundMax) :
    s.startMma f c tr sp skip a0 a1 b m = .ok (s.mod fun k => { k with eng := { k.eng with
      arrayFree := s.cycle + (if s.core.pairOf f.toNat = 3 then 32 else 64)
      bound := k.eng.bound.set 0 c.toNat (BitVec.ofNat 64 (s.core.mmaNext f.toNat c.toNat))
      mmaCount := k.eng.mmaCount.set 0 c.toNat (BitVec.ofNat 64 ((k.eng.mmaCount.get 0 c.toNat).toNat + 1))
      mmas := k.eng.mmas ++ [⟨s.cycle + (if s.core.pairOf f.toNat = 3 then 32 else 64) + 8, s.core.orderOf 7, c.toNat,
        s.core.pairOf f.toNat, tr, sp, skip, a0, a1, b, m, mmaBound (s.core.pairOf f.toNat)⟩]
      busyPairs := (s.cycle + (if s.core.pairOf f.toNat = 3 then 32 else 64) + 8, f.toNat) :: k.eng.busyPairs } }) := by
  simp only [State.startMma, mmaReady_ok hfree hb, bind_ok, pure_ok, Core.inFlight, Core.setCount, Core.setBound, Core.occupy]

/-- A word that starts a product from `s'`, which differs from the state that it issues in by the literals taken. -/
theorem multiplies_of_startMma {i : Instr} {act : State → Except Stop State} {s' : State} {lits ready : Nat}
    (hs : s' = s.mod fun k => { k with ctx := { k.ctx with lits := lits }, qs := { k.qs with litReady := ready } })
    (hi : exec i s = issue 7 act s) (hact : act s = s'.startMma f c tr sp skip a0 a1 b m)
    (hfree : s.core.eng.arrayFree ≤ s.cycle)
    (hb : s.core.boundAt c.toNat + mmaBound (s.core.pairOf f.toNat) ≤ boundMax) :
    multiplies i s s' f c tr sp skip a0 a1 b m := by
  subst hs
  rw [startMma_ok (by exact hfree) (by exact hb)] at hact
  refine ⟨_, hi.trans (issue_ok hact), rfl, rfl, ?bound, rfl, rfl, rfl, rfl, rfl, rfl, rfl⟩
  case bound =>
    rw [Core.boundAt, State.mod_core, Table.get_set_same, BitVec.toNat_ofNat]
    rfl

end

/-- Settles O8: each form reads its tiles and its literals, and starts one product (`multiplies_of_startMma`). -/
theorem tileProducts : Obligations.TileProducts := fun f c a b g s x y hg hfree hb hx => by
  have issues := execX_of_guard hg
  have ready := mmaReady_ok hfree hb
  refine ⟨fun hy => ⟨?mma, ?mmat⟩, fun ws s' hl hw => ?mmal, fun hl => ?mmalWait, fun z hz hl => ?mmalsWait,
    fun z ws s' he hz hl hw => ?mmals⟩
  case mma =>
    refine multiplies_of_startMma (lits := s.core.ctx.lits) (ready := s.core.qs.litReady) rfl (issues _) ?_ hfree hb
    rw [hx, bind_ok, hy, bind_ok]
  case mmat =>
    refine multiplies_of_startMma (lits := s.core.ctx.lits) (ready := s.core.qs.litReady) rfl (issues _) ?_ hfree hb
    rw [hx, bind_ok, hy, bind_ok]
  case mmal =>
    obtain ⟨lits, r, hs⟩ := literals_cases hw
    refine multiplies_of_startMma hs (issues _) ?_ hfree hb
    rw [hx, bind_ok, State.literalsReady, decide_eq_false (Nat.not_lt.mpr hl), waitWhile_false, bind_ok, ready, bind_ok, hw, bind_ok]
  case mmalWait =>
    refine (issues _).trans (issue_stall ?_)
    rw [hx, bind_ok, State.literalsReady, decide_eq_true hl, waitWhile_true, bind_error]
  case mmalsWait =>
    refine (issues _).trans (issue_stall ?_)
    rw [hx, bind_ok, hz, bind_ok, State.literalsReady, decide_eq_true hl, waitWhile_true, bind_error]
  case mmals =>
    have hnext : (a.toNat + 1) % 16 = a.toNat + 1 := Nat.mod_eq_of_lt (by omega)
    obtain ⟨lits, r, hs⟩ := literals_cases hw
    refine multiplies_of_startMma hs (issues _) ?_ hfree hb
    rw [hx, bind_ok, hnext, hz, bind_ok, State.literalsReady, decide_eq_false (Nat.not_lt.mpr hl), waitWhile_false, bind_ok,
      beq_iff_eq.mpr he, need_true, bind_ok, ready, bind_ok, hw, bind_ok]

end Sys2Proof.NumberProofs
end

section
/-!
PROOFS. The delivery of a product (R63, R147, R148, R150): the sums of a job as one grid of rows and columns, and their way into the
accumulator's elements.
-/
open Sys2Proof Sys2Proof.Machine Sys2Proof.Claims Sys2Proof.CoreProofs

namespace Sys2Proof.NumberProofs

/-! ### Registers of lanes and of elements (R61) -/

/-- A lane of the number of a list of lanes is the entry, within the lane's width. -/
theorem laneOf_ofLanes (s : Nat) (l : List Nat) (i : Nat) : laneOf s (ofLanes s l) i = l.getD i 0 % 2 ^ s := by
  induction l generalizing i with
  | nil => simp [ofLanes, laneOf]
  | cons x l ih =>
    have hpos : 0 < 2 ^ s := by positivity
    cases i with
    | zero => simp [ofLanes, laneOf]
    | succ i =>
      have hdiv : (x % 2 ^ s + 2 ^ s * ofLanes s l) / 2 ^ s = ofLanes s l := by
        rw [Nat.add_mul_div_left _ _ hpos, Nat.div_eq_of_lt (Nat.mod_lt _ hpos), Nat.zero_add]
      rw [ofLanes, laneOf, Nat.mul_succ, Nat.add_comm (s * i), pow_add, ← Nat.div_div_eq_div_mul, hdiv, List.getD_cons_succ,
        ← ih, laneOf]

/-- An element whose channels fit is what its 53 bits hold (R61). -/
theorem unpack_pack {r : Residue} (hk : r.ck < 2 ^ 13) (h3 : r.ch3 < 2 ^ 14) (h2 : r.ch2 < 2 ^ 13) (h1 : r.ch1 < 2 ^ 13) :
    Residue.unpack (r.pack % 2 ^ 53) = r := by
  obtain ⟨ck, ch3, ch2, ch1⟩ := r
  simp only [Residue.unpack, Residue.pack, fieldOf, Residue.mk.injEq]
  simp only at hk h3 h2 h1
  refine ⟨?_, ?_, ?_, ?_⟩ <;> omega

/-- A sum's channels lie below their moduli, so a register holds it as it is. -/
theorem unpack_pack_rAdd (p q : Residue) : Residue.unpack ((rAdd p q).pack % 2 ^ 53) = rAdd p q := by
  have lt : ∀ {x m n : Nat}, 0 < m → m ≤ n → x % m < n := fun hm h => (Nat.mod_lt _ hm).trans_le h
  exact unpack_pack (lt (by decide) (by decide)) (lt (by decide) (by decide)) (lt (by decide) (by decide))
    (lt (by decide) (by decide))

/-- An element of a register made from as many elements. -/
theorem elemAt_ofElems_range (g : Nat → Residue) {n e : Nat} (he : e < n) :
    elemAt (ofElems ((List.range n).map g)) e = Residue.unpack ((g e).pack % 2 ^ 53) := by
  rw [elemAt, ofElems, laneOf_ofLanes, List.map_map, List.getD_eq_getElem _ _ (by simpa using he)]
  simp

/-! ### Grids of rows and columns -/

/-- Rows of 64 laid end to end. -/
theorem flatMap_rows {α : Type} (n : Nat) (g : Nat → Nat → α) :
    ((List.range n).flatMap fun i => (List.range 64).map (g i)) = (List.range (64 * n)).map fun e => g (e / 64) (e % 64) := by
  induction n with
  | zero => rfl
  | succ n ih =>
    rw [List.range_succ (n := n), List.flatMap_append, ih, Nat.mul_succ, List.range_add, List.map_append, List.map_map,
      List.flatMap_singleton]
    congr 1
    refine List.map_congr_left fun k hk => ?_
    have hk := List.mem_range.mp hk
    rw [Function.comp_apply, show (64 * n + k) / 64 = n by omega, show (64 * n + k) % 64 = k by omega]

/-- Rows of 64 cut from a list. -/
theorem rowsOf_range (n : Nat) (g : Nat → Int) :
    rowsOf n ((List.range (64 * n)).map g) = (List.range n).map fun i => (List.range 64).map fun k => g (64 * i + k) := by
  induction n generalizing g with
  | zero => rfl
  | succ n ih =>
    have hsplit : List.range (64 * (n + 1)) = List.range 64 ++ (List.range (64 * n)).map (64 + ·) := by
      rw [← List.range_add, Nat.mul_succ, Nat.add_comm]
    rw [rowsOf, hsplit, List.map_append, List.take_left' (by simp), List.drop_left' (by simp), List.map_map, ih,
      List.range_succ_eq_map (n := n), List.map_cons, List.map_map]
    congr 1
    refine List.map_congr_left fun i _ => ?_
    rw [Function.comp_apply, Nat.mul_succ]
    refine List.map_congr_left fun k _ => congrArg g ?_
    show 64 + (64 * i + k) = 64 * i + 64 + k
    omega

/-- The columns of a grid. -/
theorem columns_range (m n : Nat) (g : Nat → Nat → Int) :
    columns n ((List.range m).map fun i => (List.range n).map (g i)) =
      (List.range n).map fun k => (List.range m).map fun i => g i k := by
  induction n generalizing g with
  | zero => rfl
  | succ n ih =>
    have hhead : ∀ i, ((List.range (n + 1)).map (g i)).headD 0 = g i 0 := fun i => by rw [List.range_succ_eq_map]; rfl
    have htail : ∀ i, ((List.range (n + 1)).map (g i)).drop 1 = (List.range n).map fun k => g i (k + 1) := fun i => by
      rw [List.range_succ_eq_map, List.map_cons, List.drop_one, List.tail_cons, List.map_map]; rfl
    simp only [columns, List.map_map, Function.comp_def, hhead, htail]
    rw [ih, List.range_succ_eq_map, List.map_cons, List.map_map]
    rfl

theorem dot_map {α : Type} (l : List α) (a b : α → Int) : dot (l.map a) (l.map b) = (l.map fun u => a u * b u).sum := by
  induction l with
  | nil => rfl
  | cons u l ih => rw [List.map_cons, List.map_cons, dot, ih, List.map_cons, List.sum_cons]

theorem getD_range (g : Nat → Int) {n u : Nat} (h : u < n) : ((List.range n).map g).getD u 0 = g u := by
  rw [List.getD_eq_getElem _ _ (by simpa using h)]; simp

/-- An entry of two rows laid end to end. -/
theorem getD_append_range (g h : Nat → Int) {v : Nat} (hv : v < 128) :
    ((List.range 64).map g ++ (List.range 64).map h).getD v 0 = if v < 64 then g v else h (v - 64) := by
  split
  · next hlt => rw [List.getD_append _ _ _ _ (by simpa using hlt), getD_range g hlt]
  · next hge => rw [List.getD_append_right _ _ _ _ (by simpa using hge), List.length_map, List.length_range, getD_range h (by omega)]

/-! ### The sums of a job (R148, R150) -/

theorem tileElems_eq (q4 : Bool) (t : Nat) : tileElems q4 t = (List.range 4096).map fun e =>
    if q4 then signedOf 4 (laneOf 4 t e) else signedOf 8 (laneOf 8 t e) := by
  cases q4 <;> simp only [tileElems, lanesOf, List.map_map, Bool.false_eq_true, if_false, if_true] <;> rfl

/-- The rows of a tile are its operands, row by row. -/
theorem tileRows_eq (q4 : Bool) (t : TileBits) :
    tileRows q4 t = (List.range 64).map fun i => (List.range 64).map (operand q4 t i) := by
  rw [tileRows, tileElems_eq, rowsOf_range 64]
  rfl

theorem sparseIndex_lt (m u h : Nat) : sparseIndex m u h < 4 := by
  have hlane := laneOf_lt 4 m (4 * (u / 2) + h)
  simp only [sparseIndex]
  split <;> omega

/-- A sparse output is the sum over the places that the metadata selects. -/
theorem sparseDot_rows (m : Nat) (p q col : Nat → Int) (h : Nat) :
    sparseDot m ((List.range 64).map p ++ (List.range 64).map q) ((List.range 64).map col) h =
      ((List.range 64).map fun u => col u * (if 4 * (u / 2) + sparseIndex m u h < 64 then p (4 * (u / 2) + sparseIndex m u h)
        else q (4 * (u / 2) + sparseIndex m u h - 64))).sum := by
  rw [sparseDot]
  congr 1
  refine List.map_congr_left fun u hu => ?_
  have hu := List.mem_range.mp hu
  have hi := sparseIndex_lt m u h
  rw [getD_append_range p q (by omega), getD_range col hu, mul_comm]

/-- The products of a job, laid out row by row. -/
theorem sums_eq (j : MmaJob) : j.sums = (List.range 4096).map fun e => productAt j (e / 64) (e % 64) := by
  have hgrid := flatMap_rows 64 (productAt j)
  have hb : columns 64 (tileRows (pairB4 j.pair) j.b) =
      (List.range 64).map fun k => (List.range 64).map fun u => operand (pairB4 j.pair) j.b u k := by
    rw [tileRows_eq, columns_range]
  rw [← hgrid, MmaJob.sums, hb]
  by_cases hs : j.sparse = true
  · have hcols : ∀ B : Nat → List Int, ((List.range 64).map B).zip (List.range 64) = (List.range 64).map fun k => (B k, k) :=
      fun B => by simpa using List.zip_map' (f := B) (g := id) (l := List.range 64)
    simp only [hs, if_true, tileRows_eq, List.zip_map', hcols, List.flatMap_map, List.map_map, Function.comp_def, sparseDot_rows]
    refine congrArg (List.flatMap · _) (funext fun i => List.map_congr_left fun k _ => ?_)
    simp only [productAt, hs, if_true]
  · have hrows : (if j.transposed then columns 64 (tileRows (pairA4 j.pair) j.a0) else tileRows (pairA4 j.pair) j.a0) =
        (List.range 64).map fun i => (List.range 64).map fun u =>
          if j.transposed then operand (pairA4 j.pair) j.a0 u i else operand (pairA4 j.pair) j.a0 i u := by
      cases j.transposed
      · exact tileRows_eq _ _
      · rw [if_pos rfl, tileRows_eq, columns_range]; rfl
    simp only [hs, Bool.false_eq_true, if_false, hrows, List.flatMap_map, List.map_map, Function.comp_def, dot_map]
    refine congrArg (List.flatMap · _) (funext fun i => List.map_congr_left fun k _ => ?_)
    simp only [productAt, hs, Bool.false_eq_true, if_false, mul_comm]

/-! ### The delivery (R63, R147) -/

/-- The accumulator after a product: every element takes its sum. -/
def withProduct (c : Core) (j : MmaJob) : Nat :=
  ofElems ((List.range 4096).map fun e => rAdd (elemAt (c.accC j.c) e) (res (productAt j (e / 64) (e % 64))))

theorem elemAt_withProduct (c : Core) (j : MmaJob) {i k : Nat} (hi : i < 64) (hk : k < 64) :
    elemAt (withProduct c j) (64 * i + k) = rAdd (elemAt (c.accC j.c) (64 * i + k)) (res (productAt j i k)) := by
  rw [withProduct, elemAt_ofElems_range _ (by omega), unpack_pack_rAdd, show (64 * i + k) / 64 = i by omega,
    show (64 * i + k) % 64 = k by omega]

theorem landMma_of_skip {j : MmaJob} (h : j.skip = true) (c : Core) : c.landMma j = c := by rw [Core.landMma, h, if_pos rfl]

theorem landMma_of_not_skip {j : MmaJob} (h : j.skip = false) (c : Core) : c.landMma j = c.setC j.c (withProduct c j) := by
  have hz : (lanesOf 53 4096 (c.accC j.c)).zip j.sums =
      (List.range 4096).map fun e => (laneOf 53 (c.accC j.c) e, productAt j (e / 64) (e % 64)) := by
    rw [sums_eq, lanesOf, List.zip_map']
  rw [Core.landMma, h, if_neg (by decide), hz, List.map_map]
  rfl

/-- One product, due, is delivered. -/
theorem deliverMmas_one {c : Core} {j : MmaJob} {t : Nat} (hj : c.eng.mmas = [j]) (hd : j.due ≤ t) :
    c.deliverMmas t = ({ c with eng := { c.eng with mmas := [] } } : Core).landMma j := by
  simp [Core.deliverMmas, hj, hd]

/-- Settles O30: the job alone lands, as nothing where it is skipped, and otherwise as the sum of each row and column. -/
theorem productDelivery : Obligations.ProductDelivery := fun n s c j hn hc hd hj hdue => by
  have step := onCore_of_delivers hn hc hd fun t c => c.deliverMmas t
  rw [deliverMmas_one hj hdue] at step
  refine ⟨fun hskip => ?_, fun hskip _ => ?_⟩
  · rw [landMma_of_skip hskip] at step
    exact step
  · rw [landMma_of_not_skip hskip] at step
    obtain ⟨t, ht, hcore⟩ := step
    exact ⟨t, withProduct c j, ht, hcore, fun i k hi hk => elemAt_withProduct c j hi hk⟩

end Sys2Proof.NumberProofs
end

section
/-!
PROOFS. Leaving the accumulators (R65, R66, R68, R69, R152, R159): the elements of a flush land one after another, each at a place
of its own, and the scales of a quantisation end to end.
-/
open Sys2Proof Sys2Proof.Machine Sys2Proof.Claims Sys2Proof.CoreProofs

namespace Sys2Proof.NumberProofs

/-! ### Numbers in memory (R9) -/

theorem leNat_lt (l : List Byte) : leNat l < 256 ^ l.length := by
  induction l with
  | nil => simp [leNat]
  | cons b l ih =>
    have hb := b.isLt
    rw [leNat, List.length_cons, pow_succ]
    omega

theorem num_lt (m : Memory) (a n : Nat) : m.num a n < 256 ^ n := by
  have h := leNat_lt (m.bytes a n)
  rwa [Memory.bytes_length] at h

/-- A number is read from its own bytes alone. -/
theorem num_congr {m m' : Memory} {n : Nat} {a : Nat} (h : ∀ b, a ≤ b → b < a + n → m'.read b = m.read b) :
    m'.num a n = m.num a n := by
  suffices hb : m'.bytes a n = m.bytes a n by rw [Memory.num, Memory.num, hb]
  induction n generalizing a with
  | zero => rfl
  | succ n ih =>
    rw [Memory.bytes, Memory.bytes, h a le_rfl (by omega), ih fun b hlo hhi => h b (by omega) (by omega)]

theorem read_setNum_other (m : Memory) {a n x b : Nat} (h : b < a ∨ a + n ≤ b) : (m.setNum a n x).read b = m.read b :=
  Memory.read_store_other _ _ _ _ (by rwa [leBytes_length])

/-! ### One element (R69, R152) -/

/-- What stands at an element's place once the flush has come by. -/
theorem flushElem_value (r : Residue) (a b fmt old : Nat) (add : Bool) (mk : Nat) (masked : Bool) :
    ((flushElem r a b fmt (if add then old else 0) add mk masked).map (·.1)).getD old =
      flushedValue old r a b fmt add mk masked := by
  simp only [flushElem, flushedValue, Bool.and_eq_true, decide_eq_true_eq]
  by_cases hm : mk ≠ 0 ∧ masked = true
  · rw [if_pos hm, if_pos hm]
    by_cases h2 : mk = 2
    · rw [if_pos h2, if_pos h2, Option.map_some, Option.getD_some]
    · rw [if_neg h2, if_neg h2, Option.map_none, Option.getD_none]
  · rw [if_neg hm, if_neg hm, Option.map_some, Option.getD_some]
    cases add
    · simp only [Bool.false_eq_true, if_false]
    · simp only [if_true]

section
variable {c : Core} {t n i j a w : Nat} {e : Option (Nat × Nat)} {bad seen : Bool}

theorem landElem_eng : (landElem c t n i j a w e bad seen).1.eng = c.eng := by
  rcases e with _ | ⟨y, fl⟩ <;> cases bad <;> cases seen <;> rfl
theorem landElem_regs : (landElem c t n i j a w e bad seen).1.regs = c.regs := by
  rcases e with _ | ⟨y, fl⟩ <;> cases bad <;> cases seen <;> rfl
theorem landElem_seen : (landElem c t n i j a w e bad seen).2 = (seen || bad) := rfl

/-- An element that fails its check is reported where none has failed before it (R65). -/
theorem landElem_boundary : (landElem c t n i j a w e bad seen).1.boundary =
    c.boundary ++ if bad && !seen then [{ cause := .rnschk, slot := 7, coords := [n, i, j] }] else [] := by
  rcases e with _ | ⟨y, fl⟩ <;> cases bad <;> cases seen <;> simp [landElem]

theorem landElem_vault : (landElem c t n i j a w e bad seen).1.vault =
    match e with
    | none => c.vault
    | some y => c.vault.setNum a w y.1 := by
  rcases e with _ | ⟨y, fl⟩ <;> cases bad <;> cases seen <;> rfl

theorem landElem_read {b : Nat} (h : b < a ∨ a + w ≤ b) :
    (landElem c t n i j a w e bad seen).1.vault.read b = c.vault.read b := by
  rw [landElem_vault]
  cases e with
  | none => rfl
  | some y => exact read_setNum_other _ h

theorem landElem_num : (landElem c t n i j a w e bad seen).1.vault.num a w =
    (e.map (·.1)).getD (c.vault.num a w) % 256 ^ w := by
  rw [landElem_vault]
  cases e with
  | none => exact (Nat.mod_eq_of_lt (num_lt _ _ _)).symm
  | some y => exact Memory.num_setNum _ _ _ _

end

/-! ### All elements of a flush (R152) -/

/-- What an MFLUSH in flight carries. -/
structure Flush where
  c : Nat
  acc : BitVec 217088
  bnd : Nat
  rs : List (BitVec 16)
  cs : List (BitVec 16)
  base : Nat
  pitch : Nat
  add : Bool
  mode : Nat
  mask : BitVec 512
  fmt : BitVec 8

namespace Flush
variable (f : Flush)

/-- Its place among the exit operations in flight. -/
def job (due order : Nat) : ExitJob := .mflush due order f.c f.acc f.bnd f.rs f.cs f.base f.pitch f.add f.mode f.mask f.fmt

/-- Bytes of an element. -/
def width : Nat := rowBytes f.fmt.toNat / 64

/-- The place of element `e`, row by row. -/
def place (e : Nat) : Nat := f.base + 64 * f.pitch * (e / 64) + f.width * (e % 64)

/-- Whether element `e` passes its check and its bound (R65, R66). -/
def passes (e : Nat) : Bool := (elemAt f.acc.toNat e).passes f.bnd

/-- What the flush leaves of `old` at the place of element `e`. -/
def value (old e : Nat) : Nat :=
  flushedValue old (elemAt f.acc.toNat e) (f.rs.getD (e / 64) 0).toNat (f.cs.getD (e % 64) 0).toNat f.fmt.toNat f.add f.mode
    (maskedBy f.mask.toNat (e / 64) (e % 64))

/-- Element `e` lands in cycle `t`. -/
def step (t : Nat) (p : Core × Bool) (e : Nat) : Core × Bool :=
  landElem p.1 t f.c (e / 64) (e % 64) (f.place e) f.width
    (flushElem (elemAt f.acc.toNat e) (f.rs.getD (e / 64) 0).toNat (f.cs.getD (e % 64) 0).toNat f.fmt.toNat
      (if f.add then p.1.vault.num (f.place e) f.width else 0) f.add f.mode (maskedBy f.mask.toNat (e / 64) (e % 64)))
    (!f.passes e) p.2

/-- The first `n` elements landed, and whether one has failed. -/
def landed (t : Nat) (c : Core) (n : Nat) : Core × Bool := (List.range n).foldl (f.step t) (c, false)

theorem landed_succ (t : Nat) (c : Core) (n : Nat) : f.landed t c (n + 1) = f.step t (f.landed t c n) n := by
  rw [landed, List.range_succ, List.foldl_append]; rfl

theorem rowBytes_eq : rowBytes f.fmt.toNat = 64 * f.width := by
  unfold width rowBytes
  split <;> rfl

theorem step_num (t : Nat) (p : Core × Bool) (e : Nat) :
    (f.step t p e).1.vault.num (f.place e) f.width = f.value (p.1.vault.num (f.place e) f.width) e % 256 ^ f.width := by
  rw [step, landElem_num, flushElem_value]; rfl

/-- Rows do not overlap, so an element ends before the next begins. -/
theorem place_add_width_le (hp : rowBytes f.fmt.toNat ≤ 64 * f.pitch) {e e' : Nat} (h : e < e') :
    f.place e + f.width ≤ f.place e' := by
  rw [rowBytes_eq] at hp
  unfold place
  rcases (Nat.div_le_div_right h.le : e / 64 ≤ e' / 64).eq_or_lt with hrow | hrow
  · have hcol : e % 64 + 1 ≤ e' % 64 := by omega
    have := Nat.mul_le_mul_left f.width hcol
    rw [hrow]
    linarith
  · have hcol : e % 64 + 1 ≤ 64 := by omega
    have h1 := Nat.mul_le_mul_left f.width hcol
    have h2 := Nat.mul_le_mul_left (64 * f.pitch) (Nat.succ_le_of_lt hrow)
    rw [Nat.mul_succ] at h2
    have h3 := Nat.zero_le (f.width * (e' % 64))
    linarith

/-- The first `n` elements stand at their places, and nothing outside those places has changed. -/
theorem landed_vault (hp : rowBytes f.fmt.toNat ≤ 64 * f.pitch) (t : Nat) (c : Core) (n : Nat) :
    (∀ e < n, (f.landed t c n).1.vault.num (f.place e) f.width = f.value (c.vault.num (f.place e) f.width) e % 256 ^ f.width) ∧
    ∀ a, (∀ e < n, a < f.place e ∨ f.place e + f.width ≤ a) → (f.landed t c n).1.vault.read a = c.vault.read a := by
  induction n with
  | zero => exact ⟨fun e he => absurd he (Nat.not_lt_zero e), fun _ _ => rfl⟩
  | succ n ih =>
    obtain ⟨hnum, hread⟩ := ih
    rw [landed_succ]
    refine ⟨fun e he => ?_, fun a ha => ?_⟩
    · rcases Nat.lt_succ_iff_lt_or_eq.mp he with hlt | rfl
      · have hsep := f.place_add_width_le hp hlt
        rw [← hnum e hlt]
        exact num_congr fun b _ hb => landElem_read (.inl (by omega))
      · rw [step_num, num_congr fun b hlo _ => hread b fun e' he' => .inr ((f.place_add_width_le hp he').trans hlo)]
    · rw [← hread a fun e he => ha e (by omega)]
      exact landElem_read (ha n (by omega))

theorem landed_eng (t : Nat) (c : Core) (n : Nat) : (f.landed t c n).1.eng = c.eng := by
  induction n with
  | zero => rfl
  | succ n ih => rw [landed_succ, step, landElem_eng, ih]

theorem landed_regs (t : Nat) (c : Core) (n : Nat) : (f.landed t c n).1.regs = c.regs := by
  induction n with
  | zero => rfl
  | succ n ih => rw [landed_succ, step, landElem_regs, ih]

/-- Elements that pass are not reported. -/
theorem landed_of_passes (t : Nat) (c : Core) {n : Nat} (h : ∀ e < n, f.passes e = true) :
    (f.landed t c n).1.boundary = c.boundary ∧ (f.landed t c n).2 = false := by
  induction n with
  | zero => exact ⟨rfl, rfl⟩
  | succ n ih =>
    obtain ⟨hb, hs⟩ := ih fun e he => h e (by omega)
    rw [landed_succ, step, landElem_boundary, landElem_seen, hb, hs, h n (by omega)]
    exact ⟨List.append_nil _, rfl⟩

/-- The first element that fails is reported, and none after it (R65). -/
theorem landed_of_fails (t : Nat) (c : Core) {n e : Nat} (he : e < n) (hf : f.passes e = false)
    (hfirst : ∀ e' < e, f.passes e' = true) :
    (f.landed t c n).1.boundary = c.boundary ++ [{ cause := .rnschk, slot := 7, coords := [f.c, e / 64, e % 64] }] ∧
      (f.landed t c n).2 = true := by
  induction n with
  | zero => exact absurd he (Nat.not_lt_zero e)
  | succ n ih =>
    rw [landed_succ, step, landElem_boundary, landElem_seen]
    rcases Nat.lt_succ_iff_lt_or_eq.mp he with hlt | rfl
    · obtain ⟨hb, hs⟩ := ih hlt
      rw [hb, hs, Bool.not_true, Bool.and_false]
      exact ⟨List.append_nil _, rfl⟩
    · obtain ⟨hb, hs⟩ := f.landed_of_passes t c hfirst
      rw [hb, hs, hf]
      exact ⟨rfl, rfl⟩

/-- Lines that are to be written whole lose their marks of poison first (R376), and nothing else of the core changes. -/
theorem foldl_healPoison (lines : Nat → List Nat) (l : List Nat) (c : Core) :
    ∃ p, l.foldl (fun c i => c.healPoison (lines i)) c = { c with poison := p } := by
  induction l generalizing c with
  | nil => exact ⟨c.poison, rfl⟩
  | cons i l ih => exact ih (c.healPoison (lines i))

/-- The delivery of a flush: its elements land on the core as it is but for marks of poison. -/
theorem landExit_job (t due order : Nat) (c : Core) : ∃ d : Core, c.landExit t (f.job due order) = (f.landed t d 4096).1 ∧
    d.eng = c.eng ∧ d.regs = c.regs ∧ d.boundary = c.boundary ∧ d.vault = c.vault := by
  obtain ⟨p, hp⟩ := foldl_healPoison
    (fun i => flushedLines (f.base + 64 * f.pitch * i) f.width i f.mode f.mask.toNat) (List.range 64) c
  have hstep : f.step t = fun p e => f.step t p e := rfl
  refine ⟨{ c with poison := p }, ?_, rfl, rfl, rfl, rfl⟩
  rw [landed, ← hp, hstep, job, Core.landExit]
  simp only [step, place, passes, width]

/-- The element in a row and a column stands at its place. -/
theorem landed_num (hp : rowBytes f.fmt.toNat ≤ 64 * f.pitch) (t : Nat) (c : Core) {i j : Nat} (hi : i < 64) (hj : j < 64) :
    (f.landed t c 4096).1.vault.num (f.base + 64 * f.pitch * i + f.width * j) f.width =
      flushedValue (c.vault.num (f.base + 64 * f.pitch * i + f.width * j) f.width) (elemAt f.acc.toNat (64 * i + j))
        (f.rs.getD i 0).toNat (f.cs.getD j 0).toNat f.fmt.toNat f.add f.mode (maskedBy f.mask.toNat i j) % 2 ^ (8 * f.width) := by
  obtain ⟨hnum, -⟩ := f.landed_vault hp t c 4096
  have h := hnum (64 * i + j) (by omega)
  have hpow : 256 ^ f.width = 2 ^ (8 * f.width) := (pow_mul 2 8 f.width).symm
  rwa [place, value, show (64 * i + j) / 64 = i by omega, show (64 * i + j) % 64 = j by omega, hpow] at h

/-- A byte outside the rows stays. -/
theorem landed_read (hp : rowBytes f.fmt.toNat ≤ 64 * f.pitch) (t : Nat) (c : Core) {a : Nat}
    (ha : ∀ i < 64, a < f.base + 64 * f.pitch * i ∨ f.base + 64 * f.pitch * i + rowBytes f.fmt.toNat ≤ a) :
    (f.landed t c 4096).1.vault.read a = c.vault.read a := by
  obtain ⟨-, hread⟩ := f.landed_vault hp t c 4096
  refine hread a fun e he => ?_
  have hrow := ha (e / 64) (by omega)
  have hcol : e % 64 + 1 ≤ 64 := by omega
  have hw := Nat.mul_le_mul_left f.width hcol
  rw [rowBytes_eq] at hrow
  unfold place
  rcases hrow with h | h
  · exact .inl (by omega)
  · exact .inr (by linarith)

end Flush

/-! ### Scales (R159) -/

theorem store_append (m : Memory) (a : Nat) (b b' : List Byte) : m.store a (b ++ b') = (m.store a b).store (a + b.length) b' := by
  induction b generalizing m a with
  | nil => rfl
  | cons x b ih => rw [List.cons_append, Memory.store, ih, Memory.store, List.length_cons, Nat.add_right_comm, Nat.add_assoc]

/-- The bytes of a list of scales. -/
def scaleBytes (l : List (BitVec 16)) : List Byte := l.flatMap fun x => leBytes 2 x.toNat

theorem length_scaleBytes (l : List (BitVec 16)) : (scaleBytes l).length = 2 * l.length := by
  induction l with
  | nil => rfl
  | cons x l ih =>
    rw [scaleBytes, List.flatMap_cons, List.length_append, leBytes_length, ← scaleBytes, ih, List.length_cons, Nat.mul_succ,
      Nat.add_comm]

/-- Scales stored end to end are read back one by one. -/
theorem num_store_scaleBytes (m : Memory) (a : Nat) (l : List (BitVec 16)) (i : Nat) (h : i < l.length) :
    (m.store a (scaleBytes l)).num (a + 2 * i) 2 = l[i].toNat := by
  induction l generalizing m a i with
  | nil => exact absurd h (Nat.not_lt_zero i)
  | cons x l ih =>
    have hsplit : m.store a (scaleBytes (x :: l)) = (m.setNum a 2 x.toNat).store (a + 2) (scaleBytes l) := by
      rw [scaleBytes, List.flatMap_cons, store_append, leBytes_length]; rfl
    rw [hsplit]
    cases i with
    | zero =>
      rw [num_congr fun b _ hb => Memory.read_store_other _ _ _ _ (.inl (by omega)), Nat.mul_zero, Nat.add_zero, Memory.num_setNum]
      exact Nat.mod_eq_of_lt x.isLt
    | succ i =>
      rw [Nat.mul_succ, Nat.add_comm (2 * i), ← Nat.add_assoc, ih _ _ i (by simpa using h), List.getElem_cons_succ]

/-! ### The delivery (R152) -/

/-- One exit operation, due, is delivered. -/
theorem deliverExits_one {c : Core} {j : ExitJob} {t : Nat} (hj : c.eng.exits = [j]) (hd : j.dueBy t = true) :
    c.deliverExits t = ({ c with eng := { c.eng with exits := [] } } : Core).landExit t j := by
  simp [Core.deliverExits, hj, hd]

/-- Settles O31: a flush's elements land one after another, each at its own place (`Flush.landed_vault`), and a quantisation's scales
end to end. -/
theorem exitDelivery : Obligations.ExitDelivery := fun n s c hn hc hd => by
  have step := onCore_of_delivers hn hc hd fun t c => c.deliverExits t
  refine ⟨fun due o k acc bnd rs cs base pitch add md mask fmt hj hdue hp => ?flush, fun due o base scales hj hdue => ?scales⟩
  case flush =>
    let f : Flush := ⟨k, acc, bnd, rs, cs, base, pitch, add, md, mask, fmt⟩
    obtain ⟨d, hland, heng, hregs, hboundary, hvault⟩ :=
      f.landExit_job s.cycle due o { c with eng := { c.eng with exits := [] } }
    obtain ⟨t, ht, hcore, hothers, hdev, -⟩ := step
    replace hcore := hcore.trans ((deliverExits_one hj (decide_eq_true hdue)).trans hland)
    refine ⟨fun hpass => ⟨t, ht, ?_⟩, fun e he hfail hfirst => ⟨t, ht, ?_⟩⟩
    · obtain ⟨hbound, -⟩ := f.landed_of_passes s.cycle d hpass
      rw [hcore, f.landed_eng, f.landed_regs, hbound, heng, hregs, hboundary]
      refine ⟨rfl, rfl, rfl, hothers, hdev, fun i j hi hj => ?_, fun a ha => ?_⟩
      · have h := f.landed_num hp s.cycle d hi hj
        rw [hvault] at h
        exact h
      · have h := f.landed_read hp s.cycle d ha
        rw [hvault] at h
        exact h
    · obtain ⟨hbound, -⟩ := f.landed_of_fails s.cycle d he hfail hfirst
      rw [hcore, hbound, hboundary]
  case scales =>
    obtain ⟨t, ht, hcore, -, hdev, -⟩ := step
    rw [deliverExits_one hj (decide_eq_true hdue)] at hcore
    refine ⟨t, ht, ?_⟩
    rw [hcore]
    refine ⟨rfl, rfl, hdev, fun i hi => num_store_scaleBytes _ _ _ i hi, fun a ha => ?_⟩
    exact Memory.read_store_other _ _ _ _ (by rwa [← scaleBytes, length_scaleBytes])

end Sys2Proof.NumberProofs
end

section
/-!
PROOFS. Own-vault and cluster accesses (R161 to R168, R171): what their checks answer, and how a word of the L or the C slot issues that
fails one or that loads from the own vault.
-/
open Sys2Proof Sys2Proof.Machine Sys2Proof.Claims Sys2Proof.CoreProofs

namespace Sys2Proof.CycleProofs

/-! ### The checks (R161, R162, R190, R302) -/

section
variable {s : State} {a n align : Nat}

/-- Once every transfer into the range has come, the check of a local access is that of its bank, its range and its owner. -/
theorem checkLocal_of_brought (h : s.core.mine.any (·.landsIn a n) = false) :
    s.checkLocal a n align = s.checkVault a n align := by
  simp only [State.checkLocal, Core.bringWait, h, waitWhile_false, bind_ok]

/-- The checks of a range of the own vault for whose banks nothing waits. -/
theorem checkVault_of_no_wait (h : (decide (a + n ≤ vaultSize) && s.core.pendingIn a n) = false) :
    s.checkVault a n align = (need (decide (a + n ≤ vaultSize)) .vrange >>= fun _ => need (a % align == 0) .valign >>= fun _ =>
      need (s.core.ownsRange a n) .bankown >>= fun _ => need (!s.core.hazard s.cycle a n) .xhaz) := by
  simp only [State.checkVault, Core.bankWait, h, waitWhile_false, bind_ok]

/-- The member that a cluster address names needs no reduction below 2^26 (R162). -/
theorem member_of_cluster_address {ca : Nat} (h : ca < 2 ^ 26) : ca / vaultSize % 16 = ca / vaultSize :=
  Nat.mod_eq_of_lt (by unfold vaultSize; omega)

end

theorem localChecks_holds : localChecks := by
  intro s a n align
  refine ⟨?passes, fun hl => ?brings, fun hl hr hp => ?pending, fun hl hr => ?range, fun hl hp hr => ⟨fun ha => ?alignment,
    fun ha ho => ?bank, fun ha ho hh => ?hazard⟩⟩
  case passes =>
    rw [checkLocal_eq_ok, checkVault_eq_ok, Core.bankWait, waitWhile_eq_ok, beq_iff_eq]
    constructor
    · rintro ⟨hl, hr, hb, ha, ho, hh⟩
      exact ⟨hl, by simpa [hr] using hb, hr, ha, ho, hh⟩
    · rintro ⟨hl, hp, hr, ha, ho, hh⟩
      exact ⟨hl, hr, by rw [hp, Bool.and_false], ha, ho, hh⟩
  case brings => simp only [State.checkLocal, Core.bringWait, hl, waitWhile_true, bind_error]
  case pending =>
    rw [checkLocal_of_brought hl]
    simp only [State.checkVault, Core.bankWait, hr, hp, decide_true, Bool.and_self, waitWhile_true, bind_error]
  case range =>
    rw [checkLocal_of_brought hl, checkVault_of_no_wait (by simp [hr])]
    simp only [hr, decide_false, need_false, bind_error]
  all_goals rw [checkLocal_of_brought hl, checkVault_of_no_wait (by simp [hp])]
  case alignment => simp only [hr, beq_eq_false_iff_ne.mpr ha, decide_true, need_true, need_false, bind_ok, bind_error]
  case bank => simp only [hr, ha, ho, decide_true, beq_self_eq_true, need_true, need_false, bind_ok, bind_error]
  case hazard => simp only [hr, ha, ho, hh, decide_true, beq_self_eq_true, Bool.not_true, need_true, need_false, bind_ok]

theorem clusterChecks_holds : clusterChecks := by
  intro s ca n align
  refine ⟨fun h => ?range, fun hc hr => ?inside⟩
  case range =>
    have hb : (ca / 2 ^ 26 == 0 && decide (ca % vaultSize + n ≤ vaultSize)) = false := by
      rw [Bool.and_eq_false_iff, beq_eq_false_iff_ne, decide_eq_false_iff_not]
      by_contra hn
      exact h (by omega)
    simp only [State.checkCluster, hb, need_false, bind_error]
  case inside =>
    have hb : (ca / 2 ^ 26 == 0 && decide (ca % vaultSize + n ≤ vaultSize)) = true := by
      rw [Nat.div_eq_of_lt hc, decide_eq_true hr]; rfl
    refine ⟨fun hm => ?_, fun hm ha => ?_, fun hm ha => ?_⟩
    all_goals simp only [State.checkCluster, hb, member_of_cluster_address hc, need_true, bind_ok]
    · simp only [Nat.not_lt.mpr hm, decide_false, need_false, bind_error]
    · simp only [hm, beq_eq_false_iff_ne.mpr ha, decide_true, need_true, need_false, bind_ok, bind_error]
    · simp only [hm, ha, decide_true, beq_self_eq_true, need_true, bind_ok, pure_ok]

/-! ### Words that fail a check (R81) -/

section
variable {i : Instr} {g : Guard} {s : State} {act : State → Except Stop State} {o : BitVec 3} {a n align : Nat}

/-- A word of the L slot whose guard holds issues. -/
theorem execL_of_guard (hg : s.core.guardP g = true) (act : State → Except Stop State) : execL g act s = issue 8 act s := by
  rw [execL, hg, issueIf_true]

/-- A word of the C slot whose guard holds issues. -/
theorem execC_of_guard (hg : s.core.guardP g = true) (act : State → Except Stop State) : execC g act s = issue 9 act s := by
  rw [execC, hg, issueIf_true]

/-- A word of the L slot that begins with a read of the own vault traps where the check of that read does. -/
theorem failsLocally_of_load (he : exec i s = issue 8 act s)
    (ha : ∃ rest, act s = s.loadLocal o a n align >>= rest) : failsLocally i s o a n align := fun k hw hc => by
  obtain ⟨rest, ha⟩ := ha
  refine he.trans (issue_trap ?_)
  simp only [ha, State.loadLocal, hw, hc, bind_ok, bind_error]

/-- A word of the L slot that comes to a write of the own vault traps where the check of that write does. -/
theorem failsLocally_of_store {x : Nat} (he : exec i s = issue 8 act s) (ha : act s = s.storeLocal o a n align x) :
    failsLocally i s o a n align := fun k hw hc => by
  refine he.trans (issue_trap ?_)
  simp only [ha, State.storeLocal, hw, hc, bind_ok, bind_error]

/-- A load of the C slot with room in its queue traps where its check does. -/
theorem failsInCluster_of_load {k : CKind} {extra : Except Stop Unit} (hr : queueRoom s.core.qs.loads = .ok ())
    (he : exec i s = issue 9 act s) (ha : act s = s.loadCluster o a n align k extra) :
    failsInCluster i s true a n align := fun hb c hc => by
  refine he.trans (issue_trap ?_)
  simp only [ha, State.loadCluster, hr, hb rfl, hc, bind_ok, bind_error]

/-- A store of the C slot with room in its queue, or an atomic there, traps where its check does. -/
theorem failsInCluster_of_store {k : CKind} (hr : queueRoom s.core.qs.stores = .ok ()) (he : exec i s = issue 9 act s)
    (ha : act s = s.storeCluster o a n align k) : failsInCluster i s k.reads a n align := fun hb c hc => by
  refine he.trans (issue_trap ?_)
  cases hk : k.reads
  · simp [ha, State.storeCluster, hr, hk, hc]
  · simp [ha, State.storeCluster, hr, hk, hb hk, hc]

end

theorem localFailures_holds : localFailures := by
  intro o g bb off s hg
  refine ⟨fun sz sx d => failsLocally_of_load (execL_of_guard hg _) ⟨_, rfl⟩,
    fun d => ⟨failsLocally_of_load (execL_of_guard hg _) ⟨_, rfl⟩, failsLocally_of_load (execL_of_guard hg _) ⟨_, rfl⟩⟩,
    fun d => failsLocally_of_load (execL_of_guard hg _) ⟨_, rfl⟩, failsLocally_of_load (execL_of_guard hg _) ⟨_, rfl⟩,
    fun d => failsLocally_of_load (execL_of_guard hg _) ⟨_, rfl⟩, fun sz r x hx => ?store, fun r x hx => ?vectorStore,
    fun r x hx => ?tileStore, fun sz aop r d x cmp hx hcmp => ?atomic⟩
  case store =>
    refine failsLocally_of_store (x := x.toNat) (execL_of_guard hg _) ?_
    simp only [hx, bind_ok]
    rfl
  case vectorStore =>
    refine failsLocally_of_store (x := x.toNat) (execL_of_guard hg _) ?_
    simp only [hx, bind_ok]
  case tileStore =>
    refine failsLocally_of_store (x := x.data.toNat) (execL_of_guard hg _) ?_
    simp only [hx, bind_ok]
  case atomic =>
    refine failsLocally_of_load (execL_of_guard hg _) (Exists.intro ?rest ?reads)
    case reads => simp only [hx, hcmp, bind_ok]; rfl

theorem clusterFailures_holds : clusterFailures := by
  intro o g bb off s hg
  refine ⟨fun hr => ⟨fun sz sx d => failsInCluster_of_load hr (execC_of_guard hg _) rfl,
    fun d => failsInCluster_of_load hr (execC_of_guard hg _) rfl,
    fun d => failsInCluster_of_load hr (execC_of_guard hg _) rfl⟩,
    fun hr => ⟨fun sz r x hx => ?store, fun r x hx => ?vectorStore, fun sz aop r d x cmp hx hcmp => ?atomic⟩⟩
  case store =>
    refine failsInCluster_of_store (o := o) (k := .st (leBytes (2 ^ sz.toNat) x.toNat)) hr (execC_of_guard hg _) ?_
    simp only [hx, bind_ok]
    rfl
  case vectorStore =>
    refine failsInCluster_of_store (o := o) (k := .st (leBytes 128 x.toNat)) hr (execC_of_guard hg _) ?_
    simp only [hx, bind_ok]
  case atomic =>
    refine failsInCluster_of_store (o := o) (k := .amo aop.toNat (amoSize sz) x.toNat cmp (s.core.gKey d.toNat)) hr
      (execC_of_guard hg _) ?_
    simp only [hx, hcmp, bind_ok]
    rfl

/-- Settles O12: the checks one by one in their order, and that each word comes to its check with nothing done before. -/
theorem localAccessChecks : Obligations.LocalAccessChecks :=
  ⟨localChecks_holds, clusterChecks_holds, localFailures_holds, clusterFailures_holds⟩

end Sys2Proof.CycleProofs
end

section
/-!
PROOFS. Loads from the own vault (R163 to R168, R171): how a word that loads contiguous bytes issues, and that a load of elements one by
one finds the vault as the bundle did.
-/
open Sys2Proof Sys2Proof.Machine Sys2Proof.Claims Sys2Proof.CoreProofs

namespace Sys2Proof.CycleProofs

/-! ### Contiguous loads -/

section
variable {i : Instr} {s : State} {act : State → Except Stop State} {o : BitVec 3} {a n align : Nat}

/-- A legal read of the own vault answers its bytes (R161, R163). -/
theorem loadLocal_of_ok (h : localOk s o a n align) :
    s.loadLocal o a n align = .ok (s.core.vault.num a n, (s.orderAfter o).mod fun c => c.noteRead 8 a n) := by
  obtain ⟨hw, hc⟩ := h
  simp only [State.loadLocal, hw, hc, bind_ok, pure_ok]

/-- A word of the L slot that reads the own vault and sends what it has read. -/
theorem loads_of_act {lat w : Nat} {dest : Dest} {out : Nat → Nat} (he : exec i s = issue 8 act s)
    (ha : act s = s.loadLocal o a n align >>= fun p => .ok (p.2.result 8 lat dest (out p.1) (ones w) 0)) :
    loads i s o a n align lat dest w out := fun h => by
  refine he.trans (issue_ok ?_)
  rw [ha, loadLocal_of_ok h, bind_ok]

end

/-- The signed number of the low bits of a number. -/
theorem signedOf_eq_toInt (w x : Nat) : signedOf w x = (BitVec.ofNat w x).toInt := by
  rw [← signedOf_toNat, BitVec.toNat_ofNat, signedOf, signedOf, Nat.mod_mod]

/-- A sign-extended element is the sign extension of its bits (R166). -/
theorem extended_true (n x : Nat) : extended true n x = ((BitVec.ofNat (8 * n) x).signExtend 64).toNat := by
  rw [extended, if_pos rfl, signedOf_eq_toInt, wrapTo_toInt]

@[simp] theorem orderAfter_core (s : State) (o : BitVec 3) : (s.orderAfter o).core = s.core := by
  unfold State.orderAfter; split <;> rfl
@[simp] theorem orderAfter_cycle (s : State) (o : BitVec 3) : (s.orderAfter o).cycle = s.cycle := by
  unfold State.orderAfter; split <;> rfl

/-- A read of the own vault changes no more of the core than the causes that wait for its boundary. -/
theorem core_of_read (s : State) (o : BitVec 3) (slot a n : Nat) :
    ∃ l, ((s.orderAfter o).mod fun c => c.noteRead slot a n).core = { s.core with boundary := l } := by
  rw [State.mod_core, orderAfter_core, Core.noteRead]
  split
  · exact ⟨_, rfl⟩
  · exact ⟨_, rfl⟩

theorem localLoads_holds : localLoads := by
  intro o g bb off s hg
  refine ⟨fun sz d => ⟨?zero, ?sign⟩, fun d => ?vector, fun d => ?x, ?scales, fun d hd => ?tile⟩
  case zero | vector | x | scales => exact loads_of_act (execL_of_guard hg _) rfl
  case sign =>
    refine loads_of_act (execL_of_guard hg _) ?_
    simp only [← extended_true]
    rfl
  case tile =>
    refine loads_of_act (execL_of_guard hg _) ?_
    simp only [Core.writeTileOk, hd, Bool.not_false, need_true, bind_ok]
    rfl

theorem descriptorLoad_holds : descriptorLoad := by
  intro o g bb d off s hg h
  have hl : loads (.tdl o g bb d off) s o (s.core.ea bb off.toNat) 64 64 4 (.td d.toNat) 512 id :=
    loads_of_act (execL_of_guard hg _) rfl
  obtain ⟨l, hc⟩ := core_of_read s o 8 (s.core.ea bb off.toNat) 64
  refine ⟨_, hl h, ?_, ?_, ?_⟩
  · rw [State.result_core_vault, hc]
  · rw [State.result_core_regs, hc]
  · rw [State.result_flight, hc, State.mod_cycle, orderAfter_cycle]; rfl

/-! ### Elements one by one (R166) -/

/-- What a read that passes has met, what it answers, and what it leaves of the core. -/
theorem loadLocal_cases {s t : State} {o : BitVec 3} {a n align x : Nat} (h : s.loadLocal o a n align = .ok (x, t)) :
    localOk s o a n align ∧ x = s.core.vault.num a n ∧ ∃ l, t.core = { s.core with boundary := l } := by
  simp only [State.loadLocal, bind_eq_ok, pure_ok, Except.ok.injEq, Prod.mk.injEq] at h
  obtain ⟨_, hw, _, hc, rfl, rfl⟩ := h
  exact ⟨⟨hw, hc⟩, rfl, core_of_read s o 8 a n⟩

/-- What a local access waits for has come where it passes its check. -/
theorem waits_over_of_localOk {s : State} {o : BitVec 3} {a n align : Nat} (h : localOk s o a n align) :
    s.core.bringWait a n = .ok () ∧ s.core.bankWait a n = .ok () := by
  obtain ⟨-, hc⟩ := h
  obtain ⟨hl, hv⟩ := (checkLocal_eq_ok s a n align).mp hc
  obtain ⟨-, hb, -⟩ := (checkVault_eq_ok s a n align).mp hv
  exact ⟨(waitWhile_eq_ok _ _ _).mpr hl, hb⟩

/-- What waits for the boundary keeps no access waiting. -/
theorem waitEach_boundary (c : Core) (l : List TrapInfo) (n : Nat) (as : List Nat) :
    ({ c with boundary := l } : Core).waitEach n as = c.waitEach n as := by
  induction as with
  | nil => rfl
  | cons a as ih => rw [Core.waitEach, Core.waitEach, ih]; rfl

/-- Elements that have been read one by one are those of the vault as it was, and none of the reads had anything to wait for. -/
theorem loadEach_cases {o : BitVec 3} {n : Nat} {as : List Nat} {s t : State} {xs : List Nat}
    (h : s.loadEach o n as = .ok (xs, t)) :
    xs = as.map (fun a => s.core.vault.num a n) ∧ (∃ l, t.core = { s.core with boundary := l }) ∧
      s.core.waitEach n as = .ok () ∧ (as ≠ [] → s.orderWait o .stallld = .ok ()) := by
  induction as generalizing s xs with
  | nil =>
    cases h
    exact ⟨rfl, ⟨_, rfl⟩, rfl, fun h => absurd rfl h⟩
  | cons a as ih =>
    simp only [State.loadEach, bind_eq_ok, pure_ok, Except.ok.injEq, Prod.mk.injEq, Prod.exists] at h
    obtain ⟨x, u, hx, ys, v, hys, rfl, rfl⟩ := h
    obtain ⟨hok, rfl, l, hu⟩ := loadLocal_cases hx
    obtain ⟨rfl, ⟨k, hv⟩, hw, -⟩ := ih hys
    obtain ⟨hbring, hbank⟩ := waits_over_of_localOk hok
    refine ⟨by rw [hu]; rfl, ⟨k, by rw [hv, hu]⟩, ?_, fun _ => hok.1⟩
    rw [hu, waitEach_boundary] at hw
    simp only [Core.waitEach, hbring, hbank, hw, bind_ok]

/-- Every size of element leaves a strided load some elements. -/
theorem stridedAddrs_ne_nil (a : Nat) (stride : Int) (es : BitVec 2) : stridedAddrs a stride (128 / 2 ^ es.toNat) ≠ [] := by
  have h : ∀ es : BitVec 2, 128 / 2 ^ es.toNat ≠ 0 := by decide
  rw [stridedAddrs, ne_eq, List.map_eq_nil_iff, List.range_eq_nil]
  exact h es

theorem stridedLoad_holds : stridedLoad := by
  intro o g bb es d r off s s' st xs hg hst he
  obtain ⟨hxs, ⟨l, hc⟩, hw, ho⟩ := loadEach_cases he
  refine ⟨(execL_of_guard hg _).trans (issue_ok ?_), hxs, by rw [hc], by rw [hc]⟩
  have hs : signedOf 32 st.toNat = (st.setWidth 32).toInt := by rw [signedOf_eq_toInt, BitVec.ofNat_toNat]
  simp only [hst, bind_ok, Machine.sizeOf, hs, ho (stridedAddrs_ne_nil _ _ es), hw, he, pure_ok]

/-- Settles O13: a load of contiguous bytes answers what its read does, and elements are read from one vault. -/
theorem localReads : Obligations.LocalReads := ⟨localLoads_holds, descriptorLoad_holds, stridedLoad_holds⟩

end Sys2Proof.CycleProofs
end

section
/-!
PROOFS. Boundaries (R90, R248, R250, R252): a trap taken on one core freezes that core and files its record, and nothing else changes.
-/
open Sys2Proof Sys2Proof.Machine Sys2Proof.Claims Sys2Proof.CoreProofs

namespace Sys2Proof.CycleProofs

/-! ### A trap taken (R246, R248, R344) -/

theorem coreAt_takeTrap (i : TrapInfo) (at_ : Nat) (s : State) (k : Nat) :
    (takeTrap i at_ s).coreAt k = if k = s.cur then s.core.freeze i at_ else s.coreAt k :=
  coreAt_mod (s.fileFault i) k _

/-- The record of a trap joins the fault queue of the core's die. -/
theorem takeTrap_faultQ (i : TrapInfo) (at_ : Nat) (s : State) :
    (takeTrap i at_ s).dev.mgmt.faultQ = s.dev.mgmt.faultQ ++ [(dieOf s.cur, BitVec.ofNat 1024 (leNat
      (putSeq (s.faultRecord i) 4 (s.dev.mgmt.evSeq.get 0 (16 + dieOf s.cur) % 2 ^ 32))))] := rfl

/-- What a step leaves that freezes core `n` for a trap, when it has changed the core to `c`: the core frozen in this cycle, the record
of core and cause filed, and everything else as it was. -/
def frozenFor (s t : State) (n : Nat) (c : Core) (i : TrapInfo) : Prop :=
  t.coreAt n = c.freeze i s.cycle ∧ (∀ k, k ≠ n → t.coreAt k = s.coreAt k) ∧ t.dev.sys = s.dev.sys ∧
    ∃ w, t.dev.mgmt.faultQ = s.dev.mgmt.faultQ ++ [(n / 128, w)] ∧ w.toNat % 2 ^ 16 = n ∧
      w.toNat / 2 ^ 16 % 2 ^ 16 = i.causeWord

/-- A step on core `n` that changes the core and takes a trap there. -/
theorem frozenFor_on_takeTrap {n : Nat} (hn : n < 512) (s : State) (f : Core → Core) (i : TrapInfo) :
    frozenFor s (s.on n fun u => takeTrap i u.cycle (u.mod f)) n (f (s.coreAt n)) i := by
  have hw := faultRecord_names ((s.turnTo n).mod f) i (s.dev.mgmt.evSeq.get 0 (16 + dieOf n) % 2 ^ 32) (by simpa using hn)
  rw [State.mod_cur, turnTo_cur] at hw
  have hlow : n < 2 ^ 16 := by omega
  refine ⟨?_, fun k hk => ?_, ?_, _, ?_, mod_of_halves hw hlow, div_of_halves hw hlow⟩
  · simp [coreAt_on, coreAt_takeTrap]
  · simp [coreAt_on, coreAt_takeTrap, coreAt_mod, hk]
  · simp [on_dev]
  · simp [on_dev, takeTrap_faultQ, dieOf]

/-! ### The steps (R90, R250, R252) -/

/-- The only cause that waits is the one taken (R250). -/
theorem boundaryCause_one {c : Core} {i : TrapInfo} (h : c.boundary = [i]) : c.boundaryCause = some i := by
  rw [Core.boundaryCause, h]
  cases hc : (i.cause.cls != 1) <;> simp [hc]

theorem dropCause_one (i : TrapInfo) : dropCause i [i] = [] := by simp [dropCause]

section
variable {n : Nat} {s : State} {c : Core} (hn : n < 512) (hc : c = s.coreAt n) (hd : c.delivers = true) (hw : c.wake ≤ s.cycle)
include hc hd hw

/-- A core that delivers and is awake stands at a boundary. -/
theorem atBoundary_turnTo : (s.turnTo n).atBoundary = true := by
  subst hc
  rw [State.atBoundary, turnTo_core, turnTo_cycle, hd, decide_eq_true hw]; rfl

include hn

/-- BOUNDARY_FAULT takes the one cause that waits. -/
theorem boundaryFault_of_one {i : TrapInfo} (hb : c.boundary = [i]) :
    ∃ t, exec (.boundaryFault n) s = .next t ∧ frozenFor s t n { c with boundary := [] } i := by
  refine ⟨_, (onCore_of_lt _ s hn), ?_⟩
  have h : (s.on n fun u => if u.atBoundary then u.takeBoundary else u) =
      s.on n fun u => takeTrap i u.cycle (u.mod fun d => { d with boundary := dropCause i d.boundary }) := by
    rw [State.on, State.on, atBoundary_turnTo hc hd hw, if_pos rfl, State.takeBoundary, turnTo_core, ← hc,
      boundaryCause_one hb]
  rw [h]
  have hf := frozenFor_on_takeTrap hn s (fun d => { d with boundary := dropCause i d.boundary }) i
  rwa [← hc, hb, dropCause_one] at hf

/-- PREOVR freezes a running core that has overrun and has no cause waiting. -/
theorem preovr_of_overrun (hb : c.boundary = []) (ho : c.overran = true) :
    ∃ t, exec (.preovr n) s = .next t ∧ frozenFor s t n c { cause := .preovr, slot := 15 } := by
  refine ⟨_, (onCore_of_lt _ s hn), ?_⟩
  have h : (s.on n fun u => if u.atBoundary && u.core.overran && u.core.boundaryCause.isNone then
        takeTrap { cause := .preovr, slot := 15 } u.cycle u else u) =
      s.on n fun u => takeTrap { cause := .preovr, slot := 15 } u.cycle (u.mod id) := by
    rw [State.on, State.on, atBoundary_turnTo hc hd hw, turnTo_core, ← hc, ho, boundaryCause_of_nil hb]; rfl
  rw [h, hc]
  exact frozenFor_on_takeTrap hn s id _

end

/-- Settles O36: each step takes its one cause on its core (`frozenFor_on_takeTrap`). -/
theorem boundaryTraps : Obligations.BoundaryTraps := by
  intro n s c hn hc hd hw
  refine ⟨fun i hb => ?fault, fun hb hp ho hr => ?overrun⟩
  case fault =>
    obtain ⟨t, ht, hcore, hothers, hsys, w, hq, hwn, hwc⟩ := boundaryFault_of_one hn hc hd hw hb
    exact ⟨t, w, ht, by rw [hcore]; rfl, by rw [hcore]; rfl, by rw [hcore]; rfl, by rw [hcore]; rfl, by rw [hcore]; rfl,
      by rw [hcore]; rfl, hq, hwn, hwc, hsys, hothers⟩
  case overrun =>
    have hover : c.overran = true := by simp [Core.overran, hp, ho, hr]
    obtain ⟨t, ht, hcore, hothers, hsys, hrec⟩ := preovr_of_overrun hn hc hd hw hb hover
    exact ⟨t, ht, by rw [hcore]; rfl, by rw [hcore]; rfl, by rw [hcore]; rfl, by rw [hcore]; rfl, by rw [hcore]; rfl,
      hsys, hothers, hrec⟩

end Sys2Proof.CycleProofs
end

section
/-!
PROOFS. Returns from traps (R91, R107, R247, R249): what fault service does with a frozen core, by the cause, and what the return and the
end leave of it.
-/
open Sys2Proof Sys2Proof.Machine Sys2Proof.Claims Sys2Proof.CoreProofs

namespace Sys2Proof.CycleProofs

/-! ### Event records leave the cores alone (R349, R355, R356) -/

/-- The cores and the clock of two states are the same. -/
def sameCores (s t : State) : Prop :=
  t.core = s.core ∧ t.others = s.others ∧ t.cur = s.cur ∧ t.cycle = s.cycle

theorem sameCores.trans {r s t : State} (h : sameCores r s) (k : sameCores s t) : sameCores r t := by
  obtain ⟨h1, h2, h3, h4⟩ := h
  obtain ⟨k1, k2, k3, k4⟩ := k
  exact ⟨k1.trans h1, k2.trans h2, k3.trans h3, k4.trans h4⟩

theorem sameCores.coreAt {s t : State} (h : sameCores s t) (k : Nat) : t.coreAt k = s.coreAt k := by
  obtain ⟨h1, h2, h3, -⟩ := h
  rw [State.coreAt, State.coreAt, h1, h2, h3]

theorem sameCores_signal (s : State) (v : Nat) : sameCores s (s.signal v) := by
  unfold State.signal; split <;> exact ⟨rfl, rfl, rfl, rfl⟩

theorem sameCores_signalSource (s : State) (n : Nat) : sameCores s (s.signalSource n) := by
  unfold State.signalSource
  split
  · exact ⟨rfl, rfl, rfl, rfl⟩
  · exact sameCores.trans ⟨rfl, rfl, rfl, rfl⟩ (sameCores_signal _ _)

theorem sameCores_record (s : State) (src seqAt : Nat) (bytes : List Byte) : sameCores s (s.record src seqAt bytes) := by
  unfold State.record
  dsimp only
  split
  · exact sameCores.trans ⟨rfl, rfl, rfl, rfl⟩ (sameCores_signalSource _ _)
  · exact ⟨rfl, rfl, rfl, rfl⟩

/-! ### The fate of a trap (R107, R247) -/

section
variable {u : State} {i : TrapInfo}

theorem fate_of_trap {tier : Nat} (hc : i.cause = .trap) (h : i.code < 0x8000) : u.fate i tier = .done u := by
  rw [State.fate, hc]; exact if_pos h

theorem fate_of_brk {tier : Nat} (hc : i.cause = .brk) (h : u.debugged = false) : u.fate i tier = .done u := by
  rw [State.fate, hc]; simp [h]

theorem fate_of_brk_debugged {tier : Nat} (hc : i.cause = .brk) (h : u.debugged = true) : u.fate i tier = .later := by
  rw [State.fate, hc]; simp [h]

/-- A trap at issue and PREOVR end the task. -/
theorem fate_of_fatal {tier : Nat} (h : i.cause.code < 0x30 ∨ i.cause = .preovr) : u.fate i tier = .never := by
  have other : ∀ k : Cause, k.code < 0x30 ∨ k = .preovr →
      k ≠ .trap ∧ k ≠ .brk ∧ k ≠ .rnschk ∧ k ≠ .dpoison ∧ k ≠ .fetch ∧ k ≠ .trans := by
    intro k; cases k <;> decide
  obtain ⟨htrap, hbrk, hrns, hdp, hfetch, htrans⟩ := other i.cause h
  rw [State.fate]
  split
  · next hc => exact absurd hc htrap
  · next hc => exact absurd hc hbrk
  · next hc => exact absurd hc hrns
  · next hc => exact absurd hc hdp
  · next hc => exact absurd hc hfetch
  · next hc => exact absurd hc htrans
  · rfl

/-! ### What service leaves (R91, R249) -/

/-- A fault that is no transfer's is of no word of the port. -/
theorem faultedWord_of_no_port (h : i.port = none) : u.faultedWord i = none := by rw [State.faultedWord, h]; rfl

section
variable {at_ : Nat} (hr : u.core.ctl.run = .frozen i at_)
include hr

/-- A core whose trap is settled returns from it. -/
theorem served_of_done {tier : Nat} (hp : i.port = none) (h : u.fate i tier = .done u) :
    u.served? tier = returnFromTrap u.resumption u := by
  rw [State.served?, hr]
  simp only [h, State.retryWord, faultedWord_of_no_port hp]

theorem served_of_later {tier : Nat} (h : u.fate i tier = .later) : u.served? tier = u := by
  rw [State.served?, hr]
  simp only [h]

/-- A core whose trap is fatal ends its task, and the host is told. -/
theorem served_of_never {tier : Nat} (hp : i.port = none) (h : u.fate i tier = .never) :
    u.served? tier = (u.hostCopy i).mod fun c =>
      ({ c with ctl := { c.ctl with draining := true }, boundary := [] } : Core).thaw at_ ((u.hostCopy i).cycle + 1) := by
  rw [State.served?, hr]
  simp only [h, State.endOnTrap, faultedWord_of_no_port hp]

/-- The return from a trap thaws the core, with the cause in ccr.cause. -/
theorem returnFromTrap_eq (t : Nat) : returnFromTrap t u =
    u.mod fun c => ({ c with ctl := { c.ctl with cause := BitVec.ofNat 64 i.causeWord } } : Core).thaw at_ t := by
  rw [returnFromTrap, hr]

end

end

/-- A step on a core asks of the step there only what it does on that core. -/
theorem on_congr {n : Nat} {s : State} {f g : State → State} (h : f (s.turnTo n) = g (s.turnTo n)) : s.on n f = s.on n g := by
  rw [State.on, State.on, h]

section
variable {n : Nat} {s : State} {c : Core} {i : TrapInfo} {at_ : Nat} (hc : c = s.coreAt n) (hr : c.ctl.run = .frozen i at_)
include hc hr

/-- A step that returns core `n` from its trap resumes it there. -/
theorem resumes_of_return (hd : c.ctl.draining = false) :
    resumes s (s.on n fun u => returnFromTrap u.resumption u) n c i at_ := by
  subst hc
  have hu : (s.turnTo n).core.ctl.run = .frozen i at_ := by rwa [turnTo_core]
  have hcore : (s.on n fun u => returnFromTrap u.resumption u).coreAt n =
      ({ s.coreAt n with ctl := { (s.coreAt n).ctl with cause := BitVec.ofNat 64 i.causeWord } } : Core).thaw at_
        (s.turnTo n).resumption := by
    rw [coreAt_on, returnFromTrap_eq hu, coreAt_mod, turnTo_cur, if_pos rfl, turnTo_core]
  have hres : (s.turnTo n).resumption = if (s.turnTo n).inBuffer (s.coreAt n).seq.pc.toNat then s.cycle + 6
      else max (s.cycle + 6) (s.coreAt n).supply := by
    rw [State.resumption, turnTo_core, turnTo_cycle]
  unfold resumes
  rw [hcore, ← hres]
  exact ⟨if_neg (by simp [Core.shift, hd]), rfl, rfl, rfl, rfl, rfl, rfl, rfl⟩

/-- A fatal trap leaves a core that drains to its task's end, and no other core changes. -/
theorem ends_of_never (hp : i.port = none) {tier : Nat} (h : (s.turnTo n).fate i tier = .never) {t : State}
    (ht : t = s.on n (·.served? tier)) :
    (t.coreAt n).ctl.run = .ending ∧ (t.coreAt n).ctl.draining = true ∧ (t.coreAt n).boundary = [] ∧
      (t.coreAt n).regs = c.regs ∧ (t.coreAt n).vault = c.vault ∧ ∀ k, k ≠ n → t.coreAt k = s.coreAt k := by
  subst hc
  have hu : (s.turnTo n).core.ctl.run = .frozen i at_ := by rwa [turnTo_core]
  have hcopy : sameCores (s.turnTo n) ((s.turnTo n).hostCopy i) := sameCores_record _ _ _ _
  have hkeep : ∀ k, ((s.turnTo n).hostCopy i).coreAt k = s.coreAt k := fun k => by rw [hcopy.coreAt, coreAt_turnTo]
  obtain ⟨hcore, -, hcur, -⟩ := hcopy
  have hat : ∀ k, t.coreAt k = if k = n then
      ({ s.coreAt n with ctl := { (s.coreAt n).ctl with draining := true }, boundary := [] } : Core).thaw at_
        (((s.turnTo n).hostCopy i).cycle + 1) else s.coreAt k := fun k => by
    rw [ht, coreAt_on, served_of_never hu hp h, coreAt_mod, hcur, hcore, turnTo_cur, turnTo_core, hkeep]
  have hn := (hat n).trans (if_pos rfl)
  rw [hn]
  exact ⟨rfl, rfl, rfl, rfl, rfl, fun k hk => (hat k).trans (if_neg hk)⟩

end

theorem debugged_turnTo (s : State) (n : Nat) :
    (s.turnTo n).debugged = s.dev.mgmt.sessions.contains (s.coreAt n).ctl.task := by
  rw [State.debugged, turnTo_dev, turnTo_core]

/-- Settles O37: service settles a trap by its cause (`State.fate`), and a settled core thaws while a fatal one ends. -/
theorem trapReturns : Obligations.TrapReturns := by
  intro n s c i at_ hn hc hr hat hp
  have hu : (s.turnTo n).core.ctl.run = .frozen i at_ := by rwa [turnTo_core, ← hc]
  refine ⟨fun hcause hd tier => ⟨_, onCore_of_lt _ s hn, ?resumed⟩, fun hcause hs hd => ⟨⟨_, onCore_of_lt _ s hn, ?agent⟩,
    fun tier => ⟨_, onCore_of_lt _ s hn, ?left⟩⟩, fun hcause tier => ⟨_, onCore_of_lt _ s hn, ?ended⟩⟩
  case resumed =>
    have hfate : (s.turnTo n).fate i tier.toNat = .done (s.turnTo n) := by
      rcases hcause with ⟨hk, hcode⟩ | ⟨hk, hs⟩
      · exact fate_of_trap hk hcode
      · exact fate_of_brk hk (by rw [debugged_turnTo, ← hc]; simpa using hs)
    rw [on_congr (g := fun u => returnFromTrap u.resumption u) (served_of_done hu hp hfate)]
    exact resumes_of_return hc hr hd
  case agent =>
    have hs' : (s.turnTo n).debugged = true := by rw [debugged_turnTo, ← hc]; simpa using hs
    rw [on_congr (g := fun u => returnFromTrap u.resumption u) (by simp only [hu, hcause, hs']; rfl)]
    exact resumes_of_return hc hr hd
  case left =>
    have hfate : (s.turnTo n).fate i tier.toNat = .later :=
      fate_of_brk_debugged hcause (by rw [debugged_turnTo, ← hc]; simpa using hs)
    rw [on_congr (g := id) (served_of_later hu hfate), coreAt_on, id, coreAt_turnTo, hc]
  case ended => exact ends_of_never hc hr hp (fate_of_fatal hcause) rfl

end Sys2Proof.CycleProofs
end

section
/-!
PROOFS. Calls, returns and adapter calls (R97 to R99, R110): the window with its spills and fills, and where each word goes.
-/
open Sys2Proof Sys2Proof.Machine Sys2Proof.Claims Sys2Proof.CoreProofs Sys2Proof.NumberProofs

namespace Sys2Proof.CycleProofs

/-! ### Checks and waits of a call (R93, R97, R99) -/

section
variable {s : State} {t : BitVec 2} {b : Target}

theorem ready_of_none (h : s.core.seq.tb.get none t.toNat = none) : s.ready t = .error (.trap .tbempty) := by
  rw [State.ready, Core.buffer, h]

theorem ready_of_some (h : s.core.seq.tb.get none t.toNat = some b) (hr : b.ready ≤ s.cycle) : s.ready t = .ok b := by
  rw [State.ready, Core.buffer, h]
  exact if_neg (Nat.not_lt.mpr hr)

theorem notInLoopm_of_false (h : s.core.seq.inLoopm = false) : notInLoopm s.core = .ok () := by
  rw [notInLoopm, h]; rfl

theorem notInLoopm_of_true (h : s.core.seq.inLoopm = true) : notInLoopm s.core = .error (.trap .lmnest) := by
  rw [notInLoopm, h]; rfl

theorem needsSpill_of_room {q : Seq} (h : q.depth < 14 + q.spilled) : q.needsSpill = false :=
  decide_eq_false (Nat.not_le.mpr h)

theorem needsSpill_of_full {q : Seq} (h : 14 + q.spilled ≤ q.depth) : q.needsSpill = true := decide_eq_true h

theorem callRoom_of_deep (h : 31 ≤ s.core.seq.depth) : s.core.callRoom = .error (.trap .stkovf) := by
  simp only [Core.callRoom, Nat.not_lt.mpr h, decide_false, need_false, bind_error]

theorem callRoom_of_window (hd : s.core.seq.depth < 31) (hw : s.core.seq.depth < 14 + s.core.seq.spilled) :
    s.core.callRoom = .ok () := by
  simp [Core.callRoom, hd, needsSpill_of_room hw]

theorem callRoom_of_stack {off len : Nat} (hd : s.core.seq.depth < 31) (hs : s.core.ctl.stack = some (off, len))
    (hl : s.core.seq.spillPtr + 64 ≤ len) : s.core.callRoom = .ok () := by
  cases h : s.core.seq.needsSpill <;> simp [Core.callRoom, hd, hs, hl, h]

/-- A window that moves no frame waits for nothing. -/
theorem windowWait_of_stays (p n : Nat) (e : PerfEvent) : s.windowWait false p n e = .ok () := rfl

/-- A spill or fill that nothing earlier holds back waits its cycles alone. -/
theorem windowWait_of_moves {off len p n : Nat} {e : PerfEvent} (hs : s.core.ctl.stack = some (off, len))
    (ha : s.core.acquirePending s.core.bundles = false) (hp : s.core.pendingIn (off + p) 64 = false)
    (hm : s.core.mine.any (·.landsIn (off + p) 64) = false) : s.windowWait true p n e = s.holdFor n e := by
  have hf : s.core.frameAt p = off + p := by rw [Core.frameAt, hs]; rfl
  simp only [State.windowWait, hf, ha, hp, hm, Core.bringWait, Bool.and_false, waitWhile_false, bind_ok, if_true]

end

/-! ### The window slides to a callee (R97) -/

/-- The literal position has 57 bits. -/
theorem literalAt_mod (c : Core) : c.literalAt % 2 ^ 57 = c.literalAt := by rw [Core.literalAt, Nat.mod_mod]

theorem linkWord_literalAt (c : Core) (tenant rrb : Nat) :
    linkWord c.literalAt tenant rrb = c.literalAt + tenant * 2 ^ 57 + rrb * 2 ^ 60 := by rw [linkWord, literalAt_mod]

/-- Results sent one after the other. -/
def sends (s : State) (l : List Delivery) : State :=
  s.mod fun c => { c with qs := { c.qs with flight := l.foldl (fun q d => insertDelivery d q) c.qs.flight } }

/-- A B word's write of a register, on its way for the next bundle. -/
def bWrite (s : State) (d : Dest) (x mask : Nat) : Delivery := ⟨s.cycle + 1, s.core.orderOf 0, d, x, mask, 0, none⟩

theorem result_eq_sends (s : State) (d : Dest) (x m : Nat) : s.result 0 1 d x m 0 = sends s [bWrite s d x m] := rfl

theorem writeG_eq_sends (s : State) (k x : Nat) : s.writeG k x = sends s [bWrite s (.g k) (x % 2 ^ 64) (ones 64)] := rfl

theorem bWrite_sends (s : State) (l : List Delivery) (d : Dest) (x m : Nat) : bWrite (sends s l) d x m = bWrite s d x m := rfl

theorem sends_sends (s : State) (l k : List Delivery) : sends (sends s l) k = sends s (l ++ k) := by
  simp only [sends, List.foldl_append]; rfl

theorem foldl_writeG (key x : Nat → Nat) (js : List Nat) (s : State) :
    js.foldl (fun s i => s.writeG (key i) (x i)) s =
      sends s (js.map fun i => bWrite s (.g (key i)) (x i % 2 ^ 64) (ones 64)) := by
  induction js generalizing s with
  | nil => rfl
  | cons j js ih =>
    rw [List.foldl_cons, ih, writeG_eq_sends, sends_sends]
    rfl

theorem sends_seq (s : State) (f : Seq → Seq) (l : List Delivery) : sends (s.seq f) l = (sends s l).seq f := rfl
theorem bWrite_seq (s : State) (f : Seq → Seq) (d : Dest) (x m : Nat) : bWrite (s.seq f) d x m = bWrite s d x m := rfl

/-- The window slides to a callee from a state that has room in it, which a spill makes (R97, R99). -/
theorem slide_eq {s r : State} (h : (if s.core.seq.needsSpill then s.mod (·.spillGroup) else s) = r) (g31 g30 : Nat) :
    s.slide g31 g30 = (sends r (linkWrites r g31 g30)).seq fun q => { q with depth := q.depth + 1 } := by
  simp only [State.slide, h, foldl_writeG (fun i => groupKey (r.core.seq.depth + 2) + i) (fun _ => 0)]
  simp only [writeG_eq_sends, result_eq_sends, sends_sends, sends_seq, bWrite_sends, bWrite_seq]
  rfl

theorem slide_of_room {s : State} (h : s.core.seq.depth < 14 + s.core.seq.spilled) (g31 g30 : Nat) :
    s.slide g31 g30 = (sends s (linkWrites s g31 g30)).seq fun q => { q with depth := q.depth + 1 } :=
  slide_eq (by rw [needsSpill_of_room h, if_neg Bool.false_ne_true]) g31 g30

/-- A call goes on from the slid window. -/
theorem goto_slid (s : State) (g31 g30 : Nat) (adapter : BitVec 3) (pc : Word64) (lpc : Option Word64)
    (code : Table (Option (BitVec 512))) (cold : Bool) :
    (((sends s (linkWrites s g31 g30)).seq fun q => { q with depth := q.depth + 1 }).seq fun q =>
      { q with adapter := adapter }).goto pc lpc code cold = called s g31 g30 adapter pc lpc code cold := rfl

/-! ### Frames in the stack region (R99) -/

/-- Numbers stored end to end are read back one by one. -/
theorem num_store_numbers (m : Memory) (a w : Nat) (x : Nat → Nat) {n i : Nat} (h : i < n) :
    (m.store a ((List.range n).flatMap fun i => leBytes w (x i))).num (a + w * i) w = x i % 256 ^ w := by
  have hlen : ∀ n, ((List.range n).flatMap fun i => leBytes w (x i)).length = w * n := fun n => by
    simp [List.length_flatMap, leBytes_length, Nat.mul_comm]
  induction n with
  | zero => exact absurd h (Nat.not_lt_zero i)
  | succ n ih =>
    rw [List.range_succ, List.flatMap_append, store_append, hlen, List.flatMap_singleton, ← Memory.setNum]
    rcases Nat.lt_succ_iff_lt_or_eq.mp h with hi | rfl
    · have hle : w * i + w ≤ w * n := by rw [← Nat.mul_succ]; exact Nat.mul_le_mul_left w hi
      rw [num_congr fun b _ hb => read_setNum_other _ (.inl (by omega)), ih hi]
    · exact Memory.num_setNum _ _ _ _

theorem bytes_append (m : Memory) (a k n : Nat) : m.bytes a (k + n) = m.bytes a k ++ m.bytes (a + k) n := by
  induction k generalizing a with
  | zero => rw [Nat.zero_add, Nat.add_zero]; rfl
  | succ k ih => rw [Nat.succ_add, Memory.bytes, Memory.bytes, ih, List.cons_append, Nat.add_right_comm a 1 k, Nat.add_assoc]

theorem num_append (m : Memory) (a k n : Nat) : m.num a (k + n) = m.num a k + 256 ^ k * m.num (a + k) n := by
  rw [Memory.num, bytes_append, leNat_append, Memory.bytes_length]; rfl

/-- A lane of a number in memory is the number at the lane's place. -/
theorem laneOf_num (m : Memory) (a w : Nat) {n i : Nat} (h : i < n) :
    laneOf (8 * w) (m.num a (w * n)) i = m.num (a + w * i) w := by
  obtain ⟨k, rfl⟩ := Nat.exists_eq_add_of_lt h
  have e : w * (i + k + 1) = w * i + (w + w * k) := by ring
  have hp : 2 ^ (8 * w * i) = 256 ^ (w * i) := by rw [Nat.mul_assoc, Nat.pow_mul]
  rw [laneOf, e, num_append, num_append, hp, Nat.add_mul_div_left _ _ (by positivity),
    Nat.div_eq_of_lt (num_lt m a (w * i)), Nat.zero_add, Nat.pow_mul, Nat.add_mul_mod_self_left,
    Nat.mod_eq_of_lt (num_lt _ _ _)]

/-! ### CALL (R97, R99) -/

section
variable {s : State} {t : BitVec 2} {b : Target}

/-- What a CALL through a ready buffer does. -/
theorem exec_call_of_ready (h : s.ready t = .ok b) : exec (.call t) s = issue 0 (fun s => notInLoopm s.core >>= fun _ =>
    s.core.callRoom >>= fun _ => s.windowWait s.core.seq.needsSpill s.core.seq.spillPtr 2 .winspill >>= fun _ =>
    .ok ((s.slide s.core.ctx.next.toNat (linkWord s.core.literalAt 0 s.core.seq.rrb.toNat)).goto b.pc b.lpc b.code)) s := by
  show execCall t s = _
  refine issue_congr ?_
  simp only [h, bind_ok, pure_ok]

/-- What a spill leaves of the core: one group more in the stack region (R99). -/
theorem spillGroup_eq {c : Core} {off len : Nat} (h : c.ctl.stack = some (off, len)) :
    c.spillGroup.vault = c.vault.store (off + c.seq.spillPtr)
        ((List.range 8).flatMap fun i => leBytes 8 (c.gAt (groupKey c.seq.spilled + i)).toNat) ∧
      c.spillGroup.seq = { c.seq with spilled := c.seq.spilled + 1, spillPtr := c.seq.spillPtr + 64 } ∧
      c.spillGroup.regs = c.regs := by
  rw [Core.spillGroup, h]
  exact ⟨rfl, rfl, rfl⟩

end

theorem calls_holds : calls := by
  refine ⟨fun t s h => ?empty, fun t s b hb hr => ⟨fun hl hd hw => ?room, fun hl hd hw off len hs hlen ha hp hm =>
    ⟨fun hn => ?first, fun w hwait hsince => ?spill⟩, fun hl => ?nested, fun hl hd => ?deep⟩⟩
  case empty =>
    show execCall t s = _
    refine issue_trap ?_
    simp only [ready_of_none h, bind_error]
  all_goals have hcall := exec_call_of_ready (ready_of_some hb hr)
  case room =>
    refine hcall.trans (issue_ok ?_)
    simp only [notInLoopm_of_false hl, callRoom_of_window hd hw, needsSpill_of_room hw, windowWait_of_stays, bind_ok,
      slide_of_room hw, linkWord_literalAt, Nat.zero_mul, Nat.add_zero]
    exact congrArg _ (goto_slid s _ _ s.core.seq.adapter _ _ _ false)
  case first =>
    refine ⟨_, hcall.trans (issue_hold_first (e := .winspill) (l := none) ?_ hn), rfl, rfl, rfl, rfl, rfl⟩
    simp only [notInLoopm_of_false hl, callRoom_of_stack hd hs hlen, needsSpill_of_full hw, windowWait_of_moves hs ha hp hm,
      holdFor_first (n := 2) (by decide) hn, bind_ok, bind_error]
  case spill =>
    have hgo : exec (.call t) s = .next ((s.slide s.core.ctx.next.toNat
        (linkWord s.core.literalAt 0 s.core.seq.rrb.toNat)).goto b.pc b.lpc b.code) := by
      refine hcall.trans (issue_ok ?_)
      simp only [notInLoopm_of_false hl, callRoom_of_stack hd hs hlen, needsSpill_of_full hw, windowWait_of_moves hs ha hp hm,
        holdFor_over (.inr ⟨w, hwait, hsince⟩), bind_ok]
    obtain ⟨hvault, hseq, hregs⟩ := spillGroup_eq hs
    refine ⟨_, hgo, ?_⟩
    rw [slide_eq (by rw [needsSpill_of_full hw, if_pos rfl])]
    refine ⟨congrArg (·.depth + 1) hseq, congrArg (·.spilled) hseq, congrArg (·.spillPtr) hseq, rfl, hregs, fun i hi => ?_,
      fun a ha => ?_⟩
    · show s.core.spillGroup.vault.num _ 8 = _
      rw [hvault, num_store_numbers _ _ 8 _ hi]
      exact Nat.mod_eq_of_lt (BitVec.isLt _)
    · show s.core.spillGroup.vault.read a = _
      rw [hvault]
      exact Memory.read_store_other _ _ _ _ (by simpa [List.length_flatMap, leBytes_length] using ha)
  case nested =>
    refine hcall.trans (issue_trap ?_)
    simp only [notInLoopm_of_true hl, bind_error]
  case deep =>
    refine hcall.trans (issue_trap ?_)
    simp only [notInLoopm_of_false hl, callRoom_of_deep hd, bind_ok, bind_error]

/-! ### RET (R98, R99) -/

section
variable {s : State} {k : BitVec 1} {g31 g30 : Word64}

/-- What a RET of a called function does, outside levels of its own depth and to an aligned address. -/
theorem exec_ret_of_called (h31 : s.core.readG 31 = .ok g31) (h30 : s.core.readG 30 = .ok g30)
    (hl : s.core.seq.levels.find? (·.depth == s.core.seq.depth) = none) (hd : s.core.seq.depth ≠ 0)
    (ha : g31.toNat % 4 = 0) : exec (.ret k) s = issue 0 (fun s =>
      s.windowWait (decide (s.core.seq.depth - 1 < s.core.seq.spilled)) (s.core.seq.spillPtr - 64) 5 .winfill >>= fun _ =>
      if fieldOf g30.toNat 59 57 ≠ 0 then s.resumeAdapt (g31.toNat % 2 ^ 57) g30.toNat
      else .ok ((s.slideBack (fieldOf g30.toNat 63 60)).goto (BitVec.ofNat 64 (g31.toNat % 2 ^ 57))
        (if k = 1 then none else some (BitVec.ofNat 64 (g30.toNat % 2 ^ 57))) [] true)) s := by
  show execRet k s = _
  refine issue_congr ?_
  have hd' : (s.core.seq.depth != 0) = true := bne_iff_ne.mpr hd
  simp only [h31, h30, innermostAt, hl, hd', ha, Option.isNone_none, beq_self_eq_true, need_true, bind_ok, pure_ok]

/-- A RET whose window has nothing to wait for returns to its caller where the link names no adapter (R98). -/
theorem exec_ret_of_caller (h31 : s.core.readG 31 = .ok g31) (h30 : s.core.readG 30 = .ok g30)
    (hl : s.core.seq.levels.find? (·.depth == s.core.seq.depth) = none) (hd : s.core.seq.depth ≠ 0)
    (ha : g31.toNat % 4 = 0) (ht : fieldOf g30.toNat 59 57 = 0)
    (hw : s.windowWait (decide (s.core.seq.depth - 1 < s.core.seq.spilled)) (s.core.seq.spillPtr - 64) 5 .winfill = .ok ()) :
    exec (.ret k) s = .next ((s.slideBack (fieldOf g30.toNat 63 60)).goto (BitVec.ofNat 64 (g31.toNat % 2 ^ 57))
      (if k = 1 then none else some (BitVec.ofNat 64 (g30.toNat % 2 ^ 57))) [] true) := by
  refine (exec_ret_of_called h31 h30 hl hd ha).trans (issue_ok ?_)
  simp only [hw, ht, ne_eq, not_true_eq_false, if_false, bind_ok]

/-- A return into the window as it stands only sends the caller's RRB (R98). -/
theorem slideBack_of_stays (h : s.core.seq.spilled ≤ s.core.seq.depth - 1) (rrb : Nat) :
    s.slideBack rrb = (sends s [bWrite s .rrb rrb (ones 4)]).seq fun q => { q with depth := q.depth - 1 } := by
  rw [State.slideBack, if_neg (Nat.not_lt.mpr h)]; rfl

/-- A return goes on from the window slid back. -/
theorem goto_slidBack (s : State) (rrb : Nat) (pc : Word64) (lpc : Option Word64) :
    (((sends s [bWrite s .rrb rrb (ones 4)]).seq fun q => { q with depth := q.depth - 1 }).goto pc lpc [] true) =
      returned s rrb pc lpc := rfl

/-- A fill sends the eight registers of the last group spilled (R99). -/
theorem fillGroup_eq {off len : Nat} (hs : s.core.ctl.stack = some (off, len)) :
    s.fillGroup = (sends s ((List.range 8).map fun i => bWrite s (.g (groupKey (s.core.seq.spilled - 1) + i))
      (s.core.vault.num (off + (s.core.seq.spillPtr - 64) + 8 * i) 8) (ones 64))).seq fun q =>
        { q with spilled := s.core.seq.spilled - 1, spillPtr := s.core.seq.spillPtr - 64 } := by
  have hx : (List.range 8).map (fun i => bWrite s (.g (groupKey (s.core.seq.spilled - 1) + i))
        (laneOf 64 (s.core.vault.num (off + (s.core.seq.spillPtr - 64)) 64) i % 2 ^ 64) (ones 64)) =
      (List.range 8).map fun i => bWrite s (.g (groupKey (s.core.seq.spilled - 1) + i))
        (s.core.vault.num (off + (s.core.seq.spillPtr - 64) + 8 * i) 8) (ones 64) :=
    List.map_congr_left fun i hi => by
      rw [laneOf_num (w := 8) _ _ (List.mem_range.mp hi), Nat.mod_eq_of_lt (show _ < 2 ^ 64 from num_lt _ _ 8)]
  simp only [State.fillGroup, hs, foldl_writeG (fun i => groupKey (s.core.seq.spilled - 1) + i)
    (laneOf 64 (s.core.vault.num (off + (s.core.seq.spillPtr - 64)) 64)), hx]
  rfl

/-- A return that fills sends the group and then the caller's RRB (R98, R99). -/
theorem slideBack_of_fill {off len : Nat} (hs : s.core.ctl.stack = some (off, len))
    (h : s.core.seq.depth - 1 < s.core.seq.spilled) (rrb : Nat) :
    s.slideBack rrb = (sends s (((List.range 8).map fun i => bWrite s (.g (groupKey (s.core.seq.spilled - 1) + i))
      (s.core.vault.num (off + (s.core.seq.spillPtr - 64) + 8 * i) 8) (ones 64)) ++ [bWrite s .rrb rrb (ones 4)])).seq fun q =>
        { q with spilled := s.core.seq.spilled - 1, spillPtr := s.core.seq.spillPtr - 64, depth := q.depth - 1 } := by
  rw [State.slideBack, if_pos h, fillGroup_eq hs, ← sends_sends]
  rfl

theorem mem_sends (s : State) (l : List Delivery) (d : Delivery) :
    d ∈ (sends s l).core.qs.flight ↔ d ∈ s.core.qs.flight ∨ d ∈ l := by
  have h : ∀ (l q : List Delivery), d ∈ l.foldl (fun q d => insertDelivery d q) q ↔ d ∈ q ∨ d ∈ l := fun l => by
    induction l with
    | nil => simp
    | cons x l ih => intro q; rw [List.foldl_cons, ih, mem_insertDelivery, List.mem_cons, or_comm (a := d = x), or_assoc]
  exact h l _

end

theorem returns_holds : returns := by
  intro k s g31 g30 h31 h30
  refine ⟨fun hl hd ha hw ht => ?stays, fun off len p hl hd ha hw ht hs hq hp hb hm => ⟨fun hn => ?first, fun w hwait hsince => ?fill⟩,
    fun hd => ?underflow⟩
  case stays =>
    rw [exec_ret_of_caller h31 h30 hl hd ha ht (by rw [decide_eq_false (Nat.not_lt.mpr hw)]; rfl), slideBack_of_stays hw,
      goto_slidBack]
  case first =>
    subst hp
    refine ⟨_, (exec_ret_of_called h31 h30 hl hd ha).trans (issue_hold_first (e := .winfill) (l := none) ?_ hn),
      rfl, rfl, rfl, rfl, rfl⟩
    simp only [decide_eq_true hw, windowWait_of_moves hs hq hb hm, holdFor_first (n := 5) (by decide) hn, bind_error]
  case fill =>
    subst hp
    have hgo := exec_ret_of_caller (k := k) h31 h30 hl hd ha ht
      (by rw [decide_eq_true hw, windowWait_of_moves hs hq hb hm]; exact holdFor_over (.inr ⟨w, hwait, hsince⟩))
    rw [slideBack_of_fill hs hw] at hgo
    refine ⟨_, hgo, rfl, rfl, rfl, rfl, rfl, rfl, fun d => (mem_sends s _ d).trans (or_congr_right ?_)⟩
    simp only [List.mem_append, List.mem_map, List.mem_range, List.mem_singleton, eq_comm (b := d)]
    exact or_comm
  case underflow =>
    show execRet k s = _
    refine issue_trap ?_
    simp only [h31, h30, hd, bne_self_eq_false, need_false, bind_ok, bind_error]

/-! ### Adapter calls (R110) -/

/-- A segment called from a window that has room. -/
theorem callSegment_of_room {s : State} (h : s.core.seq.depth < 14 + s.core.seq.spilled) (pc lpc rrb : Nat)
    (seg : Nat × Nat × Nat) : s.callSegment pc lpc rrb seg = called s pc (linkWord lpc seg.1 rrb) (BitVec.ofNat 3 seg.1)
      (BitVec.ofNat 64 seg.2.1) (some (BitVec.ofNat 64 seg.2.2)) [] true := by
  rw [State.callSegment, slide_of_room h]
  exact goto_slid s _ _ _ _ _ _ _

/-! A transfer changes nothing that the fetch of code reads. -/

section
variable (s : State) (pc : Word64) (lpc : Option Word64) (lines : Table (Option (BitVec 512))) (cold : Bool)

theorem codeWords_goto (va n : Nat) : (s.goto pc lpc lines cold).codeWords va n = s.codeWords va n := by
  induction n generalizing va with
  | zero => rfl
  | succ n ih => rw [State.codeWords, State.codeWords, ih]; rfl

theorem adaptAt_goto (va : Nat) : (s.goto pc lpc lines cold).adaptAt va = s.adaptAt va := by
  simp only [State.adaptAt, codeWords_goto]

end

section
variable {s : State} {h : BitVec 10}

theorem exec_adapt_of_none (hl : s.core.seq.inLoopm = false) (hn : s.nextSegment h.toNat 0 = none) :
    exec (.adapt h) s = issue 0 (fun s => need (s.core.seq.adapter == 0) .adaptnest >>= fun _ => .ok s) s := by
  show execAdapt h s = _
  refine issue_congr ?_
  simp only [notInLoopm_of_false hl, hn, bind_ok, pure_ok]

/-- An ADAPT with a segment to call, from a window that has room, asks only whether one runs already. -/
theorem exec_adapt_of_some {seg : Nat × Nat × Nat} (hl : s.core.seq.inLoopm = false)
    (hn : s.nextSegment h.toNat 0 = some seg) (hd : s.core.seq.depth < 31) (hw : s.core.seq.depth < 14 + s.core.seq.spilled) :
    exec (.adapt h) s = issue 0 (fun s => need (s.core.seq.adapter == 0) .adaptnest >>= fun _ =>
      .ok (s.callSegment s.core.ctx.pc.toNat s.core.literalAt s.core.seq.rrb.toNat seg)) s := by
  show execAdapt h s = _
  refine issue_congr ?_
  simp only [notInLoopm_of_false hl, hn, callRoom_of_window hd hw, needsSpill_of_room hw, windowWait_of_stays, bind_ok, pure_ok]

/-- A RET from a segment, whose ADAPT stands at the link, goes on with the next tenant or behind the ADAPT (R98, R110). -/
theorem exec_ret_of_segment {k : BitVec 1} {g31 g30 : Word64} {len hook : Nat} (h31 : s.core.readG 31 = .ok g31)
    (h30 : s.core.readG 30 = .ok g30) (hl : s.core.seq.levels.find? (·.depth == s.core.seq.depth) = none)
    (hd : s.core.seq.depth ≠ 0) (ha : g31.toNat % 4 = 0) (hw : s.core.seq.spilled ≤ s.core.seq.depth - 1)
    (ht : fieldOf g30.toNat 59 57 ≠ 0)
    (hat : (returned s (fieldOf g30.toNat 63 60) 0 none).adaptAt (g31.toNat % 2 ^ 57) = some (len, some hook)) :
    exec (.ret k) s = .next (match s.nextSegment hook (fieldOf g30.toNat 59 57) with
      | some seg => (s.slideBack (fieldOf g30.toNat 63 60)).callSegment (g31.toNat % 2 ^ 57) (g30.toNat % 2 ^ 57)
          (fieldOf g30.toNat 63 60) seg
      | none => ((s.slideBack (fieldOf g30.toNat 63 60)).seq fun q => { q with adapter := 0 }).goto
          (BitVec.ofNat 64 ((g31.toNat % 2 ^ 57 + len) % 2 ^ 57)) (some (BitVec.ofNat 64 (g30.toNat % 2 ^ 57))) [] true) := by
  have hslid : (s.slideBack (fieldOf g30.toNat 63 60)).adaptAt (g31.toNat % 2 ^ 57) = some (len, some hook) := by
    rw [← hat, ← goto_slidBack, adaptAt_goto, slideBack_of_stays hw]
  have hseg : (s.slideBack (fieldOf g30.toNat 63 60)).nextSegment hook = s.nextSegment hook := by
    rw [slideBack_of_stays hw]; rfl
  refine (exec_ret_of_called h31 h30 hl hd ha).trans (issue_ok ?_)
  simp only [decide_eq_false (Nat.not_lt.mpr hw), windowWait_of_stays, bind_ok, if_pos ht, State.resumeAdapt, hslid,
    Option.bind_some, hseg]
  cases s.nextSegment hook (fieldOf g30.toNat 59 57) <;> rfl

end

theorem adapterCalls_holds : adapterCalls := by
  intro h s
  refine ⟨fun h0 hl hn => ?absent, fun ten pc lpc h0 hl hn hd hw => ?calls, fun h0 hl hor => ?nested,
    fun k g31 g30 len hook h31 h30 hl hd ha hw ht hat => ?goesOn⟩
  case absent =>
    refine (exec_adapt_of_none hl hn).trans (issue_ok ?_)
    simp only [h0, beq_self_eq_true, need_true, bind_ok]
  case calls =>
    refine (exec_adapt_of_some hl hn hd hw).trans (issue_ok ?_)
    simp only [h0, beq_self_eq_true, need_true, bind_ok, callSegment_of_room hw, linkWord_literalAt]
  case nested =>
    cases hn : s.nextSegment h.toNat 0 with
    | none =>
      refine (exec_adapt_of_none hl hn).trans (issue_trap ?_)
      simp only [beq_eq_false_iff_ne.mpr h0, need_false, bind_error]
    | some seg =>
      obtain ⟨hd, hw⟩ := hor.resolve_left (by simp [hn])
      refine (exec_adapt_of_some hl hn hd hw).trans (issue_trap ?_)
      simp only [beq_eq_false_iff_ne.mpr h0, need_false, bind_error]
  case goesOn =>
    have hret := exec_ret_of_segment (k := k) h31 h30 hl hd ha hw ht hat
    rw [slideBack_of_stays hw] at hret
    refine ⟨fun hn => ?_, fun ten pc lpc hn hroom => ?_⟩
    · rw [hn] at hret
      exact ⟨_, hret, rfl, rfl, rfl, rfl, rfl⟩
    · rw [hn] at hret
      dsimp only at hret
      rw [callSegment_of_room hroom] at hret
      exact ⟨_, hret, rfl, rfl, rfl, rfl, rfl⟩

/-- Settles O24: a call, a return and an adapter call by what each has to wait for and whether it moves a frame. -/
theorem callsAndReturns : Obligations.CallsAndReturns := ⟨calls_holds, returns_holds, adapterCalls_holds⟩

end Sys2Proof.CycleProofs
end

section
/-!
PROOFS. Words of the port and the gather engine (R184 to R189, R198, R239): what a step at a word leaves of its core and what a
translation changes, and from these what arrives in registers and queues.
-/
open Sys2Proof Sys2Proof.Machine Sys2Proof.Claims Sys2Proof.CoreProofs Sys2Proof.NumberProofs

namespace Sys2Proof.CycleProofs

/-! ### A word that acts on the core where its task runs (R184, R302) -/

/-- A core hands no bank over while none is pending. -/
theorem settleBanks_of_settled {s : State} {n : Nat} (h : (s.coreAt n).ctl.pendingBanks = 0) : s.settleBanks n = s := by
  have hf : ((List.range 64).filter fun k => (s.coreAt n).ctl.pendingBanks.getLsbD k &&
      !s.heldByOther n (s.coreAt n).ctl.task k) = [] := by simp [h]
  rw [State.settleBanks, hf, List.foldl_nil]

/-- The bytes that no task retains need no saving. -/
theorem guardBanks_of_none {s : State} {by_ n : Nat} (h : (s.coreAt n).retained = []) (banks : List Nat) :
    s.guardBanks by_ n banks = s := by
  induction banks with
  | nil => rfl
  | cons k ks ih =>
    have hk : State.saveBank by_ n s k = s := by rw [State.saveBank, h]; rfl
    rw [State.guardBanks, List.foldl_cons, hk]; exact ih

/-- A core without the words that are `e`. -/
def withoutWord (e : GEntry) (c : Core) : Core := { c with port := c.port.filter fun x => !x.same e }

section
variable (e : GEntry) (c : Core)
@[simp] theorem withoutWord_port : (withoutWord e c).port = c.port.filter fun x => !x.same e := rfl
@[simp] theorem withoutWord_regs : (withoutWord e c).regs = c.regs := rfl
@[simp] theorem withoutWord_vault : (withoutWord e c).vault = c.vault := rfl
@[simp] theorem withoutWord_qs : (withoutWord e c).qs = c.qs := rfl
@[simp] theorem withoutWord_eng : (withoutWord e c).eng = c.eng := rfl
@[simp] theorem withoutWord_boundary : (withoutWord e c).boundary = c.boundary := rfl
end

/-- DPOISON noted where data were bad (R376). -/
def noteBad (b : Bool) (c : Core) : Core :=
  { c with boundary := c.boundary ++ if b then [{ cause := .dpoison, slot := 10 }] else [] }

section
variable (b : Bool) (c : Core)
@[simp] theorem noteBad_boundary :
    (noteBad b c).boundary = c.boundary ++ if b then [{ cause := .dpoison, slot := 10 }] else [] := rfl
@[simp] theorem noteBad_port : (noteBad b c).port = c.port := rfl
@[simp] theorem noteBad_regs : (noteBad b c).regs = c.regs := rfl
@[simp] theorem noteBad_vault : (noteBad b c).vault = c.vault := rfl
@[simp] theorem noteBad_qs : (noteBad b c).qs = c.qs := rfl
@[simp] theorem noteBad_eng : (noteBad b c).eng = c.eng := rfl
@[simp] theorem noteBad_ctl : (noteBad b c).ctl = c.ctl := rfl
end

/-- An xt register with a translation in it (R189). -/
def withXt (x : Nat) (v : BitVec 128) (c : Core) : Core := { c with regs := { c.regs with xt := c.regs.xt.set 0 x v } }

section
variable (x : Nat) (v : BitVec 128) (c : Core)
@[simp] theorem withXt_regs : (withXt x v c).regs = { c.regs with xt := c.regs.xt.set 0 x v } := rfl
@[simp] theorem withXt_port : (withXt x v c).port = c.port := rfl
@[simp] theorem withXt_eng : (withXt x v c).eng = c.eng := rfl
@[simp] theorem withXt_ctl : (withXt x v c).ctl = c.ctl := rfl
end

/-- A core with bytes stored in its vault, and what the store notes beside it. -/
def stored (a : Nat) (bs : List Byte) (undo : List (Nat × Nat × Byte)) (poison : Table Bool) (c : Core) : Core :=
  { c with vault := c.vault.store a bs, undo := undo, poison := poison }

section
variable (a : Nat) (bs : List Byte) (undo : List (Nat × Nat × Byte)) (poison : Table Bool) (c : Core)
@[simp] theorem stored_vault : (stored a bs undo poison c).vault = c.vault.store a bs := rfl
@[simp] theorem stored_regs : (stored a bs undo poison c).regs = c.regs := rfl
@[simp] theorem stored_port : (stored a bs undo poison c).port = c.port := rfl
@[simp] theorem stored_boundary : (stored a bs undo poison c).boundary = c.boundary := rfl
@[simp] theorem stored_ctl : (stored a bs undo poison c).ctl = c.ctl := rfl
end

section
variable {u : State} {e : GEntry}

/-- A word without an acquire leaves the port and changes neither the rest of the core nor memory. -/
theorem retire_eq (hb : u.core.ctl.pendingBanks = 0) (ha : e.acquire = false) :
    ∃ f, u.retire e = (u.mod (withoutWord e)).sched f := by
  rw [State.retire]
  simp only [ha, Bool.false_eq_true, if_false]
  exact ⟨_, settleBanks_of_settled (by simpa [State.coreAt] using hb)⟩

theorem modOwner_current (h : u.core.ctl.task = e.task) (f : Core → Core) : u.modOwner u.cur e.task f = u.mod f := by
  have hh : (u.coreAt u.cur).holds e.task = true := by rw [coreAt_cur, Core.holds, h]; exact beq_self_eq_true _
  rw [State.modOwner, if_pos hh, State.modAt, State.setCore, if_pos rfl, coreAt_cur]; rfl

/-- A running core takes a result of its task in the next cycle (R16, R184). -/
theorem receive_running (h : u.core.ctl.task = e.task) (hr : u.core.ctl.run = .running) (d : Dest) (x : Nat) :
    u.receive e d x = u.mod (·.send ⟨u.cycle + 1, e.order, d, x, ones 32768, 0, none⟩) := by
  rw [State.receive, modOwner_current h]
  simp only [State.mod, Core.arrival, hr]

theorem raise_running (h : u.core.ctl.task = e.task) (hr : u.core.ctl.run = .running) (i : TrapInfo) :
    u.raise e.task i = u.mod (·.note i) := by
  have hon : u.onCore? u.cur e.task = true := by
    rw [State.onCore?, coreAt_cur, Core.holds, h, hr]; simp
  rw [State.raise, hon, Bool.true_or, if_pos rfl, modOwner_current h]

theorem poison_running (h : u.core.ctl.task = e.task) (hr : u.core.ctl.run = .running) (b : Bool) :
    (if b then u.poisonTask e else u) = u.mod (noteBad b) := by
  cases b
  · simp [noteBad, State.mod]
  · rw [if_pos rfl, State.poisonTask, raise_running h hr]; rfl

theorem faultedPort_eq (port : List GEntry) (i : TrapInfo) : faultedPort port e i = port.map fun x =>
    if x.same e then { e with faulted := some i, kept := true }
    else if x.task == e.task && e.order < x.order && !x.begun then { x with kept := true } else x := by
  simp only [faultedPort, Bool.and_eq_true, beq_iff_eq, decide_eq_true_eq, Bool.not_eq_true', and_assoc]

/-- A word that meets a fault holds the words of its task behind it in the port, and its fault waits for the boundary (R239). -/
theorem faultWord_core (h : u.core.ctl.task = e.task) (hr : u.core.ctl.run = .running) (i : TrapInfo) :
    ∃ q, u.faultWord e i = u.mod fun c => { c with
      port := faultedPort c.port e i, qs := q, boundary := c.boundary ++ [{ i with port := some e.order }] } := by
  simp only [State.faultWord, faultedPort_eq]
  refine ⟨_, (raise_running ?_ ?_ _).trans rfl⟩
  · exact h
  · exact hr

/-- A write to the vault that its own task makes, where no bank is saved and none retained (R255, R305). -/
theorem engineWrite_own {n : Nat} (hcur : u.cur = n) (h : u.core.ctl.task = e.task) (hr : u.core.retained = [])
    (hs : ∀ b, u.savedBank n e.task b = none) (a : Nat) (bs : List Byte) :
    ∃ q p, u.engineWrite n e.task a bs = u.mod (stored a bs q p) := by
  subst hcur
  have hh : u.core.holds e.task = true := by rw [Core.holds, h]; exact beq_self_eq_true _
  have hn : u.noteUndo u.cur e.task a bs.length = u := by rw [State.noteUndo, coreAt_cur, if_pos hh]
  cases bs with
  | nil => exact ⟨u.core.undo, u.core.poison, rfl⟩
  | cons b bs =>
    simp only [State.engineWrite, List.isEmpty_cons, hn, hs, Option.isSome_none, List.any_eq_true, Bool.false_eq_true, and_false,
      exists_false, if_false]
    rw [guardBanks_of_none (by rwa [coreAt_cur]), State.vaultWrite, State.modAt, State.setCore, if_pos rfl, coreAt_cur, if_pos hh]
    exact ⟨_, _, rfl⟩

end

/-! ### What a translation changes (R189, R341) -/

/-- A state that differs from another in the memory of its memory system alone. -/
def memOnly (s t : State) : Prop := ∃ m, t = s.sys fun k => { k with mem := m }

theorem memOnly.refl (s : State) : memOnly s s := ⟨s.dev.sys.mem, rfl⟩

theorem memOnly.trans {r s t : State} (h : memOnly r s) (k : memOnly s t) : memOnly r t := by
  obtain ⟨m, rfl⟩ := h
  obtain ⟨m', rfl⟩ := k
  exact ⟨m', rfl⟩

/-- What such a state keeps. -/
theorem memOnly.keeps {s t : State} (h : memOnly s t) : t.cur = s.cur ∧ t.core = s.core ∧ t.dev.sched = s.dev.sched := by
  obtain ⟨m, rfl⟩ := h
  exact ⟨rfl, rfl, rfl⟩

theorem memOnly_setAD (s : State) (p : Mapping) (w : Bool) : memOnly s (setAD s p w) :=
  ⟨(setAD s p w).dev.sys.mem, by simp only [setAD, State.sys]⟩

theorem memOnly_translate {s t : State} {asid va : Nat} {w : Bool} {p : Mapping} (h : s.translate asid va w = .ok (p, t)) :
    memOnly s t := by
  unfold State.translate at h
  cases hsp : s.space asid with
  | none => simp [hsp] at h
  | some a =>
    simp only [hsp, bind_eq_ok] at h
    obtain ⟨q, hq, h⟩ := h
    split at h
    · cases h
    split at h
    · cases h
    simp only [Except.ok.injEq, Prod.mk.injEq] at h
    obtain ⟨rfl, rfl⟩ := h
    exact memOnly_setAD s q w

theorem memOnly_pieces {s t : State} {asid : Nat} {w : Bool} {fuel va n : Nat} {l : List (Nat × Nat)}
    (h : s.pieces asid w fuel va n = .ok (l, t)) : memOnly s t := by
  induction fuel generalizing s va n l with
  | zero =>
    cases n with
    | zero => rw [State.pieces] at h; cases h; exact .refl _
    | succ n => simp [State.pieces] at h
  | succ fuel ih =>
    cases n with
    | zero => rw [State.pieces] at h; cases h; exact .refl _
    | succ n =>
      unfold State.pieces at h
      cases htr : s.translate asid va w with
      | error c => simp [htr] at h
      | ok r =>
        obtain ⟨p, s'⟩ := r
        cases hp : State.pieces s' asid w fuel (va + min (n + 1) (65536 - va % 65536))
            (n + 1 - min (n + 1) (65536 - va % 65536)) with
        | error c => simp [htr, hp] at h
        | ok r =>
          obtain ⟨l', t'⟩ := r
          simp only [htr, hp] at h
          cases h
          exact (memOnly_translate htr).trans (ih hp)

theorem memOnly_range {s t : State} {asid va n : Nat} {w : Bool} {l : List (Nat × Nat)}
    (h : s.range asid w va n = .ok (l, t)) : memOnly s t := memOnly_pieces h

theorem memOnly_flatPieces {s t : State} {e : GEntry} {w : Bool} {va n : Nat} {pa : Option Nat} {l : List (Nat × Nat)}
    (h : s.flatPieces e w va n pa = .ok (l, t)) : memOnly s t := by
  have fresh : ∀ {r : List (Nat × Nat) × State}, (match s.range e.asid w va n with
      | .ok r => (Except.ok r : Except (TrapInfo × State) (List (Nat × Nat) × State))
      | .error (k, v, t) => .error (flatFault k v (va + n - v), t)) = .ok r → memOnly s r.2 := by
    intro r hr
    split at hr
    · next hk => cases hr; exact memOnly_range hk
    · cases hr
  have stands : ∀ {a : Nat} {r : List (Nat × Nat) × State}, (if (s.tier a).isSome then
      (Except.ok ([(a, n)], s) : Except (TrapInfo × State) (List (Nat × Nat) × State))
      else .error (flatFault .trans va n, s)) = .ok r → memOnly s r.2 := by
    intro a r hr
    split at hr
    · cases hr; exact .refl _
    · cases hr
  unfold State.flatPieces at h
  dsimp only at h
  split at h
  · split at h
    · split at h
      · exact fresh h
      · exact stands h
    · exact stands h
  · exact stands h
  · exact fresh h

theorem memOnly_elementPieces {s t : State} {e : GEntry} {n : Nat} {vas : List Nat} {l : List (Nat × Nat)}
    (h : s.elementPieces e n vas = .ok (l, t)) : memOnly s t := by
  induction vas generalizing s l with
  | nil => cases h; exact .refl _
  | cons va vas ih =>
    unfold State.elementPieces at h
    simp only [bind_eq_ok] at h
    obtain ⟨⟨l1, s1⟩, h1, ⟨l2, s2⟩, h2, h⟩ := h
    cases h
    refine memOnly.trans ?_ (ih h2)
    unfold State.enginePieces at h1
    split at h1
    · next hk => cases h1; exact memOnly_range hk
    · cases h1

/-! ### TRANSFER_ARRIVAL (R184, R186) -/

theorem coreAt_of_cur {s : State} {n : Nat} (h : s.cur = n) : s.coreAt n = s.core := h ▸ coreAt_cur s

/-- The word `e` at place `ix` of core `n`, whose task runs there, may perform. -/
def mayArrive (s : State) (n ix : Nat) (e : GEntry) : Prop :=
  n < 512 ∧ (s.coreAt n).port[ix]? = some e ∧ (s.turnTo n).mayTransfer ix e = true ∧ e.task = (s.coreAt n).ctl.task ∧
    (s.coreAt n).ctl.run = .running ∧ settled s n

section
variable {s w : State} {n ix : Nat} {e : GEntry} (hmay : mayArrive s n ix e)
include hmay

theorem transferArrival_performs : exec (.transferArrival n ix) s = .next (s.on n (·.performWord e)) := by
  obtain ⟨hn, hport, hm, -⟩ := hmay
  refine (onCore_of_lt _ s hn).trans ?_
  rw [on_congr (g := (·.performWord e)) (by simp only [turnTo_core, hport, hm, if_true])]

/-- What a word leaves that performs and stays. -/
theorem arrives_of_performs (hw : (s.turnTo n).performWord e = w) (hcur : w.cur = n) :
    ∃ t, exec (.transferArrival n ix) s = .next t ∧ t.coreAt n = w.core ∧ t.dev = w.dev :=
  ⟨_, transferArrival_performs hmay, by rw [coreAt_on, hw, coreAt_of_cur hcur], by rw [on_dev, hw]⟩

/-- What a word leaves that performs and leaves the port. -/
theorem arrives_of_retires (hw : (s.turnTo n).performWord e = w.retire e) (hcur : w.cur = n)
    (hctl : w.core.ctl = (s.coreAt n).ctl) (ha : e.acquire = false) :
    ∃ t, exec (.transferArrival n ix) s = .next t ∧ t.coreAt n = withoutWord e w.core ∧ t.dev.sys = w.dev.sys := by
  have hb : w.core.ctl.pendingBanks = 0 := by
    obtain ⟨-, -, -, -, -, hset⟩ := hmay
    rw [hctl]; exact hset
  obtain ⟨f, hf⟩ := retire_eq (u := w) (e := e) hb ha
  obtain ⟨t, ht, hcore, hdev⟩ := arrives_of_performs hmay (hw.trans hf) hcur
  exact ⟨t, ht, hcore, by rw [hdev, State.sched_dev_sys, State.mod_dev]⟩

end

/-! ### Words that bring something to a register (R186, R189, R257) -/

/-- A tile as a transfer reads it, and that the read changes no byte of memory. -/
theorem readTile_eq (s : State) (n : Nat) (x : TileEntry) : ∃ g m, s.dev.sys.readTile (dieOf n) x = ((tileSeen s n x).1, g, m) ∧
    m.mem = s.dev.sys.mem := by
  rw [MemSys.readTile, tileSeen]
  cases s.dev.sys.tileCopy (dieOf n) x with
  | some g => dsimp only; exact ⟨_, _, rfl, rfl⟩
  | none => dsimp only; exact ⟨_, _, rfl, rfl⟩

section
variable {s : State} {n ix : Nat} {e : GEntry} (hmay : mayArrive s n ix e)
include hmay

theorem mayArrive.task : (s.turnTo n).core.ctl.task = e.task := by
  obtain ⟨-, -, -, htask, -⟩ := hmay
  rw [turnTo_core, htask]

theorem mayArrive.run : (s.turnTo n).core.ctl.run = .running := by
  obtain ⟨-, -, -, -, hrun, -⟩ := hmay
  rw [turnTo_core, hrun]

/-- A tile that is there goes to its register (R186, R187). -/
theorem tile_arrives {d : Nat} {r : TileRef} {x : TileEntry} (hop : e.op = .tldTile d r) (ha : e.acquire = false)
    (hreach : (s.turnTo n).reach r = .ok x) (hhere : x.here = true) :
    ∃ t, exec (.transferArrival n ix) s = .next t ∧ t.dev.sys.mem = s.dev.sys.mem ∧
      t.coreAt n = withoutWord e (noteBad x.poisoned ((s.coreAt n).send
        ⟨s.cycle + 1, e.order, .tileL d, leNat (tileSeen s n x).1, ones 32768, 0, none⟩)) := by
  obtain ⟨g, m, hread, hmem⟩ := readTile_eq s n x
  have hp : (s.turnTo n).performWord e = State.retire ((((s.turnTo n).sys fun _ => m).mod
      (·.send ⟨s.cycle + 1, e.order, .tileL d, leNat (tileSeen s n x).1, ones 32768, 0, none⟩)).mod (noteBad x.poisoned)) e := by
    rw [State.performWord, hop]
    simp only [State.arriveTile, hreach, hhere, turnTo_dev, turnTo_cur, hread, Bool.not_true, Bool.false_eq_true, if_false]
    rw [receive_running (u := State.sys _ _) (by exact hmay.task) (by exact hmay.run),
      poison_running (u := State.mod _ _) (by exact hmay.task) (by exact hmay.run), State.sys_cycle, turnTo_cycle]
  obtain ⟨t, ht, hcore, hsys⟩ := arrives_of_retires hmay hp (by simp) (by simp) ha
  exact ⟨t, ht, by rw [hsys]; exact hmem, by rw [hcore]; simp⟩

/-- An absent tile is a fault (R239). -/
theorem absent_tile_faults {d : Nat} {r : TileRef} {x : TileEntry} (hop : e.op = .tldTile d r)
    (hreach : (s.turnTo n).reach r = .ok x) (hhere : x.here = false) :
    ∃ t q, exec (.transferArrival n ix) s = .next t ∧ t.dev = s.dev ∧
      t.coreAt n = { s.coreAt n with
        port := faultedPort (s.coreAt n).port e (tileFault .trans r 4096), qs := q
        boundary := (s.coreAt n).boundary ++ [{ tileFault .trans r 4096 with port := some e.order }] } := by
  obtain ⟨q, hf⟩ := faultWord_core hmay.task hmay.run (tileFault .trans r 4096)
  have hp : (s.turnTo n).performWord e = (s.turnTo n).faultWord e (tileFault .trans r 4096) := by
    rw [State.performWord, hop]
    simp only [State.arriveTile, hreach, hhere]
    rfl
  obtain ⟨t, ht, hcore, hdev⟩ := arrives_of_performs hmay (hp.trans hf) (by simp)
  exact ⟨t, q, ht, by rw [hdev, State.mod_dev, turnTo_dev], by rw [hcore, State.mod_core, turnTo_core]⟩

/-- A translation goes to its xt register (R189). -/
theorem translation_arrives {xt va acc : Nat} {p : Mapping} {s' : State} {v : BitVec 128} (hop : e.op = .xlate xt va acc)
    (ha : e.acquire = false) (hv : xtWord e.asid va p = v)
    (htr : (s.turnTo n).translate e.asid va (acc != 0) = .ok (p, s')) :
    ∃ t, exec (.transferArrival n ix) s = .next t ∧ t.coreAt n = withoutWord e (withXt xt v (s.coreAt n)) := by
  obtain ⟨m, rfl⟩ := memOnly_translate htr
  have hp : (s.turnTo n).performWord e = State.retire (((s.turnTo n).sys fun k => { k with mem := m }).mod (withXt xt v)) e := by
    rw [State.performWord, hop]
    simp only [State.arriveXlate, htr, hv]
    rw [modOwner_current (u := State.sys _ _) (by exact hmay.task)]
    rfl
  obtain ⟨t, ht, hcore, -⟩ := arrives_of_retires hmay hp (by simp) (by simp) ha
  exact ⟨t, ht, by rw [hcore]; simp⟩

end

theorem registerArrivals_holds : registerArrivals := by
  intro n ix s c e hn hc hset hport hm htask hrun
  have hmay : mayArrive s n ix e := ⟨hn, hc ▸ hport, hm, hc ▸ htask, hc ▸ hrun, hset⟩
  refine ⟨fun d r x hop ha hreach hhere => ?tile, fun d r x hop hreach hhere => ?absent, fun xt va acc p s' hop ha htr => ?xlate⟩
  case tile =>
    obtain ⟨t, ht, hmem, hcore⟩ := tile_arrives hmay hop ha hreach hhere
    rw [← hc] at hcore
    refine ⟨t, ht, ?_⟩
    generalize leNat (tileSeen s n x).1 = v at hcore ⊢
    simp [hcore, hmem]
  case absent =>
    obtain ⟨t, q, ht, hdev, hcore⟩ := absent_tile_faults hmay hop hreach hhere
    rw [← hc] at hcore
    exact ⟨t, ht, by rw [hcore, hdev]; exact ⟨rfl, rfl, rfl, rfl, rfl⟩⟩
  case xlate =>
    obtain ⟨t, ht, hcore⟩ := translation_arrives hmay hop ha rfl htr
    rw [← hc] at hcore
    exact ⟨t, ht, by rw [hcore, withoutWord_regs, withXt_regs], by rw [hcore, withoutWord_port, withXt_port],
      by rw [hcore, withoutWord_eng, withXt_eng]⟩

/-! ### The gather engine (R198) -/

/-- A read of bytes that no peer holds and that can be reached has them (R349, R360). -/
theorem brought_of_reachable {s : State} {e : GEntry} {l : List (Nat × Nat)}
    (h : ∀ p ∈ l, isPeer p.1 = false ∧ s.reachable p.1 = true) : s.brought e l = true := by
  rw [State.brought, List.all_eq_true]
  intro p hp
  obtain ⟨hpeer, hreach⟩ := h p hp
  simp [hpeer, hreach]

/-- What a word reads that no failure has met. -/
theorem pieceBytes_of_sound {s : State} {e : GEntry} {b : Bool} {l : List (Nat × Nat)} (he : e.failed = false)
    (h : ∀ p ∈ l, isPeer p.1 = false) : s.pieceBytes e b l = l.flatMap fun p => s.dev.sys.bytes (dieOf s.cur) b p.1 p.2 := by
  rw [State.pieceBytes]
  refine List.flatMap_congr fun p hp => ?_
  simp [he, h p hp]

/-- A core that the gather engine has pushed a vector on, with the address-queue entries that are left. -/
def pushed (more : List (BitVec 512)) (bytes : List Byte) (c : Core) : Core :=
  { c with qs := { c.qs with
      gathers := nextJob c.qs.gathers, addr := more, data := c.qs.data ++ [BitVec.ofNat 1024 (leNat bytes)] } }

theorem pushVector_coreAt {s : State} {n : Nat} (e : GEntry) (more : List (BitVec 512)) (bytes : List Byte) (bad : Bool)
    (h : s.cur = n) : (s.pushVector e more bytes bad).coreAt n = noteBad bad (pushed more bytes s.core) := by
  cases bad
  · refine (coreAt_of_cur (s := s.pushVector e more bytes false) h).trans ?_
    simp [State.pushVector, State.forget, noteBad, pushed]
  · exact coreAt_of_cur h

/-- What a core has once a vector is pushed (R198). -/
theorem noteBad_pushed (more : List (BitVec 512)) (bytes : List Byte) (bad : Bool) (c : Core) :
    (noteBad bad (pushed more bytes c)).qs.addr = more ∧
      (noteBad bad (pushed more bytes c)).qs.data = c.qs.data ++ [BitVec.ofNat 1024 (leNat bytes)] ∧
      (noteBad bad (pushed more bytes c)).boundary =
        c.boundary ++ (if bad then [{ cause := .dpoison, slot := 10 }] else []) ∧
      (noteBad bad (pushed more bytes c)).regs = c.regs ∧ (noteBad bad (pushed more bytes c)).vault = c.vault :=
  ⟨rfl, rfl, rfl, rfl, rfl⟩

theorem gatherPushes_holds : gatherPushes := by
  intro n s c hn hc j js idx more l s' hg ha hf hfail hroom hacq hheld href hel hl
  subst hc
  refine ⟨_, onCore_of_lt _ s hn, ?_⟩
  have hlanes : (lanesOf 32 16 idx.toNat).map (fun i => (j.base + i * j.size) % 2 ^ 57) =
      (List.range 16).map fun i => (j.base + laneOf 32 idx.toNat i * j.size) % 2 ^ 57 := rfl
  have hword : (gatherWord (s.coreAt n)).failed = false := by simp [gatherWord, hg, hfail]
  have hread : (s.turnTo n).readFailed (gatherWord (s.coreAt n)) = false := by
    rw [State.readFailed, hword, turnTo_dev, turnTo_cur, href]; rfl
  obtain ⟨hcur, hcore, -⟩ := (memOnly_elementPieces hel).keeps
  rw [turnTo_cur] at hcur
  rw [turnTo_core] at hcore
  have hstep : (s.turnTo n).gatherPush = ((s'.leaveCopies false l).dropRead l).pushVector (gatherWord (s.coreAt n)) more
      (l.flatMap fun p => s'.dev.sys.bytes (dieOf n) false p.1 p.2) (s'.dev.sys.piecesBad l) := by
    rw [State.gatherPush]
    simp only [turnTo_core, hg, ha, hf, Nat.not_le.mpr hroom, hacq, hheld, hread, hlanes, hel, brought_of_reachable hl,
      pieceBytes_of_sound hword fun p hp => (hl p hp).1, hcur]
    simp
  have hat := pushVector_coreAt (s := (s'.leaveCopies false l).dropRead l) (gatherWord (s.coreAt n)) more
    (l.flatMap fun p => s'.dev.sys.bytes (dieOf n) false p.1 p.2) (s'.dev.sys.piecesBad l) hcur
  rw [coreAt_on, hstep, hat, ← hcore]
  exact noteBad_pushed _ _ _ _

end Sys2Proof.CycleProofs
end

section
/-!
PROOFS. Words that act on global memory or on the vault (R186, R190, R191, R237, R257): what a die finds once its port has accepted a
write, and each kind of word from that.
-/
open Sys2Proof Sys2Proof.Machine Sys2Proof.Claims Sys2Proof.CoreProofs Sys2Proof.NumberProofs

namespace Sys2Proof.CycleProofs

/-! ### The bytes that a die finds after a write (R256, R257, R265) -/

/-- A byte at the home, unless a write that the die's port holds has it. -/
theorem byte_unbuffered (m : MemSys) (d a : Nat) : m.byte d false a = (bufferedByte d a m.wbuf).getD (m.mem.read a) := by
  rw [MemSys.byte]; cases bufferedByte d a m.wbuf <;> rfl

/-- The newest write of a port's writes answers. -/
theorem bufferedByte_append (d a : Nat) (l k : List WEntry) :
    bufferedByte d a (l ++ k) = (bufferedByte d a k).or (bufferedByte d a l) := by
  induction l with
  | nil => simp [bufferedByte]
  | cons w l ih =>
    simp only [List.cons_append, bufferedByte, ih]
    cases bufferedByte d a k <;> rfl

/-- A write has no byte of a range that it does not touch. -/
theorem byte?_of_untouched {w : WEntry} {x n a : Nat} (h : w.touches x n = false) (hlo : x ≤ a) (hhi : a < x + n) :
    w.byte? a = none := by
  rw [WEntry.byte?, List.findSome?_eq_none_iff]
  intro p hp
  have hr : (p.1, p.2.length) ∈ w.ranges := by
    rw [WEntry.ranges]
    exact List.mem_append_left _ (List.mem_append_left _ (List.mem_map_of_mem hp))
  have hp' := List.any_eq_false.mp h _ hr
  simp only [Bool.and_eq_true, decide_eq_true_eq, not_and, not_lt] at hp'
  rw [if_neg]
  simp only [Bool.and_eq_true, decide_eq_true_eq, not_and, not_lt]
  intro ha
  exact le_trans (hp' (by omega)) hlo

/-- A port holds no byte of a range that none of its writes touches. -/
theorem bufferedByte_of_untouched {d x n a : Nat} {l : List WEntry} (h : ∀ w ∈ l, w.die = d → w.touches x n = false)
    (hlo : x ≤ a) (hhi : a < x + n) : bufferedByte d a l = none := by
  induction l with
  | nil => rfl
  | cons w l ih =>
    rw [bufferedByte, ih fun y hy => h y (List.mem_cons_of_mem _ hy)]
    dsimp only
    split
    · next hd => exact byte?_of_untouched (h w List.mem_cons_self hd) hlo hhi
    · rfl

/-- A write of one range of bytes, as a core's word or an atomic makes it. -/
def plainWrite (d t a : Nat) (bs : List Byte) (tiles : List TileMark) : WEntry :=
  { die := d, addr := a, data := bs, tiles := tiles, task := t }

section
variable {m : MemSys} {d t a b : Nat} {bs : List Byte} {tiles : List TileMark}

theorem plainWrite_byte? : (plainWrite d t a bs tiles).byte? b = if a ≤ b ∧ b < a + bs.length then bs[b - a]? else none := by
  simp [plainWrite, WEntry.byte?, WEntry.parts]

/-- A version of a tile changes the bytes of its entry alone, where the tile has no summary (R237). -/
theorem bump_read {x : TileMark} (hs : x.summary = 0) (hb : b < x.entry ∨ x.entry + 8 ≤ b) :
    (m.bump x).mem.read b = m.mem.read b := by
  simp only [MemSys.bump, hs, ne_eq, not_true_eq_false, decide_false, Bool.false_and, Bool.false_eq_true, if_false]
  exact read_setNum_other _ hb

/-- The bytes that a change of tiles leaves alone: all but their entries. -/
def besideTiles (tiles : List TileMark) (b : Nat) : Prop := ∀ x ∈ tiles, x.summary = 0 ∧ (b < x.entry ∨ x.entry + 8 ≤ b)

theorem bumps_read (h : besideTiles tiles b) : (tiles.foldl MemSys.bump m).mem.read b = m.mem.read b := by
  induction tiles generalizing m with
  | nil => rfl
  | cons x r ih =>
    obtain ⟨hs, hb⟩ := h x List.mem_cons_self
    rw [List.foldl_cons, ih fun y hy => h y (List.mem_cons_of_mem _ hy), bump_read hs hb]

theorem bumps_wbuf : (tiles.foldl MemSys.bump m).wbuf = m.wbuf := by
  induction tiles generalizing m with
  | nil => rfl
  | cons x r ih => rw [List.foldl_cons, ih]; rfl

theorem settle_plainWrite_read (h : besideTiles tiles b) :
    (m.settle (plainWrite d t a bs tiles)).mem.read b = (m.mem.store a bs).read b := bumps_read h

theorem settle_plainWrite_wbuf : (m.settle (plainWrite d t a bs tiles)).wbuf = m.wbuf := bumps_wbuf

/-- A write keeps its place behind no other write where no other die's place is settled (R265; log entry 130). -/
theorem inOrder_plainWrite (h : ∀ w ∈ m.wbuf, w.sworn = true → w.die = d) : m.inOrder (plainWrite d t a bs tiles) = m := by
  have hnone : (m.wbuf.filter fun x => x.die != d && (x.sworn || false) && x.shares (plainWrite d t a bs tiles)) = [] := by
    rw [List.filter_eq_nil_iff]
    intro w hw
    cases hs : w.sworn
    · simp
    · simp [h w hw hs]
  rw [MemSys.inOrder]
  exact congrArg (List.foldl _ m) hnone

/-- A write to no tile waits for none. -/
theorem inOrder_plainWrite_nil : m.inOrder (plainWrite d t a bs []) = m := by
  have hnone : (m.wbuf.filter fun x => x.die != d && (x.sworn || false) && x.shares (plainWrite d t a bs [])) = [] := by
    rw [List.filter_eq_nil_iff]
    intro w hw
    simp [WEntry.shares, plainWrite]
  rw [MemSys.inOrder]
  exact congrArg (List.foldl _ m) hnone

/-- A write that passes at once meets none of its die's writes that wait (R256, R394). -/
theorem untouched_of_passes (h : m.passes (plainWrite d t a bs tiles) = true) {w : WEntry} (hw : w ∈ m.wbuf) (hd : w.die = d) :
    w.touches a bs.length = false := by
  have hranges : (plainWrite d t a bs tiles).ranges = [(a, bs.length)] := rfl
  simp only [MemSys.passes, hranges, List.all_cons, List.all_nil, Bool.and_true, Bool.and_eq_true, Bool.not_eq_true'] at h
  obtain ⟨-, -, hnone⟩ := h
  simpa [plainWrite, hd] using List.any_eq_false.mp hnone w hw

/-- What a byte is once `bs` have been written from `a`. -/
def written (a : Nat) (bs : List Byte) (b : Nat) (old : Byte) : Byte :=
  if a ≤ b ∧ b < a + bs.length then bs.getD (b - a) 0 else old

theorem written_inside {i : Nat} {old : Byte} (h : i < bs.length) : written a bs (a + i) old = bs[i] := by
  rw [written, if_pos ⟨by omega, by omega⟩, Nat.add_sub_cancel_left, List.getD_eq_getElem _ _ h]

theorem written_outside {old : Byte} (h : b < a ∨ a + bs.length ≤ b) : written a bs b old = old := if_neg (by omega)

theorem byte_of_waiting {k : MemSys} (hmem : k.mem = m.mem) (hbuf : k.wbuf = m.wbuf ++ [plainWrite d t a bs tiles]) :
    k.byte d false b = written a bs b (m.byte d false b) := by
  have hone : bufferedByte d b [plainWrite d t a bs tiles] =
      if a ≤ b ∧ b < a + bs.length then bs[b - a]? else none := (if_pos rfl).trans plainWrite_byte?
  rw [written, byte_unbuffered, byte_unbuffered, hmem, hbuf, bufferedByte_append, hone]
  split
  · next h => rw [List.getElem?_eq_getElem (by omega), List.getD_eq_getElem _ _ (by omega)]; rfl
  · rfl

theorem byte_of_settled {k : MemSys} (hmem : k.mem = m.mem) (hbuf : k.wbuf = m.wbuf)
    (hp : k.passes (plainWrite d t a bs tiles) = true) (hb : besideTiles tiles b) :
    (k.settle (plainWrite d t a bs tiles)).byte d false b = written a bs b (m.byte d false b) := by
  rw [written, byte_unbuffered, byte_unbuffered, settle_plainWrite_wbuf, settle_plainWrite_read hb, hmem, hbuf]
  split
  · next h =>
    have hfree : ∀ w ∈ m.wbuf, w.die = d → w.touches a bs.length = false := fun w hw =>
      untouched_of_passes hp (hbuf ▸ hw)
    have hsame := Memory.read_store_same m.mem a bs (b - a) (by omega)
    rw [Nat.add_sub_cancel' h.1] at hsame
    rw [bufferedByte_of_untouched hfree h.1 h.2, Option.getD_none, List.getD_eq_getElem _ _ (by omega), hsame]
  · next h => rw [Memory.read_store_other _ _ _ _ (by omega)]

/-- Once its die's port has accepted a write, the die finds its bytes, and the other bytes as before, whether it has reached its home or
waits (R256, R257). -/
theorem byte_accept (hord : m.inOrder (plainWrite d t a bs tiles) = m) (hpeer : isPeer a = false) (hb : besideTiles tiles b) :
    (m.accept (plainWrite d t a bs tiles)).byte d false b = written a bs b (m.byte d false b) := by
  have hpeer' : isPeer (plainWrite d t a bs tiles).addr = false := hpeer
  rw [MemSys.accept]
  simp only [hord, hpeer', Bool.false_eq_true, if_false]
  split
  · next hp => exact byte_of_settled rfl rfl hp hb
  · exact byte_of_waiting rfl rfl

theorem byte_write (hord : m.inOrder (plainWrite d t a bs tiles) = m) (hpeer : isPeer a = false) (hb : besideTiles tiles b) :
    (m.write d t a bs tiles).byte d false b = written a bs b (m.byte d false b) := by
  rw [MemSys.write]
  split
  · next h => rw [List.isEmpty_iff.mp h]; exact (written_outside (by simp; omega)).symm
  · exact byte_accept hord hpeer hb

end

/-! ### Words that act on memory or on the vault (R186, R190, R191, R237) -/

theorem leBytes_getElem {n x i : Nat} (h : i < (leBytes n x).length) : (leBytes n x)[i] = BitVec.ofNat 8 (laneOf 8 x i) := by
  induction n generalizing x i with
  | zero => simp [leBytes] at h
  | succ n ih =>
    cases i with
    | zero => exact BitVec.eq_of_toNat_eq (by simp [leBytes, laneOf])
    | succ i =>
      simp only [leBytes, List.getElem_cons_succ, ih]
      rw [laneOf, laneOf, Nat.div_div_eq_div_mul, Nat.mul_succ, Nat.add_comm, pow_add]
      rfl

/-- A tile that is present stands in the tier that its entry names (R338, R350). -/
theorem tier_of_lookup {s : State} {asid tid tile : Nat} {x : TileEntry} (h : s.lookup asid tid tile = .ok x)
    (hp : bitOf x.bits 1 = true) : s.tier x.addr = some x.tier := by
  rw [State.lookup] at h
  split at h
  · cases h
  dsimp only at h
  split at h
  · cases h
  split at h
  · cases h
  split at h
  · cases h
  next ht =>
  simp only [Except.ok.injEq] at h
  subst h
  simpa [hp, TileEntry.addr, TileEntry.tier] using ht

/-- HBM is no peer's (R350). -/
theorem not_isPeer_of_tier {s : State} {a : Nat} (h : s.tier a = some 0) : isPeer a = false := by
  by_cases hlow : a < hbmEnd
  · have hfar : ¬ 0x6000000000000 ≤ a := by
      have : hbmEnd = 0xC000000000 := rfl
      omega
    simp [isPeer, hfar]
  · simp only [State.tier, tierOf, hlow, if_false] at h
    split at h
    · split at h <;> cases h
    split at h
    · cases h
    split at h <;> cases h

/-- A tile that can be transferred is of no peer (R333). -/
theorem not_isPeer_of_here {s : State} {r : TileRef} {x : TileEntry} (h : s.reach r = .ok x) (hh : x.here = true) :
    isPeer x.addr = false := by
  simp only [TileEntry.here, Bool.and_eq_true, beq_iff_eq] at hh
  obtain ⟨hp, htier⟩ := hh
  rw [State.reach] at h
  split at h
  · cases h
  split at h
  · next hl =>
    cases h
    exact not_isPeer_of_tier (htier ▸ tier_of_lookup hl hp)
  · cases h

/-- The bytes of a number in memory, one by one. -/
theorem bytes_eq_map (m : Memory) (a n : Nat) : m.bytes a n = (List.range n).map fun i => m.read (a + i) := by
  induction n generalizing a with
  | zero => rfl
  | succ n ih =>
    rw [Memory.bytes, ih, List.range_succ_eq_map, List.map_cons, List.map_map]
    simp [Function.comp_def, Nat.add_assoc, Nat.add_comm 1]

theorem homeNum_eq_num (m : MemSys) (a n : Nat) : m.homeNum a n = m.mem.num a n := by
  rw [MemSys.homeNum, MemSys.homeBytes, ← bytes_eq_map, Memory.num]

/-- The new value of an atomic is that of the specification's operation on bits (R169). -/
theorem amoOf_eq_atomicOut {k : Nat} (aop : BitVec 3) (old : BitVec k) (src cmp : Nat) :
    amoOf k aop.toNat old.toNat src cmp = (atomicOut k aop old (BitVec.ofNat k src) (BitVec.ofNat k cmp)).toNat := by
  unfold amoOf atomicOut
  rw [← BitVec.toNat_ofNat src k, ← BitVec.toNat_ofNat cmp k]
  simp only [signedOf_toNat, BitVec.toNat_inj, BitVec.slt, decide_eq_true_eq]
  generalize aop.toNat = j
  match j with
  | 0 => exact (BitVec.toNat_add _ _).symm
  | 1 => exact (apply_ite BitVec.toNat _ _ _).symm
  | 2 => exact (apply_ite BitVec.toNat _ _ _).symm
  | 3 => exact (BitVec.toNat_and _ _).symm
  | 4 => exact (BitVec.toNat_or _ _).symm
  | 5 => rfl
  | _ + 6 => exact (apply_ite BitVec.toNat _ _ _).symm

/-- A range that no write of a die touches is at its home already (R256). -/
theorem splitWrites_of_untouched {d a n : Nat} {l : List WEntry} (h : ∀ w ∈ l, w.die = d → w.touches a n = false) :
    splitWrites (· == d) a n l = ([], l) := by
  induction l with
  | nil => rfl
  | cons w l ih =>
    rw [splitWrites, ih fun y hy => h y (List.mem_cons_of_mem _ hy)]
    by_cases hd : w.die = d
    · simp [h w List.mem_cons_self hd]
    · simp [hd]

theorem flushOf_of_not_under {m : MemSys} {d a n : Nat} (h : m.under d a n = false) : m.flushOf (· == d) a n = m := by
  have hu : ∀ w ∈ m.wbuf, w.die = d → w.touches a n = false := by simpa [MemSys.under] using h
  rw [MemSys.flushOf, splitWrites_of_untouched hu]; rfl

section
variable {s : State} {n ix : Nat} {e : GEntry} (hmay : mayArrive s n ix e) (ha : e.acquire = false)
include hmay ha

/-- A word that writes memory as its whole work (R186, R190). -/
theorem write_arrives {u : State} {f : MemSys → MemSys} (hu : memOnly (s.turnTo n) u)
    (hp : (s.turnTo n).performWord e = (u.sys f).retire e) :
    ∃ t, exec (.transferArrival n ix) s = .next t ∧ t.dev.sys = f u.dev.sys ∧ t.coreAt n = withoutWord e (s.coreAt n) := by
  obtain ⟨hcur, hcore, -⟩ := hu.keeps
  rw [turnTo_cur] at hcur
  rw [turnTo_core] at hcore
  obtain ⟨t, ht, hat, hsys⟩ := arrives_of_retires hmay hp hcur (congrArg Core.ctl hcore) ha
  exact ⟨t, ht, hsys, by rw [hat, State.sys_core, hcore]⟩

/-- A tile is stored (R186, R237). -/
theorem tile_stores {r : TileRef} {x : TileEntry} {data : TileBits} (hop : e.op = .tst r data)
    (hreach : (s.turnTo n).reach r = .ok x) (h6 : bitOf x.bits 6 = true) (h7 : bitOf x.bits 7 = false) (hhere : x.here = true) :
    ∃ t, exec (.transferArrival n ix) s = .next t ∧
      t.dev.sys = s.dev.sys.write (dieOf n) e.task x.addr (leBytes 4096 data.toNat) [x.mark true] ∧
      t.coreAt n = withoutWord e (s.coreAt n) := by
  have hp : (s.turnTo n).performWord e = State.retire ((s.turnTo n).sys fun m =>
      m.write (dieOf n) e.task x.addr (leBytes 4096 data.toNat) [x.mark true]) e := by
    rw [State.performWord, hop]
    simp only [State.storeTile, hreach, h6, h7, hhere, turnTo_cur, Bool.not_true, Bool.or_false, Bool.false_eq_true, if_false]
  simpa using write_arrives hmay ha (.refl _) hp

/-- A flat range of one piece is stored (R190). -/
theorem range_stores {va a : Nat} {pa : Option Nat} {data : List Byte} {s' : State} (hop : e.op = .tstx va pa data)
    (hpieces : (s.turnTo n).flatPieces e true va data.length pa = .ok ([(a, data.length)], s')) :
    ∃ t, exec (.transferArrival n ix) s = .next t ∧
      t.dev.sys = s'.dev.sys.write (dieOf n) e.task a data (s'.marksAt a data.length) ∧
      t.coreAt n = withoutWord e (s.coreAt n) := by
  have hu := memOnly_flatPieces hpieces
  obtain ⟨hcur, -⟩ := hu.keeps
  rw [turnTo_cur] at hcur
  refine write_arrives (f := fun m => m.write (dieOf n) e.task a data (s'.marksAt a data.length)) hmay ha hu ?_
  rw [State.performWord, hop]
  simp only [State.storeFlat, hpieces, hcur, State.flatWrite, List.take_length]

/-- A flat range of one piece is loaded into the vault (R190), with DPOISON where its data were bad. -/
theorem range_loads {va len dst a : Nat} {pa : Option Nat} {s' : State} (hop : e.op = .tldx va pa len dst)
    (hpieces : (s.turnTo n).flatPieces e false va len pa = .ok ([(a, len)], s')) (hpeer : isPeer a = false)
    (hreach : s'.reachable a = true) (hread : s'.readFailed e = false) (hret : (s.coreAt n).retained = [])
    (hsaved : ∀ b, (s.turnTo n).savedBank n e.task b = none) :
    ∃ t q p, exec (.transferArrival n ix) s = .next t ∧ t.coreAt n =
      withoutWord e (noteBad (s'.dev.sys.piecesBad [(a, len)] || e.bad)
        (stored dst (s'.dev.sys.bytes (dieOf n) true a len) q p (s.coreAt n))) := by
  obtain ⟨hcur, hcore, hsched⟩ := (memOnly_flatPieces hpieces).keeps
  rw [turnTo_cur] at hcur
  have hone : ∀ p ∈ [(a, len)], isPeer p.1 = false ∧ s'.reachable p.1 = true := by simpa using ⟨hpeer, hreach⟩
  have hfailed : e.failed = false := by
    simp only [State.readFailed, Bool.or_eq_false_iff] at hread
    exact hread.1
  have hbytes : s'.pieceBytes e true [(a, len)] = s'.dev.sys.bytes (dieOf n) true a len := by
    rw [pieceBytes_of_sound hfailed fun p hp => (hone p hp).1, hcur, List.flatMap_singleton]
  generalize s'.dev.sys.bytes (dieOf n) true a len = data at hbytes ⊢
  have htask : (s'.leaveCopies true [(a, len)]).core.ctl.task = e.task := (congrArg (·.ctl.task) hcore).trans hmay.task
  have hrun : (s'.leaveCopies true [(a, len)]).core.ctl.run = .running := (congrArg (·.ctl.run) hcore).trans hmay.run
  rw [turnTo_core] at hcore
  obtain ⟨q, p, hwrite⟩ := engineWrite_own (u := s'.leaveCopies true [(a, len)]) hcur htask
    ((congrArg (·.retained) hcore).trans hret) (fun b => by
      rw [← hsaved b, State.savedBank, State.savedBank, State.task?, State.task?, ← hsched]; rfl) dst data
  have hp : (s.turnTo n).performWord e = State.retire ((((s'.leaveCopies true [(a, len)]).mod (stored dst data q p)).mod
      (noteBad (s'.dev.sys.piecesBad [(a, len)] || e.bad))).forget e) e := by
    rw [State.performWord, hop]
    simp only [State.arriveFlat, hpieces, brought_of_reachable hone, hread, hbytes, hcur, hwrite, Bool.not_true, Bool.false_and,
      Bool.or_false, Bool.false_eq_true, if_false]
    rw [poison_running (u := State.mod _ _) (by exact htask) (by exact hrun)]
  obtain ⟨t, ht, hat, -⟩ := arrives_of_retires hmay hp hcur (by rw [← hcore]; rfl) ha
  exact ⟨t, q, p, ht, by rw [hat, ← hcore]; rfl⟩

/-- An atomic of a range that its die has no write to performs at the home, and what stood there goes to its register (R191). -/
theorem atomic_arrives {va w src cmp g a aop : Nat} {pa : Option Nat} {s' : State} (hop : e.op = .amog va pa aop w src cmp g)
    (hpieces : (s.turnTo n).flatPieces e true va w pa = .ok ([(a, w)], s')) (hat : s'.noAtomics a = false)
    (hunder : s'.dev.sys.under (dieOf n) a w = false) (hmarks : s'.marksAt a w = []) :
    ∃ t b, exec (.transferArrival n ix) s = .next t ∧
      t.dev.sys.mem = s'.dev.sys.mem.setNum a w (amoOf (8 * w) aop (s'.dev.sys.mem.num a w) src cmp) ∧
      t.coreAt n = withoutWord e (noteBad b ((s.coreAt n).send
        ⟨s.cycle + 1, e.order, .gG g, s'.dev.sys.mem.num a w, ones 32768, 0, none⟩)) := by
  have hu := memOnly_flatPieces hpieces
  obtain ⟨hcur, hcore, -⟩ := hu.keeps
  rw [turnTo_cur] at hcur
  have hcycle : s'.cycle = s.cycle := by
    obtain ⟨m, rfl⟩ := hu
    rw [State.sys_cycle, turnTo_cycle]
  have hdrop : (s'.sys fun m => (m.flushOf (· == dieOf n) a w).dropCopy (dieOf n) a) =
      s'.sys fun m => m.dropCopy (dieOf n) a := by
    rw [State.sys, State.sys, flushOf_of_not_under hunder]
  have hmarks' : (s'.sys fun m => m.dropCopy (dieOf n) a).marksAt a w = [] := hmarks
  have hold : (s'.sys fun m => m.dropCopy (dieOf n) a).dev.sys.homeNum a w = s'.dev.sys.mem.num a w := homeNum_eq_num _ _ _
  generalize s'.dev.sys.mem.num a w = old at hold ⊢
  generalize hbad : (s'.sys fun m => m.dropCopy (dieOf n) a).dev.sys.piecesBad [(a, w)] = bad
  generalize hnew : amoOf (8 * w) aop old src cmp = new
  have htask : s'.core.ctl.task = e.task := (congrArg (·.ctl.task) hcore).trans hmay.task
  have hrun : s'.core.ctl.run = .running := (congrArg (·.ctl.run) hcore).trans hmay.run
  rw [turnTo_core] at hcore
  have hp : (s.turnTo n).performWord e = State.retire ((((s'.sys fun m => m.dropCopy (dieOf n) a).sys fun m =>
      m.settle (plainWrite (dieOf n) 0 a (leBytes w new) [])).mod
        (·.send ⟨s.cycle + 1, e.order, .gG g, old, ones 32768, 0, none⟩)).mod (noteBad bad)) e := by
    have hplain : ({ die := dieOf n, addr := a, data := leBytes w new } : WEntry) =
      plainWrite (dieOf n) 0 a (leBytes w new) [] := rfl
    rw [State.performWord, hop]
    simp only [State.atomic, hpieces, List.map_cons, List.map_nil, List.headD_cons, hat, hcur, hdrop, hmarks', hold, hnew, hbad,
      State.sys_cur, Bool.false_eq_true, if_false]
    rw [receive_running (u := State.sys _ _) (by exact htask) (by exact hrun),
      poison_running (u := State.mod _ _) (by exact htask) (by exact hrun)]
    simp only [State.sys_cycle, hcycle, hplain, inOrder_plainWrite_nil]
  obtain ⟨t, ht, hcore', hsys⟩ := arrives_of_retires hmay hp (by simpa using hcur) (by simp [hcore]) ha
  exact ⟨t, bad, ht, by rw [hsys]; rfl, by rw [hcore', ← hcore]; rfl⟩

end

theorem memoryArrivals_holds : memoryArrivals := by
  intro n ix s c e hn hc hset hport hm htask hrun ha
  have hmay : mayArrive s n ix e := ⟨hn, hc ▸ hport, hm, hc ▸ htask, hc ▸ hrun, hset⟩
  refine ⟨fun r x data hop hreach h6 h7 hhere hkv hplace hsworn => ?tst, fun va pa data a s' hop hpieces hpeer hmarks => ?tstx,
    fun va pa len dst a s' hop hpieces hpeer hreach hread hret hsaved => ?tldx,
    fun va pa aop w src cmp g a s' hop hw hpieces hat hunder hmarks => ?amog⟩
  case tst =>
    obtain ⟨t, ht, hsys, hcore⟩ := tile_stores hmay ha hop hreach h6 h7 hhere
    have hlen := leBytes_length 4096 data.toNat
    have hbytes : ∀ i (h : i < (leBytes 4096 data.toNat).length), (leBytes 4096 data.toNat)[i] = _ := fun i h => leBytes_getElem h
    generalize leBytes 4096 data.toNat = bs at hsys hlen hbytes
    have hseen : ∀ b, (b < x.at_ ∨ x.at_ + 8 ≤ b) → seenOn t n b = written x.addr bs b (seenOn s n b) := fun b hb => by
      rw [seenOn, hsys]
      exact byte_write (inOrder_plainWrite hsworn) (not_isPeer_of_here hreach hhere) (by simpa [besideTiles, TileEntry.mark, hkv] using hb)
    rw [← hc] at hcore
    refine ⟨t, ht, fun i hi => ?_, fun b hb hb' => ?_, by simp [hcore]⟩
    · rw [hseen _ (by omega), written_inside (by omega), hbytes]
    · rw [hseen b hb', written_outside (by omega)]
  case tstx =>
    obtain ⟨t, ht, hsys, hcore⟩ := range_stores hmay ha hop hpieces
    have hseen : ∀ b, seenOn t n b = written a data b (seenOn s' n b) := fun b => by
      rw [seenOn, hsys, hmarks]
      exact byte_write inOrder_plainWrite_nil hpeer (by simp [besideTiles])
    rw [← hc] at hcore
    exact ⟨t, ht, fun i hi => (hseen _).trans (written_inside hi), fun b hb => (hseen b).trans (written_outside hb), by simp [hcore]⟩
  case tldx =>
    obtain ⟨t, q, p, ht, hcore⟩ := range_loads hmay ha hop hpieces hpeer hreach hread (hc ▸ hret) hsaved
    have hlen : (s'.dev.sys.bytes (dieOf n) true a len).length = len := by simp [MemSys.bytes]
    generalize s'.dev.sys.bytes (dieOf n) true a len = bs at hcore hlen ⊢
    subst hlen
    rw [← hc] at hcore
    refine ⟨t, ht, ?_, fun b hb => ?_, by simp [hcore]⟩
    · rw [hcore]; exact Memory.bytes_store _ _ _
    · rw [hcore]; exact Memory.read_store_other _ _ _ _ hb
  case amog =>
    obtain ⟨t, b, ht, hmem, hcore⟩ := atomic_arrives hmay ha hop hpieces hat hunder hmarks
    have hpow : 256 ^ w = 2 ^ (8 * w) := (pow_mul 2 8 w).symm
    have hlt : s'.dev.sys.mem.num a w < 2 ^ (8 * w) := hpow ▸ num_lt _ _ _
    have hout := amoOf_eq_atomicOut aop (BitVec.ofNat (8 * w) (s'.dev.sys.mem.num a w)) src cmp
    rw [BitVec.toNat_ofNat, Nat.mod_eq_of_lt hlt] at hout
    rw [← hc] at hcore
    refine ⟨t, ht, ?_, fun x hx => ?_, by simp [hcore]⟩
    · rw [hmem, Memory.num_setNum, hout, hpow, Nat.mod_eq_of_lt (BitVec.isLt _)]
    · rw [hmem]; exact read_setNum_other _ hx

/-- Settles O33: words and vectors from what they leave of their core, and writes by what their die finds (`byte_write`). -/
theorem arrivalsAtCores : Obligations.ArrivalsAtCores :=
  ⟨registerArrivals_holds, memoryArrivals_holds, gatherPushes_holds⟩

end Sys2Proof.CycleProofs
end

section
/-!
PROOFS. Branch words (R92 to R104): target buffers, transfers through them, loops, strides and level exits.
-/
open Host (Outcome)
open Sys2Proof Sys2Proof.Machine Sys2Proof.Claims Sys2Proof.CoreProofs Sys2Proof.NumberProofs Sys2Proof.CycleProofs

namespace Sys2Proof.ControlProofs

/-! ### Target buffers (R93, R94) -/

theorem prepare_eq_prepared (s : State) (t : BitVec 2) (pc : Nat) (lpc : Option Nat) :
    s.prepare t pc lpc = prepared s t pc lpc := rfl

section
variable {s : State} {t : BitVec 2} {p l : BitVec 5} {pc lpc : Word64} (hp : s.core.readG p.toNat = .ok pc)
include hp

/-- A PREP that keeps LPC checks its target PC alone. -/
theorem exec_prep_keep : exec (.prep t 0 p l) s =
    issue 0 (fun s => need (pc.toNat % 4 == 0) .illop >>= fun _ => .ok (prepared s t pc.toNat none)) s := by
  show execPrep t 0 p l s = _
  refine issue_congr ?_
  simp [hp, prepare_eq_prepared]

theorem exec_prep_literal (hl : s.core.readG l.toNat = .ok lpc) : exec (.prep t 1 p l) s =
    issue 0 (fun s => need (pc.toNat % 4 == 0 && lpc.toNat % 64 == 0) .illop >>= fun _ =>
      .ok (prepared s t pc.toNat (some lpc.toNat))) s := by
  show execPrep t 1 p l s = _
  refine issue_congr ?_
  simp only [hp, hl, bind_ok, pure_ok, if_true, prepare_eq_prepared]

end

theorem exec_prepi (s : State) (t : BitVec 2) (k : BitVec 1) (p : BitVec 13) (l : BitVec 10) : exec (.prepi t k p l) s =
    .next (prepared s t (wrapTo 57 (s.core.ctx.pc.toNat + 4 * signedOf 13 p.toNat))
      (if k = 1 then some (wrapTo 57 (s.core.seq.lpc.toNat + 64 * signedOf 10 l.toNat)) else none)) := rfl

/-- A check that is a word's only one decides between its effect and its trap (R81). -/
theorem issue_need {n : Nat} {b : Bool} {k : Cause} {f : State → State} {s : State} :
    issue n (fun s => need b k >>= fun _ => .ok (f s)) s =
      .next (if b then f s else takeTrap { cause := k, slot := n } s.cycle s) := by
  cases b <;> rfl

/-- An address that wraps to 57 bits is the number that its sum is modulo 2^57. -/
theorem wrapTo_of_emod {v : Int} {x : Nat} (h : (x : Int) = v % 2 ^ 57) : wrapTo 57 v = x := by
  show (v % 2 ^ 57).toNat = x
  rw [← h]; rfl

/-- Settles O22: a PREP by its one check, a PREPI by its sums. -/
theorem targetBuffers : Obligations.TargetBuffers := by
  refine fun t s => ⟨fun p l pc lpc hp hl => ⟨fun h4 => ?_, fun h4 => ?_, fun h4 h64 => ?_, fun h => ?_⟩,
    fun p l pc lpc hpc hlpc => ?_⟩
  · rw [exec_prep_keep hp, issue_need, if_pos (by simpa using h4)]
  · rw [exec_prep_keep hp, issue_need, if_neg (by simpa using h4)]
  · rw [exec_prep_literal hp hl, issue_need, if_pos (by simp [h4, h64])]
  · rw [exec_prep_literal hp hl, issue_need, if_neg (by simpa [or_iff_not_imp_left] using h)]
  · rw [← signedOf_toNat] at hpc hlpc
    rw [exec_prepi, exec_prepi, wrapTo_of_emod hpc, wrapTo_of_emod hlpc]
    exact ⟨rfl, rfl⟩

/-! ### Transfers (R95, R96) -/

section
variable {s : State} {t : BitVec 2} {b : Target}

theorem ready_of_early (h : s.core.seq.tb.get none t.toNat = some b) (hr : s.cycle < b.ready) :
    s.ready t = .error (.stall .fetchstall) := by
  rw [State.ready, Core.buffer, h]
  exact if_pos hr

/-- A target escapes exactly when it leaves the body of the innermost level of its depth (R95). -/
theorem escapes_of_holdsIn {c : Core} {ls : List Level} {pc : Word64} (h : holdsIn c ls pc) :
    escapes c.seq.depth ls pc = .ok () := by
  rw [escapes, innermostAt]
  split
  · next l hl =>
    obtain ⟨hlo, hhi⟩ := h l hl
    simp [Level.inBody, hlo, hhi]
  · rfl

theorem escapes_of_not_holdsIn {c : Core} {ls : List Level} {pc : Word64} (h : ¬ holdsIn c ls pc) :
    escapes c.seq.depth ls pc = .error (.trap .loopesc) := by
  rw [escapes, innermostAt]
  split
  · next l hl =>
    have hout : l.inBody pc = false := by
      by_contra hin
      refine h fun l' hl' => ?_
      cases hl.symm.trans hl'
      simpa [Level.inBody] using hin
    rw [hout, need_false]
  · next hnone => exact absurd (fun l hl => by rw [hnone] at hl; cases hl) h

theorem goto_eq_goes (s : State) (b : Target) : s.goto b.pc b.lpc b.code = goes s b.pc b.lpc b.code := rfl

/-- What a transfer through a ready buffer does, by where its target lies (R95). -/
theorem transfer_of_holdsIn {ls : List Level} (hr : s.ready t = .ok b) (h : holdsIn s.core ls b.pc) :
    s.transfer t ls = .ok (goes s b.pc b.lpc b.code) := by
  simp only [State.transfer, hr, escapes_of_holdsIn h, bind_ok, pure_ok, goto_eq_goes]

theorem transfer_of_not_holdsIn {ls : List Level} (hr : s.ready t = .ok b) (h : ¬ holdsIn s.core ls b.pc) :
    s.transfer t ls = .error (.trap .loopesc) := by
  simp only [State.transfer, hr, escapes_of_not_holdsIn h, bind_ok, bind_error]

theorem transfer_of_not_ready {ls : List Level} {e : Stop} (hr : s.ready t = .error e) : s.transfer t ls = .error e := by
  simp only [State.transfer, hr, bind_error]

theorem exec_br (s : State) (t : BitVec 2) : exec (.br t) s = issue 0 (fun s => s.transfer t s.core.seq.levels) s := rfl

/-- A one-bit field is 0 or 1. -/
theorem bit_field_cases (i : BitVec 1) : i = 0 ∨ i = 1 := (by decide : ∀ i : BitVec 1, i = 0 ∨ i = 1) i

/-- A conditional word's predicate, inverted where I is set, holds (R96). -/
theorem condition_iff (x : Bool) (i : BitVec 1) : (x != (i == 1)) = true ↔ x = true ∧ i = 0 ∨ x = false ∧ i = 1 := by
  rcases bit_field_cases i with rfl | rfl <;> cases x <;> decide

/-- BRP transfers where its condition holds, and has no effect elsewhere (R96). -/
theorem exec_brp {r : State} (ht : s.transfer t s.core.seq.levels = .ok r) (i : BitVec 1) (p : BitVec 4) :
    exec (.brp t i p) s = if s.core.pAt p.toNat = true ∧ i = 0 ∨ s.core.pAt p.toNat = false ∧ i = 1 then .next r else .next s := by
  show issueIf 0 (s.core.pAt p.toNat != (i == 1)) (fun s => s.transfer t s.core.seq.levels) s = _
  rw [← if_congr (condition_iff _ i) rfl rfl]
  cases s.core.pAt p.toNat != (i == 1)
  · rfl
  · exact issue_ok (act := fun s => s.transfer t s.core.seq.levels) ht

/-- BRV transfers where every lane has its condition, falls through where no lane has it, and traps where lanes differ (R96). -/
theorem exec_brv {r : State} (ht : s.transfer t s.core.seq.levels = .ok r) {i : BitVec 1} {q l : BitVec 3} {x : Nat}
    (hx : x = (s.core.qAt q.toNat).toNat % 2 ^ 2 ^ l.toNat) : exec (.brv t i q l) s =
      if i = 0 ∧ x = 2 ^ 2 ^ l.toNat - 1 ∨ i = 1 ∧ x = 0 then .next r
      else if x = 0 ∨ x = 2 ^ 2 ^ l.toNat - 1 then .next s
      else .next (takeTrap { cause := .nonuniform, slot := 0 } s.cycle s) := by
  have hgo : i = 0 ∧ x = 2 ^ 2 ^ l.toNat - 1 ∨ i = 1 ∧ x = 0 ↔ x = if i = 1 then 0 else ones (2 ^ l.toNat) := by
    rcases bit_field_cases i with rfl | rfl <;> simp [ones]
  show execBrv t i q l s = _
  by_cases hc : x = if i = 1 then 0 else ones (2 ^ l.toNat)
  · rw [if_pos (hgo.mpr hc)]
    refine issue_ok ?_
    simp only [← hx, if_pos hc, ht]
  · rw [if_neg (mt hgo.mp hc)]
    have hact : execBrv t i q l s = issue 0 (fun s => need (x == 0 || x == ones (2 ^ l.toNat)) .nonuniform >>= fun _ => .ok s) s := by
      refine issue_congr ?_
      simp only [← hx, if_neg hc, pure_ok]
    rw [hact, issue_need (f := fun s => s), apply_ite Outcome.next]
    simp [ones]

end

/-- Settles O23: a buffer that is not ready or a target that escapes stops the word; else its condition decides. -/
theorem controlTransfers : Obligations.ControlTransfers := by
  refine fun t s => ⟨fun b hb hr hin => ?goes, fun hb => ?empty, fun b hb => ⟨fun hr => ?early, fun hr hout => ?escapes⟩⟩
  case goes =>
    have ht := transfer_of_holdsIn (ready_of_some hb hr) hin
    exact ⟨(exec_br s t).trans (issue_ok ht), exec_brp ht, fun i q l x hx => exec_brv ht hx⟩
  case empty => exact (exec_br s t).trans (issue_trap (transfer_of_not_ready (ready_of_none hb)))
  case early => exact (exec_br s t).trans (issue_stall (transfer_of_not_ready (ready_of_early hb hr)))
  case escapes => exact (exec_br s t).trans (issue_trap (transfer_of_not_holdsIn (ready_of_some hb hr) hout))

/-! ### Loops and strides (R100 to R103) -/

section
variable {s : State} {i : Instr} {n len : Nat} {o : State}

/-- A loop word is its act with a count, and what it leaves when it opens a level. -/
theorem loops_of_act {act : State → Except Stop State} (he : exec i s = issue 0 act s)
    (ha : act s = notInLoopm s.core >>= fun _ => if n = 0 then .ok (s.skipBody len) else
      need (s.core.seq.levels.length < 6) .loopdeep >>= fun _ => .ok o) : loops i s n len o := by
  refine ⟨fun hl h0 => ?_, fun hl h0 hd => ?_, fun hl h0 hd => ?_, fun hl => ?_⟩ <;> rw [he]
  · refine issue_ok ?_
    rw [ha, notInLoopm_of_false hl, bind_ok, if_pos h0]; rfl
  · refine issue_ok ?_
    rw [ha, notInLoopm_of_false hl, bind_ok, if_neg h0, decide_eq_true hd]; rfl
  · refine issue_trap ?_
    rw [ha, notInLoopm_of_false hl, bind_ok, if_neg h0, decide_eq_false (Nat.not_lt.mpr hd)]; rfl
  · refine issue_trap ?_
    rw [ha, notInLoopm_of_true hl]; rfl

/-- What LOOPM sends for the next bundle, from the level it has opened (R103). -/
theorem loopm_eq (s : State) (st : BitVec 4) (n len : Nat) : s.loopm st n len =
    notInLoopm s.core >>= fun _ => if n = 0 then .ok (s.skipBody len) else
      need (s.core.seq.levels.length < 6) .loopdeep >>= fun _ =>
        .ok (sends (opened s (pushedLevel s.core true n st len)) (moduloWrites s n)) := by
  simp only [State.loopm, result_eq_sends, sends_sends, bWrite_sends, List.range, List.range.loop, List.foldl]
  rfl

end

theorem loopForms_holds : loopForms := by
  refine fun l s => ⟨fun n => ?_, fun r x hx => ?_, fun st n => ?_, fun st r x hx => ?_⟩
  · exact loops_of_act (act := (·.loop n.toNat l.toNat)) rfl rfl
  · refine loops_of_act (act := fun s => s.core.readG r.toNat >>= fun x => s.loop (x.toNat % 2 ^ 32) l.toNat) rfl ?_
    rw [hx]; rfl
  · refine loops_of_act (act := (·.loopm st n.toNat l.toNat)) rfl ?_
    exact loopm_eq s st _ _
  · refine loops_of_act (act := fun s => s.core.readG r.toNat >>= fun x => s.loopm st (x.toNat % 2 ^ 32) l.toNat) rfl ?_
    rw [hx, bind_ok]
    exact loopm_eq s st _ _

theorem pendingStrides_holds : pendingStrides := by
  refine fun b s => ⟨fun x => ?_, fun r x hx => ?_⟩
  · show Outcome.next (s.setStride b (wrapTo 32 (signedOf 22 x.toNat))) = _
    rw [signedOf_toNat, wrapTo_toInt, State.setStride, BitVec.ofNat_toNat, BitVec.setWidth_eq]; rfl
  · show execSetstrReg b r s = _
    refine issue_ok ?_
    simp only [hx, bind_ok, pure_ok, State.setStride, BitVec.ofNat_toNat]; rfl

/-- Settles O25: a loop word by its checks and its count, SETSTR by the stride's 32 bits. -/
theorem loopWords : Obligations.LoopWords := ⟨loopForms_holds, pendingStrides_holds⟩

/-! ### Level exits (R104) -/

section
variable {s : State} {t : BitVec 2} {v : BitVec 3} {b : Target}

/-- The levels left and the transfer made, in either order. -/
theorem exitLevels_of_holdsIn (hr : s.ready t = .ok b)
    (hv : v.toNat ≤ (s.core.seq.levels.filter (·.depth == s.core.seq.depth)).length)
    (h : holdsIn s.core (s.core.seq.levels.drop v.toNat) b.pc) : s.exitLevels t v.toNat =
      .ok (goes (s.seq fun q => { q with levels := q.levels.drop v.toNat }) b.pc b.lpc b.code) := by
  simp only [State.exitLevels, transfer_of_holdsIn hr h, bind_ok, decide_eq_true hv, need_true, pure_ok]
  rfl

/-- Too many levels named escape, whether or not the target does (R104). -/
theorem exitLevels_of_few (hr : s.ready t = .ok b)
    (hv : (s.core.seq.levels.filter (·.depth == s.core.seq.depth)).length < v.toNat) :
    s.exitLevels t v.toNat = .error (.trap .loopesc) := by
  by_cases h : holdsIn s.core (s.core.seq.levels.drop v.toNat) b.pc
  · simp only [State.exitLevels, transfer_of_holdsIn hr h, bind_ok, decide_eq_false (Nat.not_le.mpr hv), need_false, bind_error]
  · simp only [State.exitLevels, transfer_of_not_holdsIn hr h, bind_error]

theorem exec_exitl (s : State) (t : BitVec 2) (v : BitVec 3) :
    exec (.exitl t v) s = issue 0 (fun s => s.exitl.exitLevels t v.toNat) s := rfl

/-- EXITL_COND is EXITL where its condition holds, and falls through elsewhere (R104). -/
theorem exec_exitlCond (s : State) (t : BitVec 2) (i : BitVec 1) (p : BitVec 4) (v : BitVec 3) :
    exec (.exitlCond t i p v) s =
      if s.core.pAt p.toNat != (i == 1) then exec (.exitl t v) s else .next s.exitl := by
  show execExitlCond t i p v s = _
  split
  · next h => exact issue_congr (act' := fun s => s.exitl.exitLevels t v.toNat) (if_pos h)
  · next h => exact issue_ok (if_neg h)

end

/-- Settles O26: the transfer is checked against the levels that remain; EXITL_COND is EXITL or falls through. -/
theorem levelExits : Obligations.LevelExits := by
  intro t v s b hb hr
  have hready : s.exitl.ready t = .ok b := ready_of_some hb hr
  refine ⟨fun hv hin => ?exits, fun i p hc => ?fallsThrough, fun hv => ?few⟩
  case exits =>
    have hgo : exec (.exitl t v) s = _ := (exec_exitl s t v).trans (issue_ok (exitLevels_of_holdsIn hready hv hin))
    refine ⟨_, rfl, hgo, fun i p hc => ?_⟩
    rw [exec_exitlCond, if_pos ((condition_iff _ i).mpr hc)]
    exact hgo
  case fallsThrough =>
    rw [exec_exitlCond, if_neg]
    · rfl
    · rw [condition_iff]
      rcases hc with ⟨hp, rfl⟩ | ⟨hp, rfl⟩ <;> simp [hp]
  case few => exact (exec_exitl s t v).trans (issue_trap (exitLevels_of_few hready hv))

end Sys2Proof.ControlProofs
end

section
/-!
PROOFS. The cluster slot's queues (R172, R259, R268): an acquiring load at system scope brings host writes to their homes.
-/
open Host (Outcome)
open Sys2Proof Sys2Proof.Machine Sys2Proof.Claims

namespace Sys2Proof.ControlProofs

/-- An LDC of 8 bytes from member 0 that acquires at system scope (R164, R259). -/
def systemAcquire : CEntry :=
  { kind := .ld 1 8 false, member := 0, off := 0x40, size := 8, issued := 900, bundle := 0, scope := 4, acquire := true, release := false }

/-- The machine with that load at the head of core 0's load queue, and a host write of one byte to address 0 that the link has delivered
and that has yet to reach its home (R268). -/
def behindHostWrite : State :=
  { State.reset with
    cycle := 1000
    core := { Core.blank with qs := { Queues.entry with loads := [systemAcquire] }, ctl := { Ctl.idle with run := .running, task := 1 } }
    dev := { Dev.reset with sys := { MemSys.reset with hostq := [{ die := 4, addr := 0, data := [1] }] } } }

/-- The load may perform, and as it does, the host's byte is at its home (R268). -/
theorem behindHostWrite_performs : (behindHostWrite.turnTo 0).mayPerform systemAcquire = true ∧
    (match exec (.cQueuePerform 0 false) behindHostWrite with
      | .next t => t.dev.sys.mem.read 0
      | _ => 0) = 1 ∧ behindHostWrite.dev.sys.mem.read 0 = 0 := by decide +kernel

/-- Refutes O32: the clause of loads says that memory stays as it is, but a load that acquires at system scope finds every host write that
the link has delivered (R268), so that `behindHostWrite`'s waiting write reaches its home as the load performs. -/
theorem not_clusterSteps : ¬ Obligations.ClusterSteps := by
  intro h
  obtain ⟨hmay, hafter, hbefore⟩ := behindHostWrite_performs
  obtain ⟨hload, -⟩ := h 0 behindHostWrite _ systemAcquire [] (by decide) rfl
  obtain ⟨t, d, ht, -, -, -, -, -, hmem⟩ := hload 1 8 false rfl rfl rfl rfl hmay
  rw [ht] at hafter
  simp [hmem, hbefore] at hafter

end Sys2Proof.ControlProofs
end


section
/-!
PROOFS. The scheduler, pre-emption and resumption, and the end of a task (R105, R206, R252, R297 to R305).
-/
open Host (Outcome)
open Sys2Proof Sys2Proof.Machine Sys2Proof.Claims Sys2Proof.CoreProofs Sys2Proof.NumberProofs

namespace Sys2Proof.ControlProofs

/-! ### What stays of a task (R299, R305) -/

/-- What no saving of banks or contexts changes of a task: its number, its group, its block, its chunk and its state. -/
def place (t : Task) : Nat × Nat × Nat × Nat × Nat × Nat × TaskState :=
  (t.id, t.group, t.base, t.size, t.first, t.cnt, t.state)

/-- The places of the tasks, oldest first. -/
def places (s : State) : List (Nat × Nat × Nat × Nat × Nat × Nat × TaskState) := s.dev.sched.tasks.map place

theorem places_modTask (s : State) (id : Nat) {f : Task → Task} (hf : ∀ x, place (f x) = place x) :
    places (s.modTask id f) = places s := by
  simp only [places, State.modTask, State.sched, List.map_map]
  refine List.map_congr_left fun x _ => ?_
  simp only [Function.comp]
  split
  · exact hf x
  · rfl

/-- Tasks in the same places are found in the same places. -/
theorem place_task? {s t : State} (h : places t = places s) (id : Nat) : (t.task? id).map place = (s.task? id).map place := by
  have find (u : State) : (u.task? id).map place = (places u).find? fun x => x.1 == id := by
    simp only [State.task?, places, List.find?_map]; rfl
  rw [find, find, h]

/-- The task that a change was for is the changed one. -/
theorem task?_modTask {s : State} {id : Nat} {f : Task → Task} {x : Task} (h : (s.modTask id f).task? id = some x) :
    ∃ y, x = f y := by
  have hid : x.id = id := by simpa using List.find?_some h
  obtain ⟨y, -, hy⟩ := List.mem_map.mp (List.mem_of_find?_eq_some h)
  by_cases hyid : y.id = id
  · exact ⟨y, by rw [← hy, if_pos hyid]⟩
  · rw [if_neg hyid] at hy
    exact absurd (hy ▸ hid) hyid

section
variable (s : State) (id k : Nat)
@[simp] theorem coreAt_modTask (f : Task → Task) : (s.modTask id f).coreAt k = s.coreAt k := rfl
@[simp] theorem coreAt_unask : (s.unask id).coreAt k = s.coreAt k := rfl
@[simp] theorem modTask_cycle (f : Task → Task) : (s.modTask id f).cycle = s.cycle := rfl
@[simp] theorem modTask_sys (f : Task → Task) : (s.modTask id f).dev.sys = s.dev.sys := rfl
@[simp] theorem unask_sys : (s.unask id).dev.sys = s.dev.sys := rfl
@[simp] theorem task?_unask : (s.unask id).task? k = s.task? k := rfl
end

theorem id_of_task? {s : State} {id : Nat} {t : Task} (h : s.task? id = some t) : t.id = id := by
  simpa using List.find?_some h

/-! ### Banks handed over (R302, R305) -/

/-- The second core is the first but for its vault, what is noted beside it and the banks still pending. -/
def banksOnly (c d : Core) : Prop :=
  ∃ v p r b, d = { c with vault := v, poison := p, retained := r, ctl := { c.ctl with pendingBanks := b } }

theorem banksOnly.refl (c : Core) : banksOnly c c := ⟨c.vault, c.poison, c.retained, c.ctl.pendingBanks, rfl⟩

theorem banksOnly.trans {b c d : Core} (h : banksOnly b c) (k : banksOnly c d) : banksOnly b d := by
  obtain ⟨v, p, r, m, rfl⟩ := h
  obtain ⟨v', p', r', m', rfl⟩ := k
  exact ⟨v', p', r', m', rfl⟩

theorem banksOnly_storeQuiet (c : Core) (a : Nat) (bs : List Byte) : banksOnly c (c.storeQuiet a bs) :=
  ⟨_, _, c.retained, c.ctl.pendingBanks, rfl⟩

theorem banksOnly_writeBack (c : Core) (b : SavedBank) : banksOnly c (c.writeBack b) :=
  ⟨_, _, c.retained, c.ctl.pendingBanks, rfl⟩

/-- What handing banks over on core `n` leaves: every other core, the places of the tasks, the scheduler's pointers and the clock. -/
structure handsOver (n : Nat) (s t : State) : Prop where
  core : banksOnly (s.coreAt n) (t.coreAt n)
  others : ∀ k, k ≠ n → t.coreAt k = s.coreAt k
  places : places t = places s
  ptr : t.dev.sched.ptr = s.dev.sched.ptr
  cycle : t.cycle = s.cycle

namespace handsOver
variable {n : Nat} {r s t : State}

theorem refl (n : Nat) (s : State) : handsOver n s s := ⟨.refl _, fun _ _ => rfl, rfl, rfl, rfl⟩

theorem trans (h : handsOver n r s) (k : handsOver n s t) : handsOver n r t :=
  ⟨h.core.trans k.core, fun j hj => (k.others j hj).trans (h.others j hj), k.places.trans h.places, k.ptr.trans h.ptr,
    k.cycle.trans h.cycle⟩

theorem foldl {α : Type} {f : State → α → State} (hf : ∀ s x, handsOver n s (f s x)) (l : List α) (s : State) :
    handsOver n s (l.foldl f s) := by
  induction l generalizing s with
  | nil => exact refl n s
  | cons x l ih => exact (hf s x).trans (ih _)

theorem modAt (s : State) {f : Core → Core} (hf : banksOnly (s.coreAt n) (f (s.coreAt n))) : handsOver n s (s.modAt n f) :=
  ⟨by rw [coreAt_modAt, if_pos rfl]; exact hf, fun k hk => by rw [coreAt_modAt, if_neg hk],
    by rw [ControlProofs.places, modAt_dev]; rfl, by rw [modAt_dev], modAt_cycle _ _ _⟩

theorem modTask (n : Nat) (s : State) (id : Nat) {f : Task → Task} (hf : ∀ x, place (f x) = place x) :
    handsOver n s (s.modTask id f) :=
  ⟨.refl _, fun _ _ => rfl, places_modTask s id hf, rfl, rfl⟩

theorem sys (n : Nat) (s : State) (f : MemSys → MemSys) : handsOver n s (s.sys f) := ⟨.refl _, fun _ _ => rfl, rfl, rfl, rfl⟩

theorem fillSaveArea (n : Nat) (s : State) (id : Nat) : handsOver n s (s.fillSaveArea id) := by
  rw [State.fillSaveArea]
  split
  · exact refl n s
  · dsimp only
    split
    · exact refl n s
    · exact sys n s _

theorem saveBank (by_ n : Nat) (s : State) (k : Nat) : handsOver n s (State.saveBank by_ n s k) := by
  rw [State.saveBank]
  split
  · exact refl n s
  split
  · exact refl n s
  · refine trans (trans (modTask n s _ fun x => ?_) (modAt _ ?_)) (fillSaveArea n _ _)
    · rfl
    · exact ⟨_, _, _, _, rfl⟩

theorem guardBanks (by_ n : Nat) (s : State) (banks : List Nat) : handsOver n s (s.guardBanks by_ n banks) :=
  foldl (saveBank by_ n) banks s

theorem grantBank (n : Nat) (s : State) (k : Nat) : handsOver n s (State.grantBank n s k) := by
  have settle (u : State) (h : handsOver n s u) : handsOver n s
      (u.modAt n fun c => { c with ctl := { c.ctl with pendingBanks := c.ctl.pendingBanks &&& ~~~(1#64 <<< k) } }) :=
    h.trans (modAt u ⟨_, _, _, _, rfl⟩)
  rw [State.grantBank]
  refine settle _ ?_
  split
  · refine trans (modAt s (banksOnly_writeBack _ _)) (modTask n _ _ fun x => ?_)
    rfl
  · exact foldl (fun u e => modAt u (banksOnly_storeQuiet _ _ _)) _ s

theorem settleBanks (n : Nat) (s : State) : handsOver n s (s.settleBanks n) := foldl (grantBank n) _ s

theorem keepEnded (n : Nat) (s : State) : handsOver n s (s.keepEnded n) := by
  refine modTask n s _ fun x => ?_
  split <;> rfl

end handsOver

/-! ### The start of a task (R17, R299, R300) -/

/-- The core of a member of a new task that takes the place of `old` in cycle `now`, before any bank of it has been settled (R17, R300). -/
def memberCore (g : Group) (o : Obj) (kn : Kernel) (t first cnt base i now : Nat) (old : Core) : Core :=
  { old.bare with
    seq := { Seq.entry with
             pc := BitVec.ofNat 64 kn.entry, lpc := BitVec.ofNat 64 kn.lit, streamFrom := BitVec.ofNat 64 kn.entry, streamAt := now + 1,
             cold := true }
    regs := { Regs.entry with
              g := entryRegs (((kn.plan.find? (·.param)).map (·.off)).getD 0) first cnt i g.size }
    eng := { Engines.entry with tlm := tlmTable g.tlms }
    ctl := entryCtl g t i (base % 16) o kn now
    wake := now + 1 }

/-- A core on which member `i` of a new task stands. -/
def entered (g : Group) (o : Obj) (kn : Kernel) (t first cnt base i now : Nat) (c : Core) : Prop :=
  ∃ old, banksOnly (memberCore g o kn t first cnt base i now old) c

/-- What a new member finds in its core (R17, R226, R300). -/
theorem entered.finds {g : Group} {o : Obj} {kn : Kernel} {t first cnt base i now : Nat} {c : Core}
    (h : entered g o kn t first cnt base i now c) :
    c.ctl.run = .running ∧ c.ctl.task = t ∧ c.wake = now + 1 ∧ c.seq.pc = BitVec.ofNat 64 kn.entry ∧
      c.seq.lpc = BitVec.ofNat 64 kn.lit ∧ c.gAt 2 = BitVec.ofNat 64 first ∧ c.gAt 3 = BitVec.ofNat 64 cnt ∧
      c.gAt 4 = BitVec.ofNat 64 i ∧ c.gAt 5 = BitVec.ofNat 64 g.size ∧ c.ctl.owned = bankMask (planBanks kn.plan) := by
  obtain ⟨old, v, p, r, b, rfl⟩ := h
  refine ⟨rfl, rfl, rfl, rfl, rfl, ?_, ?_, ?_, ?_, rfl⟩ <;> simp [Core.gAt, memberCore, entryRegs, Table.get_set]

section
variable (g : Group) (o : Obj) (kn : Kernel) (t first cnt base : Nat)

/-- A member starts on its core, and nothing else that the scheduler looks at changes. -/
theorem startMember_spec (i : Nat) (s : State) :
    let u := s.startMember g o kn t first cnt base i
    entered g o kn t first cnt base i s.cycle (u.coreAt (base + i)) ∧ (∀ k, k ≠ base + i → u.coreAt k = s.coreAt k) ∧
      places u = places s ∧ u.dev.sched.ptr = s.dev.sched.ptr ∧ u.cycle = s.cycle := by
  have hkeep := handsOver.keepEnded (base + i) s
  have hlast : handsOver (base + i)
      ((s.keepEnded (base + i)).setCore (base + i)
        (memberCore g o kn t first cnt base i (s.keepEnded (base + i)).cycle (s.coreAt (base + i))))
      (s.startMember g o kn t first cnt base i) := by
    rw [State.startMember]
    exact ((handsOver.guardBanks _ _ _ _).trans (handsOver.settleBanks _ _)).trans (handsOver.sys _ _ _)
  have hcore := hlast.core
  rw [coreAt_setCore, if_pos rfl, hkeep.cycle] at hcore
  refine ⟨⟨_, hcore⟩, fun k hk => ?_, ?_, ?_, ?_⟩
  · rw [hlast.others k hk, coreAt_setCore, if_neg hk, hkeep.others k hk]
  · rw [hlast.places, places, setCore_dev]; exact hkeep.places
  · rw [hlast.ptr, setCore_dev, hkeep.ptr]
  · rw [hlast.cycle, setCore_cycle, hkeep.cycle]

/-- The first `m` members have started. -/
theorem startMembers_spec (s : State) (m : Nat) :
    let u := (List.range m).foldl (fun s i => s.startMember g o kn t first cnt base i) s
    (∀ i < m, entered g o kn t first cnt base i s.cycle (u.coreAt (base + i))) ∧
      (∀ k, (∀ i < m, k ≠ base + i) → u.coreAt k = s.coreAt k) ∧ places u = places s ∧ u.dev.sched.ptr = s.dev.sched.ptr ∧
      u.cycle = s.cycle := by
  induction m with
  | zero => exact ⟨fun i hi => absurd hi (Nat.not_lt_zero i), fun _ _ => rfl, rfl, rfl, rfl⟩
  | succ m ih =>
    obtain ⟨hin, hout, hplaces, hptr, hcycle⟩ := ih
    simp only [List.range_succ, List.foldl_append, List.foldl_cons, List.foldl_nil]
    obtain ⟨hnew, hsame, hplaces', hptr', hcycle'⟩ := startMember_spec g o kn t first cnt base m
      ((List.range m).foldl (fun s i => s.startMember g o kn t first cnt base i) s)
    refine ⟨fun i hi => ?_, fun k hk => ?_, hplaces'.trans hplaces, hptr'.trans hptr, hcycle'.trans hcycle⟩
    · rcases Nat.lt_succ_iff_lt_or_eq.mp hi with h | rfl
      · rw [hsame _ (by omega)]; exact hin i h
      · rw [hcycle] at hnew; exact hnew
    · rw [hsame k (hk m (Nat.lt_succ_self m)), hout k fun i hi => hk i (by omega)]

end

/-- The task that takes the next chunk of a group onto a block (R299, R300). -/
def newTask (s : State) (g : Group) (base : Nat) : Task :=
  { id := s.dev.sched.tasks.length + 1, group := g.id, base := base, size := g.size, first := g.count - g.remaining, cnt := g.chunk,
    state := .running, requested := false, incoming := none, ended := [], contexts := [], banks := [], held := [], holding := [] }

/-- The scheduler once that task is there, and none of its members on its core yet. -/
def withTask (s : State) (g : Group) (base : Nat) : State :=
  (s.modGroup g.id fun x => { x with remaining := x.remaining - g.chunk }).sched fun d =>
    { d with tasks := d.tasks ++ [newTask s g base] }

section
variable {s : State} {g : Group} {o : Obj} {kn : Kernel} (base : Nat) (hg : s.group? g.id = some g) (hr : g.remaining ≠ 0)
  (ho : s.dev.code.find g.object = some o) (hk : o.kernels[g.kernel]? = some kn)
include hg hr ho hk

theorem startTask_eq : s.startTask g base = (List.range g.size).foldl (fun s' i =>
    s'.startMember g o kn (newTask s g base).id (g.count - g.remaining) g.chunk base i) (withTask s g base) := by
  simp only [State.startTask, State.takeChunk, hg, if_neg hr, ho, hk]
  rfl

/-- A group with indices left hands a chunk of R299's size out, and a task starts with it on a block. -/
theorem startTask_spec :
    let u := s.startTask g base
    (∃ x ∈ u.dev.sched.tasks, place x = place (newTask s g base)) ∧
      (∀ i < g.size, entered g o kn (newTask s g base).id (g.count - g.remaining) g.chunk base i s.cycle (u.coreAt (base + i))) ∧
      (∀ k, (∀ i < g.size, k ≠ base + i) → u.coreAt k = s.coreAt k) ∧ u.dev.sched.ptr = s.dev.sched.ptr := by
  rw [startTask_eq base hg hr ho hk]
  obtain ⟨hin, hout, hplaces, hptr, -⟩ := startMembers_spec g o kn (newTask s g base).id (g.count - g.remaining) g.chunk base
    (withTask s g base) g.size
  refine ⟨List.mem_map.mp ?_, hin, hout, hptr⟩
  have hmem : place (newTask s g base) ∈ places (withTask s g base) :=
    List.mem_map_of_mem (List.mem_append_right _ List.mem_cons_self)
  rw [← hplaces] at hmem
  exact hmem

end

/-! ### The scheduler's turn (R297, R298) -/

section
variable {s : State} {die : Nat}

/-- A die for which nothing lacks a block raises no request. -/
theorem schedulerRequest_of_unserved (h : s.served die = none) : s.schedulerRequest die = s := by
  simp only [State.schedulerRequest, h, ite_self]

theorem schedulerCycle_of_turned (h : s.dev.sched.turned.get 0 die = s.cycle + 1) : exec (.schedulerCycle die) s = .next s := by
  refine congrArg Outcome.next ?_
  rw [State.schedulerTurn, if_pos h, ite_self]

/-- What a die's scheduler does in a cycle in which it asks for nothing. -/
theorem schedulerCycle_schedules (hdie : die < 4) (h : s.dev.sched.turned.get 0 die ≠ s.cycle + 1) (hs : s.served die = none) :
    exec (.schedulerCycle die) s = .next ((s.schedule die).sched fun d => { d with turned := d.turned.set 0 die (s.cycle + 1) }) := by
  refine congrArg Outcome.next ?_
  rw [if_pos hdie, State.schedulerTurn, if_neg h, schedulerRequest_of_unserved hs]

/-- A die whose scheduler has acted in a cycle does not act in it again. -/
theorem schedulerCycle_once {u : State} (hdie : die < 4) (h : exec (.schedulerCycle die) s = .next u) (hc : u.cycle = s.cycle) :
    exec (.schedulerCycle die) u = .next u := by
  refine schedulerCycle_of_turned ?_
  have hu : s.schedulerTurn die = u := by
    have h' : Outcome.next (if die < 4 then s.schedulerTurn die else s) = .next u := h
    rw [if_pos hdie] at h'
    exact Outcome.next.inj h'
  rw [hc, ← hu, State.schedulerTurn]
  split
  · next ht => exact ht
  · simp only [State.sched, Table.get_set_same]

end

/-! ### Changes to several cores -/

/-- A change that has its effect but once, made on each core of a list. -/
theorem coreAt_foldl_modAt {f : Core → Core} (hf : ∀ c, f (f c) = f c) (l : List Nat) (s : State) (k : Nat) :
    (l.foldl (fun s n => s.modAt n f) s).coreAt k = if k ∈ l then f (s.coreAt k) else s.coreAt k := by
  induction l generalizing s with
  | nil => simp
  | cons n l ih =>
    rw [List.foldl_cons, ih, coreAt_modAt]
    by_cases hn : k = n
    · subst hn; simp [hf]
    · simp [hn]

theorem dev_foldl_modAt (f : Core → Core) (l : List Nat) (s : State) : (l.foldl (fun s n => s.modAt n f) s).dev = s.dev := by
  induction l generalizing s with
  | nil => rfl
  | cons n l ih => rw [List.foldl_cons, ih, modAt_dev]

/-! ### Pre-emption (R252, R304, R305) -/

/-- A core that is asked to give its task up at the next point (R304). -/
def asked (c : Core) : Core := { c with ctl := { c.ctl with preempt := true, overrun := 0 } }

section
variable {s : State} (t : Task) (incoming : Option Nat)

theorem request_coreAt (k : Nat) :
    (s.request t incoming).coreAt k = if k ∈ s.liveCores t then asked (s.coreAt k) else s.coreAt k :=
  coreAt_foldl_modAt (f := asked) (fun _ => rfl) _ _ k

theorem request_dev : (s.request t incoming).dev =
    (s.modTask t.id fun x => { x with requested := true, incoming := incoming }).dev := dev_foldl_modAt asked _ _

end

theorem preemptRequest_of_may {s : State} {id : Nat} {t : Task} (ht : s.task? id = some t) (hm : s.mayRequest t = true) :
    exec (.firmwarePreemptRequest id) s = .next (s.request t none) := by
  simp only [exec, execFirmwarePreemptRequest, ht, hm, if_true]

/-- A member saved is free, its vault as it was, and only its task's contexts and banks have changed (R305). -/
theorem saveMember_spec (id : Nat) (out : List Nat) (s : State) (n : Nat) :
    let u := State.saveMember id out s n
    ((u.coreAt n).ctl.run = .idle ∧ (u.coreAt n).vault = (s.coreAt n).vault) ∧ (∀ k, k ≠ n → u.coreAt k = s.coreAt k) ∧
      places u = places s ∧ u.dev.sys = s.dev.sys ∧ u.dev.sched.saveAreas = s.dev.sched.saveAreas ∧
      u.dev.sched.groups = s.dev.sched.groups := by
  simp only [State.saveMember, coreAt_setCore, if_true, places, setCore_dev]
  exact ⟨⟨rfl, rfl⟩, fun k hk => if_neg hk, places_modTask s id fun _ => rfl, rfl, rfl, rfl⟩

theorem saveMembers_spec (id : Nat) (out : List Nat) (l : List Nat) (s : State) :
    let u := l.foldl (State.saveMember id out) s
    (∀ k, (u.coreAt k).vault = (s.coreAt k).vault) ∧ (∀ k ∈ l, (u.coreAt k).ctl.run = .idle) ∧
      (∀ k, k ∉ l → u.coreAt k = s.coreAt k) ∧
      places u = places s ∧ u.dev.sys = s.dev.sys ∧ u.dev.sched.saveAreas = s.dev.sched.saveAreas ∧
      u.dev.sched.groups = s.dev.sched.groups := by
  induction l generalizing s with
  | nil => exact ⟨fun _ => rfl, by simp, fun _ _ => rfl, rfl, rfl, rfl, rfl⟩
  | cons n l ih =>
    obtain ⟨⟨hrun, hvault⟩, hothers, hplaces, hsys, hareas, hgroups⟩ := saveMember_spec id out s n
    obtain ⟨hvaults, hidle, hout, hplaces', hsys', hareas', hgroups'⟩ := ih (State.saveMember id out s n)
    rw [List.foldl_cons]
    refine ⟨fun k => ?_, fun k hk => ?_, fun k hk => ?_, hplaces'.trans hplaces, hsys'.trans hsys, hareas'.trans hareas,
      hgroups'.trans hgroups⟩
    · rw [hvaults]
      by_cases hkn : k = n
      · rw [hkn, hvault]
      · rw [hothers k hkn]
    · by_cases hkl : k ∈ l
      · exact hidle k hkl
      · obtain rfl | h := List.mem_cons.mp hk
        · rw [hout k hkl]; exact hrun
        · exact absurd h hkl
    · rw [List.mem_cons, not_or] at hk
      rw [hout k hk.2, hothers k hk.1]

theorem fillSaveArea_coreAt (s : State) (id k : Nat) : (s.fillSaveArea id).coreAt k = s.coreAt k := by
  rw [State.fillSaveArea]
  split
  · rfl
  · dsimp only; split <;> rfl

/-- Without a save area for the queue of the task nothing is written (R305). -/
theorem fillSaveArea_of_none {s u : State} {id : Nat} {t : Task} (ht : s.task? id = some t) (hp : places u = places s)
    (ha : u.dev.sched.saveAreas = s.dev.sched.saveAreas) (hg : u.dev.sched.groups = s.dev.sched.groups)
    (h : s.dev.sched.saveAreas.get 0 (64 * dieOf t.base + ((s.group? t.group).map (·.queue)).getD 0) = 0) :
    u.fillSaveArea id = u := by
  have hfound := place_task? hp id
  rw [ht, Option.map_some] at hfound
  obtain ⟨x, hx, hplace⟩ := Option.map_eq_some_iff.mp hfound
  simp only [place, Prod.mk.injEq] at hplace
  obtain ⟨-, hgroup, hbase, -⟩ := hplace
  simp only [State.fillSaveArea, hx, hgroup, hbase, ha, hg]
  exact if_pos h

/-- The save of a task whose members all stand at points (R305). -/
theorem preemptionSave_of_may {s : State} {id : Nat} {t : Task} (ht : s.task? id = some t) (hm : s.maySave t = true) :
    exec (.preemptionSave id) s = .next (((((s.liveCores t).foldl (State.saveMember t.id (s.incomingBanks t)) s).fillSaveArea
      t.id).modTask t.id fun x => { x with state := .saved, requested := false, incoming := none }).unask t.id) := by
  simp only [exec, execPreemptionSave, ht, hm, if_true]

theorem preemptionSave_spec {s : State} {id : Nat} {t : Task} (ht : s.task? id = some t) (hm : s.maySave t = true) :
    ∃ u, exec (.preemptionSave id) s = .next u ∧
      (∀ n ∈ s.liveCores t, (u.coreAt n).ctl.run = .idle ∧ (u.coreAt n).vault = (s.coreAt n).vault) ∧
      (∀ n, n ∉ s.liveCores t → u.coreAt n = s.coreAt n) ∧ (∀ x, u.task? id = some x → x.state = .saved) ∧
      (s.dev.sched.saveAreas.get 0 (64 * dieOf t.base + ((s.group? t.group).map (·.queue)).getD 0) = 0 →
        u.dev.sys = s.dev.sys) := by
  obtain rfl := id_of_task? ht
  obtain ⟨hvaults, hidle, hout, hplaces, hsys, hareas, hgroups⟩ :=
    saveMembers_spec t.id (s.incomingBanks t) (s.liveCores t) s
  refine ⟨_, preemptionSave_of_may ht hm, fun n hn => ?_, fun n hn => ?_, fun x hx => ?_, fun h => ?_⟩
  · rw [coreAt_unask, coreAt_modTask, fillSaveArea_coreAt]
    exact ⟨hidle n hn, hvaults n⟩
  · rw [coreAt_unask, coreAt_modTask, fillSaveArea_coreAt, hout n hn]
  · rw [task?_unask] at hx
    obtain ⟨y, rfl⟩ := task?_modTask hx
    rfl
  · rw [unask_sys, modTask_sys, fillSaveArea_of_none ht hplaces hareas hgroups h, hsys]

/-! ### Resumption (R25, R253, R305) -/

/-- A core with its target buffers' bundles fetched anew. -/
def withTargets (c : Core) (tb : Table (Option Target)) : Core := { c with seq := { c.seq with tb := tb } }

theorem coreAt_fillTarget (s : State) (i k : Nat) :
    (s.fillTarget i).cur = s.cur ∧ (s.fillTarget i).dev = s.dev ∧ (k ≠ s.cur → (s.fillTarget i).coreAt k = s.coreAt k) ∧
      ∃ tb, (s.fillTarget i).core = withTargets s.core tb := by
  rw [State.fillTarget]
  split
  · exact ⟨rfl, rfl, fun hk => by simp only [State.coreAt, if_neg hk], _, rfl⟩
  · exact ⟨rfl, rfl, fun _ => rfl, s.core.seq.tb, rfl⟩

/-- The target buffers of a core that have bundles take them again, and nothing else changes (R25). -/
theorem fillTargets_spec (l : List Nat) (s : State) :
    let u := l.foldl (fun s i => s.fillTarget i) s
    u.cur = s.cur ∧ u.dev = s.dev ∧ (∀ k, k ≠ s.cur → u.coreAt k = s.coreAt k) ∧ ∃ tb, u.core = withTargets s.core tb := by
  induction l generalizing s with
  | nil => exact ⟨rfl, rfl, fun _ _ => rfl, s.core.seq.tb, rfl⟩
  | cons i l ih =>
    rw [List.foldl_cons]
    obtain ⟨hcur, hdev, hout, tb, htb⟩ := ih (s.fillTarget i)
    obtain ⟨hcur', hdev', -, tb', htb'⟩ := coreAt_fillTarget s i s.cur
    refine ⟨hcur.trans hcur', hdev.trans hdev', fun k hk => ?_, tb, ?_⟩
    · obtain ⟨-, -, hstep, -⟩ := coreAt_fillTarget s i k
      rw [hout k (hcur'.symm ▸ hk), hstep hk]
    · rw [htb, htb']; rfl

/-- The core of a member that comes back onto a core that was `here`, with no bank or increment to bring, before its target buffers
take their bundles again (R25, R253). -/
def backOn (id t1 : Nat) (here c : Core) : Core :=
  let at_ := c.ctl.run.frozenAt t1
  let d := (({ c with
    vault := here.vault, poison := here.poison, port := here.port, failed := here.failed, perf := here.perf
    retained := here.retained.filter fun e => e.2 != some id
    ctl := { c.ctl with
             resumed := true, preempt := false, overrun := 0, cycle0 := c.ctl.cycle0 + (t1 - at_), pendingBanks := 0 } } : Core).thaw
    at_ t1).refetched t1
  { d with seq := { d.seq with stream := [], streamFrom := d.seq.pc, streamAt := t1, cold := false } }

section
variable {t : Task} (t1 : Nat) (s : State) (n : Nat) {c : Core} (hb : t.banks = []) (hh : t.held = []) (hp : c.ctl.pendingBanks = 0)
include hb hh hp

theorem resumeMember_eq : State.resumeMember t t1 s (n, c) = ((s.keepEnded n).setCore n (backOn t.id t1 (s.coreAt n) c)).on n
    fun s => (List.range 4).foldl (fun s i => s.fillTarget i) s := by
  have hset : (((s.keepEnded n).setCore n (backOn t.id t1 (s.coreAt n) c)).coreAt n).ctl.pendingBanks = 0 := by
    rw [coreAt_setCore, if_pos rfl]; rfl
  rw [← CycleProofs.settleBanks_of_settled hset]
  simp only [State.resumeMember, hb, hh, hp, List.filter_nil, List.map_nil, List.nil_append, State.guardBanks, List.foldl_nil,
    Core.addHeld, backOn]
  rfl

/-- A member that comes back has its core, its vault as it stood there, and nothing else that the scheduler looks at changes. -/
theorem resumeMember_spec :
    let u := State.resumeMember t t1 s (n, c)
    (∃ tb, u.coreAt n = withTargets (backOn t.id t1 (s.coreAt n) c) tb) ∧ (∀ k, k ≠ n → u.coreAt k = s.coreAt k) ∧
      places u = places s := by
  have hkeep := handsOver.keepEnded n s
  rw [resumeMember_eq t1 s n hb hh hp]
  obtain ⟨hcur, hdev, hout, tb, htb⟩ :=
    fillTargets_spec (List.range 4) (((s.keepEnded n).setCore n (backOn t.id t1 (s.coreAt n) c)).turnTo n)
  rw [turnTo_cur] at hcur hout
  rw [turnTo_core, coreAt_setCore, if_pos rfl] at htb
  refine ⟨⟨tb, ?_⟩, fun k hk => ?_, ?_⟩
  · rw [coreAt_on, CycleProofs.coreAt_of_cur hcur, htb]
  · rw [coreAt_on, hout k hk, coreAt_turnTo, coreAt_setCore, if_neg hk, hkeep.others k hk]
  · rw [places, on_dev, hdev, turnTo_dev, setCore_dev]
    exact hkeep.places

end

section
variable {s : State} {id n : Nat} {t : Task} {c : Core} (ht : s.task? id = some t) (hs : t.state = .restoring)
  (hc : t.contexts = [(n, c)]) (he : t.ended = [])
include ht hs hc he

/-- A task whose core cannot run it stays as it is (R378, R382). -/
theorem taskResume_of_unusable (hu : s.usable n = false) : exec (.taskResume id) s = .next s := by
  simp [exec, execTaskResume, ht, hs, hc, he, hu]

/-- The tasks as one of them is selected to run on. -/
def resumed (s : State) (id : Nat) : State := s.modTask id fun x =>
  { x with state := .running, contexts := x.contexts.filter fun p => x.ended.contains p.1, held := [] }

theorem taskResume_of_usable (hb : t.banks = []) (hu : s.usable n = true) :
    exec (.taskResume id) s =
      .next (State.resumeMember t (max (s.cycle + 1) (s.coreAt n).supply) (resumed s id) (n, c)) := by
  obtain rfl := id_of_task? ht
  simp [exec, execTaskResume, ht, hs, hc, he, hu, State.mayRestore, hb, resumed]

theorem taskResume_spec (hb : t.banks = []) (hh : t.held = []) (hp : c.ctl.pendingBanks = 0) (hd : c.ctl.draining = false)
    (hu : s.usable n = true) :
    ∃ u, exec (.taskResume id) s = .next u ∧ (∀ x, u.task? id = some x → x.state = .running) ∧
      (u.coreAt n).ctl.run = .running ∧ (u.coreAt n).wake = max (s.cycle + 1) (s.coreAt n).supply ∧ (u.coreAt n).regs = c.regs ∧
      (u.coreAt n).seq.pc = c.seq.pc ∧ (u.coreAt n).ctl.resumed = true ∧ (u.coreAt n).ctl.preempt = false ∧
      (u.coreAt n).ctl.cause = c.ctl.cause ∧ (u.coreAt n).vault = (s.coreAt n).vault ∧
      (∀ k, k ≠ n → u.coreAt k = s.coreAt k) := by
  obtain ⟨⟨tb, hcore⟩, hothers, hplaces⟩ :=
    resumeMember_spec (t := t) (max (s.cycle + 1) (s.coreAt n).supply) (resumed s id) n hb hh hp
  refine ⟨_, taskResume_of_usable ht hs hc he hb hu, fun x hx => ?_, ?_⟩
  · have hfound := place_task? hplaces id
    rw [hx, Option.map_some] at hfound
    obtain ⟨y, hy, hplace⟩ := Option.map_eq_some_iff.mp hfound.symm
    obtain ⟨z, rfl⟩ := task?_modTask hy
    simp only [place, Prod.mk.injEq] at hplace
    obtain ⟨-, -, -, -, -, -, hstate⟩ := hplace
    exact hstate.symm
  · rw [hcore]
    refine ⟨?_, rfl, rfl, rfl, rfl, rfl, rfl, rfl, hothers⟩
    exact if_neg (by rw [Bool.not_eq_true]; exact hd)

end

/-! ### The end of a task on a core (R105, R303) -/

/-- What the end of a task on a core leaves of it: whether it runs, its registers and its vault. -/
def keepsCore (c d : Core) : Prop := d.ctl.run = c.ctl.run ∧ d.regs = c.regs ∧ d.vault = c.vault

theorem keepsCore.refl (c : Core) : keepsCore c c := ⟨rfl, rfl, rfl⟩

theorem keepsCore.trans {b c d : Core} (h : keepsCore b c) (k : keepsCore c d) : keepsCore b d := by
  obtain ⟨h1, h2, h3⟩ := h
  obtain ⟨k1, k2, k3⟩ := k
  exact ⟨k1.trans h1, k2.trans h2, k3.trans h3⟩

theorem keepsCore_modAt (s : State) (n k : Nat) {f : Core → Core} (hf : keepsCore (s.coreAt n) (f (s.coreAt n))) :
    keepsCore (s.coreAt k) ((s.modAt n f).coreAt k) := by
  rw [coreAt_modAt]
  split
  · next h => rw [h]; exact hf
  · exact .refl _

theorem keepsCore_foldl {α : Type} {f : State → α → State} (k : Nat) (hf : ∀ s x, keepsCore (s.coreAt k) ((f s x).coreAt k)) (l : List α)
    (s : State) : keepsCore (s.coreAt k) ((l.foldl f s).coreAt k) := by
  induction l generalizing s with
  | nil => exact .refl _
  | cons x l ih => exact (hf s x).trans (ih _)

/-- The words of a use that ends are done, and no more (R203). -/
theorem keepsCore_finishUse (s : State) (c : Collective) (outcome : GEntry → Done) (k : Nat) :
    keepsCore (s.coreAt k) ((s.finishUse c outcome).coreAt k) := by
  rw [State.finishUse, ← coreAt_fabric s (fun f => f.setUse c none) k]
  exact keepsCore_foldl k (fun u (x : Contribution) => keepsCore_modAt u x.core k ⟨rfl, rfl, rfl⟩) _ _

theorem keepsCore_abortFor (s : State) (core task k : Nat) : keepsCore (s.coreAt k) ((s.abortFor core task).coreAt k) :=
  keepsCore_foldl k (fun u c => keepsCore_finishUse u c (doneWithout 8) k) _ s

theorem keepsCore_tryBarrier (s : State) (m k : Nat) : keepsCore (s.coreAt k) ((s.on m (·.tryBarrier)).coreAt k) := by
  rw [coreAt_on, ← coreAt_turnTo s m k, State.tryBarrier]
  split
  · exact keepsCore_foldl k (fun u n => keepsCore_modAt u n k ⟨rfl, rfl, rfl⟩) _ _
  · exact .refl _

/-- A core whose task has ended on it. -/
def ended (c : Core) : Core := { c with ctl := { c.ctl with run := .idle }, stall := none, waiting := none }

theorem releaseEnded_coreAt {s : State} {n : Nat} (hp : (s.coreAt n).ctl.pendingBanks = 0) (k : Nat) :
    (s.releaseEnded n).coreAt k = s.coreAt k := by
  rw [State.releaseEnded]
  dsimp only
  rw [CycleProofs.settleBanks_of_settled (by rw [coreAt_sched]; exact hp), coreAt_sched]

/-- A task that ends on a core leaves it free, its registers and its vault as they were (R105). -/
theorem endOn_keeps {s : State} {n : Nat} (hp : (s.coreAt n).ctl.pendingBanks = 0) :
    keepsCore (ended (s.coreAt n)) ((s.endOn n).coreAt n) := by
  have released {w : State} (hw : w.coreAt n = ended (s.coreAt n)) :
      keepsCore (ended (s.coreAt n)) (((w.releaseEnded n).abortFor n (s.coreAt n).ctl.task).coreAt n) := by
    have habort := keepsCore_abortFor (w.releaseEnded n) n (s.coreAt n).ctl.task n
    rw [releaseEnded_coreAt (by rw [hw]; exact hp), hw] at habort
    exact habort
  have hcore : (s.modAt n ended).coreAt n = ended (s.coreAt n) := by rw [coreAt_modAt, if_pos rfl]
  rw [State.endOn]
  dsimp only
  split
  · refine released ?_
    split <;> simp only [coreAt_unask, coreAt_modTask] <;> exact hcore
  · split
    · next m _ =>
      refine (released ?_).trans (keepsCore_tryBarrier _ m n)
      split <;> simp only [coreAt_unask, coreAt_modTask] <;> exact hcore
    · refine released ?_
      split <;> simp only [coreAt_unask, coreAt_modTask] <;> exact hcore

theorem taskDrainEnd_spec {s : State} {n : Nat} (hn : n < 512) (hs : (s.coreAt n).spent = true)
    (hp : (s.coreAt n).ctl.pendingBanks = 0) :
    ∃ u, exec (.taskDrainEnd n) s = .next u ∧ (u.coreAt n).ctl.run = .idle ∧ (u.coreAt n).vault = (s.coreAt n).vault ∧
      (u.coreAt n).regs = (s.coreAt n).regs := by
  obtain ⟨hrun, hregs, hvault⟩ := endOn_keeps hp
  refine ⟨s.endOn n, ?_, hrun, hvault, hregs⟩
  simp only [exec, execTaskDrainEnd, if_neg (Nat.not_le.mpr hn), hs, if_true]

/-! ### The end of a group (R206, R260, R316) -/

/-- What a walk that faults has set before it does is in memory alone (R341). -/
theorem memOnly_pieces_error {s t : State} {asid : Nat} {w : Bool} {fuel va n : Nat} {c : Cause} {v : Nat}
    (h : s.pieces asid w fuel va n = .error (c, v, t)) : CycleProofs.memOnly s t := by
  induction fuel generalizing s va n with
  | zero =>
    cases n with
    | zero => rw [State.pieces] at h; cases h
    | succ n => simp only [State.pieces, Except.error.injEq, Prod.mk.injEq] at h; exact h.2.2 ▸ .refl s
  | succ fuel ih =>
    cases n with
    | zero => rw [State.pieces] at h; cases h
    | succ n =>
      unfold State.pieces at h
      cases htr : s.translate asid va w with
      | error c' =>
        simp only [htr] at h
        cases h
        exact .refl _
      | ok r =>
        obtain ⟨p, s'⟩ := r
        simp only [htr] at h
        split at h
        · next hp => cases h; exact (CycleProofs.memOnly_translate htr).trans (ih hp)
        · cases h

/-- A state with the cores and the scheduler of another. -/
def sameSched (s t : State) : Prop := CycleProofs.sameCores s t ∧ t.dev.sched = s.dev.sched

theorem sameSched.trans {r s t : State} (h : sameSched r s) (k : sameSched s t) : sameSched r t :=
  ⟨h.1.trans k.1, k.2.trans h.2⟩

theorem sameSched_of_memOnly {s t : State} (h : CycleProofs.memOnly s t) : sameSched s t := by
  obtain ⟨m, rfl⟩ := h
  exact ⟨⟨rfl, rfl, rfl, rfl⟩, rfl⟩

theorem sameSched_flatWrite (s : State) (d t : Nat) (l : List (Nat × Nat)) (bs : List Byte) : sameSched s (s.flatWrite d t l bs) := by
  induction l generalizing s bs with
  | nil => exact ⟨⟨rfl, rfl, rfl, rfl⟩, rfl⟩
  | cons p l ih =>
    rw [State.flatWrite]
    refine .trans ⟨⟨rfl, rfl, rfl, rfl⟩, ?_⟩ (ih _ _)
    rfl

theorem signalSource_sched (s : State) (n : Nat) : (s.signalSource n).dev.sched = s.dev.sched := by
  rw [State.signalSource]
  split
  · rfl
  · rw [State.signal]; split <;> rfl

theorem sameSched_record (s : State) (src seqAt : Nat) (bytes : List Byte) : sameSched s (s.record src seqAt bytes) := by
  refine ⟨CycleProofs.sameCores_record s src seqAt bytes, ?_⟩
  rw [State.record]
  dsimp only
  split
  · rw [signalSource_sched]; rfl
  · rfl

theorem sameSched_writeDone (s : State) (g : Group) : sameSched s (s.writeDone g) := by
  rw [State.writeDone]
  split
  · exact ⟨⟨rfl, rfl, rfl, rfl⟩, rfl⟩
  split
  · next h => exact (sameSched_of_memOnly (CycleProofs.memOnly_range h)).trans (sameSched_flatWrite _ _ _ _ _)
  · next h => exact (sameSched_of_memOnly (memOnly_pieces_error h)).trans (sameSched_record _ _ _ _)

/-- Frames that are freed keep what memory and its buffers hold. -/
theorem bytes_foldl_free (l : List Nat) (m : MemSys) (d a n : Nat) :
    (l.foldl (fun m a => { m.free a 65536 with guarded := m.guarded.set false (a / 65536) false }) m).bytes d false a n =
      m.bytes d false a n := by
  induction l generalizing m with
  | nil => rfl
  | cons x l ih => rw [List.foldl_cons, ih]; rfl

theorem freeVersions_bytes (s : State) (d a n : Nat) : s.freeVersions.dev.sys.bytes d false a n = s.dev.sys.bytes d false a n :=
  bytes_foldl_free _ _ d a n

/-- A write that reaches no present tile is what its die then reads there. -/
theorem bytes_flatWrite_one (s : State) {d a : Nat} {bs : List Byte} (hp : isPeer a = false) (hm : s.marksAt a bs.length = []) :
    (s.flatWrite d 0 [(a, bs.length)] bs).dev.sys.bytes d false a bs.length = bs := by
  have hw : (s.flatWrite d 0 [(a, bs.length)] bs).dev.sys = s.dev.sys.write d 0 a bs [] := by
    simp only [State.flatWrite, State.sys, List.take_length, hm]
  rw [hw, MemSys.bytes]
  refine List.ext_getElem (by simp) fun i hi hbs => ?_
  rw [List.getElem_map, List.getElem_range,
    CycleProofs.byte_write CycleProofs.inOrder_plainWrite_nil hp (by simp [CycleProofs.besideTiles]), CycleProofs.written_inside hbs]

theorem doneWrite_of_done {s : State} {id : Nat} {g : Group} (hg : s.group? id = some g) (hd : s.groupDone g = true) :
    exec (.doneWrite id) s = .next ((s.writeDone g).sched fun d =>
      { d with groups := d.groups.filter (·.id != g.id), queued := d.queued.filter (·.2 != g.id) }).freeVersions := by
  simp only [exec, execDoneWrite, hg, hd, if_true]

theorem doneWrite_spec {s : State} {id : Nat} {g : Group} (hg : s.group? id = some g) (hd : s.groupDone g = true) :
    ∃ u, exec (.doneWrite id) s = .next u ∧ u.dev.sched.groups = s.dev.sched.groups.filter (fun x => x.id != g.id) ∧
      u.dev.sched.queued = s.dev.sched.queued.filter (fun x => x.2 != g.id) ∧ (∀ k, u.coreAt k = s.coreAt k) ∧
      ∀ a s', g.done ≠ 0 → s.range g.asid.toNat true g.done 8 = .ok ([(a, 8)], s') → isPeer a = false → s'.marksAt a 8 = [] →
        u.dev.sys.bytes (dieOf g.core) false a 8 = leBytes 8 g.dval.toNat := by
  obtain ⟨hcores, hsched⟩ := sameSched_writeDone s g
  have hlen : (leBytes 8 g.dval.toNat).length = 8 := leBytes_length _ _
  refine ⟨_, doneWrite_of_done hg hd, ?_, ?_, fun k => hcores.coreAt k, fun a s' h0 hr hp hm => ?_⟩
  · exact congrArg (fun d => d.groups.filter fun x => x.id != g.id) hsched
  · exact congrArg (fun d => d.queued.filter fun x => x.2 != g.id) hsched
  · have hw : s.writeDone g = s'.flatWrite (dieOf g.core) 0 [(a, 8)] (leBytes 8 g.dval.toNat) := by
      simp only [State.writeDone, if_neg h0, hr]
    have hb := bytes_flatWrite_one (d := dieOf g.core) s' hp (by rwa [hlen])
    rw [hlen, ← hw] at hb
    exact (freeVersions_bytes _ _ _ _).trans hb

end Sys2Proof.ControlProofs

open Sys2Proof.ControlProofs

/-- Settles O38. What a turn of a die's scheduler and a step of pre-emption change is computed field by field; a chunk's members start one
after another, and no bank that is handed over for one changes what another has found or where the tasks stand. -/
theorem schedulingSteps : Obligations.SchedulingSteps := by
  unfold Obligations.SchedulingSteps
  intro s
  refine ⟨fun die hdie hpick hserved => ?_, fun die _ h => schedulerCycle_of_turned h, fun die u hdie => schedulerCycle_once hdie,
    fun die lvl q t hdie hturn hserved hpick => ?_, fun die lvl q g b o kn hdie hturn hserved hpick hg hr ho hk => ?_,
    fun id t ht hm => ?_, fun id t ht hm => preemptionSave_spec ht hm, fun id t n c ht hs hc he hb hh hp hd => ?_,
    fun n hn hs hp => taskDrainEnd_spec hn hs hp, fun id g hg hd => doneWrite_spec hg hd⟩
  · by_cases hturn : s.dev.sched.turned.get 0 die = s.cycle + 1
    · exact ⟨s, schedulerCycle_of_turned hturn, rfl, rfl, rfl, fun _ => rfl⟩
    · refine ⟨_, schedulerCycle_schedules hdie hturn hserved, ?_⟩
      rw [State.schedule, hpick]
      exact ⟨rfl, rfl, rfl, fun _ => rfl⟩
  · refine ⟨_, schedulerCycle_schedules hdie hturn hserved, ?_⟩
    rw [State.schedule, hpick]
    exact ⟨Table.get_set_same _ _ _ _, rfl, fun _ => rfl⟩
  · obtain ⟨⟨x, hx, hplace⟩, hin, hout, hptr⟩ := startTask_spec
      (s := s.sched fun d => { d with ptr := d.ptr.set 0 (8 * die + lvl) ((q + 1) % 64) }) b hg hr ho hk
    simp only [ControlProofs.place, newTask, Prod.mk.injEq] at hplace
    obtain ⟨hid, hgroup, hbase, hsize, hfirst, hcnt, hstate⟩ := hplace
    refine ⟨_, x, schedulerCycle_schedules hdie hturn hserved, ?_⟩
    rw [State.schedule, hpick]
    refine ⟨?_, hx, hid, hgroup, hbase, hsize, hstate, hfirst, hcnt, fun i hi => ?_, hout⟩
    · exact (congrArg (fun p => Table.get 0 p (8 * die + lvl)) hptr).trans (Table.get_set_same _ _ _ _)
    · rw [hid, hfirst, hcnt]
      exact (hin i hi).finds
  · refine ⟨_, preemptRequest_of_may ht hm, fun n hn => ?_, fun n hn => ?_, ?_⟩
    · rw [request_coreAt, if_pos hn]; exact ⟨rfl, rfl⟩
    · rw [request_coreAt, if_neg hn]
    · rw [request_dev]; rfl
  · exact ⟨taskResume_of_unusable ht hs hc he, taskResume_spec ht hs hc he hb hh hp hd⟩
end


section
/-!
PROOFS. How a word of an engine completes where its task stands on its core and none of the core's banks is another task's (R192, R193,
R202, R260).
-/
open Host (Outcome)
open Sys2Proof Sys2Proof.Machine Sys2Proof.Claims Sys2Proof.CoreProofs Sys2Proof.NumberProofs Sys2Proof.CycleProofs

namespace Sys2Proof.ControlProofs

/-- A vault with a command's outputs stored in their order. -/
def stores (v : Memory) (out : List (Nat × List Byte)) : Memory := out.foldl (fun v w => v.store w.1 w.2) v

theorem stores_append (v : Memory) (out more : List (Nat × List Byte)) :
    stores v (out ++ more) = stores (stores v out) more := List.foldl_append

/-- A core with outputs stored, and what the stores note beside the vault. -/
def withStores (out : List (Nat × List Byte)) (undo : List (Nat × Nat × Byte)) (poison : Table Bool) (c : Core) : Core :=
  { c with vault := stores c.vault out, undo := undo, poison := poison }

/-- A core with an engine's flags joined, and the record of the cycle in which they have. -/
def withFlags (f : Nat) (fresh : Nat × Nat) (c : Core) : Core :=
  { c with ctl := { c.ctl with fpflags := c.ctl.fpflags ||| BitVec.ofNat 64 f, fresh := fresh } }

/-- A core with its completion counters replaced. -/
def withCounters (k : Table Word32) (c : Core) : Core := { c with regs := { c.regs with k := k } }

/-- The status word that a command at `at_` leaves in its block (R192). -/
def statusOf (at_ : Nat) (d : Done) : Nat × List Byte := (at_ + 56, leBytes 8 (statusWord d.code d.res))

/-- A core on which the word `e` of a command at `at_` has completed with `d`: its outputs and its status word stand in the vault, its
flags have joined, and it has left the port. -/
def completed (e : GEntry) (at_ : Nat) (d : Done) (undo : List (Nat × Nat × Byte)) (poison : Table Bool) (fresh : Nat × Nat)
    (k : Table Word32) (c : Core) : Core :=
  withoutWord e (withCounters k (withFlags d.flags fresh (withStores (d.out ++ [statusOf at_ d]) undo poison c)))

/-- The task of the word `e` runs on the current core `n`, and holds all that stands in its vault. -/
structure atHome (u : State) (n : Nat) (e : GEntry) : Prop where
  cur : u.cur = n
  task : u.core.ctl.task = e.task
  run : u.core.ctl.run = .running
  retained : u.core.retained = []
  saved : ∀ b, u.savedBank n e.task b = none
  settled : u.core.ctl.pendingBanks = 0

namespace atHome
variable {u : State} {n : Nat} {e : GEntry}

/-- A change that keeps task, banks and the scheduler keeps this. -/
theorem mod (h : atHome u n e) {f : Core → Core} (hctl : (f u.core).ctl = u.core.ctl) (hret : (f u.core).retained = u.core.retained) :
    atHome (u.mod f) n e :=
  ⟨h.cur, by rw [← h.task, ← hctl]; rfl, by rw [← h.run, ← hctl]; rfl, by rw [← h.retained, ← hret]; rfl, h.saved,
    by rw [← h.settled, ← hctl]; rfl⟩

theorem onCore (h : atHome u n e) : u.onCore? n e.task = true := by
  rw [← h.cur, State.onCore?, coreAt_cur, Core.holds, h.task, h.run]; simp

theorem writeOut (h : atHome u n e) (out : List (Nat × List Byte)) : ∃ q p, u.writeOut e out = u.mod (withStores out q p) := by
  induction out generalizing u with
  | nil => exact ⟨u.core.undo, u.core.poison, rfl⟩
  | cons w out ih =>
    obtain ⟨q, p, hw⟩ := engineWrite_own h.cur h.task h.retained h.saved w.1 w.2
    obtain ⟨q', p', hout⟩ := ih (h.mod (f := stored w.1 w.2 q p) rfl rfl)
    refine ⟨q', p', ?_⟩
    rw [State.writeOut, List.foldl_cons, h.cur, hw]
    exact hout

theorem joinTaskFlags (h : atHome u n e) (f : Nat) : ∃ fresh, u.joinTaskFlags e f = u.mod (withFlags f fresh) := by
  rw [State.joinTaskFlags]
  split
  · next h0 => exact ⟨u.core.ctl.fresh, by rw [h0]; simp [State.mod, withFlags]⟩
  · rw [if_pos (by rw [h.cur, h.onCore]; rfl), modOwner_current h.task]
    exact ⟨_, rfl⟩

end atHome

/-- An increment changes no more of the current core than its counters, and nothing of memory (R193). -/
theorem increment_core (u : State) (m kc t : Nat) :
    (u.increment m kc t).cur = u.cur ∧ (u.increment m kc t).dev.sys = u.dev.sys ∧
      ∃ k, (u.increment m kc t).core = withCounters k u.core := by
  rw [State.increment]
  split
  · rw [State.modAt, State.setCore]
    split
    · next h => subst h; rw [coreAt_cur]; exact ⟨rfl, rfl, _, rfl⟩
    · exact ⟨rfl, rfl, u.core.regs.k, rfl⟩
  split
  · exact ⟨rfl, rfl, u.core.regs.k, rfl⟩
  · exact ⟨rfl, rfl, u.core.regs.k, rfl⟩

/-- Where its task stands, an increment adds 1 to the counter (R193). -/
theorem increment_own {u : State} {t : Nat} (ht : u.core.ctl.task = t) (hr : u.core.ctl.run = .running) (kc : Nat) :
    u.increment u.cur kc t = u.mod (withCounters (u.core.regs.k.set 0 kc (u.core.kAt kc + 1))) := by
  have hon : u.onCore? u.cur t = true := by rw [State.onCore?, coreAt_cur, Core.holds, ht, hr]; simp
  rw [State.increment, if_pos hon, State.modAt, State.setCore, if_pos rfl, coreAt_cur]; rfl

theorem atHome.increment {u : State} {n : Nat} {e : GEntry} (h : atHome u n e) (kc : Nat) :
    u.increment n kc e.task = u.mod (withCounters (u.core.regs.k.set 0 kc (u.core.kAt kc + 1))) := by
  have hinc := increment_own h.task h.run kc
  rwa [h.cur] at hinc

/-- The current core `n` of `v` is that of `u` once the command `e` at `at_` has completed there with `d`, its counter with it where that
is on the core; memory is as it was. -/
def completes (u v : State) (n : Nat) (e : GEntry) (at_ : Nat) (d : Done) : Prop :=
  v.cur = n ∧ v.dev.sys = u.dev.sys ∧ ∃ q p fresh k, v.core = completed e at_ d q p fresh k u.core ∧
    (e.kcore = n → k = u.core.regs.k.set 0 e.kc (u.core.kAt e.kc + 1))

section
variable {u : State} {n : Nat} {e : GEntry}

/-- What a command writes before its counter is served. -/
theorem atHome.writesStatus (h : atHome u n e) (at_ : Nat) (d : Done) :
    let w := (u.writeOut e d.out).joinTaskFlags e d.flags
    ∃ q p fresh, w.engineWrite w.cur e.task (statusOf at_ d).1 (statusOf at_ d).2 =
      u.mod fun c => withFlags d.flags fresh (withStores (d.out ++ [statusOf at_ d]) q p c) := by
  obtain ⟨q, p, hout⟩ := h.writeOut d.out
  have hout' : atHome (u.mod (withStores d.out q p)) n e := h.mod rfl rfl
  obtain ⟨fresh, hflags⟩ := hout'.joinTaskFlags d.flags
  have hflags' : atHome ((u.mod (withStores d.out q p)).mod (withFlags d.flags fresh)) n e := ⟨h.cur, h.task, h.run, h.retained, h.saved,
    h.settled⟩
  obtain ⟨q', p', hst⟩ := engineWrite_own hflags'.cur hflags'.task hflags'.retained hflags'.saved (statusOf at_ d).1 (statusOf at_ d).2
  refine ⟨q', p', fresh, ?_⟩
  rw [hout, hflags, hflags'.cur, hst]
  simp only [State.mod, withFlags, withStores, stored, stores_append]
  rfl

/-- The counter of a served command is incremented, and the command leaves the port. -/
theorem retire_increment (hs : u.core.ctl.pendingBanks = 0) (ha : e.acquire = false) :
    (((u.increment e.kcore e.kc e.task).forget e).retire e).cur = u.cur ∧
      (((u.increment e.kcore e.kc e.task).forget e).retire e).dev.sys = u.dev.sys ∧
      (((u.increment e.kcore e.kc e.task).forget e).retire e).core = withoutWord e (u.increment e.kcore e.kc e.task).core := by
  obtain ⟨hcur, hsys, k, hcore⟩ := increment_core u e.kcore e.kc e.task
  obtain ⟨f, hf⟩ := retire_eq (u := (u.increment e.kcore e.kc e.task).forget e) (e := e)
    (by rw [State.forget]; dsimp only; rw [hcore]; exact hs) ha
  rw [hf]
  exact ⟨hcur, hsys, rfl⟩

/-- A command whose task stands on its core completes there. -/
theorem atHome.finishCommand (h : atHome u n e) (ha : e.acquire = false) {k : CmdKind} {at_ : Nat} {b : BitVec 512}
    (hop : e.op = .cmd k at_ b) (d : Done) : completes u (u.finishCommand e d) n e at_ d := by
  obtain ⟨q, p, fresh, hw⟩ := h.writesStatus at_ d
  have hw' : atHome (u.mod fun c => withFlags d.flags fresh (withStores (d.out ++ [statusOf at_ d]) q p c)) n e :=
    ⟨h.cur, h.task, h.run, h.retained, h.saved, h.settled⟩
  have hfin : u.finishCommand e d = (((u.mod fun c => withFlags d.flags fresh (withStores (d.out ++ [statusOf at_ d]) q p c)).increment
      e.kcore e.kc e.task).forget e).retire e := by
    rw [← hw, State.finishCommand, hop]
    rfl
  obtain ⟨hcur, hsys, hcore⟩ := retire_increment hw'.settled ha
  rw [hfin]
  obtain ⟨-, -, k, hk⟩ := increment_core (u.mod fun c => withFlags d.flags fresh (withStores (d.out ++ [statusOf at_ d]) q p c))
    e.kcore e.kc e.task
  refine ⟨hcur.trans h.cur, hsys, q, p, fresh, k, ?_, fun hkc => ?_⟩
  · rw [hcore, hk]; rfl
  · have hinc := hw'.increment e.kc
    rw [hkc, hinc] at hk
    exact (congrArg (·.regs.k) hk).symm

/-- A word that has been replaced leaves the port with it. -/
theorem filter_updated (l : List GEntry) {z : GEntry} (ho : z.order = e.order) (ht : z.task = e.task) :
    (l.map fun x => if x.same e then z else x).filter (fun x => !x.same z) = l.filter fun x => !x.same e := by
  have hsame (x : GEntry) : x.same z = x.same e := by rw [GEntry.same, GEntry.same, ho, ht]
  induction l with
  | nil => rfl
  | cons x l ih =>
    have hz : z.same e = true := by rw [GEntry.same, ho, ht]; simp
    simp only [hsame] at ih
    cases hx : x.same e <;> simp [hsame, hx, hz, ih]

/-- What completes for a word that has been replaced has completed for the word. -/
theorem completes_of_updated {v : State} {z : GEntry} {at_ : Nat} {d : Done} (ho : z.order = e.order) (ht : z.task = e.task)
    (hkc : z.kcore = e.kcore) (hc : z.kc = e.kc) (h : completes (u.updateEntry z) v n z at_ d) : completes u v n e at_ d := by
  obtain ⟨hcur, hsys, q, p, fresh, k, hcore, hk⟩ := h
  refine ⟨hcur, hsys, q, p, fresh, k, ?_, by rw [← hkc, ← hc]; exact hk⟩
  have hsame (x : GEntry) : x.same z = x.same e := by rw [GEntry.same, GEntry.same, ho, ht]
  have hport := filter_updated (e := e) u.core.port ho ht
  rw [hcore]
  simp only [completed, withoutWord, withCounters, withFlags, withStores, State.updateEntry, State.mod, Core.mk.injEq, true_and, and_true]
  simp only [hsame] at hport ⊢
  exact hport

theorem atHome.settleCommand (h : atHome u n e) (ha : e.acquire = false) (hw : wideScope e.scope = false) {k : CmdKind} {at_ : Nat}
    {b : BitVec 512} (hop : e.op = .cmd k at_ b) (d : Done) : completes u (u.settleCommand e d) n e at_ d := by
  have hfin : u.settleCommand e d = (u.updateEntry { e with finished := some d, faulted := none }).finishCommand
      { e with finished := some d, faulted := none } d := by
    rw [State.settleCommand, State.tryFinish]; simp only [hw, Bool.false_and, Bool.false_eq_true, if_false]
  have h' : atHome (u.updateEntry { e with finished := some d, faulted := none }) n { e with finished := some d, faulted := none } :=
    ⟨h.cur, h.task, h.run, h.retained, h.saved, h.settled⟩
  rw [hfin]
  have hdone := h'.finishCommand ha hop d
  exact completes_of_updated (e := e) (z := { e with finished := some d, faulted := none }) rfl rfl rfl rfl hdone

/-- The one word of the port that is `e` is found there. -/
theorem current_eq (h : ∀ f ∈ u.core.port, f.same e = true → f = e) : u.current e = e := by
  rw [State.current]
  cases hf : u.core.port.find? (·.same e) with
  | none => rfl
  | some f => exact h f (List.mem_of_find?_eq_some hf) (by simpa using List.find?_some hf)

/-- Where a word of the port has been replaced, its replacement is found. -/
theorem current_updated {z : GEntry} (he : e ∈ u.core.port) (hz : z.same e = true) : (u.updateEntry z).current e = z := by
  have hzs (x : GEntry) (h : x.same z = true) : x.same e = true := by
    simp only [GEntry.same, Bool.and_eq_true, beq_iff_eq] at h hz ⊢
    exact ⟨h.1.trans hz.1, h.2.trans hz.2⟩
  have hez : e.same z = true := by
    simp only [GEntry.same, Bool.and_eq_true, beq_iff_eq] at hz ⊢
    exact ⟨hz.1.symm, hz.2.symm⟩
  rw [State.current]
  cases hf : (u.updateEntry z).core.port.find? (·.same e) with
  | none =>
    have hin : z ∈ (u.updateEntry z).core.port := List.mem_map.mpr ⟨e, he, if_pos hez⟩
    exact absurd hz (List.find?_eq_none.mp hf z hin)
  | some f =>
    have hsame : f.same e = true := by simpa using List.find?_some hf
    obtain ⟨x, -, hx⟩ := List.mem_map.mp (List.mem_of_find?_eq_some hf)
    split at hx
    · exact hx.symm
    · next hn =>
      subst hx
      refine absurd ?_ hn
      simp only [GEntry.same, Bool.and_eq_true, beq_iff_eq] at hsame hez ⊢
      exact ⟨hsame.1.trans hez.1, hsame.2.trans hez.2⟩

/-- What a completed command leaves beside its status word. -/
theorem completes.read {v : State} {at_ : Nat} {d : Done} (h : completes u v n e at_ d) {a : Nat} (ha : besideStatus at_ a) :
    v.core.vault.read a = (stores u.core.vault d.out).read a := by
  obtain ⟨-, -, q, p, fresh, k, hcore, -⟩ := h
  have hlen : (leBytes 8 (statusWord d.code d.res)).length = 8 := leBytes_length _ _
  rw [hcore, show (completed e at_ d q p fresh k u.core).vault = stores u.core.vault (d.out ++ [statusOf at_ d]) from rfl, stores_append]
  refine Memory.read_store_other _ _ _ _ ?_
  rw [statusOf, hlen]
  unfold besideStatus at ha
  omega

theorem completes.status {v : State} {at_ : Nat} {d : Done} (h : completes u v n e at_ d) :
    v.core.vault.num (at_ + 56) 8 = statusWord d.code d.res % 2 ^ 64 := by
  obtain ⟨-, -, q, p, fresh, k, hcore, -⟩ := h
  rw [hcore, show (completed e at_ d q p fresh k u.core).vault = stores u.core.vault (d.out ++ [statusOf at_ d]) from rfl, stores_append]
  exact Memory.num_setNum _ _ _ _

theorem completes.flags {v : State} {at_ : Nat} {d : Done} (h : completes u v n e at_ d) :
    v.core.ctl.fpflags = u.core.ctl.fpflags ||| BitVec.ofNat 64 d.flags := by
  obtain ⟨-, -, q, p, fresh, k, hcore, -⟩ := h
  rw [hcore]; rfl

theorem completes.counter {v : State} {at_ : Nat} {d : Done} (h : completes u v n e at_ d) (hk : e.kcore = n) (j : Nat) :
    v.core.kAt j = if j = e.kc then u.core.kAt e.kc + 1 else u.core.kAt j := by
  obtain ⟨-, -, q, p, fresh, k, hcore, hkc⟩ := h
  rw [hcore, Core.kAt, show (completed e at_ d q p fresh k u.core).regs.k = k from rfl, hkc hk, Table.get_set]
  rfl

theorem completes.served {s t v : State} {at_ : Nat} {d : Done} (h : completes u v n e at_ d) (hk : e.kcore = n)
    (ht : t.coreAt n = v.core) (hport : u.core.port = (s.coreAt n).port) (hregs : u.core.regs.k = (s.coreAt n).regs.k) :
    servedWith s t n e at_ (statusWord d.code d.res) := by
  refine ⟨by rw [ht, h.status], ?_, ?_⟩
  · rw [ht, h.counter hk, if_pos rfl, Core.kAt, hregs, ← Core.kAt]
  · obtain ⟨-, -, q, p, fresh, k, hcore, -⟩ := h
    rw [ht, hcore, ← hport]; rfl

end

/-! ### Words of the port that complete (R192, R193) -/

section
variable {s : State} {n ix : Nat} {e : GEntry}

/-- The task of the word runs on core `n`, and no bank of the core is pending, retained or saved. -/
theorem atHome_of_core (hset : settled s n) (ht : e.task = (s.coreAt n).ctl.task) (hr : (s.coreAt n).ctl.run = .running)
    (hret : (s.coreAt n).retained = []) (hsv : ∀ j, (s.turnTo n).savedBank n e.task j = none) : atHome (s.turnTo n) n e :=
  ⟨turnTo_cur s n, by rw [turnTo_core, ht], by rw [turnTo_core, hr], by rw [turnTo_core, hret], hsv, by rw [turnTo_core]; exact hset⟩

theorem tryFinish_of_done {u : State} {d : Done} (hf : e.finished = some d) (hw : wideScope e.scope = false) :
    u.tryFinish e = u.finishCommand e d := by
  rw [State.tryFinish, hf]; simp only [hw, Bool.false_and, Bool.false_eq_true, if_false]

/-- The step of the word that completes a command whose work is done. -/
theorem completion_of_finished (hn : n < 512) (hport : (s.coreAt n).port[ix]? = some e) {k : CmdKind} {at_ : Nat} {b : BitVec 512} {d : Done}
    (hop : e.op = .cmd k at_ b) (hf : e.finished = some d) (hw : wideScope e.scope = false) :
    exec (if k = .launch then .launchAccept n ix else .engineCommandCompletion n ix) s = .next (s.on n (·.finishCommand e d)) := by
  have hfs : e.finished.isSome = true := by rw [hf]; rfl
  split
  · next hk =>
    subst hk
    refine (onCore_of_lt _ s hn).trans (congrArg Outcome.next (on_congr ?_))
    simp only [turnTo_core, hport, hop, hfs, if_true, tryFinish_of_done hf hw]
  · refine (onCore_of_lt _ s hn).trans (congrArg Outcome.next (on_congr ?_))
    simp only [turnTo_core, hport, hfs, if_true, tryFinish_of_done hf hw]

variable (hn : n < 512) (hport : (s.coreAt n).port[ix]? = some e) (h : atHome (s.turnTo n) n e) (ha : e.acquire = false)
include hn hport h ha

/-- A command without output completes: only its status word is new in the vault. -/
theorem finished_completes {k : CmdKind} {at_ : Nat} {b : BitVec 512} {d : Nat} (hop : e.op = .cmd k at_ b)
    (hf : e.finished = some ⟨d, 0, [], 0⟩) (hw : wideScope e.scope = false) (hk : e.kcore = n) :
    ∃ t, exec (if k = .launch then .launchAccept n ix else .engineCommandCompletion n ix) s = .next t ∧
      (t.coreAt n).vault.num (at_ + 56) 8 = d % 2 ^ 64 ∧
      (∀ a, a < at_ + 56 ∨ at_ + 64 ≤ a → (t.coreAt n).vault.read a = (s.coreAt n).vault.read a) ∧
      (t.coreAt n).kAt e.kc = (s.coreAt n).kAt e.kc + 1 ∧ (∀ j, j ≠ e.kc → (t.coreAt n).kAt j = (s.coreAt n).kAt j) ∧
      (t.coreAt n).regs.g = (s.coreAt n).regs.g ∧ (t.coreAt n).port = (s.coreAt n).port.filter (fun y => !y.same e) := by
  have hfin := h.finishCommand ha hop ⟨d, 0, [], 0⟩
  refine ⟨_, completion_of_finished hn hport hop hf hw, ?_⟩
  rw [coreAt_on, coreAt_of_cur hfin.1, ← turnTo_core s n]
  refine ⟨?_, fun a hb => hfin.read hb, ?_, fun j hj => ?_, ?_⟩
  · rw [hfin.status]; simp [statusWord]
  · rw [hfin.counter hk, if_pos rfl]
  · rw [hfin.counter hk, if_neg hj]
  · obtain ⟨-, -, q, p, fresh, k', hcore, -⟩ := hfin
    rw [hcore]
    exact ⟨rfl, rfl⟩

/-- A command with one output completes: the output stands in the vault but where its status word does, and its flags have joined. -/
theorem output_completes {k : CmdKind} {at_ : Nat} {b : BitVec 512} {code res a fl : Nat} {bs : List Byte} (hop : e.op = .cmd k at_ b)
    (hf : e.finished = some ⟨code, res, [(a, bs)], fl⟩) (hw : wideScope e.scope = false) (hk : k ≠ .launch) :
    ∃ t, exec (.engineCommandCompletion n ix) s = .next t ∧
      (∀ i (h : i < bs.length), (a + i < at_ + 56 ∨ at_ + 64 ≤ a + i) → (t.coreAt n).vault.read (a + i) = bs[i]) ∧
      (t.coreAt n).ctl.fpflags = (s.coreAt n).ctl.fpflags ||| BitVec.ofNat 64 fl ∧
      (t.coreAt n).vault.num (at_ + 56) 8 = (code + 256 * (res % 2 ^ 56)) % 2 ^ 64 := by
  have hfin := h.finishCommand ha hop ⟨code, res, [(a, bs)], fl⟩
  have hstep := completion_of_finished hn hport hop hf hw
  rw [if_neg hk] at hstep
  refine ⟨_, hstep, ?_⟩
  rw [coreAt_on, coreAt_of_cur hfin.1, ← turnTo_core s n]
  refine ⟨fun i hi hb => ?_, hfin.flags, hfin.status⟩
  rw [hfin.read hb]
  exact Memory.read_store_same _ _ _ _ hi

end

/-! ### ICINV (R93, R207) -/

/-- A table with its values changed reads the changed values. -/
theorem get_map_values {α : Type} (d : α) {f : α → α} (hd : f d = d) (t : Table α) (k : Nat) :
    Table.get d (t.map fun x => (x.1, f x.2)) k = f (Table.get d t k) := by
  induction t with
  | nil => exact hd.symm
  | cons x t ih =>
    rw [List.map_cons, Table.get_cons, Table.get_cons, ih]
    split <;> rfl

section
variable {gone : Nat → Bool} {a : Nat} (hg : gone (64 * a) = true)
include hg

/-- A target buffer without the lines that are gone. -/
def keptLines (gone : Nat → Bool) (b : Target) : Target := { b with code := b.code.filter fun e => !gone (64 * e.1) }

/-- What a core has dropped from its target buffers it has no line of. -/
theorem dropLines_lacks (c : Core) : (c.dropLines gone).seq.stream.get none a = none ∧
    ∀ k b, (c.dropLines gone).seq.tb.get none k = some b → b.code.get none a = none := by
  have keep (t : Table (Option (BitVec 512))) : Table.get none (t.filter fun e => !gone (64 * e.1)) a = none :=
    Table.get_filter_out _ _ _ _ fun v => by simp only [hg, Bool.not_true]
  refine ⟨keep _, fun k b hb => ?_⟩
  have hmap : (c.dropLines gone).seq.tb.get none k =
      (c.seq.tb.get none k).map (keptLines gone) := get_map_values none (f := Option.map (keptLines gone)) rfl _ k
  rw [hmap] at hb
  obtain ⟨b', -, rfl⟩ := Option.map_eq_some_iff.mp hb
  exact keep _

end

/-- The lines that an ICINV of a range discards (R207). -/
def discarded (s : State) (va len a : Nat) : Bool := len == 0 || s.codeMapped va len a

theorem coreAt_discardCode (s : State) (va len m : Nat) :
    (s.discardCode va len).coreAt m = (s.coreAt m).dropLines (discarded s va len) := by
  rw [State.coreAt, State.coreAt, show (s.discardCode va len).cur = s.cur from rfl]
  split
  · rfl
  · exact get_map_values Core.blank (f := (·.dropLines (discarded s va len))) rfl s.others m

section
variable {s : State} {n ix va len : Nat} {e : GEntry}

/-- An ICINV is served once what it discards is gone from every core (R93, R207). -/
theorem icinv_completes (hn : n < 512) (hport : (s.coreAt n).port[ix]? = some e) (hset : settled s n) (hop : e.op = .icinv va len)
    (hf : e.finished = none) (hfl : e.faulted = none) (ha : e.acquire = false) (hk : e.kcore = n) (ht : e.task = (s.coreAt n).ctl.task)
    (hr : (s.coreAt n).ctl.run = .running) (ho : (s.turnTo n).wordOrdered e = true) :
    ∃ t, exec (.engineCommandCompletion n ix) s = .next t ∧
      (t.coreAt n).kAt e.kc = (s.coreAt n).kAt e.kc + 1 ∧ (t.coreAt n).vault = (s.coreAt n).vault ∧
      (t.coreAt n).port = (s.coreAt n).port.filter (fun y => !y.same e) ∧
      (∀ m a, m < 512 → a % 4 = 0 → a < hbmEnd → (len = 0 ∨ s.codeMapped va len (64 * (a / 64)) = true) →
        t.dev.sys.codeBytes m a = s.dev.sys.homeBytes a 4 ∧ (t.coreAt m).seq.stream.get none (a / 64) = none ∧
        ∀ k b, (t.coreAt m).seq.tb.get none k = some b → b.code.get none (a / 64) = none) := by
  have hstep : exec (.engineCommandCompletion n ix) s =
      .next (s.on n fun u => ((u.discardCode va len).increment e.kcore e.kc e.task).retire e) := by
    refine (onCore_of_lt _ s hn).trans (congrArg Outcome.next (on_congr ?_))
    simp only [turnTo_core, hport, hf, hfl, hop, ho, Option.isSome_none, Bool.false_eq_true, if_false, if_true]
  have hD (m : Nat) : ((s.turnTo n).discardCode va len).coreAt m = (s.coreAt m).dropLines (discarded (s.turnTo n) va len) := by
    rw [coreAt_discardCode, coreAt_turnTo]
  have hcur : ((s.turnTo n).discardCode va len).cur = n := turnTo_cur s n
  have hcore : ((s.turnTo n).discardCode va len).core = (s.coreAt n).dropLines (discarded (s.turnTo n) va len) := by
    rw [← hD n, coreAt_of_cur hcur]
  generalize hDg : (s.turnTo n).discardCode va len = D at hD hcur hcore
  have hinc := increment_own (u := D) (t := e.task) (by rw [hcore, ht]; rfl) (by rw [hcore, ← hr]; rfl) e.kc
  rw [hcur, ← hk] at hinc
  obtain ⟨f, hf⟩ := retire_eq (u := D.increment e.kcore e.kc e.task) (e := e) (by rw [hinc, State.mod]; dsimp only; rw [hcore]; exact hset) ha
  rw [hinc] at hf
  have hlast (m : Nat) : ((s.on n fun u => ((u.discardCode va len).increment e.kcore e.kc e.task).retire e)).coreAt m =
      if m = n then withoutWord e (withCounters (D.core.regs.k.set 0 e.kc (D.core.kAt e.kc + 1)) D.core) else D.coreAt m := by
    rw [coreAt_on, hDg, hinc, hf, coreAt_sched, coreAt_mod, State.mod_cur, hcur]
    split
    · rfl
    · next hm => rw [coreAt_mod, hcur, if_neg hm]
  have hseq (m : Nat) : ((s.on n fun u => ((u.discardCode va len).increment e.kcore e.kc e.task).retire e).coreAt m).seq =
      ((s.coreAt m).dropLines (discarded (s.turnTo n) va len)).seq := by
    rw [hlast, ← hD m]
    split
    · next hm => rw [hm, coreAt_of_cur hcur]; rfl
    · rfl
  refine ⟨_, hstep, ?_, ?_, ?_, fun m a _ _ ha hgone => ?_⟩
  · rw [hlast, if_pos rfl, hcore, Core.kAt]
    exact Table.get_set_same _ _ _ _
  · rw [hlast, if_pos rfl, hcore]; rfl
  · rw [hlast, if_pos rfl, hcore]; rfl
  · have hgone' : len = 0 ∨ (s.turnTo n).codeMapped va len (64 * (a / 64)) = true := by
      rwa [State.codeMapped, turnTo_dev]
    refine ⟨?_, ?_⟩
    · rw [on_dev, hDg, hinc, hf, State.sched_dev_sys, State.mod_dev, State.mod_dev, ← hDg,
        State.discardCode_codeBytes _ _ _ _ _ (ha.trans (by decide)) hgone', turnTo_dev]
    · rw [hseq]
      refine dropLines_lacks ?_ _
      rw [discarded, Bool.or_eq_true, beq_iff_eq]
      exact hgone'

end

/-! ### LAUNCH (R206, R296) -/

/-- The groups and their queues are the same in two states. -/
def sameQueues (s t : State) : Prop :=
  t.dev.sched.groups = s.dev.sched.groups ∧ t.dev.sched.queued = s.dev.sched.queued ∧ t.dev.sched.nextGroup = s.dev.sched.nextGroup

namespace sameQueues
variable {r s t : State}

theorem refl (s : State) : sameQueues s s := ⟨rfl, rfl, rfl⟩

theorem trans (h : sameQueues r s) (k : sameQueues s t) : sameQueues r t := by
  obtain ⟨h1, h2, h3⟩ := h
  obtain ⟨k1, k2, k3⟩ := k
  exact ⟨k1.trans h1, k2.trans h2, k3.trans h3⟩

theorem foldl {α : Type} {f : State → α → State} (hf : ∀ s x, sameQueues s (f s x)) (l : List α) (s : State) :
    sameQueues s (l.foldl f s) := by
  induction l generalizing s with
  | nil => exact refl s
  | cons x l ih => exact (hf s x).trans (ih _)

theorem modAt (s : State) (n : Nat) (f : Core → Core) : sameQueues s (s.modAt n f) := by
  rw [sameQueues, modAt_dev]; exact ⟨rfl, rfl, rfl⟩

theorem modTask (s : State) (id : Nat) (f : Task → Task) : sameQueues s (s.modTask id f) := refl s

theorem modOwner (s : State) (n t : Nat) (f : Core → Core) : sameQueues s (s.modOwner n t f) := by
  rw [State.modOwner]
  split
  · exact modAt s n f
  · exact refl s

theorem saveBank (by_ n : Nat) (s : State) (k : Nat) : sameQueues s (State.saveBank by_ n s k) := by
  have fill (s : State) (id : Nat) : sameQueues s (s.fillSaveArea id) := by
    rw [State.fillSaveArea]
    split
    · exact refl s
    · dsimp only; split <;> exact refl s
  rw [State.saveBank]
  split
  · exact refl s
  split
  · exact refl s
  · exact ((modTask s _ _).trans (modAt _ _ _)).trans (fill _ _)

theorem bankWrite (s : State) (n t a : Nat) (bs : List Byte) : sameQueues s (s.bankWrite n t a bs) := by
  rw [State.bankWrite]
  split
  · exact refl s
  split
  · exact refl s
  · exact (foldl (saveBank t n) _ s).trans (modAt _ _ _)

theorem engineWrite (s : State) (n t a : Nat) (bs : List Byte) : sameQueues s (s.engineWrite n t a bs) := by
  have noted : sameQueues s (s.noteUndo n t a bs.length) := by
    rw [State.noteUndo]
    split
    · exact refl s
    · exact modOwner s n t _
  rw [State.engineWrite]
  split
  · exact refl s
  dsimp only
  split
  · exact noted.trans (foldl (fun u k => bankWrite u n t _ _) _ _)
  · exact noted.trans ((foldl (saveBank t n) _ _).trans (modAt _ _ _))

theorem increment (s : State) (n kc t : Nat) : sameQueues s (s.increment n kc t) := by
  rw [State.increment]
  split
  · exact modAt s n _
  · split <;> exact refl s

theorem grantBank (n : Nat) (s : State) (k : Nat) : sameQueues s (State.grantBank n s k) := by
  rw [State.grantBank]
  refine trans ?_ (modAt _ _ _)
  split
  · exact modAt s n _
  · exact foldl (fun u e => modAt u n _) _ s

theorem retire (s : State) (e : GEntry) : sameQueues s (s.retire e) := by
  have released (u : State) (n : Nat) : sameQueues u (u.releaseEnded n) := by
    rw [State.releaseEnded]
    exact trans ⟨rfl, rfl, rfl⟩ (foldl (grantBank n) _ _)
  rw [State.retire]
  refine trans ?_ (released _ _)
  split <;> exact ⟨rfl, rfl, rfl⟩

theorem joinTaskFlags (s : State) (e : GEntry) (f : Nat) : sameQueues s (s.joinTaskFlags e f) := by
  rw [State.joinTaskFlags]
  split
  · exact refl s
  split
  · exact modOwner s _ _ _
  · exact refl s

theorem finishCommand (s : State) (e : GEntry) (d : Done) : sameQueues s (s.finishCommand e d) := by
  have hout : sameQueues s ((s.writeOut e d.out).joinTaskFlags e d.flags) :=
    (foldl (fun u w => engineWrite u _ _ _ _) _ s).trans (joinTaskFlags _ _ _)
  have served (u : State) : sameQueues u (((u.increment e.kcore e.kc e.task).forget e).retire e) :=
    (increment u _ _ _).trans (trans (refl _) (retire _ e))
  rw [State.finishCommand]
  refine trans ?_ (served _)
  split
  · exact hout.trans (engineWrite _ _ _ _ _)
  · exact hout

theorem updateEntry (s : State) (e : GEntry) : sameQueues s (s.updateEntry e) := refl s

theorem settleCommand (s : State) (e : GEntry) (d : Done) : sameQueues s (s.settleCommand e d) := by
  rw [State.settleCommand, State.tryFinish]
  dsimp only
  split
  · exact updateEntry s _
  · exact (updateEntry s _).trans (finishCommand _ _ _)

end sameQueues

section
variable {s : State} {n ix : Nat} {e : GEntry} {at_ k : Nat} {b : BitVec 512} {o : Obj} {p : List Byte}

/-- A LAUNCH of a loaded kernel of an address space that its core may name enters its queues (R206, R296). -/
theorem launch_accepts (hn : n < 512) (hport : (s.coreAt n).port[ix]? = some e) (hop : e.op = .cmd .launch at_ b) (hf : e.finished = none)
    (hbad : e.bad = false) (hrdy : (s.turnTo n).cmdReady e = true)
    (hker : (s.turnTo n).kernelAt (blkField b 44 2) (blkField b 0 8) = some (o, k))
    (hname : (s.turnTo n).mayName n (blkField b 44 2) = true) (hroom : (s.turnTo n).queueRoom b = true)
    (htlm : blkField b 33 1 = 0) (hpar : (s.turnTo n).engineVault e (blkField b 36 4) (blkField b 34 2) = .ok p) :
    exec (.launchAccept n ix) s = .next (s.on n fun u =>
      (u.enqueue { u.newGroup e b o k p [] with core := n }).settleCommand e (Done.plain 0 e.anyRes)) := by
  refine (onCore_of_lt _ s hn).trans (congrArg Outcome.next (on_congr ?_))
  simp only [turnTo_core, hport, hop, hf, hrdy, hbad, State.launch, hker, turnTo_cur, hname, hroom, htlm, hpar, Option.isSome_none,
    Bool.not_true, Bool.false_eq_true, if_false, if_true]

/-- What an accepted LAUNCH leaves: its group, and the group's places in the queues (R206, R296). -/
theorem launch_spec (hn : n < 512) (hport : (s.coreAt n).port[ix]? = some e) (hop : e.op = .cmd .launch at_ b) (hf : e.finished = none)
    (hbad : e.bad = false) (hrdy : (s.turnTo n).cmdReady e = true)
    (hker : (s.turnTo n).kernelAt (blkField b 44 2) (blkField b 0 8) = some (o, k))
    (hname : (s.turnTo n).mayName n (blkField b 44 2) = true) (hroom : (s.turnTo n).queueRoom b = true)
    (htlm : blkField b 33 1 = 0) (hpar : (s.turnTo n).engineVault e (blkField b 36 4) (blkField b 34 2) = .ok p) :
    ∃ t g, exec (.launchAccept n ix) s = .next t ∧ t.dev.sched.groups = s.dev.sched.groups ++ [g] ∧
      t.dev.sched.queued = s.dev.sched.queued ++ ((List.range 4).filter (bitOf (blkField b 32 1))).map (fun d =>
        (64 * d + blkField b 31 1, s.dev.sched.nextGroup)) ∧
      t.dev.sched.nextGroup = (s.dev.sched.nextGroup + 1) % 2 ^ 32 ∧ g.id = s.dev.sched.nextGroup ∧
      g.kent = blkField b 0 8 ∧ g.done = blkField b 8 8 ∧ g.count = blkField b 24 4 ∧ g.remaining = blkField b 24 4 ∧
      g.minch = blkField b 28 2 ∧ g.size = 2 ^ blkField b 30 1 ∧ g.tenants = 0 ∧ g.params = p ∧ g.core = n := by
  obtain ⟨hgroups, hqueued, hnext⟩ := sameQueues.settleCommand
    ((s.turnTo n).enqueue { (s.turnTo n).newGroup e b o k p [] with core := n }) e (Done.plain 0 e.anyRes)
  have hdev : (s.turnTo n).dev.sched = s.dev.sched := by rw [turnTo_dev]
  refine ⟨_, { (s.turnTo n).newGroup e b o k p [] with core := n },
    launch_accepts hn hport hop hf hbad hrdy hker hname hroom htlm hpar, ?_, ?_, ?_, congrArg (·.nextGroup) hdev, rfl, rfl, rfl, rfl, rfl,
    rfl, ?_, rfl, rfl⟩
  · rw [on_dev, hgroups, ← hdev]; rfl
  · rw [on_dev, hqueued, ← hdev]; rfl
  · rw [on_dev, hnext, ← hdev]; rfl
  · exact congrArg (BitVec.ofNat 7) htlm

end

/-! ### Fault service (R193, R345) -/

/-- Steps that each keep the current core keep it all together. -/
theorem cur_foldl {α : Type} {f : State → α → State} (hf : ∀ s x, (f s x).cur = s.cur) (l : List α) (s : State) :
    (l.foldl f s).cur = s.cur := by
  induction l generalizing s with
  | nil => rfl
  | cons x l ih => rw [List.foldl_cons, ih, hf]

section
variable {s t : State}

theorem takeFrame_cur {n tier a : Nat} (h : s.takeFrame n tier = some (a, t)) : t.cur = s.cur := by
  rw [State.takeFrame, State.takeRun] at h
  split at h
  · cases h
  · cases h; rfl

theorem unmapFlat_cur (s : State) (a n : Nat) : (s.unmapFlat a n).cur = s.cur := by
  refine cur_foldl (fun u x => ?_) _ _
  split
  · rfl
  · refine cur_foldl (fun v l => ?_) _ _
    dsimp only
    split <;> rfl

theorem record_cur (s : State) (src seqAt : Nat) (bytes : List Byte) : (s.record src seqAt bytes).cur = s.cur := by
  obtain ⟨-, -, hcur, -⟩ := sameCores_record s src seqAt bytes
  exact hcur

theorem endReads_cur (s : State) (l : List (Nat × Nat)) : (s.endReads l).cur = s.cur := by
  rw [State.endReads]
  split
  · rfl
  split
  · exact record_cur _ _ _ _
  · rfl

theorem checkPage_cur (s : State) (x : TileEntry) (a : Nat) (data : List Byte) : (s.checkPage x a data).cur = s.cur := by
  rw [State.checkPage]
  split
  · rfl
  dsimp only
  split
  · rfl
  · exact record_cur _ _ _ _

theorem moveTile_cur (s : State) (x : TileEntry) (a tier : Nat) : (s.moveTile x (some a) tier).cur = s.cur := by
  unfold State.moveTile
  extract_lets was u v bits m y data w
  have hu : u.cur = s.cur := by
    unfold u
    split
    · rw [unmapFlat_cur, State.sys_cur]
    · rfl
  have hv : v.cur = u.cur := by
    unfold v
    split
    · rw [State.sys_cur]
    · rfl
  have hw : w.cur = v.cur := by
    unfold w
    rw [checkPage_cur, State.setEntry, State.sys_cur, State.sys_cur]
  split
  · rw [State.sys_cur, endReads_cur, hw, hv, hu]
  · rw [hw, hv, hu]

theorem promote_cur {x : TileEntry} (h : s.promote x = some t) : t.cur = s.cur := by
  rw [State.promote] at h
  split at h
  · cases h
  · next hf => cases h; rw [moveTile_cur, takeFrame_cur hf]

theorem placePage_cur {at_ pte size tier : Nat} (h : s.placePage at_ pte size tier = some t) : t.cur = s.cur := by
  rw [State.placePage] at h
  split at h
  · cases h
  · next hf =>
    cases h
    rw [State.sys_cur, takeFrame_cur hf]

theorem of_cur {r : Option State} (hr : ∀ u, r = some u → u.cur = s.cur) (h : Served.of r = .done t) : t.cur = s.cur := by
  cases r with
  | none => cases h
  | some u => cases h; exact hr t rfl

theorem placeSomewhere_cur {at_ pte size tier : Nat} (h : s.placeSomewhere at_ pte size tier = .done t) : t.cur = s.cur := by
  refine of_cur (fun u hu => ?_) h
  obtain ⟨k, -, hk⟩ := List.exists_of_findSome?_eq_some hu
  exact placePage_cur hk

theorem ensureTable_cur {at_ a : Nat} (h : s.ensureTable at_ = .ok (a, t)) : t.cur = s.cur := by
  rw [State.ensureTable] at h
  dsimp only at h
  split at h
  · split at h
    · cases h
    · cases h; rfl
  · split at h
    · cases h
    · next hf =>
      cases h
      rw [State.sys_cur, takeFrame_cur hf]

theorem leafPlace_cur {l0 va a : Nat} (h : s.leafPlace l0 va = .ok (a, t)) : t.cur = s.cur := by
  simp only [State.leafPlace, bind_eq_ok] at h
  obtain ⟨⟨t1, s1⟩, h1, ⟨t2, s2⟩, h2, ⟨t3, s3⟩, h3, h⟩ := h
  cases h
  rw [ensureTable_cur h3, ensureTable_cur h2, ensureTable_cur h1]

/-- Service that lacks a table has not resolved the fault. -/
theorem ensureTable_error {at_ : Nat} {r : Served} (h : s.ensureTable at_ = .error r) : r ≠ .done t := by
  rw [State.ensureTable] at h
  dsimp only at h
  split at h
  · split at h <;> cases h
    exact fun h => nomatch h
  · split at h <;> cases h
    exact fun h => nomatch h

theorem leafPlace_error {l0 va : Nat} {r : Served} (h : s.leafPlace l0 va = .error r) : r ≠ .done t := by
  rw [State.leafPlace] at h
  cases h1 : s.ensureTable (l0 + 8 * (va / 2 ^ 55 % 4)) with
  | error r1 => rw [h1] at h; cases h; exact ensureTable_error h1
  | ok x1 =>
    rw [h1] at h
    cases h2 : x1.2.ensureTable (x1.1 + 8 * (va / 2 ^ 42 % 8192)) with
    | error r2 => simp only [bind, Except.bind, h2] at h; cases h; exact ensureTable_error h2
    | ok x2 =>
      cases h3 : x2.2.ensureTable (x2.1 + 8 * (va / 2 ^ 29 % 8192)) with
      | error r3 => simp only [bind, Except.bind, h2, h3] at h; cases h; exact ensureTable_error h3
      | ok x3 => simp only [bind, Except.bind, h2, h3] at h; cases h

theorem touchPage_cur {l0 va tier : Nat} (h : s.touchPage l0 va tier = .done t) : t.cur = s.cur := by
  rw [State.touchPage] at h
  split at h
  · next hl =>
    rw [placeSomewhere_cur h, State.sys_cur, leafPlace_cur hl]
  · next hl => exact absurd h (leafPlace_error hl)

theorem serveFlat_cur {asid va tier : Nat} (h : s.serveFlat asid va tier = .done t) : t.cur = s.cur := by
  rw [State.serveFlat] at h
  split at h
  · cases h
  split at h
  · cases h; rfl
  split at h
  · split at h
    · exact touchPage_cur h
    · cases h
  split at h
  · split at h
    · cases h
    · exact placeSomewhere_cur h
  split at h
  · exact touchPage_cur h
  · cases h

theorem serveTile_cur {asid tid tile : Nat} (h : s.serveTile asid tid tile = .done t) : t.cur = s.cur := by
  rw [State.serveTile] at h
  split at h
  · split at h
    · cases h; rfl
    split at h
    · cases h
    split at h
    · exact of_cur (fun u hu => promote_cur hu) h
    · cases h
  · cases h

theorem promoteCode_cur {o : Obj} {va pa : Nat} (h : s.promoteCode o va pa = some t) : t.cur = s.cur := by
  have changed (u : State) (f : Nat → Nat) : (u.changePte o.asid va f).cur = u.cur := by
    rw [State.changePte]; split <;> rfl
  rw [State.promoteCode] at h
  simp only [bind, Option.bind_eq_some_iff] at h
  obtain ⟨⟨a, u⟩, hf, h⟩ := h
  cases h
  have hcur := takeFrame_cur hf
  exact (changed _ _).trans ((endReads_cur _ _).trans hcur)

theorem serveFetch_cur {object version va : Nat} {lit : Bool} (h : s.serveFetch object version lit va = .done t) : t.cur = s.cur := by
  rw [State.serveFetch] at h
  split at h
  · cases h
  split at h
  · cases h
  split at h
  · cases h
  split at h
  · cases h; rfl
  split at h
  · exact of_cur (fun u hu => promoteCode_cur hu) h
  · cases h

/-- Service that resolves a fault acts for the core it was asked for. -/
theorem serve_cur {asid object version tier : Nat} {i : TrapInfo} (h : s.serve asid object version i tier = .done t) : t.cur = s.cur := by
  rw [State.serve] at h
  split at h
  · split at h
    · exact serveTile_cur h
    · exact serveFlat_cur h
  · exact serveFetch_cur h
  · cases h

end

/-- A fault that service resolves lets its word try again (R193). -/
theorem resolution_retries {s : State} {n ix : Nat} {e : GEntry} (hn : n < 512) (hport : (s.coreAt n).port[ix]? = some e) {i : TrapInfo}
    {s' : State} {tier : BitVec 2} (hf : e.faulted = some i) (he : (s.turnTo n).engineFault e = true)
    (hs : (s.turnTo n).serve e.asid 0 0 i tier.toNat = .done s') :
    ∃ t, exec (.engineFaultResolution n ix tier) s = .next t ∧ t.dev = s'.dev ∧
      (t.coreAt n).port = s'.core.port.map (fun y => if y.same e then { e with faulted := none } else y) ∧
      (t.coreAt n).regs = s'.core.regs ∧ (t.coreAt n).vault = s'.core.vault := by
  have hstep : exec (.engineFaultResolution n ix tier) s = .next (s.on n (·.resolveWord e i tier.toNat)) := by
    refine (onCore_of_lt _ s hn).trans (congrArg Outcome.next (on_congr ?_))
    simp only [turnTo_core, hport, hf, he, if_true]
  have hres : (s.turnTo n).resolveWord e i tier.toNat = s'.updateEntry { e with faulted := none } := by
    simp only [State.resolveWord, hs]
  have hcur : (s'.updateEntry { e with faulted := none }).cur = n := (serve_cur hs).trans (turnTo_cur s n)
  refine ⟨_, hstep, ?_⟩
  rw [on_dev, coreAt_on, hres, coreAt_of_cur hcur]
  exact ⟨rfl, rfl, rfl, rfl⟩

/-- How words of the port complete, and how launches and resolved faults go on. -/
theorem commandCompletions_holds : commandCompletions := by
  intro n ix s c e hn hc hset hport
  subst hc
  refine ⟨fun k at_ b d hop hf hw ha hk ht hr hret hsv => ?_, fun k at_ b code res a bs fl hop hf hw ha ht hr hret hsv hk => ?_,
    fun va len hop hf hfl ha hk ht hr ho => icinv_completes hn hport hset hop hf hfl ha hk ht hr ho,
    fun at_ b o k p hop hf hbad hrdy hker hname hroom htlm hpar =>
      launch_spec hn hport hop hf hbad hrdy hker hname hroom htlm hpar,
    fun i s' tier hf he hs => resolution_retries hn hport hf he hs⟩
  · exact finished_completes hn hport (atHome_of_core hset ht hr hret hsv) ha hop hf hw hk
  · exact output_completes hn hport (atHome_of_core hset ht hr hret hsv) ha hop hf hw hk

end Sys2Proof.ControlProofs
end


section
/-!
PROOFS. CPY within a page (R197): what one step copies, and the command served with it.
-/
open Host (Outcome)
open Sys2Proof Sys2Proof.Machine Sys2Proof.Claims Sys2Proof.CoreProofs Sys2Proof.NumberProofs Sys2Proof.CycleProofs

namespace Sys2Proof.ControlProofs

/-! ### Commands that are ready (R192) -/

section
variable {s : State} {n ix : Nat} {c : Core} {e : GEntry} {k : CmdKind} {at_ : Nat} {b : BitVec 512}

theorem atHome_of_ready (h : readyCommand s n ix c e k at_ b) : atHome (s.turnTo n) n e := by
  obtain ⟨-, rfl, hset, -, -, -, -, -, -, -, -, -, -, -, ht, hr, hret, hsv, -⟩ := h
  exact atHome_of_core hset ht hr hret hsv

theorem core_of_ready (h : readyCommand s n ix c e k at_ b) : c = s.coreAt n := by
  obtain ⟨-, hc, -⟩ := h
  exact hc

/-- The word of a ready command stands in the port, and no other is the same. -/
theorem word_of_ready (h : readyCommand s n ix c e k at_ b) :
    e ∈ (s.turnTo n).core.port ∧ ∀ f ∈ (s.turnTo n).core.port, f.same e = true → f = e := by
  obtain ⟨-, rfl, -, hport, hone, -⟩ := h
  rw [turnTo_core]
  exact ⟨List.mem_of_getElem? hport, hone⟩

/-- The engine of a ready command does its work. -/
theorem work_of_ready (h : readyCommand s n ix c e k at_ b) (hk : k ≠ .launch) :
    exec (.engineCommandCompletion n ix) s = .next (s.on n (·.work e k b)) := by
  obtain ⟨hn, rfl, -, hport, -, hop, hf, hfl, hbad, -, -, -, -, -, -, -, -, -, hrdy⟩ := h
  refine (onCore_of_lt _ s hn).trans (congrArg Outcome.next (on_congr ?_))
  have hkl : (k == CmdKind.launch) = false := beq_eq_false_iff_ne.mpr hk
  simp only [turnTo_core, hport, hf, hfl, hop, hbad, hrdy, hkl, Option.isSome_none, Bool.not_true, Bool.or_false, Bool.false_eq_true,
    if_false]

/-- A command whose engine has done its work in one step is served. -/
theorem served_of_ready (h : readyCommand s n ix c e k at_ b) (hk : k ≠ .launch) {u v : State} {d : Done}
    (hw : (s.turnTo n).work e k b = v) (hv : completes u v n e at_ d) (hport : u.core.port = c.port) (hregs : u.core.regs.k = c.regs.k) :
    ∃ t, exec (.engineCommandCompletion n ix) s = .next t ∧ servedWith s t n e at_ (statusWord d.code d.res) ∧ t.coreAt n = v.core ∧
      t.dev = v.dev := by
  have hstep := work_of_ready h hk
  obtain ⟨-, rfl, -, -, -, -, -, -, -, -, -, -, -, hkc, -⟩ := h
  have ht : (s.on n (·.work e k b)).coreAt n = v.core := by rw [coreAt_on, hw, coreAt_of_cur hv.1]
  exact ⟨_, hstep, hv.served hkc ht hport hregs, ht, by rw [on_dev, hw]⟩

end

section
variable {u : State} {n : Nat} {e : GEntry}

/-- What a task reads of its vault where no bank of it is saved is what stands there. -/
theorem atHome.engineRead (h : atHome u n e) (a k : Nat) : u.engineRead n e.task a k = u.core.vault.bytes a k := by
  rw [State.engineRead, coreAt_of_cur h.cur]
  simp only [h.saved, Option.isSome_none, List.any_eq_true, Bool.false_eq_true, and_false, exists_false, if_false]

/-- A state with the same core and tasks has the task at home too. -/
theorem atHome.of_same (h : atHome u n e) {v : State} (hcur : v.cur = u.cur) (hcore : v.core = u.core)
    (hsched : v.dev.sched = u.dev.sched) : atHome v n e :=
  ⟨hcur.trans h.cur, by rw [hcore, h.task], by rw [hcore, h.run], by rw [hcore, h.retained],
    fun j => by rw [← h.saved j, State.savedBank, State.savedBank, State.task?, State.task?, hsched], by rw [hcore, h.settled]⟩

/-- A command that has noted how far it has come, and is done. -/
theorem afterWork_progress (h : atHome u n e) (ha : e.acquire = false) (hw : wideScope e.scope = false) {k : CmdKind} {at_ : Nat}
    {b : BitVec 512} (hop : e.op = .cmd k at_ b) (hin : e ∈ u.core.port) (p : List Nat) (d : Done) :
    completes u (afterWork e (.ok (u.updateEntry { e with progress := p }, d))) n e at_ d := by
  have hcurrent : (u.updateEntry { e with progress := p }).current e = { e with progress := p } :=
    current_updated hin (by simp [GEntry.same])
  have h' : atHome (u.updateEntry { e with progress := p }) n { e with progress := p } :=
    ⟨h.cur, h.task, h.run, h.retained, h.saved, h.settled⟩
  have hdone := h'.settleCommand ha hw hop d
  rw [afterWork, hcurrent]
  exact completes_of_updated (e := e) (z := { e with progress := p }) rfl rfl rfl rfl hdone

end

/-! ### One step of a copy (R197) -/

section
variable {u w : State} {e : GEntry} {c : CpyBlock}

/-- A copy that one step brings to its end. -/
theorem copyRun_one (hlen : 0 < c.len) (hstep : u.copyStep e c 0 = .ok (w, c.len)) :
    State.copyRun e c (c.len / 65536 + 2) 0 u = .ok (w, Done.plain 0 c.len) := by
  rw [State.copyRun, if_neg (by omega), hstep]
  show State.copyRun e c (c.len / 65536 + 1) c.len w = _
  rw [State.copyRun, if_pos le_rfl]

variable {v : State} {data : List Byte}

theorem copyStep_toVault (hdk : c.dk = true) (hn : c.step 0 = c.len) (hsrc : u.copySource e c 0 c.len = .ok (data, v)) :
    u.copyStep e c 0 = .ok ((v.engineWrite v.cur e.task c.dst data).updateEntry
      { (v.engineWrite v.cur e.task c.dst data).current e with progress := [c.len] }, c.len) := by
  simp only [State.copyStep, hn, hsrc, hdk, bind, Except.bind, if_true, Nat.add_zero, Nat.zero_add]
  rfl

theorem copyStep_toMemory (hdk : c.dk = false) (hn : c.step 0 = c.len) (hsrc : u.copySource e c 0 c.len = .ok (data, v)) {w : State}
    (hst : v.engineStore e (c.dst % 2 ^ 57) data = .ok w) :
    u.copyStep e c 0 = .ok (w.updateEntry { w.current e with progress := [c.len] }, c.len) := by
  simp only [State.copyStep, hn, hsrc, hdk, bind, Except.bind, Bool.false_eq_true, if_false, Nat.add_zero, Nat.zero_add, hst]
  rfl

end

section
variable {s : State} {n ix : Nat} {c : Core} {e : GEntry} {at_ : Nat} {b : BitVec 512}

/-- A copy that one step brings to its end is served, and what that step has left stands but where the status word does. -/
theorem copied_in_one (h : readyCommand s n ix c e .cpy at_ b) (hrg : (cpyBlock b).rg = false) (hlen : 0 < (cpyBlock b).len) {w : State}
    (hw : atHome w n e) (hport : w.core.port = c.port) (hregs : w.core.regs.k = c.regs.k)
    (hstep : (s.turnTo n).copyStep e (cpyBlock b) 0 =
      .ok (w.updateEntry { w.current e with progress := [(cpyBlock b).len] }, (cpyBlock b).len)) :
    ∃ t, exec (.engineCommandCompletion n ix) s = .next t ∧ servedWith s t n e at_ (256 * ((cpyBlock b).len % 2 ^ 56)) ∧
      (∀ a, besideStatus at_ a → (t.coreAt n).vault.read a = w.core.vault.read a) ∧ t.dev.sys = w.dev.sys := by
  obtain ⟨hin, hone⟩ := word_of_ready h
  have hready := h
  obtain ⟨-, rfl, -, -, -, hop, -, -, -, hprog, -, ha, hsc, -⟩ := h
  rw [turnTo_core, ← hport] at hin hone
  rw [current_eq hone] at hstep
  have hdone := afterWork_progress hw ha hsc hop hin [(cpyBlock b).len] (Done.plain 0 (cpyBlock b).len)
  have hwork : (s.turnTo n).work e .cpy b =
      afterWork e (.ok (w.updateEntry { e with progress := [(cpyBlock b).len] }, Done.plain 0 (cpyBlock b).len)) := by
    have hcopied : e.copied = 0 := by rw [GEntry.copied, hprog]; rfl
    rw [State.work, State.workCpy]
    simp only [hrg, Bool.false_eq_true, if_false, hcopied]
    rw [copyRun_one hlen hstep]
  obtain ⟨t, ht, hserved, hcore, hdev⟩ := served_of_ready hready (by decide) hwork hdone hport hregs
  refine ⟨t, ht, ?_, fun a hb => ?_, ?_⟩
  · rw [statusWord, Done.plain, Nat.zero_add] at hserved
    exact hserved
  · rw [hcore, hdone.read hb]; rfl
  · obtain ⟨-, hsys, -⟩ := hdone
    rw [hdev, hsys]

/-- A copy into the vault, whatever its source has given. -/
theorem copied_toVault (h : readyCommand s n ix c e .cpy at_ b) (hrg : (cpyBlock b).rg = false) (hlen : 0 < (cpyBlock b).len)
    (hdk : (cpyBlock b).dk = true) (hone : (cpyBlock b).step 0 = (cpyBlock b).len) {data : List Byte} {v : State}
    (hsrc : (s.turnTo n).copySource e (cpyBlock b) 0 (cpyBlock b).len = .ok (data, v)) (hdata : data.length = (cpyBlock b).len)
    (hv : v.cur = n ∧ v.core = c ∧ v.dev.sched = s.dev.sched) :
    ∃ t, exec (.engineCommandCompletion n ix) s = .next t ∧ servedWith s t n e at_ (256 * ((cpyBlock b).len % 2 ^ 56)) ∧
      (∀ i < (cpyBlock b).len, besideStatus at_ ((cpyBlock b).dst + i) →
        (t.coreAt n).vault.read ((cpyBlock b).dst + i) = data.getD i 0) ∧
      (∀ a, besideStatus at_ a → (a < (cpyBlock b).dst ∨ (cpyBlock b).dst + (cpyBlock b).len ≤ a) →
        (t.coreAt n).vault.read a = c.vault.read a) := by
  obtain ⟨hcur, hcore, hsched⟩ := hv
  have hc := core_of_ready h
  have hhome : atHome v n e := (atHome_of_ready h).of_same (hcur.trans (turnTo_cur s n).symm)
    (by rw [turnTo_core, ← hc, hcore]) (by rw [turnTo_dev, hsched])
  obtain ⟨q, p, hst⟩ := engineWrite_own hhome.cur hhome.task hhome.retained hhome.saved (cpyBlock b).dst data
  have hstep := copyStep_toVault hdk hone hsrc
  rw [hcur, hst] at hstep
  obtain ⟨t, ht, hserved, hread, -⟩ := copied_in_one h hrg hlen (hhome.mod (f := stored (cpyBlock b).dst data q p) rfl rfl)
    (by rw [State.mod_core, stored_port, hcore]) (by rw [State.mod_core, stored_regs, hcore]) hstep
  refine ⟨t, ht, hserved, fun i hi hb => ?_, fun a hb ha => ?_⟩
  · rw [hread _ hb, State.mod_core, stored_vault, Memory.read_store_same _ _ _ _ (hdata ▸ hi), List.getD_eq_getElem _ _ (hdata ▸ hi)]
  · rw [hread _ hb, State.mod_core, stored_vault, Memory.read_store_other _ _ _ _ (by omega), hcore]

end

/-! ### Where the bytes come from -/

/-- A state that differs from another in its memory system alone. -/
def sysOnly (s t : State) : Prop := ∃ m, t = s.sys fun _ => m

theorem sysOnly.refl (s : State) : sysOnly s s := ⟨s.dev.sys, rfl⟩

theorem sysOnly.trans {r s t : State} (h : sysOnly r s) (k : sysOnly s t) : sysOnly r t := by
  obtain ⟨m, rfl⟩ := h
  obtain ⟨m', rfl⟩ := k
  exact ⟨m', rfl⟩

theorem sysOnly_sys (s : State) (f : MemSys → MemSys) : sysOnly s (s.sys f) := ⟨f s.dev.sys, rfl⟩

theorem sysOnly_of_memOnly {s t : State} (h : memOnly s t) : sysOnly s t := by
  obtain ⟨m, rfl⟩ := h
  exact sysOnly_sys _ _

theorem sysOnly.keeps {s t : State} (h : sysOnly s t) : t.cur = s.cur ∧ t.core = s.core ∧ t.dev.sched = s.dev.sched := by
  obtain ⟨m, rfl⟩ := h
  exact ⟨rfl, rfl, rfl⟩

section
variable {u v : State} {e : GEntry} {va n : Nat}

theorem memOnly_enginePieces {w : Bool} {l : List (Nat × Nat)} (h : u.enginePieces e w va n = .ok (l, v)) : memOnly u v := by
  rw [State.enginePieces] at h
  split at h
  · next hr => cases h; exact memOnly_range hr
  · cases h

theorem sysOnly_readFor (u : State) (e : GEntry) (l : List (Nat × Nat)) : sysOnly u (u.readFor e l) := by
  rw [State.readFor]
  split
  · exact sysOnly_sys _ _
  · exact .refl u

/-- What an engine reads changes the memory system alone (R257). -/
theorem sysOnly_engineBytes {bs : List Byte} (h : u.engineBytes e va n = .ok (bs, v)) : sysOnly u v := by
  unfold State.engineBytes at h
  split at h
  · cases h
  simp only [bind_eq_ok] at h
  obtain ⟨⟨l, w⟩, hl, h⟩ := h
  split at h
  · cases h
  split at h
  · cases h
  · cases h
    exact (sysOnly_of_memOnly (memOnly_enginePieces hl)).trans ((sysOnly_sys _ _).trans (sysOnly_readFor _ _ _))

/-- A write of a present page that lies in one piece. -/
theorem engineStore_one {bs : List Byte} {a : Nat} (h : u.enginePieces e true va bs.length = .ok ([(a, bs.length)], v)) :
    u.engineStore e va bs = .ok (v.sys fun m => m.write (dieOf v.cur) e.task a bs (v.marksAt a bs.length)) := by
  simp only [State.engineStore, h, bind, Except.bind, State.flatWrite, List.take_length]
  rfl

end

/-- The bytes that a copy takes from its task's vault. -/
theorem copySource_vault {s : State} {n ix : Nat} {c : Core} {e : GEntry} {at_ : Nat} {b : BitVec 512}
    (h : readyCommand s n ix c e .cpy at_ b) {len : Nat} (hsk : (cpyBlock b).sk = true)
    (hp : (s.turnTo n).enginePoisoned n e.task (cpyBlock b).src len = false) :
    (s.turnTo n).copySource e (cpyBlock b) 0 len = .ok (c.vault.bytes (cpyBlock b).src len, s.turnTo n) := by
  have hread := (atHome_of_ready h).engineRead (cpyBlock b).src len
  obtain ⟨-, rfl, -⟩ := h
  rw [turnTo_core] at hread
  rw [State.copySource]
  simp only [hsk, if_true, Nat.add_zero, turnTo_cur, hp, Bool.false_eq_true, if_false, hread]

section
variable {s : State} {n ix : Nat} {c : Core} {e : GEntry} {at_ : Nat} {b : BitVec 512} (h : readyCommand s n ix c e .cpy at_ b)
  {src dst len : Nat} (hlen : 0 < len)
include h hlen

/-- From the vault into the vault. -/
theorem copies_within_vault (hb : cpyBlock b = ⟨src, dst, len, true, true, false⟩) (hpage : src % 65536 + len ≤ 65536)
    (hp : (s.turnTo n).enginePoisoned n e.task src len = false) :
    ∃ t, exec (.engineCommandCompletion n ix) s = .next t ∧ servedWith s t n e at_ (256 * (len % 2 ^ 56)) ∧
      (∀ i < len, besideStatus at_ (dst + i) → (t.coreAt n).vault.read (dst + i) = c.vault.read (src + i)) ∧
      (∀ a, besideStatus at_ a → (a < dst ∨ dst + len ≤ a) → (t.coreAt n).vault.read a = c.vault.read a) := by
  have hc := core_of_ready h
  have hsrc := copySource_vault h (len := len) (by rw [hb]) (by rw [hb]; exact hp)
  have hbytes : (c.vault.bytes src len).length = len := Memory.bytes_length _ _ _
  have hstep : (cpyBlock b).step 0 = (cpyBlock b).len := by
    rw [hb, CpyBlock.step]; simp only [if_true]; omega
  have hcopy := copied_toVault h (by rw [hb]) (by rw [hb]; exact hlen) (by rw [hb]) hstep (by rw [hb] at hsrc ⊢; exact hsrc)
    (by rw [hb]; exact hbytes) ⟨turnTo_cur s n, by rw [turnTo_core, hc], by rw [turnTo_dev]⟩
  rw [hb] at hcopy
  obtain ⟨t, ht, hserved, hin, hout⟩ := hcopy
  refine ⟨t, ht, hserved, fun i hi hbs => ?_, hout⟩
  rw [hin i hi hbs, bytes_eq_map, List.getD_eq_getElem _ _ (by simpa using hi), List.getElem_map, List.getElem_range]

/-- From memory into the vault. -/
theorem copies_from_memory {bs : List Byte} {s' : State} (hb : cpyBlock b = ⟨src, dst, len, false, true, false⟩)
    (hpage : src % 65536 + len ≤ 65536) (hr : (s.turnTo n).engineBytes e (src % 2 ^ 57) len = .ok (bs, s')) (hbs : bs.length = len) :
    ∃ t, exec (.engineCommandCompletion n ix) s = .next t ∧ servedWith s t n e at_ (256 * (len % 2 ^ 56)) ∧
      (∀ i < len, besideStatus at_ (dst + i) → (t.coreAt n).vault.read (dst + i) = bs.getD i 0) ∧
      (∀ a, besideStatus at_ a → (a < dst ∨ dst + len ≤ a) → (t.coreAt n).vault.read a = c.vault.read a) := by
  have hc := core_of_ready h
  obtain ⟨hcur, hcore, hsched⟩ := (sysOnly_engineBytes hr).keeps
  rw [turnTo_cur] at hcur
  rw [turnTo_core, ← hc] at hcore
  rw [turnTo_dev] at hsched
  have hsrc : (s.turnTo n).copySource e (cpyBlock b) 0 len = .ok (bs, s') := by
    rw [State.copySource, hb]
    simp only [Bool.false_eq_true, if_false, Nat.add_zero, hr]
  have hstep : (cpyBlock b).step 0 = (cpyBlock b).len := by
    rw [hb, CpyBlock.step]; simp only [if_true]; omega
  have hcopy := copied_toVault h (by rw [hb]) (by rw [hb]; exact hlen) (by rw [hb]) hstep (by rw [hb] at hsrc ⊢; exact hsrc)
    (by rw [hb]; exact hbs) ⟨hcur, hcore, hsched⟩
  rw [hb] at hcopy
  exact hcopy

/-- From the vault into memory, to one piece that no present tile has bytes in. -/
theorem copies_to_memory {a : Nat} {s' : State} (hb : cpyBlock b = ⟨src, dst, len, true, false, false⟩)
    (hpage : dst % 65536 + len ≤ 65536) (hp : (s.turnTo n).enginePoisoned n e.task src len = false)
    (hpc : (s.turnTo n).enginePieces e true (dst % 2 ^ 57) len = .ok ([(a, len)], s')) (hpeer : isPeer a = false)
    (hm : s'.marksAt a len = []) :
    ∃ t, exec (.engineCommandCompletion n ix) s = .next t ∧ servedWith s t n e at_ (256 * (len % 2 ^ 56)) ∧
      (∀ i < len, seenOn t n (a + i) = c.vault.read (src + i)) ∧
      (∀ b, (b < a ∨ a + len ≤ b) → seenOn t n b = seenOn s' n b) := by
  have hc := core_of_ready h
  obtain ⟨hcur, hcore, hsched⟩ := (memOnly_enginePieces hpc).keeps
  have hbytes : (c.vault.bytes src len).length = len := Memory.bytes_length _ _ _
  have hsrc := copySource_vault h (len := (cpyBlock b).len) (by rw [hb]) (by rw [hb]; exact hp)
  have hstep : (cpyBlock b).step 0 = (cpyBlock b).len := by
    rw [hb, CpyBlock.step]; simp only [Bool.false_eq_true, if_false, Nat.add_zero]; omega
  have hstore := engineStore_one (bs := c.vault.bytes src len) (e := e) (va := dst % 2 ^ 57) (u := s.turnTo n) (by rw [hbytes]; exact hpc)
  rw [hbytes, hm, hcur, turnTo_cur] at hstore
  have hhome : atHome (s'.sys fun m => m.write (dieOf n) e.task a (c.vault.bytes src len) []) n e :=
    (atHome_of_ready h).of_same hcur hcore hsched
  obtain ⟨t, ht, hserved, -, hsys⟩ := copied_in_one h (by rw [hb]) (by rw [hb]; exact hlen) hhome
    ((congrArg (·.port) hcore).trans (by rw [turnTo_core, hc])) ((congrArg (·.regs.k) hcore).trans (by rw [turnTo_core, hc]))
    (copyStep_toMemory (by rw [hb]) hstep hsrc (by rw [hb]; exact hstore))
  rw [hb] at hserved
  have hbyte (x : Nat) : seenOn t n x = written a (c.vault.bytes src len) x (seenOn s' n x) := by
    rw [seenOn, hsys]
    exact byte_write inOrder_plainWrite_nil hpeer (by simp [besideTiles])
  refine ⟨t, ht, hserved, fun i hi => ?_, fun x hx => ?_⟩
  · rw [hbyte, written_inside (hbytes.symm ▸ hi)]
    simp only [bytes_eq_map, List.getElem_map, List.getElem_range]
  · rw [hbyte, written_outside (by rw [hbytes]; exact hx)]

end

theorem copies_holds : copies := by
  intro n ix s c e at_ b src dst len h hlen
  exact ⟨copies_within_vault h hlen, fun bs s' => copies_from_memory h hlen, fun a s' => copies_to_memory h hlen⟩

end Sys2Proof.ControlProofs
end


section
/-!
PROOFS. ASN (R205): the auction's outcome in the vault.
-/
open Host (Outcome)
open Sys2Proof Sys2Proof.Machine Sys2Proof.Claims Sys2Proof.CoreProofs Sys2Proof.NumberProofs Sys2Proof.CycleProofs

namespace Sys2Proof.ControlProofs

/-- The numbers of a list stored end to end are read back one by one. -/
theorem num_store_list {α : Type} (m : Memory) (a w : Nat) (g : α → Nat) (l : List α) (i : Nat) (h : i < l.length) :
    (m.store a (l.flatMap fun x => leBytes w (g x))).num (a + w * i) w = g l[i] % 256 ^ w := by
  have hlist : (List.range l.length).map (fun i => (l[i]?.map g).getD 0) = l.map g :=
    List.ext_getElem (by simp) fun j hj hj' => by
      have hjl : j < l.length := by simpa using hj'
      simp [hjl]
  have hflat : (l.flatMap fun x => leBytes w (g x)) = (List.range l.length).flatMap fun i => leBytes w ((l[i]?.map g).getD 0) := by
    rw [← List.flatMap_map, ← hlist, List.flatMap_map]
  rw [hflat, num_store_numbers m a w _ h, List.getElem?_eq_getElem h]
  rfl

theorem length_flatMap_leBytes {α : Type} (w : Nat) (g : α → Nat) (l : List α) : (l.flatMap fun x => leBytes w (g x)).length = w * l.length := by
  simp [List.length_flatMap, leBytes_length, Nat.mul_comm]

section
variable {s : State} {n ix : Nat} {c : Core} {e : GEntry} {k : CmdKind} {at_ : Nat} {b : BitVec 512}

/-- A command whose engine leaves the machine as it is but for what the command's completion writes. -/
theorem served_at_once (h : readyCommand s n ix c e k at_ b) (hk : k ≠ .launch) {d : Done}
    (hw : (s.turnTo n).work e k b = afterWork e (.ok (s.turnTo n, d))) :
    ∃ t v, exec (.engineCommandCompletion n ix) s = .next t ∧ servedWith s t n e at_ (statusWord d.code d.res) ∧ t.coreAt n = v.core ∧
      t.dev = v.dev ∧ completes (s.turnTo n) v n e at_ d := by
  obtain ⟨-, hone⟩ := word_of_ready h
  have hhome := atHome_of_ready h
  have hc := core_of_ready h
  have hready := h
  obtain ⟨-, -, -, -, -, hop, -, -, -, -, -, ha, hsc, -⟩ := h
  have hdone := hhome.settleCommand ha hsc hop d
  rw [afterWork, current_eq hone] at hw
  obtain ⟨t, ht, hserved, hcore, hdev⟩ :=
    served_of_ready hready hk hw hdone (by rw [turnTo_core, hc]) (by rw [turnTo_core, hc])
  exact ⟨t, _, ht, hserved, hcore, hdev, hdone⟩

end

section
variable {s : State} {n ix : Nat} {c : Core} {e : GEntry} {at_ : Nat} {b : BitVec 512} {tile caps : List Byte} {a : Auction} {short : Bool}

/-- The column of a row as ASN writes it: 0xFFFF where the row has none (R205). -/
def heldColumn (h : Option (Nat × Nat)) : Nat := (h.map (·.1)).getD 0xFFFF

/-- What ASN writes. -/
def auctionDone (b : BitVec 512) (a : Auction) (short : Bool) : Done :=
  ⟨bit short, a.rounds * 2 ^ 24, [(blkField b 8 4, a.held.flatMap fun h => leBytes 2 (heldColumn h)),
    (blkField b 12 4, a.price.flatMap (leBytes 4))], a.flags⟩

theorem work_asn (ht : (s.turnTo n).engineVault e (blkField b 0 4) (256 * blkField b 16 2) = .ok tile)
    (hc : (s.turnTo n).engineVault e (blkField b 4 4) 128 = .ok caps)
    (ha : (auctionOf b tile caps).phases (blkField b 20 4) (blkField b 19 1) ⟨List.replicate (blkField b 18 1) 0, [], [], 0, 0⟩ = (a, short)) :
    (s.turnTo n).work e .asn b = afterWork e (.ok (s.turnTo n, auctionDone b a short)) := by
  rw [State.work, State.workAsn]
  simp only [ht, hc, bind, Except.bind]
  rw [auctionOf] at ha
  rw [ha]
  rfl

variable {u v : State} (hdone : completes u v n e at_ (auctionDone b a short))
  (hapart : blkField b 8 4 + 2 * a.held.length ≤ blkField b 12 4 ∨ blkField b 12 4 + 4 * a.price.length ≤ blkField b 8 4)
include hdone

/-- The rows' columns stand at AS, beside the prices and the status word. -/
theorem asn_columns (hst : blkField b 8 4 + 2 * a.held.length ≤ at_ + 56 ∨ at_ + 64 ≤ blkField b 8 4)
    (hapart : blkField b 8 4 + 2 * a.held.length ≤ blkField b 12 4 ∨ blkField b 12 4 + 4 * a.price.length ≤ blkField b 8 4)
    {r : Nat} (hr : r < a.held.length) : v.core.vault.num (blkField b 8 4 + 2 * r) 2 = heldColumn a.held[r] % 256 ^ 2 := by
  have hlen : (a.price.flatMap (leBytes 4)).length = 4 * a.price.length := length_flatMap_leBytes 4 id a.price
  refine (num_congr fun x hlo hhi => ?_).trans (num_store_list u.core.vault (blkField b 8 4) 2 heldColumn a.held r hr)
  have hx : besideStatus at_ x := by unfold besideStatus; omega
  rw [hdone.read hx]
  exact Memory.read_store_other _ _ _ _ (by rw [hlen]; omega)

/-- The columns' prices stand at PR, beside the status word. -/
theorem asn_prices (hst : blkField b 12 4 + 4 * a.price.length ≤ at_ + 56 ∨ at_ + 64 ≤ blkField b 12 4) {k : Nat}
    (hk : k < a.price.length) : v.core.vault.num (blkField b 12 4 + 4 * k) 4 = a.price[k] % 256 ^ 4 := by
  refine (num_congr fun x hlo hhi => ?_).trans (num_store_list (stores u.core.vault
    [(blkField b 8 4, a.held.flatMap fun h => leBytes 2 (heldColumn h))]) (blkField b 12 4) 4 id a.price k hk)
  have hx : besideStatus at_ x := by unfold besideStatus; omega
  rw [hdone.read hx]
  rfl

theorem asn_flags : v.core.ctl.fpflags = u.core.ctl.fpflags ||| BitVec.ofNat 64 a.flags := by
  rw [hdone.flags, show (auctionDone b a short).flags = a.flags from rfl]

end

theorem assigns_holds : assigns := by
  intro n ix s c e at_ b tile caps a short h htile hcaps hph as_ pr has hpr hapart has' hpr'
  subst has
  subst hpr
  obtain ⟨t, v, ht, hserved, hcore, hdev, hdone⟩ := served_at_once h (by decide) (work_asn htile hcaps hph)
  refine ⟨t, ht, hserved, fun r hr => ?_, fun k hk => ?_, ?_, ?_⟩
  · rw [hcore, asn_columns hdone has' hapart hr, show (256 : Nat) ^ 2 = 2 ^ 16 by norm_num, heldColumn]
  · rw [hcore, asn_prices hdone hpr' hk, show (256 : Nat) ^ 4 = 2 ^ 32 by norm_num]
  · rw [hcore, asn_flags hdone, turnTo_core, ← core_of_ready h]
  · obtain ⟨-, hsys, -⟩ := hdone
    rw [hdev, hsys, turnTo_dev]

end Sys2Proof.ControlProofs
end


section
/-!
PROOFS. The last contribution to a use of BLEND or COLL within the package (R202 to R204).
-/
open Host (Outcome)
open Sys2Proof Sys2Proof.Machine Sys2Proof.Claims Sys2Proof.CoreProofs Sys2Proof.NumberProofs Sys2Proof.CycleProofs

namespace Sys2Proof.ControlProofs

/-! ### The tree of two ranks (R202, R363) -/

section
variable {g : CollSig} {piece : Nat → Nat → Option (List Byte × Nat)} {x y : List Byte}
  (hp : g.p = 2) (hop : g.op ≠ 5) (hx : piece 0 0 = some (x, 0)) (hy : piece 1 1 = some (y, 0))
include hp hop hx hy

/-- Every node above the leaves with rank 0 in it has the combination of the two. -/
theorem treeNode_two (k : Nat) : treeNode g piece (k + 1) 0 = some (combine g x y) := by
  induction k with
  | zero =>
    have hone : ¬ g.p ≤ 1 := by omega
    have hsib : siblings g 1 2 x y = combine g x y := by simp [siblings, hop]
    simp only [treeNode, Nat.mul_zero, hx, Nat.zero_add, Nat.pow_zero, Nat.mul_one, hone, if_false, hy, hsib, Nat.zero_or]
  | succ k ih =>
    have hle : g.p ≤ (2 * 0 + 1) * 2 ^ (k + 1) := by
      rw [hp, Nat.mul_zero, Nat.zero_add, Nat.one_mul, Nat.pow_succ]
      exact Nat.le_mul_of_pos_left 2 (Nat.two_pow_pos k)
    rw [treeNode, Nat.mul_zero, ih]
    exact if_pos hle

theorem treeRoot_two : treeRoot g piece = some (combine g x y) := by
  rw [treeRoot, treeNode_two hp hop hx hy 11]
  simp only [Option.map_some, if_neg hop]

end

/-! ### A use of two that is complete (R203) -/

/-- A use of two participants of this package, rank 0 first. -/
structure complete2 (c : Collective) (g : CollSig) (x y : Contribution) : Prop where
  contribs : c.contribs = [x, y]
  parts : c.parts = []
  sig : c.sig = g
  two : g.p = 2
  alike : x.sig = g ∧ y.sig = g
  ranks : x.rank = 0 ∧ y.rank = 1

namespace complete2
variable {c : Collective} {g : CollSig} {x y : Contribution} (h : complete2 c g x y)
include h

theorem ranks_eq : c.ranks = [0, 1] := by
  simp [Collective.ranks, Collective.singles, h.contribs, h.parts, h.ranks.1, h.ranks.2]

theorem complete : c.complete = true := by
  rw [Collective.complete, Collective.count, h.ranks_eq, h.sig, h.two]
  simp

theorem agrees : c.mismatch = false := by
  rw [Collective.mismatch, h.ranks_eq, h.contribs, h.parts, h.sig]
  simp [h.alike.1, h.alike.2]

theorem not_differs : c.differs = false := by simp [Collective.differs, h.parts]

theorem no_result : c.result = none := by simp [Collective.result, h.parts]

theorem piece_zero : c.piece 0 0 = some (x.bytes, 0) := by
  simp [Collective.piece, h.contribs, h.ranks.1]

theorem piece_one : c.piece 1 1 = some (y.bytes, 0) := by
  simp [Collective.piece, h.contribs, h.ranks.1, h.ranks.2]

/-- What every participant of the use gets. -/
theorem closes (s : State) (hop : g.op ≠ 5) (hd : isSystem c.domain = false) : s.closeUse c = s.finishUse c (doneWith g
    (finalBytes g (combine g x.bytes y.bytes).1).1 ((combine g x.bytes y.bytes).2 ||| (finalBytes g (combine g x.bytes y.bytes).1).2)) := by
  have hroot : treeRoot g c.piece = some (combine g x.bytes y.bytes) := treeRoot_two h.two hop h.piece_zero h.piece_one
  simp only [State.closeUse, h.agrees, Bool.false_eq_true, if_false, h.sig, hroot, hd, State.doneUse, State.keepPast]

/-- Its last contribution closes it, where no participant's task has ended. -/
theorem advances (s : State) (hend : ∀ j ∈ s.dev.sched.tasks, j.ended = []) :
    s.advanceUse c = (s.fabric fun f => f.setUse c (some c)).closeUse c := by
  have hdoom : (s.fabric fun f => f.setUse c (some c)).doomed c = false := by
    rw [State.doomed, List.any_eq_false]
    intro j hj
    rw [hend j hj]; simp
  simp only [State.advanceUse, hdoom, h.not_differs, h.no_result, h.complete, Bool.false_eq_true, if_false, if_true]

/-- The word of the second participant on core `n` is done, the use is over, and its core keeps its registers and its vault. -/
theorem finishes {s : State} {n : Nat} {z : GEntry} (hn : y.core = n) (hk : y.key = z.key) (hx : x.key ≠ z.key)
    (hz : z ∈ (s.coreAt n).port) (hcolls : s.dev.fabric.colls = [c]) (outcome : GEntry → Done) :
    (s.finishUse c outcome).dev.fabric.colls = [] ∧
      ({ z with finished := some (outcome z) } : GEntry) ∈ ((s.finishUse c outcome).coreAt n).port := by
  rw [State.finishUse, h.contribs]
  simp only [List.foldl_cons, List.foldl_nil, modAt_dev]
  constructor
  · simp [State.fabric, Fabric.setUse, hcolls]
  · rw [hn, coreAt_modAt, if_pos rfl, coreAt_modAt]
    refine List.mem_map.mpr ⟨z, ?_, by rw [hk, if_pos rfl]⟩
    rw [coreAt_fabric]
    split
    · next hcore => exact List.mem_map.mpr ⟨z, hcore ▸ hz, if_neg hx.symm⟩
    · exact hz

/-- What every participant gets when its last contribution has come (R203). -/
def outcome2 (g : CollSig) (x y : List Byte) : GEntry → Done :=
  doneWith g (finalBytes g (combine g x y).1).1 ((combine g x y).2 ||| (finalBytes g (combine g x y).1).2)

/-- The second of two contributions ends the use, and its word has the combination. -/
theorem ends {w : State} {n : Nat} {z : GEntry} {u : Collective} (hn : y.core = n) (hk : y.key = z.key) (hx : x.key ≠ z.key)
    (hz : z ∈ (w.coreAt n).port) (hcolls : w.dev.fabric.colls = [u]) (hnum : c.num = u.num) (hop : g.op ≠ 5)
    (hd : isSystem c.domain = false) (hend : ∀ j ∈ w.dev.sched.tasks, j.ended = []) :
    (w.advanceUse c).dev.fabric.colls = [] ∧
      ({ z with finished := some (outcome2 g x.bytes y.bytes z) } : GEntry) ∈ ((w.advanceUse c).coreAt n).port ∧
      keepsCore (w.coreAt n) ((w.advanceUse c).coreAt n) := by
  have hset : (w.fabric fun f => f.setUse c (some c)).dev.fabric.colls = [c] := by
    simp [State.fabric, Fabric.setUse, hcolls, hnum]
  obtain ⟨hnone, hin⟩ := h.finishes (s := w.fabric fun f => f.setUse c (some c)) hn hk hx (by rw [coreAt_fabric]; exact hz) hset
    (outcome2 g x.bytes y.bytes)
  have hkeep := keepsCore_finishUse (w.fabric fun f => f.setUse c (some c)) c (outcome2 g x.bytes y.bytes) n
  rw [coreAt_fabric] at hkeep
  rw [h.advances w hend, h.closes _ hop hd]
  exact ⟨hnone, hin, hkeep⟩

end complete2

/-! ### The contribution (R203) -/

/-- A contribution within the package to a use under way, or to a new one. -/
theorem contribute_joins {s v : State} {e : GEntry} {g : CollSig} {c : Collective} {dom rank : Nat} {y : List Byte}
    (hpay : s.payload e g = .ok y) (hdom : s.domainOf e = dom) (hsys : isSystem dom = false) (hrank : blkField e.block 6 2 = rank)
    (hlate : s.dev.fabric.late.any (·.lacks dom e.tag rank) = false)
    (huse : (s.startNext dom e.tag ownPackage).useFor dom e.tag g = (c, v)) :
    s.contribute e g = (v.updateEntry { e with started := true }).advanceUse
      { c with contribs := c.contribs ++ [⟨(v.updateEntry { e with started := true }).cur, e.key, g, rank, y⟩] } := by
  unfold State.contribute
  split
  · next hr => rw [hpay] at hr; cases hr
  next bytes hb =>
  rw [hpay] at hb
  cases hb
  extract_lets dom' rank' s'
  have hs' : s' = s := if_neg (by rw [show dom' = dom from hdom, hsys]; exact Bool.false_ne_true)
  rw [hs', show dom' = dom from hdom, show rank' = rank from hrank, hlate, huse]
  exact if_neg Bool.false_ne_true

theorem fabric_cur (s : State) (f : Fabric → Fabric) : (s.fabric f).cur = s.cur := rfl

/-- The machine at core `n` as its word `e` joins a use of a domain: the word has begun. -/
def contributing (s : State) (n dom : Nat) (e : GEntry) : State :=
  ((s.turnTo n).startNext dom e.tag ownPackage).updateEntry { e with started := true }

theorem contributing_spec (s : State) (n dom : Nat) {e : GEntry} (hin : e ∈ (s.coreAt n).port) :
    ({ e with started := true } : GEntry) ∈ ((contributing s n dom e).coreAt n).port ∧
      keepsCore (s.coreAt n) ((contributing s n dom e).coreAt n) ∧
      (contributing s n dom e).dev.fabric.colls = s.dev.fabric.colls ∧ (contributing s n dom e).dev.sched = s.dev.sched := by
  have hcur : (contributing s n dom e).cur = n := by
    rw [contributing, State.updateEntry, State.mod_cur, State.startNext, fabric_cur, turnTo_cur]
  rw [coreAt_of_cur hcur, ← turnTo_core s n]
  refine ⟨List.mem_map.mpr ⟨e, by rw [← turnTo_core] at hin; exact hin, if_pos (by simp [GEntry.same])⟩, ⟨rfl, rfl, rfl⟩, ?_, ?_⟩
  · rw [← turnTo_dev s n]; rfl
  · rw [← turnTo_dev s n]; rfl

section
variable {s : State} {n ix : Nat} {c : Core} {e : GEntry} {k : CmdKind} {at_ : Nat} {b : BitVec 512} {g : CollSig} {u : Collective}
  {y : List Byte} (h : readyCommand s n ix c e k at_ b) (hg : e.collSig? = some g) (hcolls : s.dev.fabric.colls = [u])
  (hdom : u.domain = (s.turnTo n).domainOf e) (hsys : isSystem u.domain = false) (htag : u.tag = e.tag) (hsig : u.sig = g)
  (hrank : blkField b 6 2 = 1) (hlate : ∀ v ∈ s.dev.fabric.late, v.lacks u.domain e.tag 1 = false)
  (hpay : (s.turnTo n).payload e g = .ok y)
include h hg hcolls hdom hsys htag hsig hrank hlate hpay

/-- The word of rank 1 joins the use under way. -/
theorem contributes : (s.turnTo n).workCollective e =
    (contributing s n u.domain e).advanceUse
      { u with contribs := u.contribs ++ [⟨n, e.key, g, 1, y⟩] } := by
  obtain ⟨-, -, -, -, -, hop, -, -, -, -, hstarted, -⟩ := h
  have hblock : e.block = b := by rw [GEntry.block, hop]
  have hfab : (s.turnTo n).dev.fabric = s.dev.fabric := by rw [turnTo_dev]
  have hnone : (s.turnTo n).dev.fabric.late.any (·.lacks u.domain e.tag 1) = false := by
    rw [hfab, List.any_eq_false]
    intro v hv
    rw [hlate v hv]; simp
  have huse : ((s.turnTo n).startNext u.domain e.tag ownPackage).useFor u.domain e.tag g =
      (u, (s.turnTo n).startNext u.domain e.tag ownPackage) := by
    have hfind : ((s.turnTo n).startNext u.domain e.tag ownPackage).dev.fabric.colls.find?
        (fun c => c.is u.domain g.blend e.tag) = some u := by
      rw [State.startNext, State.fabric, hfab]
      simp [hcolls, Collective.is, htag, hsig]
    rw [State.useFor, hfind]
  have hjoin := contribute_joins hpay hdom.symm hsys (by rw [hblock, hrank]) hnone huse
  rw [State.updateEntry, State.mod_cur, State.startNext, fabric_cur, turnTo_cur] at hjoin
  rw [State.workCollective, hg, contributing, State.startNext, State.updateEntry, ← hjoin]
  exact if_neg (by rw [hstarted]; exact Bool.false_ne_true)

end

/-- What BLEND and COLL do is the work of the collective's word. -/
theorem work_collective (s : State) (e : GEntry) {k : CmdKind} (b : BitVec 512) (hk : k = .blend ∨ k = .coll) :
    s.work e k b = s.workCollective e := by
  rcases hk with rfl | rfl <;> rfl

theorem merges_holds : merges := by
  intro n ix s c e k at_ b g u x y h hk hg hp hcolls hdom hsys htag hsig hcon hxsig hxrank hxkey hrank hparts hop hlate hend hpay
  have hc := core_of_ready h
  obtain ⟨hin, -⟩ := word_of_ready h
  have hkl : k ≠ .launch := by rintro rfl; simp at hk
  have hcontr := contributes h hg hcolls hdom hsys htag hsig hrank hlate hpay
  have huse : complete2 { u with contribs := u.contribs ++ [⟨n, e.key, g, 1, y⟩] } g x ⟨n, e.key, g, 1, y⟩ :=
    ⟨by rw [hcon]; rfl, hparts, hsig, hp, ⟨hxsig, rfl⟩, ⟨hxrank, rfl⟩⟩
  obtain ⟨hport, hkeep, hsame, hsched⟩ := contributing_spec s n u.domain (e := e) (by rw [← turnTo_core]; exact hin)
  obtain ⟨hnone, hz, hkept⟩ := huse.ends (w := contributing s n u.domain e) (z := { e with started := true }) (u := u) rfl rfl hxkey hport
    (hsame.trans hcolls) rfl hop hsys (by rw [hsched]; exact hend)
  have ht : (s.on n (·.work e k b)).coreAt n = ((s.turnTo n).work e k b).coreAt n := coreAt_on _ _ _ _
  rw [work_collective _ _ _ hk, hcontr] at ht
  obtain ⟨-, hregs, hvault⟩ := hkeep.trans hkept
  rw [← ht] at hz
  refine ⟨_, _, _, work_of_ready h hkl, ?_, hz, rfl, rfl, rfl, fun hb => ?_, rfl, rfl, ?_, ?_⟩
  · rw [on_dev, work_collective _ _ _ hk, hcontr, hnone]
  · exact (if_pos hb).trans hp
  · rw [ht, hvault, hc]
  · rw [ht, hregs, hc]

end Sys2Proof.ControlProofs
end


section
/-!
PROOFS. KAPP to a page of its die that no other sequence shares (R199, R265, R324 to R327).
-/
open Host (Outcome)
open Sys2Proof Sys2Proof.Machine Sys2Proof.Claims Sys2Proof.CoreProofs Sys2Proof.NumberProofs Sys2Proof.CycleProofs

namespace Sys2Proof.ControlProofs

/-! ### The engine's work (R199, R327) -/

/-- The outcome of an append: the generation that the page gets, and which halves were rescaled. -/
def appendDone (gen : Nat) (kr vr : Bool) (flags : Nat) : Done := ⟨0, gen * 2 ^ 24 + (bit kr * 2 + bit vr * 4), [], flags⟩

section
variable {s s' r : State} {e : GEntry} {b : BitVec 512} {spte : Nat} {x : TileEntry} {p : Page} {kr vr : Bool} {ks vs : List Byte}

/-- An append in place: the page is written as one version, and the status has the generation that it gets. -/
theorem workKapp_in_place (hnum : s.engineNum e (blkField b 0 8) 8 = .ok (spte, s'))
    (harr : s'.dev.sys.arriving (dieOf s'.cur) (s'.entryPlace e.asid (fieldOf spte 55 32) (spte % 2 ^ 32)) = false)
    (hlook : s'.lookup e.asid (fieldOf spte 55 32) (spte % 2 ^ 32) = .ok x) (hkv : x.dir.kv = true) (hbit : bitOf x.bits 5 = true)
    (hhere : x.here = true) (hpois : x.poisoned = false) (hcnt : (s'.readPage x).cnt = blkField b 8 1) (href : (s'.readPage x).ref ≤ 1)
    (hr : s'.readFor e [(x.addr, 4096), (x.dir.side x.tile, 512)] = r)
    (hks : r.engineVault e (blkField b 12 4) 512 = .ok ks) (hvs : r.engineVault e (blkField b 16 4) 512 = .ok vs)
    (happ : (s'.readPage x).append (blkField b 8 1) (lanes32 ks) (lanes32 vs) = some (p, kr, vr)) :
    ∃ flags, s.workKapp e b = .ok ((r.writePage x p (r.comparePage x (s'.readPage x))).1,
      appendDone (r.writePage x p (r.comparePage x (s'.readPage x))).2 kr vr flags) := by
  have hshared : (decide (1 < (s'.readPage x).ref) && (r.freshPage x.dir).isNone) = false := by
    rw [decide_eq_false (by omega)]; rfl
  refine ⟨joinFlags (quantiseFlags (lanes32 ks) p.ksc) (quantiseFlags (lanes32 vs) p.vsc), ?_⟩
  simp only [State.workKapp, hnum, bind, Except.bind, pure, Except.pure, harr, hlook, hkv, hbit, hhere, hpois, hcnt, hr, hks, hvs, happ,
    hshared, Bool.not_true, Bool.or_false, Bool.false_eq_true, if_false, ne_eq, not_true_eq_false, if_neg (Nat.not_lt.mpr href), Done.plain, appendDone]

end

/-! ### The entry's new generation (R237, R265) -/

/-- The entry of a page written as one version: its generation is the next, and poison follows the checksum (R265, R325). -/
def rewritten (bits : Nat) (good : Bool) : Nat := if !good then poisonBits (bumpGen bits good) else bumpGen bits good

theorem bumpGen_eq (bits : Nat) (whole : Bool) : ∃ low, low < 2 ^ 52 ∧ bumpGen bits whole = low + (fieldOf bits 63 52 + 1) % 4096 * 2 ^ 52 := by
  refine ⟨_, ?_, rfl⟩
  have hlow : bits % 2 ^ 52 < 2 ^ 52 := Nat.mod_lt _ (by decide)
  split <;> omega

theorem rewritten_eq (bits : Nat) (good : Bool) : ∃ low, low < 2 ^ 52 ∧ rewritten bits good = low + (fieldOf bits 63 52 + 1) % 4096 * 2 ^ 52 := by
  obtain ⟨low, hlow, hb⟩ := bumpGen_eq bits good
  rw [rewritten, hb]
  split
  · rw [poisonBits]
    split
    · exact ⟨low, hlow, rfl⟩
    · next hbit =>
      refine ⟨low + 16, ?_, by omega⟩
      simp only [bitOf, beq_iff_eq] at hbit
      omega
  · exact ⟨low, hlow, rfl⟩

theorem rewritten_gen (bits : Nat) (good : Bool) : rewritten bits good / 2 ^ 52 = (fieldOf bits 63 52 + 1) % 4096 := by
  obtain ⟨low, hlow, hb⟩ := rewritten_eq bits good
  rw [hb]; omega

theorem rewritten_lt (bits : Nat) (good : Bool) : rewritten bits good < 256 ^ 8 := by
  obtain ⟨low, hlow, hb⟩ := rewritten_eq bits good
  have hpow : (256 : Nat) ^ 8 = 2 ^ 64 := by norm_num
  rw [hb, hpow]; omega

theorem fieldOf_rewritten (bits : Nat) (good : Bool) : fieldOf (rewritten bits good) 63 52 = (fieldOf bits 63 52 + 1) % 4096 := by
  rw [fieldOf, rewritten_gen]
  exact Nat.mod_mod _ _

/-! ### The page, its side entry and its tile-table entry at home (R265, R324) -/

/-- The parts of a page written with its side entry, of which REF stays (R265, R324). -/
def pageParts (x : TileEntry) (p : Page) (gen : Nat) : List (Nat × List Byte) :=
  [(x.addr, p.data), (x.dir.side x.tile, (p.sideParts (sgenOf gen)).1), (x.dir.side x.tile + 8, (p.sideParts (sgenOf gen)).2)]

/-- Memory with a page, its side entry, its tile-table entry as `bits`, and SGEN. -/
def withPage (m : Memory) (x : TileEntry) (p : Page) (bits gen : Nat) : Memory :=
  ((stores m (pageParts x p gen)).setNum x.at_ 8 bits).setNum (x.dir.side x.tile + 4) 2 (sgenOf gen)

/-- Parts that reach their homes are stored one after another. -/
theorem reachHomes_mem (l : List (Nat × List Byte)) (k : MemSys) :
    (l.foldl (fun m p => m.reachHome p.1 p.2) k).mem = stores k.mem l := by
  induction l generalizing k with
  | nil => rfl
  | cons p l ih => rw [List.foldl_cons, ih]; rfl

/-- A write of one tile that moves and counts nothing. -/
theorem settle_mem {w : WEntry} {t : TileMark} (k : MemSys) (ht : w.tiles = [t]) (hr : w.refs = []) (hp : w.place = none) :
    (k.settle w).mem = ((w.parts.foldl (fun m p => m.reachHome p.1 p.2) k).bump t).mem := by
  simp only [MemSys.settle, ht, hr, hp, Option.toList_none, List.foldl_nil, List.foldl_cons]

/-- What an accepted write does to its die's copies leaves memory and the writes that wait (R257). -/
theorem updateCopies_keeps (d : Nat) (l : List (Nat × List Byte)) (m : MemSys) :
    let k := l.foldl (fun m p => m.updateCopies d p.1 p.2) m
    k.mem = m.mem ∧ k.wbuf = m.wbuf ∧ k.lag = m.lag := by
  induction l generalizing m with
  | nil => exact ⟨rfl, rfl, rfl⟩
  | cons p l ih => exact ih (m.updateCopies d p.1 p.2)

/-- A write that nothing comes before and that passes is at its home once it is accepted (R256). -/
theorem accept_of_passes {m : MemSys} {w : WEntry} (h : m.inOrder w = m) : ∃ k : MemSys,
    k.mem = m.mem ∧ k.wbuf = m.wbuf ∧ k.lag = m.lag ∧ (k.passes w = true → m.accept w = k.settle w) := by
  have hkeep := updateCopies_keeps w.die w.parts m
  rw [MemSys.accept, h]
  generalize w.parts.foldl (fun (m : MemSys) p => m.updateCopies w.die p.1 p.2) m = c at hkeep ⊢
  obtain ⟨hmem, hbuf, hlag⟩ := hkeep
  exact ⟨{ c with tileCopies := leaveTiles c.tileCopies w.die w.tiles }, hmem, hbuf, hlag, fun hp => if_pos hp⟩

section
variable {m : MemSys} {d : Nat} {x : TileEntry} (hw : m.wbuf = []) (hq : m.hostq = [])
include hw hq

/-- Nothing has to come before a write where no other is on its way. -/
theorem inOrder_of_empty (w : WEntry) : m.inOrder w = m := by
  simp [MemSys.inOrder, hw, hq]

theorem swear_of_empty : m.swear d x = m := by
  rw [MemSys.swear, inOrder_of_empty hw hq, hw, List.map_nil, ← hw]

omit hq in
theorem genSeen_of_empty : m.genSeen d x = m.genAt x % 4096 := by
  simp [MemSys.genSeen, hw]

omit hw hq in
/-- A version of a KV page's tile, of which the page's writer knows the generation, changes its entry and its SGEN (R237, R326). -/
theorem bump_page {k : MemSys} {good : Bool} (hkv : x.dir.kv = true) :
    (k.bump { x.mark good with version := true, poison := !good }).mem =
      (k.mem.setNum x.at_ 8 (rewritten (k.mem.num x.at_ 8) good)).setNum (x.dir.side x.tile + 4) 2
        (sgenOf (fieldOf (rewritten (k.mem.num x.at_ 8) good) 63 52)) := by
  have hsum : x.dir.side x.tile + 4 ≠ 0 := Nat.succ_ne_zero _
  simp only [MemSys.bump, TileEntry.mark, hkv, if_true, hsum, ne_eq, not_false_eq_true, decide_true, Bool.and_self, rewritten]

variable {p : Page} {gen : Nat} {good : Bool} (hlag : m.lag.get false d = false)
  (h1 : homeDie x.addr = some d) (h2 : homeDie (x.dir.side x.tile) = some d) (h3 : homeDie (x.dir.side x.tile + 8) = some d)
include hlag h1 h2 h3

omit hq hw hlag in
/-- A page of which all homes are on the port's die passes at once (R256, R394). -/
theorem passes_rewrite {k : MemSys} (hk : k.wbuf = []) (hl : k.lag.get false d = false) : k.passes (p.rewrite d x gen good) = true := by
  have hranges : (p.rewrite d x gen good).ranges = [(x.addr, p.data.length), (x.dir.side x.tile, (p.sideParts (sgenOf gen)).1.length),
      (x.dir.side x.tile + 8, (p.sideParts (sgenOf gen)).2.length)] := rfl
  have hdie : (p.rewrite d x gen good).die = d := rfl
  rw [MemSys.passes, hranges, hdie, hk, hl]
  simp [h1, h2, h3]

/-- A page written as one version, all its homes on the port's die, is at its home at once (R256, R265). -/
theorem accept_rewrite_mem (hkv : x.dir.kv = true) (hentry : (stores m.mem (pageParts x p gen)).num x.at_ 8 = x.bits)
    (hgen : gen = (fieldOf x.bits 63 52 + 1) % 4096) :
    (m.accept (p.rewrite d x gen good)).mem = withPage m.mem x p (rewritten x.bits good) gen := by
  obtain ⟨k, hmem, hbuf, hlag', haccept⟩ := accept_of_passes (inOrder_of_empty hw hq (p.rewrite d x gen good))
  have hparts : (p.rewrite d x gen good).parts = pageParts x p gen := rfl
  rw [haccept (passes_rewrite h1 h2 h3 (hbuf.trans hw) (hlag' ▸ hlag)), settle_mem k rfl rfl rfl, bump_page hkv, reachHomes_mem, hparts, hmem, hentry,
    fieldOf_rewritten, ← hgen, withPage]

end

/-! ### What stands at home afterwards (R324, R325) -/

theorem writeHalf_length (data : List Byte) (sh cnt pos : Nat) (q : List Int) : (writeHalf data sh cnt pos q).length = 2048 := by
  rw [writeHalf, List.length_map, List.length_range]

/-- An append leaves a page of 4,096 bytes. -/
theorem append_length {old p : Page} {pos : Nat} {ks vs : List Nat} {kr vr : Bool} (h : old.append pos ks vs = some (p, kr, vr)) :
    p.data.length = 4096 := by
  rw [Page.append] at h
  split at h
  · simp only [Option.some.injEq, Prod.mk.injEq] at h
    obtain ⟨rfl, -⟩ := h
    rw [List.length_append, writeHalf_length, writeHalf_length]
  · cases h

theorem keyExtreme_length (k : List Byte) (cnt : Nat) (pick : Int → Int → Int) : (keyExtreme k cnt pick).length = 128 := by
  rw [keyExtreme, List.length_map, List.length_range]

theorem sideParts_fst_length (p : Page) (g : Nat) : (p.sideParts g).1.length = 6 := by
  simp only [Page.sideParts, fieldBytes, List.length_append, leBytes_length, List.length_nil]

theorem sideParts_snd_length (p : Page) (g : Nat) : (p.sideParts g).2.length = 504 := by
  simp only [Page.sideParts, fieldBytes, List.length_append, leBytes_length, List.length_nil, keyExtreme_length, List.length_replicate]

section
variable {m : Memory} {x : TileEntry} {p : Page} {bits gen : Nat} (hlen : p.data.length = 4096)
  (hpage : x.at_ + 8 ≤ x.addr ∨ x.addr + 4096 ≤ x.at_) (hside : x.at_ + 8 ≤ x.dir.side x.tile ∨ x.dir.side x.tile + 512 ≤ x.at_)
  (hapart : x.addr + 4096 ≤ x.dir.side x.tile ∨ x.dir.side x.tile + 512 ≤ x.addr)

theorem pageParts_read (m : Memory) (x : TileEntry) (p : Page) (gen : Nat) : stores m (pageParts x p gen) =
    ((m.store x.addr p.data).store (x.dir.side x.tile) (p.sideParts (sgenOf gen)).1).store (x.dir.side x.tile + 8)
      (p.sideParts (sgenOf gen)).2 := by
  rw [pageParts, stores, List.foldl_cons, List.foldl_cons, List.foldl_cons, List.foldl_nil]

/-- Beside the entry and SGEN, memory is as the parts have left it. -/
theorem withPage_read {b : Nat} (h1 : b < x.at_ ∨ x.at_ + 8 ≤ b) (h2 : b < x.dir.side x.tile + 4 ∨ x.dir.side x.tile + 6 ≤ b) :
    (withPage m x p bits gen).read b = (stores m (pageParts x p gen)).read b := by
  rw [withPage, read_setNum_other _ h2, read_setNum_other _ h1]

/-- Beside the side entry, the parts have left what the page's bytes are. -/
theorem pageParts_beside {b : Nat} (h : b < x.dir.side x.tile ∨ x.dir.side x.tile + 512 ≤ b) :
    (stores m (pageParts x p gen)).read b = (m.store x.addr p.data).read b := by
  rw [pageParts_read, Memory.read_store_other _ _ _ _ (by rw [sideParts_snd_length]; omega),
    Memory.read_store_other _ _ _ _ (by rw [sideParts_fst_length]; omega)]

include hpage hapart hlen in
/-- The page's bytes. -/
theorem withPage_data {i : Nat} (hi : i < p.data.length) : (withPage m x p bits gen).read (x.addr + i) = p.data[i] := by
  rw [withPage_read (by omega) (by omega), pageParts_beside (by omega), Memory.read_store_same _ _ _ _ hi]

include hpage hside hlen in
/-- The parts leave the entry as it was. -/
theorem pageParts_entry : (stores m (pageParts x p gen)).num x.at_ 8 = m.num x.at_ 8 :=
  num_congr fun b hlo hhi => by rw [pageParts_beside (by omega), Memory.read_store_other _ _ _ _ (by omega)]

include hside in
/-- The entry. -/
theorem withPage_entry : (withPage m x p bits gen).num x.at_ 8 = bits % 256 ^ 8 := by
  rw [← Memory.num_setNum (stores m (pageParts x p gen)) x.at_ 8 bits]
  exact num_congr fun b hlo hhi => read_setNum_other _ (by omega)

/-- SGEN. -/
theorem withPage_sgen : (withPage m x p bits gen).num (x.dir.side x.tile + 4) 2 = sgenOf gen % 256 ^ 2 := Memory.num_setNum _ _ _ _

theorem sgenOf_lt {g : Nat} (h : g < 4096) : sgenOf g < 256 ^ 2 := by
  have hpow : (256 : Nat) ^ 2 = 65536 := by norm_num
  rw [sgenOf, hpow]; split <;> omega

include hside in
/-- The token count. -/
theorem withPage_count : (withPage m x p bits gen).num (x.dir.side x.tile + 2) 1 = p.cnt % 256 ^ 1 := by
  have hparts : (p.sideParts (sgenOf gen)).1 = (leBytes 1 p.ksc ++ leBytes 1 p.vsc) ++ (leBytes 1 p.cnt ++
      fieldBytes [(1, bit (p.data.all (· == 0))), (2, sgenOf gen)]) := by
    simp only [Page.sideParts, fieldBytes, List.append_assoc]
  rw [← Memory.num_setNum ((m.store x.addr p.data).store (x.dir.side x.tile) (leBytes 1 p.ksc ++ leBytes 1 p.vsc))
    (x.dir.side x.tile + 2) 1 p.cnt]
  refine num_congr fun b hlo hhi => ?_
  rw [withPage_read (by omega) (by omega), pageParts_read, Memory.read_store_other _ _ _ _ (by rw [sideParts_snd_length]; omega), hparts,
    store_append, store_append, List.length_append, leBytes_length, leBytes_length, leBytes_length,
    Memory.read_store_other _ _ _ _ (by omega)]
  rfl

include hside in
/-- The checksum. -/
theorem withPage_crc : (withPage m x p bits gen).num (x.dir.side x.tile + 8) 4 = pageCrc p.data p.ksc p.vsc % 256 ^ 4 := by
  obtain ⟨rest, hparts⟩ : ∃ rest, (p.sideParts (sgenOf gen)).2 = leBytes 4 (pageCrc p.data p.ksc p.vsc) ++ rest :=
    ⟨_, by simp only [Page.sideParts, fieldBytes, List.append_assoc]; rfl⟩
  rw [← Memory.num_setNum ((m.store x.addr p.data).store (x.dir.side x.tile) (p.sideParts (sgenOf gen)).1)
    (x.dir.side x.tile + 8) 4 (pageCrc p.data p.ksc p.vsc)]
  refine num_congr fun b hlo hhi => ?_
  rw [withPage_read (by omega) (by omega), pageParts_read, hparts, store_append, leBytes_length,
    Memory.read_store_other _ _ _ _ (by omega)]
  rfl

end

/-! ### The append on its core (R199, R265, R325) -/

/-- A record of a source that is not enabled changes nothing of memory (R355). -/
theorem record_sys_of_disabled {s : State} {src : Nat} (h : (s.evq src).en = false) (seqAt : Nat) (bytes : List Byte) :
    (s.record src seqAt bytes).dev.sys = s.dev.sys := by
  have hen : ((s.mgmt fun m => { m with evSeq := m.evSeq.set 0 src (s.dev.mgmt.evSeq.get 0 src + 1) }).evq src).en = false := h
  rw [State.record]
  simp only [hen, Bool.false_and, Bool.false_eq_true, if_false]
  rfl

section
variable {r : State} {x : TileEntry} {p : Page} (hw : r.dev.sys.wbuf = []) (hq : r.dev.sys.hostq = [])
include hw hq

/-- Where no other write is on its way, the port takes the page as the next version (R265). -/
theorem writePage_eq (good : Bool) (hbits : x.bits = r.dev.sys.homeNum x.at_ 8) : r.writePage x p good =
    (if good then r.sys (·.accept (p.rewrite (dieOf r.cur) x ((x.gen + 1) % 4096) good))
      else (r.sys (·.accept (p.rewrite (dieOf r.cur) x ((x.gen + 1) % 4096) good))).scrubRecord 3 x.addr, (x.gen + 1) % 4096) := by
  have hswear : r.sys (·.swear (dieOf r.cur) x) = r := by rw [State.sys, swear_of_empty hw hq]
  have hgen : (r.dev.sys.genSeen (dieOf r.cur) x + 1) % 4096 = (x.gen + 1) % 4096 := by
    rw [genSeen_of_empty hw, MemSys.genAt, ← hbits, Nat.mod_add_mod]; rfl
  unfold State.writePage
  extract_lets d u gen v
  have hu : u = r := hswear
  have hg : gen = (x.gen + 1) % 4096 := by unfold gen; rw [hu]; exact hgen
  unfold v
  rw [hu, hg]

variable {n : Nat} (hcur : r.cur = n) (hlag : r.dev.sys.lag.get false (dieOf n) = false) (h1 : homeDie x.addr = some (dieOf n))
  (h2 : homeDie (x.dir.side x.tile) = some (dieOf n)) (h3 : homeDie (x.dir.side x.tile + 8) = some (dieOf n)) (hkv : x.dir.kv = true)
  (hbits : x.bits = r.dev.sys.homeNum x.at_ 8) (hlen : p.data.length = 4096)
  (hpage : x.at_ + 8 ≤ x.addr ∨ x.addr + 4096 ≤ x.at_) (hside : x.at_ + 8 ≤ x.dir.side x.tile ∨ x.dir.side x.tile + 512 ≤ x.at_)
  (hev : (r.evq 5).en = false)
include hcur hlag h1 h2 h3 hkv hbits hlen hpage hside hev

/-- A page written in place is at its home, and the cores and the scheduler stay as they are. -/
theorem writePage_spec (good : Bool) : sameSched r (r.writePage x p good).1 ∧
    (r.writePage x p good).1.dev.sys.mem = withPage r.dev.sys.mem x p (rewritten x.bits good) ((x.gen + 1) % 4096) := by
  have hentry : (stores r.dev.sys.mem (pageParts x p ((x.gen + 1) % 4096))).num x.at_ 8 = x.bits := by
    rw [pageParts_entry hlen hpage hside, hbits, homeNum_eq_num]
  have hmem := accept_rewrite_mem (good := good) hw hq hlag h1 h2 h3 hkv hentry rfl
  have hstored : sameSched r (r.sys (·.accept (p.rewrite (dieOf n) x ((x.gen + 1) % 4096) good))) := ⟨⟨rfl, rfl, rfl, rfl⟩, rfl⟩
  rw [writePage_eq hw hq good hbits, hcur]
  dsimp only
  split
  · exact ⟨hstored, hmem⟩
  · have hrec : ((r.sys (·.accept (p.rewrite (dieOf n) x ((x.gen + 1) % 4096) good))).evq 5).en = false := hev
    refine ⟨hstored.trans (sameSched_record _ _ _ _), ?_⟩
    rw [State.scrubRecord, State.careRecord, record_sys_of_disabled hrec]
    exact hmem

end

/-- What an engine drops from its die's read buffer leaves memory and the writes on their way (R257). -/
theorem readFor_keeps (u : State) (e : GEntry) (l : List (Nat × Nat)) :
    (u.readFor e l).dev.sys.mem = u.dev.sys.mem ∧ (u.readFor e l).dev.sys.wbuf = u.dev.sys.wbuf ∧
      (u.readFor e l).dev.sys.hostq = u.dev.sys.hostq ∧ (u.readFor e l).dev.sys.lag = u.dev.sys.lag := by
  have drop (m : MemSys) (d : Nat) : (l.foldl (fun (m : MemSys) p => m.dropCopies d p.1 p.2) m).mem = m.mem ∧
      (l.foldl (fun (m : MemSys) p => m.dropCopies d p.1 p.2) m).wbuf = m.wbuf ∧
      (l.foldl (fun (m : MemSys) p => m.dropCopies d p.1 p.2) m).hostq = m.hostq ∧
      (l.foldl (fun (m : MemSys) p => m.dropCopies d p.1 p.2) m).lag = m.lag := by
    induction l generalizing m with
    | nil => exact ⟨rfl, rfl, rfl, rfl⟩
    | cons p l ih => exact ih (m.dropCopies d p.1 p.2)
  rw [State.readFor]
  split
  · exact drop _ _
  · exact ⟨rfl, rfl, rfl, rfl⟩

/-- What an engine reads of the vault does not depend on the memory system. -/
theorem engineVault_of_sysOnly {u v : State} (h : sysOnly u v) {e : GEntry} {a n : Nat} {bs : List Byte}
    (hb : u.engineVault e a n = .ok bs) : v.engineVault e a n = .ok bs := by
  obtain ⟨m, rfl⟩ := h
  have hp : (u.sys fun _ => m).enginePoisoned (u.sys fun _ => m).cur e.task a n = u.enginePoisoned u.cur e.task a n := rfl
  rw [State.engineVault] at hb ⊢
  rw [hp]
  split at hb
  · cases hb
  · next hn => rw [if_neg hn]; exact hb

theorem bits_of_lookup {u : State} {asid tid tile : Nat} {x : TileEntry} (h : u.lookup asid tid tile = .ok x) :
    x.bits = u.dev.sys.homeNum x.at_ 8 := by
  rw [State.lookup] at h
  split at h
  · cases h
  dsimp only at h
  split at h
  · cases h
  split at h
  · cases h
  split at h
  · cases h
  · cases h; rfl

theorem sysOnly_engineNum {u v : State} {e : GEntry} {va n x : Nat} (h : u.engineNum e va n = .ok (x, v)) : sysOnly u v := by
  simp only [State.engineNum, bind_eq_ok] at h
  obtain ⟨⟨bs, w⟩, hw, h⟩ := h
  cases h
  exact sysOnly_engineBytes hw

theorem appends_holds : appends := by
  intro n ix s c e at_ b spte s' x p kr vr ks vs h hnum hlook hkv hbit hhere hpois hcnt href hks hvs happ hw hq hlag h1 h2 h3 hev hpage
    hside hapart
  have hlen := append_length happ
  have hbits := bits_of_lookup hlook
  have hs' := sysOnly_engineNum hnum
  have hr := hs'.trans (sysOnly_readFor s' e [(x.addr, 4096), (x.dir.side x.tile, 512)])
  obtain ⟨hrm, hrw, hrq, hrl⟩ := readFor_keeps s' e [(x.addr, 4096), (x.dir.side x.tile, 512)]
  have hks' := engineVault_of_sysOnly (sysOnly_readFor s' e [(x.addr, 4096), (x.dir.side x.tile, 512)]) hks
  have hvs' := engineVault_of_sysOnly (sysOnly_readFor s' e [(x.addr, 4096), (x.dir.side x.tile, 512)]) hvs
  have harr : s'.dev.sys.arriving (dieOf s'.cur) (s'.entryPlace e.asid (fieldOf spte 55 32) (spte % 2 ^ 32)) = false := by
    rw [MemSys.arriving, hw]; rfl
  obtain ⟨flags, hwork⟩ := workKapp_in_place hnum harr hlook hkv hbit hhere hpois hcnt href rfl hks' hvs' happ
  generalize s'.readFor e [(x.addr, 4096), (x.dir.side x.tile, 512)] = r at hr hrm hrw hrq hrl hwork
  generalize r.comparePage x (s'.readPage x) = good at hwork
  have hevr : (r.evq 5).en = false := by
    obtain ⟨k, rfl⟩ := hr
    rw [State.evq, ← turnTo_dev s n] at hev
    exact hev
  obtain ⟨hrcur, hrcore, hrsched⟩ := hr.keeps
  have hrbits : x.bits = r.dev.sys.homeNum x.at_ 8 := by rw [hbits, homeNum_eq_num, homeNum_eq_num, hrm]
  obtain ⟨⟨⟨hvcore, -, hvcur, -⟩, hvsched⟩, hvmem⟩ := writePage_spec (hrw.trans hw) (hrq.trans hq) (hrcur.trans (turnTo_cur s n))
    (hrl ▸ hlag) h1 h2 h3 hkv hrbits hlen hpage hside hevr good
  have hgen := congrArg Prod.snd (writePage_eq (p := p) (hrw.trans hw) (hrq.trans hq) good hrbits)
  dsimp only at hgen
  rw [hgen] at hwork
  generalize (r.writePage x p good).1 = v at hvcore hvcur hvsched hvmem hwork
  have hhome : atHome v n e :=
    (atHome_of_ready h).of_same (hvcur.trans hrcur) (hvcore.trans hrcore) (hvsched.trans hrsched)
  obtain ⟨-, hone⟩ := word_of_ready h
  have hcore : v.core = c := by rw [hvcore, hrcore, turnTo_core, core_of_ready h]
  have hready := h
  obtain ⟨-, -, -, -, -, hop, -, -, -, -, -, ha, hsc, -⟩ := h
  have hdone := hhome.settleCommand ha hsc hop (appendDone ((x.gen + 1) % 4096) kr vr flags)
  have hw' : (s.turnTo n).work e .kapp b = v.settleCommand e (appendDone ((x.gen + 1) % 4096) kr vr flags) := by
    have hcurrent : v.current e = e := current_eq (by rw [hcore, core_of_ready hready, ← turnTo_core]; exact hone)
    rw [State.work, hwork, afterWork, hcurrent]
  obtain ⟨t, ht, hserved, -, hdev⟩ := served_of_ready hready (by decide) hw' hdone (by rw [hcore]) (by rw [hcore])
  obtain ⟨-, hsys, -⟩ := hdone
  rw [hrm] at hvmem
  rw [statusWord, appendDone, Nat.zero_add] at hserved
  refine ⟨t, ht, hserved, ?_, ?_, ?_, ?_, ?_⟩ <;> rw [hdev, hsys]
  · refine List.ext_getElem (by simp [MemSys.homeBytes]) fun i hi hi' => ?_
    simp only [MemSys.homeBytes, List.getElem_map, List.getElem_range, hvmem]
    exact withPage_data hlen hpage hapart hi'
  · rw [hvmem, withPage_entry hside, Nat.mod_eq_of_lt (rewritten_lt _ _), rewritten_gen]; rfl
  · rw [hvmem, withPage_count hside]; rfl
  · rw [hvmem, withPage_sgen, Nat.mod_eq_of_lt (sgenOf_lt (Nat.mod_lt _ (by decide)))]
  · rw [hvmem, withPage_crc hside, show (256 : Nat) ^ 4 = 2 ^ 32 by norm_num]

end Sys2Proof.ControlProofs

open Sys2Proof.ControlProofs

/-- Settles O35. A word of an engine completes by one rule where its task stands at home on its core: outputs, flags, status word,
counter and port; each engine's part says which outcome its work hands to that rule. -/
theorem commandSteps : Obligations.CommandSteps := by
  unfold Obligations.CommandSteps
  exact ⟨commandCompletions_holds, copies_holds, appends_holds, merges_holds, assigns_holds⟩
end

section
/-!
PROOFS. The special functions (R120 to R123): a trigger of sf works on the first lanes of its operands, and how it issues, once.
-/
open Sys2Proof Sys2Proof.Machine Sys2Proof.Claims

namespace Sys2Proof.NumberProofs

/-! ### The lanes that a width code names (R120) -/

/-- A lane below the cut is the same in the number that was cut. -/
theorem laneOf_mod {s n i : Nat} (x : Nat) (h : i < n) : laneOf s (x % 2 ^ (s * n)) i = laneOf s x i := by
  obtain ⟨k, rfl⟩ := Nat.exists_eq_add_of_lt h
  have hcut : s * (i + k + 1) = s * i + (s + s * k) := by ring
  rw [laneOf, laneOf, hcut, pow_add, Nat.mod_mul_right_div_self, pow_add, Nat.mod_mul_right_mod]

theorem length_lanesOf (s n x : Nat) : (lanesOf s n x).length = n := by rw [lanesOf, List.length_map, List.length_range]

theorem lanesOf_mod (s n x : Nat) : lanesOf s n (x % 2 ^ (s * n)) = lanesOf s n x :=
  List.map_congr_left fun _ h => laneOf_mod x (List.mem_range.mp h)

/-- The bits of a width code are its f32 lanes. -/
theorem width_eq_lanes (w : BitVec 2) : 256 * 2 ^ w.toNat = 32 * (8 * 2 ^ w.toNat) := by omega

/-! ### Special-function triggers -/

/-- A special-function trigger whose guard lets it execute, on a readable source: the function of its lanes is on its way. -/
theorem execSf_of_guard {m w : BitVec 2} {src : BitVec 9} {g : BitVec 6} {s s' : State} {x lat : Nat} {f : Nat → Nat → Nat × Nat}
    (hg : s.core.guardV g = true) (hs : s.source src = .ok (x, s')) :
    execSf m w src g lat f s = .next (s'.vecResult (1 + m.toNat) lat .sf
      ⟨32, ((lanesOf 32 (8 * 2 ^ w.toNat) (s.core.ports.a .sf)).zip (lanesOf 32 (8 * 2 ^ w.toNat) x)).map fun p => f p.1 p.2⟩
      (s.core.guardLanes g (8 * 2 ^ w.toNat))) := by
  have hwidth : typeWidth (0 : BitVec 3).toNat = 32 := rfl
  have hcount : 32 * (8 * 2 ^ w.toNat) / 32 = 8 * 2 ^ w.toNat := Nat.mul_div_cancel_left _ (by decide)
  rw [execSf, hg, issueIf_true]
  refine issue_ok ?_
  simp only [trigger, hs, bind_ok, hwidth, width_eq_lanes, hcount, VArgs.as, VArgs.ts, lanesOf_mod, List.length_map, List.length_zip,
    length_lanesOf, min_self, pure_ok]

/-- A word whose meaning is the special-function trigger of a function delivers that function of its lanes. -/
theorem specialWord_of_execSf {i : BitVec 2 → BitVec 2 → BitVec 9 → BitVec 6 → Instr} {lat : Nat} {f : Nat → Nat → Nat × Nat}
    (hi : ∀ m w src g s, exec (i m w src g) s = execSf m w src g lat f s) : specialWord i lat f :=
  fun m w src g s _ _ hg hs => (hi m w src g s).trans (execSf_of_guard hg hs)

end Sys2Proof.NumberProofs

open Sys2Proof.NumberProofs

/-- Settles O5: every special-function trigger issues in one way (`execSf_of_guard`), and each arm of `exec` is, by definition, that
trigger of its function. -/
theorem specialFunctions : Obligations.SpecialFunctions :=
  ⟨specialWord_of_execSf fun _ _ _ _ _ => rfl, specialWord_of_execSf fun _ _ _ _ _ => rfl,
   specialWord_of_execSf fun _ _ _ _ _ => rfl, specialWord_of_execSf fun _ _ _ _ _ => rfl,
   specialWord_of_execSf fun _ _ _ _ _ => rfl, specialWord_of_execSf fun _ _ _ _ _ => rfl⟩
end

section
/-!
PROOFS. VSEL (R131): the mask is bits 127:0 of what moves, and a lane mask moves zero-extended.
-/
open Sys2Proof Sys2Proof.Machine Sys2Proof.Claims Sys2Proof.CoreProofs

namespace Sys2Proof.NumberProofs

/-- A lane's bit of the mask is that bit of the value moved, below bit 128: no cut at a width that holds the lane hides it. -/
theorem bitOf_maskOf {width i : Nat} (x : Nat) (hi : i < width) :
    bitOf (x % 2 ^ width % 2 ^ 128) i = true ↔ i < 128 ∧ x.testBit i = true := by
  simp only [bitOf_eq_testBit, Nat.testBit_mod_two_pow, hi, decide_true, Bool.true_and, Bool.and_eq_true, decide_eq_true_eq]

/-- VSEL's operation on the operands of a trigger: each lane of a or b as the moved value's own bit says. -/
theorem vselOp_vectorArgs (c : Core) (u : BitVec 1) (t : BitVec 3) (w : BitVec 2) (x : Nat) (mask : Nat → List Bool) :
    vselOp (vectorArgs c u t w x) mask = .ok (some ⟨typeWidth t.toNat, (List.range (256 * 2 ^ w.toNat / typeWidth t.toNat)).map fun i =>
      (if i < 128 ∧ x.testBit i then laneOf (typeWidth t.toNat) (c.ports.a (vecUnit u) % 2 ^ (256 * 2 ^ w.toNat)) i
        else laneOf (typeWidth t.toNat) (c.ports.b (vecUnit u) % 2 ^ (256 * 2 ^ w.toNat)) i, 0)⟩) := by
  have hlanes : ∀ i ∈ List.range (256 * 2 ^ w.toNat / typeWidth t.toNat), i < 256 * 2 ^ w.toNat := fun i hi =>
    (List.mem_range.mp hi).trans_le (Nat.div_le_self _ _)
  rw [vselOp, VArgs.own]
  refine congrArg (fun l => Except.ok (some (VResult.mk (typeWidth t.toNat) l))) (List.map_congr_left fun i hi => ?_)
  simp only [vectorArgs, bitOf_maskOf x (hlanes i hi)]

/-- A lane mask as a source reads as its number, which leaves the bits above its own zero (R112). -/
theorem source_q (s : State) {q : BitVec 9} (hlo : 0x50 ≤ q.toNat) (hhi : q.toNat < 0x58) :
    s.source q = .ok ((s.core.qAt (q.toNat - 0x50)).toNat, s) := by
  have hg : ¬ q.toNat < 0x20 := by omega
  have hv : ¬ q.toNat < 0x40 := by omega
  have hp : ¬ q.toNat < 0x50 := by omega
  simp only [State.source, hg, hv, hp, hhi, if_false, if_true, pure_ok]

/-- VSEL is the vector trigger of its selection, of latency 2, holding its lane groups for a cycle. -/
theorem vectorWord_vsel : vectorWord .vsel (fun _ => 2) 1 vselOp := vectorWord_of_execVec fun _ _ _ _ _ _ _ => rfl

end Sys2Proof.NumberProofs

open Sys2Proof.NumberProofs

/-- Settles O6: VSEL issues as every vector trigger does (`vectorWord_vsel`), its operation selects by the moved value's own bits
(`vselOp_vectorArgs`), and a lane mask is read as its number (`source_q`). -/
theorem selectLanes : Obligations.SelectLanes := by
  refine ⟨fun m u t w src g s s' x hg hs => ?_, fun s q hlo hhi => source_q s hlo hhi⟩
  have hissue := (vectorWord_vsel m u t w src g s s' x hg hs).1 _ (vselOp_vectorArgs s.core u t w x _)
  rwa [List.length_map, List.length_range] at hissue
end

section
/-!
PROOFS. The exit unit at issue (R146, R152, R153, R305): what guarding ranges of the vault leaves of the core, what a clearing flush
leaves of the engine, and the flush itself.
-/
open Sys2Proof Sys2Proof.Machine Sys2Proof.Claims Sys2Proof.CoreProofs Sys2Proof.CycleProofs

namespace Sys2Proof.NumberProofs

/-! ### Tile-engine words whose checks pass (R145, R146) -/

/-- A tile-engine word under a guard that holds, whose checks pass, has its effect. -/
theorem execX_ok {g : BitVec 6} {act : State → Except Stop State} {s t : State} (hg : s.core.guardP g = true)
    (h : act s = .ok t) : execX g act s = .next t := (execX_of_guard hg act).trans (issue_ok h)

theorem partReady_ok {s : State} {p : XPart} (h : s.core.partFree p ≤ s.cycle) : s.partReady p = .ok () := by
  rw [State.partReady, decide_eq_true h, need_true]

/-! ### Ranges guarded (R305) -/

/-- The second machine has the same current core as the first, but for its marks of retained banks. -/
def marksOnly (s t : State) : Prop := (∃ r, t.core = { s.core with retained := r }) ∧ t.cur = s.cur

namespace marksOnly
variable {r s t : State}

theorem refl (s : State) : marksOnly s s := ⟨⟨s.core.retained, rfl⟩, rfl⟩

theorem trans (h : marksOnly r s) (k : marksOnly s t) : marksOnly r t := by
  obtain ⟨⟨_, hs⟩, hcur⟩ := h
  obtain ⟨⟨m, ht⟩, hcur'⟩ := k
  exact ⟨⟨m, by rw [ht, hs]⟩, hcur'.trans hcur⟩

theorem foldl {α : Type} {f : State → α → State} (hf : ∀ s x, marksOnly s (f s x)) (l : List α) (s : State) :
    marksOnly s (l.foldl f s) := by
  induction l generalizing s with
  | nil => exact refl s
  | cons x l ih => exact (hf s x).trans (ih _)

theorem fillSaveArea (s : State) (id : Nat) : marksOnly s (s.fillSaveArea id) := by
  rw [State.fillSaveArea]
  split
  · exact refl s
  · dsimp only
    split <;> exact refl s

/-- A bank of the current core loses its mark. -/
theorem unmark (s : State) (k : Nat) :
    marksOnly s (s.modAt s.cur fun c => { c with retained := c.retained.set none k none }) := by
  refine ⟨⟨s.core.retained.set none k none, ?_⟩, modAt_cur _ _ _⟩
  rw [State.modAt, State.setCore, if_pos rfl, coreAt_cur]

theorem saveBank (by_ : Nat) {n : Nat} {s : State} (hn : n = s.cur) (k : Nat) : marksOnly s (State.saveBank by_ n s k) := by
  subst hn
  rw [State.saveBank]
  split
  · exact refl s
  split
  · exact refl s
  · exact (unmark (s.modTask _ _) k).trans (fillSaveArea _ _)

theorem guardBanks (by_ : Nat) {n : Nat} {s : State} (hn : n = s.cur) (banks : List Nat) :
    marksOnly s (s.guardBanks by_ n banks) := by
  induction banks generalizing s with
  | nil => exact refl s
  | cons k ks ih =>
    have hk := saveBank by_ hn k
    exact hk.trans (ih (hn.trans hk.2.symm))

theorem guardRanges (s : State) (ranges : List (Nat × Nat)) : marksOnly s (s.guardRanges ranges) :=
  foldl (fun _ _ => guardBanks _ rfl _) ranges s

end marksOnly

/-- Ranges of a core that retains nothing need no saving. -/
theorem guardRanges_of_none {s : State} (h : s.core.retained = []) (ranges : List (Nat × Nat)) : s.guardRanges ranges = s := by
  induction ranges with
  | nil => rfl
  | cons r rs ih =>
    rw [State.guardRanges, List.foldl_cons, guardBanks_of_none (by rwa [coreAt_cur])]
    exact ih

/-! ### MFLUSH (R152, R153) -/

theorem popScales_ok {s : State} {n : Nat} (h : n ≤ s.core.qs.scale.length) :
    s.popScales n = .ok ((s.core.qs.scale.take n).map (·.toNat),
      s.mod fun c => { c with qs := { c.qs with scale := c.qs.scale.drop n } }) := if_pos h

/-- Scale words that have been popped as numbers are put back as they were. -/
theorem map_ofNat_map_toNat (l : List (BitVec 16)) : (l.map (·.toNat)).map (fun x => BitVec.ofNat 16 x) = l := by
  simp [List.map_map, Function.comp_def]

/-- A clear changes an accumulator, its bound and its count, and nothing else (R147). -/
theorem clearC_eq (c : Core) (n : Nat) : c.clearC n = { c with eng := { c.eng with
    c := c.eng.c.set 0 n (BitVec.ofNat 217088 0)
    bound := c.eng.bound.set 0 n (BitVec.ofNat 64 ((c.eng.mmas.filter (·.c == n)).map (·.inc)).sum)
    mmaCount := c.eng.mmaCount.set 0 n (BitVec.ofNat 64 (c.eng.mmas.filter (·.c == n)).length) } } := by
  rw [Core.clearC, Core.setCount, Core.setBound, Core.setC]

/-- What a clear, where there is one, leaves of the engine, with the accumulator that it clears. -/
theorem clearC_if (c : Core) (p : Prop) [Decidable p] (n : Nat) : ∃ acc bnd cnt,
    (if p then c.clearC n else c) = { c with eng := { c.eng with c := acc, bound := bnd, mmaCount := cnt } } ∧
      (acc.get 0 n).toNat = if p then 0 else c.accC n := by
  split
  · exact ⟨_, _, _, clearC_eq c n, by rw [Table.get_set_same, BitVec.toNat_zero]⟩
  · exact ⟨_, _, _, rfl, rfl⟩

end Sys2Proof.NumberProofs

open Sys2Proof.NumberProofs

/-- Settles O9: its checks pass, guarding its rows changes no more of the core than marks of retained banks (`marksOnly.guardRanges`),
and a clearing form no more of the engine than its accumulator, bound and count (`clearC_if`). -/
theorem tileFlush : Obligations.TileFlush := fun f c bb md mk pitch cl off g s hg hpitch hscale hwait hin hfree => by
  have hpart : (s.mod fun c => { c with qs := { c.qs with scale := c.qs.scale.drop 128 } }).partReady .exit = .ok () :=
    partReady_ok hfree
  have hrow : decide (rowBytes (s.core.fmtAt f.toNat) ≤ 64 * pitch.toNat) = true := decide_eq_true hpitch
  have hfirst : (((s.core.qs.scale.take 128).map (·.toNat)).take 64).map (fun x => BitVec.ofNat 16 x) = s.core.qs.scale.take 64 := by
    rw [← List.map_take, map_ofNat_map_toNat, List.take_take]; rfl
  have hlast : (((s.core.qs.scale.take 128).map (·.toNat)).drop 64).map (fun x => BitVec.ofNat 16 x) =
      (s.core.qs.scale.take 128).drop 64 := by
    rw [← List.map_drop, map_ofNat_map_toNat]
  refine ⟨?t, execX_ok hg ?act, ?_⟩
  case act =>
    simp only [hwait, popScales_ok hscale, hrow, hpart, hin, hfirst, hlast, bind_ok, need_true, pure_ok]
    rfl
  obtain ⟨⟨r, hcore⟩, -⟩ := marksOnly.guardRanges (s.mod fun c => { c with qs := { c.qs with scale := c.qs.scale.drop 128 } })
    (flushBytes (s.core.bAt bb.toNat + 64 * off.toNat) pitch.toNat (s.core.fmtAt f.toNat) mk.toNat s.core.eng.mask.toNat)
  obtain ⟨acc, bnd, cnt, hclear, hacc⟩ := clearC_if
    { s.core with qs := { s.core.qs with scale := s.core.qs.scale.drop 128 }, retained := r } (cl = 1) c.toNat
  simp only [State.mod_core, State.mod_dev] at hcore ⊢
  rw [hcore, hclear]
  exact ⟨rfl, rfl, rfl, fun h => by rw [guardRanges_of_none (by exact h)]; rfl, rfl, rfl, hacc, rfl⟩
end

section
/-!
PROOFS. The words of the tile engine that are no product and no flush (R145, R151, R154 to R159): control words, what the shuffle
unit sends, and quantisation.
-/
open Sys2Proof Sys2Proof.Machine Sys2Proof.Claims Sys2Proof.CoreProofs

namespace Sys2Proof.NumberProofs

/-! ### Clears, formats and masks (R147, R154 to R156) -/

section
variable (c : Core) (n : Nat)

theorem accC_clearC : (c.clearC n).accC n = 0 := by rw [clearC_eq, Core.accC, Table.get_set_same, BitVec.toNat_zero]

theorem boundAt_clearC : (c.clearC n).boundAt n = ((c.eng.mmas.filter (·.c == n)).map (·.inc)).sum % 2 ^ 64 := by
  rw [clearC_eq, Core.boundAt, Table.get_set_same, BitVec.toNat_ofNat]

theorem accC_clearC_other {k : Nat} (h : k ≠ n) : (c.clearC n).accC k = c.accC k := by
  rw [clearC_eq, Core.accC, Core.accC, Table.get_set_other _ _ _ h]

theorem boundAt_clearC_other {k : Nat} (h : k ≠ n) : (c.clearC n).boundAt k = c.boundAt k := by
  rw [clearC_eq, Core.boundAt, Core.boundAt, Table.get_set_other _ _ _ h]

theorem clearC_frame : (c.clearC n).eng.t = c.eng.t ∧ (c.clearC n).vault = c.vault ∧ (c.clearC n).regs = c.regs := by
  rw [clearC_eq]; exact ⟨rfl, rfl, rfl⟩

end

/-- A tile register that is not pending is not armed either, so a word may name it as its destination (R84, R174). -/
theorem destination_ok {c : Core} {n : Nat} (h : c.tilePending n = false) : c.tileWait n = .ok () ∧ c.writeTileOk n = .ok () := by
  have harmed : c.armed n = false := by
    simp only [Core.tilePending, Core.tileLateral, Bool.or_eq_false_iff] at h
    obtain ⟨⟨⟨⟨harmed, -⟩, -⟩, -⟩, -⟩ := h
    exact harmed
  rw [Core.tileWait, Core.writeTileOk, h, harmed]
  exact ⟨rfl, rfl⟩

theorem exec_mfmt {f : BitVec 2} {tw : BitVec 1} {v : BitVec 8} {g : BitVec 6} {s : State} (hg : s.core.guardP g = true)
    (h : s.fmtBusy (if tw = 1 then 4 else f.toNat) = false) :
    exec (.mfmt f tw v g) s = .next (s.result 7 1 (if tw = 1 then .wfmt else .mfmt f.toNat) v.toNat (ones 8) 0) :=
  execX_ok hg (by rw [h]; rfl)

/-! ### MDRAIN (R154) -/

/-- The last delivery is none before that of any X operation in flight. -/
theorem le_lastX {c : Core} {p : Nat × Nat} (hp : p ∈ c.eng.busyPairs) (hx : p.2 ≠ 4) : p.1 ≤ c.lastX := by
  have hmem : p.1 ∈ (c.eng.busyPairs.filter (·.2 != 4)).map (·.1) := List.mem_map_of_mem (List.mem_filter.mpr ⟨hp, by simpa using hx⟩)
  have hfold : c.lastX = ((c.eng.busyPairs.filter (·.2 != 4)).map (·.1)).foldr max ⊥ := by
    rw [Core.lastX, ← List.foldl_eq_foldr, List.foldl_map]; rfl
  rw [hfold]
  exact List.le_max_of_le hmem le_rfl

/-- MDRAIN with the three parts free occupies them until the last X operation has delivered. -/
theorem exec_mdrain {g : BitVec 6} {s : State} (hg : s.core.guardP g = true) (ha : s.core.eng.arrayFree ≤ s.cycle)
    (he : s.core.eng.exitFree ≤ s.cycle) (hs : s.core.eng.shuffleFree ≤ s.cycle) :
    exec (.mdrain g) s = .next (s.mod fun c => { c with eng := { c.eng with
      arrayFree := max (s.cycle + 1) s.core.lastX
      exitFree := max (s.cycle + 1) s.core.lastX
      shuffleFree := max (s.cycle + 1) s.core.lastX } }) := by
  refine execX_ok hg ?_
  rw [partReady_ok (p := .array) ha, partReady_ok (p := .exit) he, partReady_ok (p := .shuffle) hs]
  rfl

theorem tileControl_holds : tileControl := by
  refine ⟨fun c g s hg => ?mclr, fun f v g s hg => ⟨?mfmt, ?wfmt⟩, fun d g s hg hd => ?tzero, fun a g s x hg hx hm => ?maskld,
    fun g s hg ha he hs => ?mdrain⟩
  case mclr =>
    obtain ⟨ht, hvault, hregs⟩ := clearC_frame s.core c.toNat
    refine ⟨_, execX_ok hg rfl, ?_⟩
    simp only [State.mod_core]
    exact ⟨accC_clearC _ _, boundAt_clearC _ _, fun n hn => ⟨accC_clearC_other _ _ hn, boundAt_clearC_other _ _ hn⟩, ht, hvault,
      hregs, State.mod_dev ..⟩
  case mfmt => exact fun h => exec_mfmt hg h
  case wfmt => exact fun h => exec_mfmt hg h
  case tzero =>
    obtain ⟨hwait, hwrite⟩ := destination_ok hd
    refine execX_ok hg ?_
    rw [hwait, hwrite]
    rfl
  case maskld =>
    refine execX_ok hg ?_
    simp only [hx, bind_ok, hm, need_true, pure_ok]
  case mdrain =>
    refine ⟨_, exec_mdrain hg ha he hs, ?_, rfl, rfl, fun p hp hx => ?_, rfl, rfl, rfl, rfl⟩
    · exact lt_max_of_lt_left (Nat.lt_succ_self _)
    · exact le_max_of_le_right (le_lastX hp hx)

/-! ### The shuffle unit (R156 to R158) -/

/-- A word that makes a tile of a tile in the shuffle unit, with its source readable, its destination and the unit free. -/
theorem exec_shuffle {i : Instr} {d a : BitVec 4} {g : BitVec 6} {s : State} {x : Tile} {f : Tile → State → State}
    (hi : exec i s = execX g (fun s => do
      let t ← s.core.readTile a.toNat
      s.core.tileWait d.toNat
      s.partReady .shuffle
      s.core.writeTileOk d.toNat
      return f t s) s)
    (hg : s.core.guardP g = true) (hx : s.core.readTile a.toNat = .ok x) (hd : s.core.tilePending d.toNat = false)
    (hfree : s.core.eng.shuffleFree ≤ s.cycle) : exec i s = .next (f x s) := by
  obtain ⟨hwait, hwrite⟩ := destination_ok hd
  refine hi.trans (execX_ok hg ?_)
  rw [hx, bind_ok, hwait, bind_ok, partReady_ok (p := .shuffle) hfree, bind_ok, hwrite]
  rfl

theorem bit_mul (b : Bool) (n : Nat) : bit b * n = if b then n else 0 := by cases b <;> simp [bit]

theorem tileShuffles_holds : tileShuffles := fun d a g s x hg hx hd hfree => by
  refine ⟨fun qf => ?ttrn, fun k n rows mk => ?topk, fun n rows mk => ?rowmax⟩
  case ttrn =>
    have h := exec_shuffle (i := .ttrn d a qf g) (f := fun t s =>
      s.writeTile .shuffle 4 8 (.tileFlag d.toNat) (transposed (qf == 1) t.data.toNat + bit t.zero * 2 ^ 32768) 0) rfl hg hx hd hfree
    rwa [bit_mul] at h
  case topk => exact exec_shuffle (i := .topk d a k n rows mk g) (f := fun t s =>
    s.writeTile .shuffle 16 24 (.tile d.toNat) (ofLanes 2048 ((List.range rows.toNat).map fun r =>
      topkRow k.toNat (candidates t.data.toNat s.core.eng.mask.toNat (mk == 1) n.toNat r))) 0) rfl hg hx hd hfree
  case rowmax =>
    have h := exec_shuffle (i := .rowmax d a n rows mk g) (f := fun t s =>
      s.writeTile .shuffle 4 12 (.tile d.toNat) (ofLanes 32 (((List.range rows.toNat).map fun r =>
          rowMax ((candidates t.data.toNat s.core.eng.mask.toNat (mk == 1) n.toNat r).map fun p : Nat × Nat => p.2)).map fun p : Nat × Nat => p.1))
        (joinAll ((List.range rows.toNat).map fun r =>
          rowMax ((candidates t.data.toNat s.core.eng.mask.toNat (mk == 1) n.toNat r).map fun p : Nat × Nat => p.2)))) rfl hg hx hd hfree
    rwa [List.map_map] at h

/-! ### TQNT (R153, R159) -/

/-- The tile of quantised rows: their elements as two's-complement lanes, row by row. -/
def quantisedTile (q : Nat) (rows : List (Nat × List (Int × Nat))) : Nat :=
  ofLanes q ((rows.flatMap fun r => r.2).map fun p => wrapTo q p.1)

/-- The flags that quantising rows raises. -/
def quantisedFlags (rows : List (Nat × List (Int × Nat))) : Nat :=
  (rows.flatMap fun r => r.2).foldl (fun fl p => joinFlags fl p.2) 0

theorem quantisedTile_eq (q : Nat) (rows : List (Nat × List (Int × Nat))) :
    quantisedTile q rows = ofLanes q (rows.flatMap fun r => r.2.map fun x => (BitVec.ofInt q x.1).toNat) := by
  simp only [quantisedTile, List.map_flatMap, wrapTo_eq_toNat_ofInt]

theorem quantisedFlags_eq (rows : List (Nat × List (Int × Nat))) :
    quantisedFlags rows = rows.foldl (fun fl r => r.2.foldl (fun fl x => fl ||| x.2) fl) 0 := by
  rw [quantisedFlags, List.foldl_flatMap]
  rfl

/-- A TQNT with its ranges in the vault, nothing to wait for, and its destination and the exit unit free. -/
theorem exec_tqnt {d : BitVec 4} {bb : BitVec 3} {qf : BitVec 1} {bs : BitVec 3} {soff : BitVec 15} {off : BitVec 16} {g : BitVec 6}
    {s : State} {src dst : Nat} (hsrc : s.core.bAt bb.toNat + 64 * off.toNat = src) (hdst : s.core.bAt bs.toNat + 128 * soff.toNat = dst)
    (hg : s.core.guardP g = true) (hd : s.core.tilePending d.toNat = false) (hfree : s.core.eng.exitFree ≤ s.cycle)
    (hwait : s.exitWait [(src, 16384)] [(src, 16384), (dst, 128)] = .ok ()) (hsrcIn : src + 16384 ≤ vaultSize)
    (hdstIn : dst + 128 ≤ vaultSize) :
    exec (.tqnt d bb qf bs soff off g) s = .next (((s.writeTile .exit 32 40 (.tile d.toNat)
        (quantisedTile (if qf = 1 then 4 else 8) (quantisedRows s.core bb off qf))
        (quantisedFlags (quantisedRows s.core bb off qf))).guardRanges [(src, 16384), (dst, 128)]).mod fun c =>
      { c with eng := { c.eng with
        hazards := ⟨src, src + 16384, s.cycle + 40⟩ :: ⟨dst, dst + 128, s.cycle + 40⟩ :: c.eng.hazards
        exits := c.eng.exits ++ [.tqnt (s.cycle + 40) (s.core.orderOf 7) dst
          ((quantisedRows s.core bb off qf).map fun r => BitVec.ofNat 16 r.1)] } }) := by
  obtain ⟨hfreed, hwrite⟩ := destination_ok hd
  have hin : inVault [(src, 16384), (dst, 128)] = .ok () := by simp [inVault, hsrcIn, hdstIn]
  subst hsrc hdst
  refine execX_ok hg ?_
  simp only [hwait, hfreed, partReady_ok (p := .exit) hfree, hin, hwrite, bind_ok, pure_ok]
  rfl

theorem tileQuantisation_holds : tileQuantisation := fun d bb qf bs soff off g s hg hd hfree hwait hsrc hdst => by
  refine ⟨_, exec_tqnt rfl rfl hg hd hfree hwait hsrc hdst, ?_⟩
  obtain ⟨⟨r, hcore⟩, -⟩ := marksOnly.guardRanges (s.writeTile .exit 32 40 (.tile d.toNat)
      (quantisedTile (if qf = 1 then 4 else 8) (quantisedRows s.core bb off qf)) (quantisedFlags (quantisedRows s.core bb off qf)))
    [(s.core.bAt bb.toNat + 64 * off.toNat, 16384), (s.core.bAt bs.toNat + 128 * soff.toNat, 128)]
  simp only [State.mod_core, State.mod_dev, hcore, ← quantisedTile_eq, ← quantisedFlags_eq]
  exact ⟨rfl, rfl, rfl, fun h => by rw [guardRanges_of_none (by exact h)]; rfl, rfl, rfl, rfl, rfl⟩

end Sys2Proof.NumberProofs

open Sys2Proof.NumberProofs

/-- Settles O10: the control words issue once their checks pass, a word of the shuffle unit sends its tile (`exec_shuffle`), and a
quantisation its tile, its scales and its claims on both ranges (`exec_tqnt`). -/
theorem tileWords : Obligations.TileWords := ⟨tileControl_holds, tileShuffles_holds, tileQuantisation_holds⟩
end

section
/-!
PROOFS. The cluster slot at issue (R162, R172 to R174, R184): how a load and a store of the C slot enter their queues, and what a mark
leaves of the two queues.
-/
open Sys2Proof Sys2Proof.Machine Sys2Proof.Claims Sys2Proof.CoreProofs Sys2Proof.CycleProofs

namespace Sys2Proof.QueueProofs

/-! ### Accesses (R162, R172, R184) -/

section
variable {i : Instr} {g : Guard} {s t : State} {act : State → Except Stop State} {o : BitVec 3} {ca n align : Nat} {k : CKind}

/-- A word of the C slot under a guard that holds, whose checks pass, has its effect. -/
theorem execC_ok (hg : s.core.guardP g = true) (h : act s = .ok t) : execC g act s = .next t :=
  (execC_of_guard hg act).trans (issue_ok h)

/-- A read of the own vault that does not pass waits for a TLDX, and never traps (R184). -/
theorem ownBring_of_ne_ok (h : s.ownBring ca n ≠ .ok ()) : s.ownBring ca n = .error (.stall .stallg) := by
  revert h
  unfold State.ownBring Core.bringWait
  split
  · cases s.core.mine.any fun e => e.landsIn (ca % vaultSize) n
    · exact fun h => absurd (waitWhile_false _) h
    · exact fun _ => waitWhile_true _
  · exact fun h => absurd rfl h

/-- A load of the C slot with room in its queue, whose further check passes, enters it. -/
theorem enters_of_load {extra : Except Stop Unit} (hr : queueRoom s.core.qs.loads = .ok ()) (hx : extra = .ok ())
    (he : exec i s = issue 9 act s) (ha : act s = s.loadCluster o ca n align k extra) : enters i s false o ca n align k := by
  refine ⟨fun hb hw => ?waits, fun hb m off hc => ?passes⟩
  case waits =>
    have hown : s.ownBring ca n = .error (.stall .stallg) := ownBring_of_ne_ok hw
    refine he.trans (issue_stall ?_)
    simp only [ha, State.loadCluster, hr, hown, bind_ok, bind_error]
  case passes =>
    have hown : s.ownBring ca n = .ok () := hb (.inl rfl)
    refine he.trans (issue_ok ?_)
    simp only [ha, State.loadCluster, hr, hown, hc, hx, bind_ok]
    rfl

/-- A store of the C slot with room in its queue enters it; an atomic reads, so it waits as a load does. -/
theorem enters_of_store (hr : queueRoom s.core.qs.stores = .ok ()) (he : exec i s = issue 9 act s)
    (ha : act s = s.storeCluster o ca n align k) : enters i s true o ca n align k := by
  refine ⟨fun hb hw => ?waits, fun hb m off hc => ?passes⟩
  case waits =>
    have hk : k.reads = true := hb.resolve_left Bool.true_eq_false_eq_False
    have hown : s.ownBring ca n = .error (.stall .stallg) := ownBring_of_ne_ok hw
    refine he.trans (issue_stall ?_)
    simp only [ha, State.storeCluster, hr, hk, hown, if_true, bind_ok, bind_error]
  case passes =>
    refine he.trans (issue_ok ?_)
    cases hk : k.reads with
    | false => simp only [ha, State.storeCluster, hr, hk, hc, bind_ok]; rfl
    | true => simp only [ha, State.storeCluster, hr, hk, hb (.inr hk), hc, if_true, bind_ok]; rfl

end

theorem writeTileOk_of_not_armed {c : Core} {n : Nat} (h : c.armed n = false) : c.writeTileOk n = .ok () := by
  rw [Core.writeTileOk, h]; rfl

theorem clusterLoads_holds : clusterLoads := by
  intro o g bb off s hg hr
  refine ⟨fun sz sx d => ?scalar, fun d => ?vector, fun d hd => ?tile, fun d m x hx hcount hsize hd => ?multicast⟩
  case scalar | vector => exact enters_of_load hr rfl (execC_of_guard hg _) rfl
  case tile => exact enters_of_load hr (writeTileOk_of_not_armed hd) (execC_of_guard hg _) rfl
  case multicast =>
    have hbuffer : (decide (x.toNat % 2 ^ 16 ≠ 0) && decide (4 ≤ s.multicastCount)) = false := by
      rw [Bool.and_eq_false_iff, decide_eq_false_iff_not, decide_eq_false_iff_not]
      omega
    refine enters_of_load (extra := need (x.toNat % 2 ^ 16 / 2 ^ s.core.ctl.size == 0) .crange >>= fun _ =>
      need (!(bitOf (x.toNat % 2 ^ 16) s.core.ctl.member && s.core.armed d.toNat)) .armhaz) hr ?_ (execC_of_guard hg _) ?_
    · rw [hsize, hd, Bool.and_false]; rfl
    · simp only [hx, hbuffer, waitWhile_false, bind_ok]

theorem clusterStores_holds : clusterStores := by
  intro o g bb off s hg hr
  refine ⟨fun sz r x hx => ?scalar, fun r x hx => ?vector, fun sz aop r d x cmp hx hcmp => ?atomic⟩
  all_goals refine enters_of_store hr (execC_of_guard hg _) ?_
  case scalar => simp only [hx, bind_ok]; rfl
  case vector => simp only [hx, bind_ok]
  case atomic => simp only [hx, hcmp, bind_ok]; rfl

/-! ### Marks (R173) -/

/-- A mark alone in both queues has done its work. -/
theorem popMarks_same {e : CEntry} {i : Nat} (h : e.markId = some i) : popMarks [e] [e] = ([], []) := by
  simp only [popMarks, h, if_true]

/-- A load that is no mark, at the head of its queue, keeps every mark behind it. -/
theorem popMarks_of_no_mark {l : CEntry} (h : l.markId = none) (ls ts : List CEntry) : popMarks (l :: ls) ts = (l :: ls, ts) := by
  cases ts with
  | nil => rfl
  | cons t ts => simp only [popMarks, h]

theorem armAndMark_holds : armAndMark := by
  intro g s hg
  refine ⟨fun d => execC_ok hg rfl, _, execC_ok hg rfl, fun hl hs => ?empty, fun hl hne => ?behind, rfl, rfl, rfl, rfl⟩
  case empty =>
    have h := popMarks_same (e := s.entry 0 (.mark s.core.bundles) 0 0 0) rfl
    simp only [State.mod_core, Core.settleMarks, Core.pushStore_loads, Core.pushStore_stores, Core.pushLoad_loads,
      Core.pushLoad_stores, hl, hs, List.nil_append, h, and_self]
  case behind =>
    obtain ⟨l, ls, hcons⟩ := List.exists_cons_of_ne_nil hne
    have hmark : l.markId = none := by
      rw [hcons, List.all_cons, Bool.and_eq_true, Option.isNone_iff_eq_none] at hl
      exact hl.1
    have h := popMarks_of_no_mark hmark (ls ++ [s.entry 0 (.mark s.core.bundles) 0 0 0])
    simp only [State.mod_core, Core.settleMarks, Core.pushStore_loads, Core.pushStore_stores, Core.pushLoad_loads,
      Core.pushLoad_stores, hcons, List.cons_append, h, and_self]

end Sys2Proof.QueueProofs

open Sys2Proof.QueueProofs

/-- Settles O15: an access enters its queue once its checks pass (`enters_of_load`, `enters_of_store`), and a mark goes at once where it
stands at the head of both queues alone (`popMarks_same`). -/
theorem clusterWords : Obligations.ClusterWords := ⟨clusterLoads_holds, clusterStores_holds, armAndMark_holds⟩
end

section
/-!
PROOFS. The gather engine's words and the provenance context at issue (R184, R198, R207, R208), and the pushes of the queue slot with
the random-bits generator (R175 to R179).
-/
open Sys2Proof Sys2Proof.Machine Sys2Proof.Claims Sys2Proof.CoreProofs Sys2Proof.NumberProofs Sys2Proof.CycleProofs

namespace Sys2Proof.QueueProofs

/-! ### Words of the G and the Q slot whose checks pass (R175, R184, R198) -/

section
variable {g : Guard} {s t : State} {act : State → Except Stop State}

/-- A word of the G slot under a guard that holds, with room in the port, has the effect of what follows that check. -/
theorem execG_ok (hg : s.core.guardP g = true) (hr : hasRoom s.core) (h : act s = .ok t) :
    execG g (fun s => portRoom s.core >>= fun _ => act s) s = .next t := by
  rw [execG, hg, issueIf_true]
  refine issue_ok ?_
  rw [(portRoom_eq_ok s.core).mpr hr, bind_ok, h]

/-- A word of the Q slot under a guard that holds issues. -/
theorem execQ_of_guard (hg : s.core.guardP g = true) (act : State → Except Stop State) : execQ g act s = issue 11 act s := by
  rw [execQ, hg, issueIf_true]

/-- A word of the Q slot under a guard that holds, whose checks pass, has its effect. -/
theorem execQ_ok (hg : s.core.guardP g = true) (h : act s = .ok t) : execQ g act s = .next t :=
  (execQ_of_guard hg act).trans (issue_ok h)

end

/-! ### The gather engine and the provenance context (R198, R207, R208) -/

/-- DGST_EMIT counts itself in the context, and its word enters the port with the digest at issue (R208). -/
theorem exec_dgstEmit {g : Guard} {bb : BitVec 3} {kc : BitVec 4} {off : BitVec 32} {s : State} (hg : s.core.guardP g = true)
    (hr : hasRoom s.core) (hc : s.checkLocal (s.core.ea bb off.toNat) 32 32 = .ok ()) :
    exec (.dgstEmit g bb kc off) s = .next ((s.prov fun p => { p with emits := p.emits + 1 }).enter
      (s.word 0 (.emit (digest256 s.core.ctl.digest.absorbed) (s.core.ea bb off.toNat) s.core.ctl.digest.absorbed.length
        (s.core.ctl.digest.emits + 1)) s.cur kc.toNat)) := by
  refine execG_ok hg hr ?_
  simp only [hc, bind_ok, pure_ok]
  rfl

/-- GATH adds its job behind those of the gather engine (R198). -/
theorem exec_gath {g : Guard} {b : BitVec 5} {es : BitVec 2} {n : BitVec 6} {s : State} {x : Word64} (hg : s.core.guardP g = true)
    (hr : hasRoom s.core) (hx : s.core.readG b.toNat = .ok x) :
    exec (.gath g b es n) s = .next (s.mod fun c => { c with qs := { c.qs with gathers := c.qs.gathers ++
      [{ base := x.toNat % 2 ^ 57, size := 2 ^ es.toNat, left := n.toNat + 1, order := s.core.orderOf 10, bundle := s.core.bundles,
         kept := s.core.behindFault, faulted := none, failed := false }] } }) := by
  refine execG_ok hg hr ?_
  simp only [hx, bind_ok, pure_ok, Machine.sizeOf]

theorem gatherAndProvenance_holds : gatherAndProvenance := by
  intro g s hg
  refine ⟨fun b es n x hr hx => ?gather, fun a l kc x y hr hx hy => execG_ok hg hr ?discard,
    fun f r bs hr hb => execG_ok hg hr ?absorb, fun hr => execG_ok hg hr rfl, fun bb kc off hr hc => ?emit⟩
  case gather => exact ⟨_, exec_gath hg hr hx, rfl, rfl, rfl, rfl, rfl, rfl⟩
  case discard => rw [hx, hy]; rfl
  case absorb => rw [hb]; rfl
  case emit => exact ⟨_, exec_dgstEmit hg hr hc, rfl, ⟨_, rfl, rfl, rfl⟩, rfl, rfl, rfl⟩

/-! ### Scale words (R81, R176) -/

/-- What an access of the own vault waits for has come where it passes its check. -/
theorem waits_over_of_checkLocal {s : State} {a n align : Nat} (h : s.checkLocal a n align = .ok ()) :
    s.core.bringWait a n = .ok () ∧ s.core.bankWait a n = .ok () := by
  obtain ⟨hbring, hvault⟩ := (checkLocal_eq_ok s a n align).mp h
  obtain ⟨-, hbank, -⟩ := (checkVault_eq_ok s a n align).mp hvault
  exact ⟨(waitWhile_eq_ok _ _ _).mpr hbring, hbank⟩

/-- A poisoned line that a read meets is noted among the causes that wait for the boundary, and nothing else changes (R376). -/
theorem noteRead_eq (c : Core) (slot a n : Nat) : ∃ l, c.noteRead slot a n = { c with boundary := l } := by
  unfold Core.noteRead
  split
  · exact ⟨_, rfl⟩
  · exact ⟨_, rfl⟩

/-- Scale words that have been read had nothing to wait for, the first of them or a later one. -/
theorem waitEach_of_readScales {as : List Nat} {s t : State} {ws : List (BitVec 16)} (h : s.readScales as = .ok (ws, t)) :
    s.core.waitEach 2 as = .ok () := by
  induction as generalizing s t ws with
  | nil => rfl
  | cons a as ih =>
    simp only [State.readScales, bind_eq_ok, Prod.exists] at h
    obtain ⟨_, hcheck, _, _, hrest, -⟩ := h
    obtain ⟨hbring, hbank⟩ := waits_over_of_checkLocal hcheck
    obtain ⟨l, hnote⟩ := noteRead_eq s.core 11 a 2
    have hw := ih hrest
    rw [State.mod_core, hnote, waitEach_boundary] at hw
    rw [Core.waitEach, hbring, bind_ok, hbank, bind_ok, hw]

/-! ### Chunks (R178, R299) -/

/-- Handing out a chunk leaves the current core, the cycle and memory as they are. -/
theorem takeChunk_frame (s : State) (n : Nat) :
    (s.takeChunk n).2.core = s.core ∧ (s.takeChunk n).2.cycle = s.cycle ∧ (s.takeChunk n).2.dev.sys = s.dev.sys := by
  unfold State.takeChunk
  split
  · exact ⟨rfl, rfl, rfl⟩
  · split
    · exact ⟨rfl, rfl, rfl⟩
    · exact ⟨rfl, rfl, rfl⟩

/-- NEXT takes a chunk of its group, whose word is on its way to g31. -/
theorem exec_nextChunk {g : Guard} {s : State} (hg : s.core.guardP g = true) :
    exec (.nextChunk g) s = .next ((s.takeChunk s.core.ctl.group).2.mod fun c => { c with qs := { c.qs with nexts := c.qs.nexts ++
      [⟨(s.takeChunk s.core.ctl.group).2.cycle + 24, c.orderOf 11, c.gKey 31, chunkWord (s.takeChunk s.core.ctl.group).1⟩] } }) :=
  execQ_ok hg rfl

theorem queuePushes_holds : queuePushes := by
  intro g s hg
  refine ⟨fun b n o ws s' ho hread hroom => execQ_ok hg ?scales, fun w ls s' hlits hroom => execQ_ok hg ?literals,
    fun v h x hx hlen => execQ_ok hg ?indices, ?chunk⟩
  case scales => simp only [ho, waitEach_of_readScales hread, hread, hroom, bind_ok, pure_ok]
  case literals => simp only [hlits, hroom, bind_ok, pure_ok]
  case indices =>
    have hhalf : BitVec.ofNat 512 (laneOf 512 x.toNat h.toNat) = x.extractLsb' (512 * h.toNat) 512 := by
      rw [laneOf_toNat, BitVec.ofNat_toNat, BitVec.setWidth_eq]
    simp only [hx, decide_eq_true hlen, need_true, hhalf, bind_ok, pure_ok]
  case chunk =>
    obtain ⟨hcore, hcycle, hsys⟩ := takeChunk_frame s s.core.ctl.group
    refine ⟨_, exec_nextChunk hg, ?_⟩
    rw [State.mod_core, State.mod_dev, hcore, hcycle, hsys]
    exact ⟨rfl, rfl, rfl, rfl⟩

/-! ### Random bits (R179) -/

/-- A multiplication of the generator, within 64 bits. -/
theorem scrambled_toNat (z : Word64) (k m : Nat) :
    (z.toNat ^^^ z.toNat / 2 ^ k) * m % 2 ^ 64 = ((z ^^^ (z >>> k)) * BitVec.ofNat 64 m).toNat := by
  rw [BitVec.toNat_mul, BitVec.toNat_xor, BitVec.toNat_ushiftRight, Nat.shiftRight_eq_div_pow, BitVec.toNat_ofNat, Nat.mul_mod_mod]

/-- The generator's start from its key and a place in its blocks, within 64 bits. -/
theorem seed_toNat (key i : Word64) (j m : Nat) : (key.toNat + (16 * i.toNat + j + 1) * m) % 2 ^ 64 =
    (key + (16#64 * i + BitVec.ofNat 64 (j + 1)) * BitVec.ofNat 64 m).toNat := by
  simp [BitVec.toNat_add, BitVec.toNat_mul, Nat.add_mod, Nat.mul_mod, Nat.add_assoc]

/-- The generator's numbers are words of 64 bits. -/
theorem randWord_toNat (key i : Word64) (j : Nat) :
    Machine.randWord key.toNat (16 * i.toNat + j) = (Claims.randWord key i j).toNat := by
  rw [Machine.randWord, Claims.randWord, seed_toNat, scrambled_toNat, scrambled_toNat, ← Nat.shiftRight_eq_div_pow,
    ← BitVec.toNat_ushiftRight, ← BitVec.toNat_xor]

theorem randomBits_holds : randomBits := by
  refine ⟨fun g k c s key ctr hg hk hc => execQ_ok hg ?key, fun s => rfl, fun s j hj => ?block⟩
  case key => simp only [hk, hc, bind_ok, pure_ok]
  case block =>
    have hget : ((List.range 16).map fun l => Machine.randWord s.core.qs.rngKey.toNat (16 * s.core.qs.rngCtr.toNat + l)).getD j 0 =
        (Claims.randWord s.core.qs.rngKey s.core.qs.rngCtr j).toNat := by
      rw [List.getD_eq_getElem _ _ (by simpa using hj), List.getElem_map, List.getElem_range, randWord_toNat]
    rw [State.popRandom, randBlock, laneOf_ofLanes, hget]
    exact Nat.mod_eq_of_lt (BitVec.isLt _)

end Sys2Proof.QueueProofs

open Sys2Proof.QueueProofs

/-- Settles O20: each word comes to its effect past its checks, a scale read that passes has had nothing to wait for
(`waitEach_of_readScales`), and the generator's numbers are 64-bit words (`randWord_toNat`). -/
theorem gatherAndQueues : Obligations.GatherAndQueues := ⟨gatherAndProvenance_holds, queuePushes_holds, randomBits_holds⟩
end

section
/-!
PROOFS. Ring words at issue (R180 to R182): each comes to its effect past the check that names it.
-/
open Sys2Proof Sys2Proof.Machine Sys2Proof.Claims Sys2Proof.CoreProofs

namespace Sys2Proof.QueueProofs

/-- A ring handle reads back as it was set. -/
@[simp] theorem ring_setRing (c : Core) (n : Nat) (r : Ring) : (c.setRing n r).ring n = r := Table.get_set_same _ _ _ _

section
variable {g : Guard} {h : BitVec 3} {n : BitVec 8} {s : State}

theorem exec_rcfg {r : BitVec 5} {w : Word64} (hg : s.core.guardP g = true) (hw : s.core.readG r.toNat = .ok w)
    (hok : ringOk ⟨true, w, 0, 0, 0, 0⟩ s.core.ctl.size = true) (hfill : s.core.mine.any (·.fills h.toNat) = false) :
    exec (.rcfg g h r) s = .next (s.mod fun c =>
      c.setRing h.toNat ⟨true, w, 0, 0, if bitOf w.toNat 41 then fieldOf w.toNat 39 32 else 0, 0⟩) := by
  refine execQ_ok hg ?_
  simp only [hw, hok, hfill, Bool.not_false, Bool.and_self, need_true, bind_ok]
  rfl

theorem exec_rwait (hg : s.core.guardP g = true) (hu : ringUse (s.core.ring h.toNat) n = .ok ())
    (hn : n.toNat ≤ (s.core.ring h.toNat).count + s.core.ctx.popped.get 0 h.toNat) : exec (.rwait g h n) s = .next s := by
  refine execQ_ok hg ?_
  simp only [hu, decide_eq_false (Nat.not_lt.mpr hn), waitWhile_false, bind_ok, pure_ok]

theorem exec_rwait_stall (hg : s.core.guardP g = true) (hu : ringUse (s.core.ring h.toNat) n = .ok ())
    (hn : (s.core.ring h.toNat).count + s.core.ctx.popped.get 0 h.toNat < n.toNat) :
    exec (.rwait g h n) s = .next (s.mod fun c => { c with stall := some .stallring }) := by
  refine (execQ_of_guard hg _).trans (issue_stall ?_)
  simp only [hu, decide_eq_true hn, waitWhile_true, bind_ok, bind_error]

theorem exec_radv (hg : s.core.guardP g = true) (hu : ringUse (s.core.ring h.toNat) n = .ok ())
    (hp : (s.core.ring h.toNat).producer = false) (hn : n.toNat ≤ (s.core.ring h.toNat).count) :
    exec (.radv g h n) s = .next (s.releaseSlots h.toNat n.toNat) := by
  refine execQ_ok hg ?_
  simp only [hu, hp, decide_eq_true hn, Bool.not_false, Bool.and_self, need_true, bind_ok, pure_ok]

/-- The entry that a publication of `n` slots of ring `r` puts into the store queue (R181). -/
def publication (s : State) (r : Ring) (n : BitVec 8) : CEntry :=
  { s.entry 2 (.publish r.pm n.toNat r.ph) r.pm 0 0 with release := true }

theorem exec_rpub {r : Ring} {peer : Core} (hring : s.core.ring h.toNat = r) (hpeer : s.coreAt (s.member r.pm) = peer)
    (hg : s.core.guardP g = true) (hu : ringUse r n = .ok ()) (hp : r.producer = true) (hn : n.toNat ≤ r.count)
    (hholds : peer.holds s.core.ctl.task = true) (hrun : peer.ctl.run ≠ .idle)
    (hfits : (peer.ring r.ph).fits s.core.ctl.member = true) :
    exec (.rpub g h n) s = .next (s.mod fun c => (c.pushStore (publication s r n)).setRing h.toNat
      { r with slot := (r.slot + n.toNat) % r.cnt, count := r.count - n.toNat }) := by
  subst hring hpeer
  refine execQ_ok hg ?_
  simp only [hu, hp, decide_eq_true hn, hholds, bne_iff_ne.mpr hrun, hfits, Bool.and_self, need_true, bind_ok]
  rfl

end

end Sys2Proof.QueueProofs

open Sys2Proof.QueueProofs

/-- Settles O21: the words one by one; a publication leaves its entry and the producer's slots (`exec_rpub`). -/
theorem rings : Obligations.Rings := fun _ _ _ hg =>
  ⟨fun _ _ => exec_rcfg hg, fun _ hu =>
    ⟨exec_rwait hg hu, exec_rwait_stall hg hu, exec_radv hg hu, fun hp hn hholds hrun hfits =>
      ⟨_, _, exec_rpub rfl rfl hg hu hp hn hholds hrun hfits, rfl, rfl, rfl, ring_setRing _ _ _, rfl, rfl, rfl, rfl⟩⟩⟩
end

section
/-!
PROOFS. The global slot at issue (R184 to R206, R228, R263): transfers, translations and atomics, engine commands with their traps, and
the words that wait for memory.
-/
open Sys2Proof Sys2Proof.Machine Sys2Proof.Claims Sys2Proof.CoreProofs Sys2Proof.CycleProofs Sys2Proof.QueueProofs

namespace Sys2Proof.GlobalProofs

/-! ### Words with room in the port (R39, R184) -/

section
variable {g : Guard} {s : State} {act : State → Except Stop State}

/-- A word of the G slot under a guard that holds issues. -/
theorem execG_of_guard (hg : s.core.guardP g = true) : execG g act s = issue 10 act s := by
  rw [execG, hg, issueIf_true]

/-- With room in the port it issues as what follows that check does. -/
theorem execG_of_room (hg : s.core.guardP g = true) (hr : hasRoom s.core) :
    execG g (fun s => portRoom s.core >>= fun _ => act s) s = issue 10 act s := by
  rw [execG_of_guard hg]
  refine issue_congr ?_
  rw [(portRoom_eq_ok s.core).mpr hr, bind_ok]

end

/-! ### Transfers, translations and atomics (R186, R187, R189 to R191) -/

theorem tensorTransfers_holds : tensorTransfers := by
  intro o g td ba bb off s r hg hr hten
  refine ⟨fun d hd => execG_ok hg hr ?tile, fun h hw hfit => execG_ok hg hr ?ring, fun t x hx => execG_ok hg hr ?store⟩
  case tile => simp only [hten, hd, Bool.not_false, need_true, bind_ok, pure_ok]
  case ring => simp only [hw, hten, hfit, need_true, bind_ok, pure_ok]
  case store => simp only [hx, hten, bind_ok, pure_ok]

theorem bankWait_of_checkVault {s : State} {a n align : Nat} (h : s.checkVault a n align = .ok ()) : s.core.bankWait a n = .ok () := by
  obtain ⟨-, hbank, -⟩ := (checkVault_eq_ok s a n align).mp h
  exact hbank

/-- TSTX takes the vault's bytes as they stand, and may note that they are poisoned. -/
theorem exec_tstx {o : BitVec 3} {g : Guard} {xt bb ln : BitVec 3} {off : BitVec 32} {s : State} {va : Nat} {pa : Option Nat}
    (hg : s.core.guardP g = true) (hr : hasRoom s.core)
    (hf : s.flat xt off (64 * 2 ^ ln.toNat) 64 true (s.core.bAt bb.toNat % 64 == 0) = .ok (va, pa))
    (hv : s.checkLocal (s.core.bAt bb.toNat) (64 * 2 ^ ln.toNat) 64 = .ok ())
    (ha : s.core.acquirePending s.core.bundles = false) : ∃ l, exec (.tstx o g xt bb ln off) s =
      .next ((s.mod fun c => { c with boundary := l }).enter
        (s.word o (.tstx va pa (s.core.vault.bytes (s.core.bAt bb.toNat) (64 * 2 ^ ln.toNat))) s.cur 0)) := by
  obtain ⟨hbring, hbank⟩ := waits_over_of_checkLocal hv
  obtain ⟨l, hl⟩ := noteRead_eq s.core 10 (s.core.bAt bb.toNat) (64 * 2 ^ ln.toNat)
  refine ⟨l, execG_ok hg hr ?_⟩
  simp only [(orderWait_plain s .stallg).mpr ha, hbring, hbank, hf, hv, bind_ok, pure_ok, State.mod, hl]
  rfl

theorem flatTransfers_holds : flatTransfers := by
  intro o g xt off s hg hr
  refine ⟨fun v acc x hx => execG_ok hg hr ?translate, fun bb ln va pa hf hv => execG_ok hg hr ?load,
    fun bb ln va pa hf hv ha => ?store, fun sz aop r d x cmp va pa hx hcmp hf => execG_ok hg hr ?atomic⟩
  case translate => simp only [hx, bind_ok, pure_ok]
  case load => simp only [bankWait_of_checkVault hv, hf, hv, bind_ok, pure_ok]
  case store =>
    obtain ⟨l, ht⟩ := exec_tstx hg hr hf hv ha
    exact ⟨_, ht, rfl, rfl, rfl, rfl⟩
  case atomic => simp only [amoSize, hx, hcmp, hf, bind_ok, pure_ok]

/-! ### Engine commands (R192) -/

section
variable {s : State} {k : CmdKind} {o bb : BitVec 3} {kc km : BitVec 4} {kr : BitVec 1} {blk : BitVec 32} {a : Nat} {b : BitVec 512}
  {check : State → BitVec 512 → Except Stop Unit} {allowed : Bool}

/-- The word that an engine command puts into the port: the command with its block, and the counter that it increments. -/
def commandWord (s : State) (k : CmdKind) (o : BitVec 3) (kc km : BitVec 4) (kr : BitVec 1) (a : Nat) (b : BitVec 512) : GEntry :=
  { s.word o (.cmd k a b) (if kr = 1 then s.member km.toNat else s.cur) kc.toNat with bad := s.core.poisoned a 64 }

/-- What a command with nothing to wait for is checked for, in the order of R192, before its word enters the port. -/
def commandChecks (s : State) (k : CmdKind) (o : BitVec 3) (kc km : BitVec 4) (kr : BitVec 1) (a : Nat) (b : BitVec 512)
    (check : State → BitVec 512 → Except Stop Unit) (allowed : Bool) : Except Stop State := do
  need allowed .priv
  s.checkLocal a 64 64
  if !s.core.poisoned a 64 then check s b
  need (kr = 0 || decide (km.toNat < s.core.ctl.size)) .crange
  return s.enter (commandWord s k o kc km kr a b)

/-- Once it has nothing to wait for, a command's checks decide. -/
theorem command_of_no_wait (ha : a = s.core.ea bb blk.toNat) (hb : b = BitVec.ofNat 512 (s.core.vault.num a 64)) (hr : hasRoom s.core)
    (hacq : s.core.acquirePending s.core.bundles = false) (hbring : s.core.bringWait a 64 = .ok ())
    (hbank : s.core.bankWait a 64 = .ok ()) (hring : s.core.commandRing k b = .ok ()) :
    s.command k o bb kc km kr blk check allowed = commandChecks s k o kc km kr a b check allowed := by
  subst hb ha
  simp only [State.command, (portRoom_eq_ok s.core).mpr hr, (orderWait_plain s .stallg).mpr hacq, hbring, hbank, hring, bind_ok, ite_self]
  rfl

theorem commandChecks_not_allowed : commandChecks s k o kc km kr a b check false = .error (.trap .priv) := rfl

/-- A command's first trap is that of its block's place. -/
theorem commandChecks_of_place {x : Stop} (h : s.checkLocal a 64 64 = .error x) :
    commandChecks s k o kc km kr a b check true = .error x := by
  simp only [commandChecks, h, need_true, bind_ok, bind_error]

/-- A block that lies where it may and is not poisoned is looked into, and then the counter's core is checked. -/
theorem commandChecks_of_block (h : s.checkLocal a 64 64 = .ok ()) (hp : s.core.poisoned a 64 = false) :
    commandChecks s k o kc km kr a b check true = check s b >>= fun _ =>
      need (kr = 0 || decide (km.toNat < s.core.ctl.size)) .crange >>= fun _ => .ok (s.enter (commandWord s k o kc km kr a b)) := by
  simp only [commandChecks, h, hp, Bool.not_false, if_true, need_true, bind_ok, pure_ok]

end

/-- An engine command's instruction is its word with its check, allowed where `allowed` says so (R192, R206). -/
def IssuesCommand (i : BitVec 3 → Guard → BitVec 3 → BitVec 4 → BitVec 4 → BitVec 1 → BitVec 32 → Instr) (k : CmdKind)
    (allowed : State → Bool) (check : State → BitVec 512 → Except Stop Unit) : Prop :=
  ∀ o g bb kc km kr blk s, exec (i o g bb kc km kr blk) s =
    execG g (fun s => s.command k o bb kc km kr blk check (allowed s)) s

section
variable {i : BitVec 3 → Guard → BitVec 3 → BitVec 4 → BitVec 4 → BitVec 1 → BitVec 32 → Instr} {k : CmdKind}
  {allowed : State → Bool} {check : State → BitVec 512 → Except Stop Unit} (hi : IssuesCommand i k allowed check)
include hi

/-- A command whose checks pass enters the port. -/
theorem IssuesCommand.commands : commands i k (allowed · = true) check := by
  intro o g bb kc km kr blk s hg hmay hr hkm hplace hp hacq hring hcheck
  obtain ⟨hbring, hbank⟩ := waits_over_of_checkLocal hplace
  have hcore : (decide (kr = 0) || decide (km.toNat < s.core.ctl.size)) = true := by
    rw [Bool.or_eq_true, decide_eq_true_eq, decide_eq_true_eq]; exact hkm
  refine ⟨_, commandWord s k o kc km kr _ _, (hi ..).trans ((execG_of_guard hg).trans (issue_ok (t := s.enter _) ?_)), rfl, rfl, rfl, rfl, hp,
    rfl, rfl, rfl, rfl, rfl⟩
  rw [command_of_no_wait rfl rfl hr hacq hbring hbank hring, hmay, commandChecks_of_block hplace hp, hcheck, bind_ok, hcore, need_true,
    bind_ok]

/-- A command with nothing to wait for whose checks trap does so. -/
theorem IssuesCommand.traps {o : BitVec 3} {g : Guard} {bb : BitVec 3} {kc km : BitVec 4} {kr : BitVec 1} {blk : BitVec 32} {s : State}
    {a : Nat} {b : BitVec 512} {x : Cause} (ha : a = s.core.ea bb blk.toNat) (hb : b = BitVec.ofNat 512 (s.core.vault.num a 64))
    (hg : s.core.guardP g = true) (hr : hasRoom s.core) (hacq : s.core.acquirePending s.core.bundles = false)
    (hland : s.core.mine.any (·.landsIn a 64) = false) (hpend : s.core.pendingIn a 64 = false)
    (hring : s.core.commandRing k b = .ok ()) (hx : commandChecks s k o kc km kr a b check (allowed s) = .error (.trap x)) :
    exec (i o g bb kc km kr blk) s = .next (takeTrap { cause := x, slot := 10 } s.cycle s) := by
  have hbring : s.core.bringWait a 64 = .ok () := (waitWhile_eq_ok _ _ _).mpr hland
  have hbank : s.core.bankWait a 64 = .ok () := (waitWhile_eq_ok _ _ _).mpr (by rw [hpend, Bool.and_false])
  exact (hi ..).trans ((execG_of_guard hg).trans (issue_trap ((command_of_no_wait ha hb hr hacq hbring hbank hring).trans hx)))

theorem IssuesCommand.commandTraps : commandTraps i k (allowed · = true) check := by
  intro o g bb kc km kr blk s a b ha hb hg hmay hr hacq hland hpend hring
  have traps : ∀ x, commandChecks s k o kc km kr a b check true = .error (.trap x) →
      exec (i o g bb kc km kr blk) s = .next (takeTrap { cause := x, slot := 10 } s.cycle s) := fun x hx =>
    hi.traps ha hb hg hr hacq hland hpend hring (hmay ▸ hx)
  refine ⟨fun x hx => traps x (commandChecks_of_place hx), fun hplace hp =>
    ⟨fun x hx => traps x ?fields, fun hok hkr hkm => traps .crange ?counter⟩⟩
  case fields => rw [commandChecks_of_block hplace hp, hx, bind_error]
  case counter =>
    have hcore : (decide (kr = 0) || decide (km.toNat < s.core.ctl.size)) = false := by
      rw [decide_eq_false (Nat.not_lt.mpr hkm), hkr]; rfl
    rw [commandChecks_of_block hplace hp, hok, bind_ok, hcore, need_false, bind_error]

end

/-- Commands that every core may issue. -/
theorem IssuesCommand.anywhere {i : BitVec 3 → Guard → BitVec 3 → BitVec 4 → BitVec 4 → BitVec 1 → BitVec 32 → Instr} {k : CmdKind}
    {check : State → BitVec 512 → Except Stop Unit} (hi : IssuesCommand i k (fun _ => true) check) :
    Claims.commands i k (fun _ => True) check ∧ Claims.commandTraps i k (fun _ => True) check :=
  ⟨fun o g bb kc km kr blk s hg _ => hi.commands o g bb kc km kr blk s hg rfl,
    fun o g bb kc km kr blk s a b ha hb hg _ => hi.commandTraps o g bb kc km kr blk s a b ha hb hg rfl⟩

theorem issuesCommand_cpy : IssuesCommand .cpy .cpy (fun _ => true) State.checkCpy := fun _ _ _ _ _ _ _ _ => rfl
theorem issuesCommand_kapp : IssuesCommand .kapp .kapp (fun _ => true) (fun _ => checkKapp) := fun _ _ _ _ _ _ _ _ => rfl
theorem issuesCommand_pmatch : IssuesCommand .pmatch .pmatch (fun _ => true) (fun _ => checkTrellis pmatchOk) :=
  fun _ _ _ _ _ _ _ _ => rfl
theorem issuesCommand_pins : IssuesCommand .pins .pins (fun _ => true) (fun _ => checkTrellis pinsOk) := fun _ _ _ _ _ _ _ _ => rfl
theorem issuesCommand_prel : IssuesCommand .prel .prel (fun _ => true) (fun _ => checkTrellis prelOk) := fun _ _ _ _ _ _ _ _ => rfl
theorem issuesCommand_blend : IssuesCommand .blend .blend (fun _ => true) (fun s => checkCollective blendOk s.core.ctx.scope) :=
  fun _ _ _ _ _ _ _ _ => rfl
theorem issuesCommand_coll : IssuesCommand .coll .coll (fun _ => true) (fun s => checkCollective collOk s.core.ctx.scope) :=
  fun _ _ _ _ _ _ _ _ => rfl
theorem issuesCommand_asn : IssuesCommand .asn .asn (fun _ => true) (fun _ => checkAsn) := fun _ _ _ _ _ _ _ _ => rfl
theorem issuesCommand_launch : IssuesCommand .launch .launch (fun s => s.dispatches s.cur) (fun _ => checkLaunch) :=
  fun _ _ _ _ _ _ _ _ => rfl
theorem issuesCommand_decant : IssuesCommand .decant .decant (fun _ => true) State.checkDecant := fun _ _ _ _ _ _ _ _ => rfl

theorem engineCommandsIssue_holds : engineCommandsIssue :=
  ⟨issuesCommand_cpy.anywhere.1, issuesCommand_kapp.anywhere.1, issuesCommand_pmatch.anywhere.1, issuesCommand_pins.anywhere.1,
    issuesCommand_prel.anywhere.1, issuesCommand_blend.anywhere.1, issuesCommand_coll.anywhere.1, issuesCommand_asn.anywhere.1,
    issuesCommand_launch.commands, issuesCommand_decant.anywhere.1⟩

theorem engineCommandTraps_holds : engineCommandTraps :=
  ⟨issuesCommand_cpy.anywhere.2, issuesCommand_kapp.anywhere.2, issuesCommand_pmatch.anywhere.2, issuesCommand_pins.anywhere.2,
    issuesCommand_prel.anywhere.2, issuesCommand_blend.anywhere.2, issuesCommand_coll.anywhere.2, issuesCommand_asn.anywhere.2,
    issuesCommand_launch.commandTraps, issuesCommand_decant.anywhere.2⟩

theorem launchNeedsDispatchCore_holds : launchNeedsDispatchCore := fun _ _ _ _ _ _ _ s hg hd hr hacq hland hpend =>
  issuesCommand_launch.traps rfl rfl hg hr hacq hland hpend rfl (by rw [hd]; exact commandChecks_not_allowed)

/-! ### FENCE, CWAIT and WAITM (R194 to R196, R263) -/

theorem fence_holds {g : Guard} {s : State} (hg : s.core.guardP g = true) (hr : hasRoom s.core) :
    (s.mayRelease s.core.bundles s.core.ctx.scope = true → exec (.fence g) s = .next (s.acquire s.core.ctx.scope)) ∧
    (s.mayRelease s.core.bundles s.core.ctx.scope = false →
      exec (.fence g) s = .next (s.mod fun c => { c with stall := some .stallg })) := by
  refine ⟨fun h => execG_ok hg hr ?performed, fun h => (execG_of_room hg hr).trans (issue_stall ?waits)⟩
  case performed => simp only [h, Bool.not_true, waitWhile_false, bind_ok, pure_ok]
  case waits => simp only [h, Bool.not_false, waitWhile_true, bind_error]

/-- The line that WAITM compares with: the one kept from its first look, or the one that it finds now (R196). -/
def keptLine (s : State) (line : BitVec 512) : Option (BitVec 512) := (s.core.waiting.bind (·.line)) <|> some line

/-- With what WAITM issues when it finds `line`, if it does (R196): the line has changed, a pre-emption request, its limit, in that order
(log entry 116). -/
def waitmOutcome (s : State) (line : BitVec 512) (lim : Nat) : Option Nat :=
  if some line ≠ keptLine s line then some 1
  else if s.core.ctl.preempt then some 2
  else if (s.core.waiting.map (·.since)).getD s.cycle + lim ≤ s.cycle then some 0
  else none

section
variable {s : State} {line : BitVec 512} {lim : Nat}

theorem keptLine_of_kept {w : Waiting} {kept : BitVec 512} (hw : s.core.waiting = some w) (hk : w.line = some kept) :
    keptLine s line = some kept := by
  rw [keptLine, hw, Option.bind_some, hk]; rfl

theorem keptLine_of_same (h : ∀ w, s.core.waiting = some w → w.line = none ∨ w.line = some line) : keptLine s line = some line := by
  cases hw : s.core.waiting with
  | none => rw [keptLine, hw]; rfl
  | some w =>
    rcases h w hw with hl | hl
    · rw [keptLine, hw, Option.bind_some, hl]; rfl
    · exact keptLine_of_kept hw hl

theorem waitmOutcome_of_changed {w : Waiting} {kept : BitVec 512} (hw : s.core.waiting = some w) (hk : w.line = some kept)
    (h : line ≠ kept) : waitmOutcome s line lim = some 1 := by
  rw [waitmOutcome, keptLine_of_kept hw hk, if_pos fun heq => h (Option.some.inj heq)]

theorem waitmOutcome_of_same (h : ∀ w, s.core.waiting = some w → w.line = none ∨ w.line = some line) : waitmOutcome s line lim =
    if s.core.ctl.preempt then some 2
    else if (s.core.waiting.map (·.since)).getD s.cycle + lim ≤ s.cycle then some 0 else none := by
  rw [waitmOutcome, keptLine_of_same h, if_neg fun hne => hne rfl]

/-- A kept line, or one found now, is there. -/
theorem keptLine_isSome : (keptLine s line).isSome = true := by
  rw [keptLine]
  cases s.core.waiting.bind (·.line) <;> rfl

end

/-- WAITM has nothing to wait for but its line, which it finds as `line`; its look leaves `s'`. -/
structure watches (s s' : State) (va lim : Word64) (a t : BitVec 5) (line : BitVec 512) : Prop where
  room : hasRoom s.core
  addr : s.core.readG a.toNat = .ok va
  limit : s.core.readG t.toNat = .ok lim
  order : s.orderWait 0 .stallg = .ok ()
  aligned : va.toNat % 64 = 0
  sound : ∀ w, s.core.waiting = some w → w.bad = false
  found : s.watched (va.toNat % 2 ^ 57) = .ok (some line, false, s')

namespace watches
variable {s s' : State} {va lim : Word64} {a t : BitVec 5} {line : BitVec 512} (h : watches s s' va lim a t line) {o : BitVec 3}
  {g : Guard} {d : BitVec 5} (hg : s.core.guardP g = true)
include h hg

/-- It issues with its outcome, or goes on watching. -/
theorem exec_waitm : exec (.waitm o g d a t) s = issue 10 (fun s =>
    match waitmOutcome s line (lim.toNat % 2 ^ 32) with
    | none => .error (.watch (keptLine s line) (s'.mod fun c => { c with
        waiting := some { since := (s.core.waiting.map (·.since)).getD s.cycle, line := keptLine s line, bad := false } }))
    | some x => .ok ((s'.orderAfter o).result 10 1 (.g (s.core.gKey d.toNat)) x (ones 64) 0)) s := by
  have haligned : (va.toNat % 2 ^ 57 % 64 == 0) = true := by
    have halign := h.aligned
    rw [beq_iff_eq]; omega
  have hsound : (s.core.waiting.map (·.bad)).getD false = false := by
    cases hw : s.core.waiting with
    | none => rfl
    | some w => exact h.sound w hw
  have hkept : ((s.core.waiting.bind (·.line)) <|> some line).isSome = true := keptLine_isSome
  refine (execG_of_room hg h.room).trans (issue_congr ?_)
  simp only [h.addr, h.limit, h.order, h.found, haligned, hsound, need_true, bind_ok, pure_ok, Option.isSome_some, Bool.true_and,
    Bool.or_false, Bool.false_eq_true, if_false, hkept, decide_eq_true_eq]
  rfl

theorem issues {x : Nat} (hx : waitmOutcome s line (lim.toNat % 2 ^ 32) = some x) :
    exec (.waitm o g d a t) s = .next ((s'.orderAfter o).result 10 1 (.g (s.core.gKey d.toNat)) x (ones 64) 0) := by
  rw [h.exec_waitm hg]
  refine issue_ok ?_
  simp only [hx]

theorem waits (hx : waitmOutcome s line (lim.toNat % 2 ^ 32) = none) :
    exec (.waitm o g d a t) s = .next (s'.mod fun c => { c with
      stall := some .stallg
      waiting := some { since := (s.core.waiting.map (·.since)).getD s.cycle, line := keptLine s line, bad := false } }) := by
  rw [h.exec_waitm hg, issue]
  simp only [hx, State.mod, Core.keepWaiting, keptLine_isSome, if_true]

end watches

theorem isAcquire_eq_getLsbD (o : BitVec 3) : isAcquire o = o.getLsbD 0 := by
  rw [isAcquire, bitOf_eq_testBit]; rfl

end Sys2Proof.GlobalProofs

open Sys2Proof.GlobalProofs

/-- Settles O16: each word enters the port once its checks pass, and TSTX notes at most that its bytes are poisoned (`exec_tstx`). -/
theorem globalTransfers : Obligations.GlobalTransfers := ⟨tensorTransfers_holds, flatTransfers_holds⟩

/-- Settles O17: a command with nothing to wait for is decided by its checks (`command_of_no_wait`), one after the other. -/
theorem engineCommands : Obligations.EngineCommands :=
  ⟨engineCommandsIssue_holds, engineCommandTraps_holds, launchNeedsDispatchCore_holds⟩

/-- Settles O18: with room in the port, the distance of the counter to its target decides. -/
theorem counterWait : Obligations.CounterWait := by
  intro o g kc v s x hg hr hx
  refine ⟨fun h => execG_ok hg hr ?reached, fun h => (execG_of_room hg hr).trans (issue_stall ?waits)⟩
  case reached =>
    have hover : decide (2 ^ 31 ≤ (s.core.kAt kc.toNat - x.setWidth 32).toNat) = false := decide_eq_false (Nat.not_le.mpr h)
    simp only [hx, BitVec.ofNat_toNat, hover, waitWhile_false, bind_ok, pure_ok, State.orderAfter, isAcquire_eq_getLsbD]
  case waits =>
    simp only [hx, BitVec.ofNat_toNat, decide_eq_true h, waitWhile_true, bind_ok, bind_error]

/-- Settles O19: FENCE by whether its release may take effect, WAITM by what its look at the line finds (`waitmOutcome`). -/
theorem memoryWaits : Obligations.MemoryWaits := by
  refine ⟨fun g s => fence_holds, fun o g d a t s s' va lim line hg hr hva hlim hord halign hgood hw => ?_⟩
  have hwatch : watches s s' va lim a t line := ⟨hr, hva, hlim, hord, halign, hgood, hw⟩
  refine ⟨fun w kept hwait hkept hne => hwatch.issues hg ?changed, fun hsame hpre => hwatch.issues hg ?preempted, fun hsame hpre =>
    ⟨fun hlate => hwatch.issues hg ?late, fun hearly => ⟨_, hwatch.waits hg ?early, rfl, ?line, rfl, rfl, rfl⟩⟩⟩
  case changed => exact waitmOutcome_of_changed hwait hkept hne
  case preempted => rw [waitmOutcome_of_same hsame, if_pos hpre]
  case late => rw [waitmOutcome_of_same hsame, hpre, if_neg Bool.false_ne_true, if_pos hlate]
  case early => rw [waitmOutcome_of_same hsame, hpre, if_neg Bool.false_ne_true, if_neg hearly]
  case line => exact keptLine_of_same hsame
end

section
/-!
PROOFS. A TLD into a ring (R187, R233, R234, R257): what the read of its tile leaves with the word, and what the fill of its slot leaves
of the vault, the ring and the port.
-/
open Sys2Proof Sys2Proof.Machine Sys2Proof.Claims Sys2Proof.CoreProofs Sys2Proof.CycleProofs Sys2Proof.QueueProofs Sys2Proof.ControlProofs

namespace Sys2Proof.GlobalProofs

/-! ### The tile is read (R187, R257, R265) -/

/-- A tile as a transfer reads it, with its generation; the read changes no byte of memory. -/
theorem readTile_eq_tileSeen (s : State) (n : Nat) (x : TileEntry) :
    ∃ m, s.dev.sys.readTile (dieOf n) x = ((tileSeen s n x).1, (tileSeen s n x).2, m) ∧ m.mem = s.dev.sys.mem := by
  rw [MemSys.readTile, tileSeen]
  cases s.dev.sys.tileCopy (dieOf n) x with
  | some g => dsimp only; exact ⟨_, rfl, rfl⟩
  | none => dsimp only; exact ⟨_, rfl, rfl⟩

theorem readTile_mem (m : MemSys) (d : Nat) (x : TileEntry) : (m.readTile d x).2.2.mem = m.mem := by
  rw [MemSys.readTile]
  split <;> rfl

/-- A memory system whose buffered writes differ from another's in nothing but whether their place is settled. -/
def swornMore (m k : MemSys) : Prop :=
  ∃ f : WEntry → Bool, k = { m with wbuf := m.wbuf.map fun w => { w with sworn := f w } }

section
variable {m k : MemSys} (h : swornMore m k) (d : Nat)
include h

theorem swornMore.mem : k.mem = m.mem := by
  obtain ⟨f, rfl⟩ := h
  rfl

/-- The port of a die reads the same bytes there. -/
theorem swornMore.bytes (a n : Nat) : k.bytes d false a n = m.bytes d false a n := by
  obtain ⟨f, rfl⟩ := h
  have hbuf : ∀ b (l : List WEntry), bufferedByte d b (l.map fun w => { w with sworn := f w }) = bufferedByte d b l := by
    intro b l
    induction l with
    | nil => rfl
    | cons w l ih => rw [List.map_cons, bufferedByte, bufferedByte, ih]; rfl
  simp only [MemSys.bytes, byte_unbuffered, hbuf]

/-- It finds the same generation. -/
theorem swornMore.genSeen (x : TileEntry) : k.genSeen d x = m.genSeen d x := by
  obtain ⟨f, rfl⟩ := h
  have htiles : ((m.wbuf.map fun w => { w with sworn := f w }).filter fun w => w.die == d).flatMap (·.tiles) =
      (m.wbuf.filter fun w => w.die == d).flatMap (·.tiles) := by
    rw [List.filter_map, List.flatMap_map]; rfl
  simp only [MemSys.genSeen, htiles]
  rfl

end

/-- Where no other agent's write waits, a die's writes to a tile take their place at once (R265). -/
theorem swear_of_own {m : MemSys} {d : Nat} {x : TileEntry} (hw : ∀ w ∈ m.wbuf, w.die = d) (hq : m.hostq = []) :
    swornMore m (m.swear d x) := by
  have hord : m.inOrder { die := d, addr := x.addr, data := [], tiles := [x.mark false], sworn := true } = m := by
    have hothers : (m.wbuf.filter fun w => w.die != d && (w.sworn || true) && w.shares
        { die := d, addr := x.addr, data := [], tiles := [x.mark false], sworn := true }) = [] := by
      rw [List.filter_eq_nil_iff]
      intro w hmem
      simp [hw w hmem]
    simp only [MemSys.inOrder, hq, List.any_nil, Bool.and_false, Bool.false_eq_true, if_false, hothers, List.foldl_nil]
  refine ⟨fun w => (w.die == d && w.tiles.any fun t => t.entry == x.at_) || w.sworn, ?_⟩
  simp only [MemSys.swear, hord]
  congr 1
  refine List.map_congr_left fun w _ => ?_
  cases hc : (w.die == d && w.tiles.any fun t => t.entry == x.at_) <;> rfl

theorem performWord_tldRing {u : State} {e : GEntry} {h : Nat} {r : TileRef} (hop : e.op = .tldRing h r) :
    u.performWord e = u.readSlot e h r := by
  rw [State.performWord, hop]

section
variable {s : State} {n ix h : Nat} {e : GEntry} {r : TileRef} {x : TileEntry}

/-- What a read of its tile leaves with a word: `g` stands with it, and nothing else of its core changes. -/
theorem slot_read (hmay : mayArrive s n ix e) (hop : e.op = .tldRing h r) {m : MemSys} {g : Nat × List Byte}
    (hread : (s.turnTo n).readSlot e h r = ((s.turnTo n).sys fun _ => m).updateEntry { e with got := some g }) :
    ∃ t, exec (.transferArrival n ix) s = .next t ∧
      t.coreAt n = { s.coreAt n with port := (s.coreAt n).port.map fun y => if y.same e then { e with got := some g } else y } ∧
      t.dev.sys = m := by
  obtain ⟨t, ht, hcore, hdev⟩ := arrives_of_performs hmay ((performWord_tldRing hop).trans hread) (turnTo_cur s n)
  refine ⟨t, ht, ?_, by rw [hdev]; rfl⟩
  rw [hcore, State.updateEntry, State.mod_core, State.sys_core, turnTo_core]
  rfl

variable (hgot : e.got = none) (hreach : (s.turnTo n).reach r = .ok x) (hhere : x.here = true)
include hgot hreach hhere

/-- A tile that no write of the die is on its way to is read as every transfer reads it. -/
theorem slot_reads_tile (hu : s.dev.sys.under (dieOf n) x.addr 4096 = false) :
    ∃ m, m.mem = s.dev.sys.mem ∧ (s.turnTo n).readSlot e h r = ((s.turnTo n).sys fun _ => m).updateEntry { e with
      got := some (slotHeader (tileSeen s n x).2 0 false x.poisoned, (tileSeen s n x).1) } := by
  obtain ⟨m, hread, hmem⟩ := readTile_eq_tileSeen s n x
  refine ⟨m, hmem, ?_⟩
  simp only [State.readSlot, hgot, hreach, hhere, turnTo_dev, turnTo_cur, hu, hread, Option.isSome_none, Bool.and_false,
    Bool.false_eq_true, if_false, if_true]

/-- A tile that the die's own port still writes is read as that port has it (log entry 130). -/
theorem slot_reads_own_tile (hu : s.dev.sys.under (dieOf n) x.addr 4096 = true) (hw : ∀ w ∈ s.dev.sys.wbuf, w.die = dieOf n)
    (hq : s.dev.sys.hostq = []) :
    ∃ m, m.mem = s.dev.sys.mem ∧ (s.turnTo n).readSlot e h r = ((s.turnTo n).sys fun _ => m).updateEntry { e with
      got := some (slotHeader (s.dev.sys.genSeen (dieOf n) x) 0 false x.poisoned, s.dev.sys.bytes (dieOf n) false x.addr 4096) } := by
  have hsworn := swear_of_own (x := x) hw hq
  refine ⟨_, (readTile_mem (s.dev.sys.swear (dieOf n) x) (dieOf n) x).trans hsworn.mem, ?_⟩
  simp only [State.readSlot, hgot, hreach, hhere, turnTo_dev, turnTo_cur, hu, hsworn.genSeen, hsworn.bytes, Option.isSome_none,
    Bool.and_self, Bool.false_eq_true, if_false, if_true]

end

/-! ### The slot is filled (R187, R233, R234) -/

/-- What stands in a slot: its header in 128 bytes, and the tile (R233, R234). -/
def slotBytes (hd : Nat) (data : List Byte) : List Byte := leBytes 8 hd ++ List.replicate 120 0 ++ data

theorem slotBytes_length (hd : Nat) {data : List Byte} (h : data.length = 4096) : (slotBytes hd data).length = 4224 := by
  rw [slotBytes, List.length_append, List.length_append, leBytes_length, List.length_replicate, h]

/-- A core on which the next free slot of ring `h` has been published (R187). -/
def published (h : Nat) (c : Core) : Core :=
  c.setRing h { c.ring h with
    count := (c.ring h).count + 1, fill := if (c.ring h).cnt = 0 then 0 else ((c.ring h).fill + 1) % (c.ring h).cnt }

/-- A core whose next free slot of ring `h` the word `e` has written, if it had not before. -/
def slotWritten (e : GEntry) (h : Nat) (bs : List Byte) (undo : List (Nat × Nat × Byte)) (poison : Table Bool) (c : Core) : Core :=
  if e.started then c else stored ((c.ring h).slotAt (c.ring h).fill) bs undo poison c

section
variable {e : GEntry} {h : Nat} {bs : List Byte} {undo : List (Nat × Nat × Byte)} {poison : Table Bool} {c : Core}

theorem slotWritten_frame : (slotWritten e h bs undo poison c).regs = c.regs ∧ (slotWritten e h bs undo poison c).port = c.port ∧
    (slotWritten e h bs undo poison c).boundary = c.boundary ∧ (slotWritten e h bs undo poison c).ctl = c.ctl := by
  unfold slotWritten
  split <;> exact ⟨rfl, rfl, rfl, rfl⟩

/-- The slot holds what the word writes, or what it has written before. -/
theorem slotWritten_bytes {n : Nat} (hn : bs.length = n) :
    (slotWritten e h bs undo poison c).vault.bytes ((c.ring h).slotAt (c.ring h).fill) n =
      if e.started then c.vault.bytes ((c.ring h).slotAt (c.ring h).fill) n else bs := by
  unfold slotWritten
  split
  · rfl
  · rw [stored_vault, ← hn, Memory.bytes_store]

/-- Bytes beside the slot stay. -/
theorem slotWritten_read {a : Nat} (ha : a < (c.ring h).slotAt (c.ring h).fill ∨ (c.ring h).slotAt (c.ring h).fill + bs.length ≤ a) :
    (slotWritten e h bs undo poison c).vault.read a = c.vault.read a := by
  unfold slotWritten
  split
  · rfl
  · rw [stored_vault, Memory.read_store_other _ _ _ _ ha]

end

section
variable {u : State} {e : GEntry} {h : Nat}

/-- The registers of a task are those of the core that it runs on. -/
theorem view_current (ht : u.core.ctl.task = e.task) : u.view e.task = u.core := by
  have hh : (u.coreAt u.cur).holds e.task = true := by rw [coreAt_cur, Core.holds, ht]; exact beq_self_eq_true _
  rw [State.view, State.ownerCore, if_pos hh, coreAt_cur]

theorem publishSlot_current (ht : u.core.ctl.task = e.task) : u.publishSlot e.task h = u.mod (published h) := by
  rw [State.publishSlot, view_current ht, modOwner_current ht]
  rfl

/-- A word fills its slot in its own core's vault, where no bank is saved and none retained (R187). -/
theorem fillSlot_own (hhome : atHome u u.cur e) (hd : Nat) (data : List Byte) :
    ∃ q p, u.fillSlot e h hd data = u.mod fun c => published h (slotWritten e h (slotBytes hd data) q p c) := by
  obtain ⟨q, p, hw⟩ := engineWrite_own rfl hhome.task hhome.retained hhome.saved ((u.core.ring h).slotAt (u.core.ring h).fill)
    (slotBytes hd data)
  refine ⟨q, p, ?_⟩
  rw [State.fillSlot]
  cases hs : e.started with
  | true =>
    rw [if_pos rfl, publishSlot_current hhome.task]
    simp only [State.mod, slotWritten, hs, if_true]
  | false =>
    have hwrite : u.writeSlot e.task h hd data = u.mod (stored ((u.core.ring h).slotAt (u.core.ring h).fill) (slotBytes hd data) q p) := by
      rw [← hw, State.writeSlot, view_current hhome.task]; rfl
    rw [if_neg Bool.false_ne_true, hwrite, publishSlot_current (by exact hhome.task)]
    simp only [State.mod, slotWritten, hs, Bool.false_eq_true, if_false]

/-- A word that leaves the port changes nothing else of its core, where no bank is pending. -/
theorem retire_coreAt (hp : u.core.ctl.pendingBanks = 0) : (u.retire e).coreAt u.cur = withoutWord e u.core := by
  have released : ∀ v : State, v.cur = u.cur → v.core = withoutWord e u.core →
      (v.releaseEnded u.cur).coreAt u.cur = withoutWord e u.core := by
    intro v hcur hcore
    rw [← hcur, releaseEnded_coreAt (by rw [coreAt_cur, hcore]; exact hp), coreAt_cur, hcore]
  rw [State.retire]
  cases e.acquire with
  | false => exact released _ rfl rfl
  | true => exact released _ rfl rfl

/-- A word with its tile whose turn it is publishes it and leaves the port (R187). -/
theorem publishTile_coreAt {ix hd : Nat} {data : List Byte} (hhome : atHome u u.cur e) (hgot : e.got = some (hd, data))
    (hturn : u.fillTurn ix e h = true) : ∃ q p, (u.publishTile ix e h).coreAt u.cur =
      withoutWord e (noteBad (bitOf hd 5) (published h (slotWritten e h (slotBytes hd data) q p u.core))) := by
  obtain ⟨q, p, hfill⟩ := fillSlot_own (h := h) hhome hd data
  have hctl : (published h (slotWritten e h (slotBytes hd data) q p u.core)).ctl = u.core.ctl := by
    obtain ⟨-, -, -, hc⟩ := slotWritten_frame (e := e) (h := h) (bs := slotBytes hd data) (undo := q) (poison := p) (c := u.core)
    exact hc
  refine ⟨q, p, ?_⟩
  simp only [State.publishTile, hgot, hturn, Bool.not_true, Bool.false_eq_true, if_false, hfill]
  rw [poison_running (by rw [State.mod_core, hctl]; exact hhome.task) (by rw [State.mod_core, hctl]; exact hhome.run)]
  exact retire_coreAt (u := (u.mod _).mod _) (by rw [State.mod_core, noteBad_ctl, State.mod_core, hctl]; exact hhome.settled)

end

/-- RING_SLOT_FILL of a word with its tile publishes it. -/
theorem ringSlotFill_publishes {s : State} {n ix h : Nat} {e : GEntry} {r : TileRef} {g : Nat × List Byte} (hn : n < 512)
    (hport : (s.coreAt n).port[ix]? = some e) (hop : e.op = .tldRing h r) (hfin : e.finished = none) (hfault : e.faulted = none)
    (hover : (s.turnTo n).isOver e.task = false) (hgot : e.got = some g) :
    exec (.ringSlotFill n ix) s = .next (s.on n (·.publishTile ix e h)) := by
  refine (onCore_of_lt _ s hn).trans ?_
  rw [on_congr (g := (·.publishTile ix e h)) (by
    simp only [turnTo_core, hport, hop, hfin, hfault, hover, hgot, Option.isSome_none, Option.isNone_some, Option.isNone_none,
      Bool.or_self, Bool.false_and, Bool.false_eq_true, if_false, if_true])]

/-- The turn of a fill that need not wait, with no earlier word of its ring. -/
theorem fillTurn_of_first {u : State} {ix h : Nat} {e : GEntry} (hw : u.fillWaits e h = false)
    (hfirst : ∀ f ∈ u.core.port.take ix, f.task = e.task → sameRing e.op f.op = false) : u.fillTurn ix e h = true := by
  have hnone : ((u.core.port.take ix).any fun f => f.task == e.task && sameRing e.op f.op) = false := by
    rw [List.any_eq_false]
    intro f hf
    rw [Bool.and_eq_true, beq_iff_eq]
    rintro ⟨ht, hr⟩
    exact Bool.false_ne_true ((hfirst f hf ht).symm.trans hr)
  rw [State.fillTurn, hw, hnone]; rfl

end Sys2Proof.GlobalProofs

open Sys2Proof.GlobalProofs

/-- Settles O34: an arrival leaves the tile with its word, by the two ways in which it is read, and a fill writes, publishes and retires. -/
theorem ringSlots : Obligations.RingSlots := by
  intro n ix s c e h r hn hc hset hport hop hfin hfault htask hrun hover
  subst hc
  have hmay : (s.turnTo n).mayTransfer ix e = true → mayArrive s n ix e := fun hm => ⟨hn, hport, hm, htask, hrun, hset⟩
  refine ⟨fun x hgot hm hreach hhere hu => ?reads, fun x hgot hm hreach hhere hu hw hq => ?readsOwn,
    fun hd data hgot hlen hret hwait hfirst hsaved => ?fills⟩
  case reads =>
    obtain ⟨m, hmem, hread⟩ := slot_reads_tile hgot hreach hhere hu
    obtain ⟨t, ht, hcore, hsys⟩ := slot_read (hmay hm) hop hread
    exact ⟨t, ht, by rw [hcore], by rw [hcore], by rw [hcore], by rw [hsys, hmem]⟩
  case readsOwn =>
    obtain ⟨m, hmem, hread⟩ := slot_reads_own_tile hgot hreach hhere hu hw hq
    obtain ⟨t, ht, hcore, hsys⟩ := slot_read (hmay hm) hop hread
    exact ⟨t, ht, by rw [hcore], by rw [hcore], by rw [hcore], by rw [hsys, hmem]⟩
  case fills =>
    have hhome : atHome (s.turnTo n) (s.turnTo n).cur e :=
      ⟨rfl, by rw [turnTo_core]; exact htask.symm, by rw [turnTo_core]; exact hrun, by rw [turnTo_core]; exact hret,
        by rw [turnTo_cur]; exact hsaved, by rw [turnTo_core]; exact hset⟩
    obtain ⟨q, p, hcore⟩ := publishTile_coreAt hhome hgot (fillTurn_of_first hwait (by rw [turnTo_core]; exact hfirst))
    rw [turnTo_cur, turnTo_core] at hcore
    obtain ⟨hregs, hport', hbound, -⟩ := slotWritten_frame (e := e) (h := h) (bs := slotBytes hd data) (undo := q) (poison := p)
      (c := s.coreAt n)
    have hring : (slotWritten e h (slotBytes hd data) q p (s.coreAt n)).ring h = (s.coreAt n).ring h := by
      rw [Core.ring, hregs]; rfl
    have hbytes := slotBytes_length hd hlen
    refine ⟨_, ringSlotFill_publishes hn hport hop hfin hfault hover hgot, ?_⟩
    rw [coreAt_on, hcore]
    refine ⟨?_, slotWritten_bytes hbytes, fun a ha => slotWritten_read (by rwa [hbytes]), ?_, ?_⟩
    · exact (ring_setRing _ _ _).trans (by rw [hring])
    · rw [withoutWord_boundary, noteBad_boundary]
      exact congrArg (· ++ _) hbound
    · rw [withoutWord_port, noteBad_port]
      exact congrArg _ hport'
end

section
/-!
PROOFS. The fabric (R203, R359, R361, R362, R364, R374, R384): a packet in its turn, the first packet of a collective, connections that
open and fail, and replays counted.
-/
open Sys2Proof Sys2Proof.Machine Sys2Proof.Claims Sys2Proof.CoreProofs Sys2Proof.CycleProofs Sys2Proof.ControlProofs

namespace Sys2Proof.GlobalProofs

/-! ### One connection with nothing waiting (R359) -/

section
variable {f : Fabric} {c k : Conn} {id : Nat}

theorem pump_of_empty (h : f.outbox = []) : f.pump = f := by
  rw [Fabric.pump, h, List.foldl_nil, ← h]

theorem conn_of_one (h : f.conns = [c]) (hid : c.id = id) (hup : c.up = true) : f.conn id = some c := by
  simp [Fabric.conn, h, hid, hup]

theorem conn_of_closed (h : f.conns = [c]) (hup : c.up = false) : f.conn id = none := by
  simp [Fabric.conn, h, hup]

theorem setConn_of_one (h : f.conns = [c]) (hid : k.id = c.id) : f.setConn k = { f with conns := [k] } := by
  rw [Fabric.setConn, h, List.map_cons, List.map_nil, if_pos hid.symm]

theorem setConn_self (h : f.conns = [c]) : f.setConn c = f := by
  rw [setConn_of_one h rfl, ← h]

end

theorem fabric_self {s : State} {g : Fabric → Fabric} (h : g s.dev.fabric = s.dev.fabric) : s.fabric g = s := by
  rw [State.fabric, h]

theorem sys_self {s : State} {g : MemSys → MemSys} (h : g s.dev.sys = s.dev.sys) : s.sys g = s := by
  rw [State.sys, h]

/-! ### A packet in its turn (R358 to R360) -/

section
variable {s : State} {p : Packet} {c : Conn} (h : inTurn s p c)
include h

/-- Its acknowledgement finds nothing that waits for one. -/
theorem takeAck_inTurn : s.takeAck c p = s := by
  obtain ⟨hconns, -, -, hunacked, -, -, hnak, hece, -, -, hw, -, hout⟩ := h
  have hsame : ({ c with window := c.window, unacked := c.unacked.filter fun x => !seqBefore x.seq p.ackSeq } : Conn) = c := by
    rw [hunacked, List.filter_nil, ← hunacked]
  have hbuf : ∀ q : WEntry → Bool, s.sys (fun m => { m with wbuf := m.wbuf.filter q }) = s := fun q =>
    sys_self (by rw [hw, List.filter_nil, ← hw])
  simp only [State.takeAck, hece, hnak, Bool.false_eq_true, if_false, hsame, hbuf]
  rw [fabric_self (g := (·.setConn c)) (setConn_self hconns), fabric_self (pump_of_empty hout)]

/-- It takes its connection's next SEQ. -/
theorem take_inTurn : c.take p.seq = { c with rxNext := c.rxNext + 1 } := by
  obtain ⟨-, -, -, -, hearly, hseq, -⟩ := h
  have hnext : advance c.early (c.early.length + 1) (c.rxNext + 1) = c.rxNext + 1 := by
    rw [hearly]; rfl
  have hkept : (c.early.filter fun q => seqBefore (c.rxNext + 1) q) = c.early := by
    rw [hearly]; rfl
  simp only [Conn.take, if_pos hseq, hnext, hkept]

theorem not_seen_inTurn : c.hasSeen p.seq = false := by
  obtain ⟨-, -, -, -, hearly, hseq, -⟩ := h
  simp [Conn.hasSeen, seqBefore, hearly, hseq]

/-- A legal packet in its turn has its effect once, and is acknowledged. -/
theorem receivePacket_inTurn {inOrder legal : Bool} {can : State → Conn → Bool} (effect : Conn → State → State) (hlegal : legal = true)
    (hcan : can s c = true) : s.receivePacket p inOrder legal can effect =
      (effect { c with rxNext := c.rxNext + 1 } (s.fabric fun f => { f with conns := [{ c with rxNext := c.rxNext + 1 }] })).reply c.id
        false p.ce := by
  have hack := takeAck_inTurn h
  have hseen := not_seen_inTurn h
  have htake := take_inTurn h
  obtain ⟨hconns, hid, hup, -, -, hseq, -, -, hlen, hmax, -, hver, -⟩ := h
  have hconn : s.dev.fabric.conn p.conn = some c := conn_of_one hconns hid hup
  have hset : s.fabric (·.setConn { c with rxNext := c.rxNext + 1 }) =
      s.fabric fun f => { f with conns := [{ c with rxNext := c.rxNext + 1 }] } := by
    simp only [State.fabric, setConn_of_one (k := { c with rxNext := c.rxNext + 1 }) hconns rfl]
  have hfits : ¬ p.payload.length > 8192 := by omega
  have hnext : (p.seq != c.rxNext) = false := by rw [hseq]; exact bne_self_eq_false _
  simp only [State.receivePacket, hconn, hver, hlegal, hack, hseen, hnext, hcan, htake, hset, hfits, Option.getD_some]
  simp

end

/-- The reply of a connection that has taken a packet acknowledges it (R359). -/
theorem acknowledged_reply {s u : State} {c k : Conn} {ce : Bool} {more : Nat} (hconns : u.dev.fabric.conns = [k]) (hid : k.id = c.id)
    (hup : k.up = true) (hnext : k.rxNext = c.rxNext + 1) (hwire : u.dev.fabric.wire.length = s.dev.fabric.wire.length + more) :
    acknowledged s (u.reply c.id false ce) c ce more := by
  have hconn : u.dev.fabric.conn c.id = some k := conn_of_one hconns hid hup
  simp only [State.reply, hconn]
  refine ⟨⟨k, _, hconns, hnext, hid, List.getLast?_concat, rfl, hnext, ?_⟩, ?_⟩
  · cases ce <;> rfl
  · rw [State.fabric_dev_fabric, List.length_append, hwire]; rfl

theorem coreAt_reply (u : State) (id : Nat) (nak ce : Bool) (k : Nat) : (u.reply id nak ce).coreAt k = u.coreAt k := by
  unfold State.reply
  split <;> rfl

theorem colls_reply (u : State) (id : Nat) (nak ce : Bool) : (u.reply id nak ce).dev.fabric.colls = u.dev.fabric.colls := by
  unfold State.reply
  split <;> rfl

/-! ### The first packet of a collective (R203, R361) -/

/-- A use that one packet of one rank's contribution has begun: two ranks at least take part, and none of this package yet. -/
structure begun (c : Collective) (q : CollPart) : Prop where
  parts : c.parts = [q]
  contribs : c.contribs = []
  contribution : q.final = false
  alone : q.lo = q.hi
  agrees : q.sig = c.sig
  several : 2 ≤ c.sig.p
  system : isSystem c.domain = true

namespace begun
variable {c : Collective} {q : CollPart} (h : begun c q)
include h

theorem not_merged : c.merged = [] := by
  simp [Collective.merged, h.parts, h.alone]

theorem length_ranks_le : c.ranks.length ≤ 1 := by
  have hsingles : c.singles.length ≤ 1 := by
    rw [Collective.singles, h.parts]; exact List.length_filter_le _ _
  rw [Collective.ranks, h.contribs, List.map_nil, List.nil_append, List.length_map]
  exact hsingles

theorem not_complete : c.complete = false := by
  have hcount : c.count ≤ 1 := by
    simpa [Collective.count, h.not_merged] using h.length_ranks_le
  have hseveral := h.several
  rw [Collective.complete, decide_eq_false_iff_not]
  omega

theorem no_mismatch : c.mismatch = false := by
  have hnodup : c.ranks.Nodup := List.nodup_iff_count_le_one.mpr fun a => (List.count_le_length).trans h.length_ranks_le
  simp [Collective.mismatch, h.contribs, h.parts, h.agrees, hnodup]

theorem not_differs : c.differs = false := by
  simp [Collective.differs, h.parts, h.contribs, h.contribution]

theorem no_result : c.result = none := by
  simp [Collective.result, h.parts, h.contribution]

theorem nothing_to_send : c.toSend = [] := by
  simp [Collective.toSend, h.contribs]

/-- It goes on: it waits for the others (R203). -/
theorem advances {s : State} (htasks : s.dev.sched.tasks = []) : s.advanceUse c = s.fabric fun f => f.setUse c (some c) := by
  have hdoom : (s.fabric fun f => f.setUse c (some c)).doomed c = false := by
    simp [State.doomed, htasks]
  simp only [State.advanceUse, hdoom, h.not_differs, h.no_result, h.not_complete, h.system, State.sendMerged, h.no_mismatch,
    h.nothing_to_send, Bool.false_eq_true, if_false, if_true, List.foldl_nil]

end begun

section
variable (payload : List Byte)

/-- A number of a COLL packet's head (R361). -/
def headNum (a n : Nat) : Nat := leNat (((payload.take 16).drop a).take n)

/-- What a COLL packet declares (R361). -/
def packetSig : CollSig := ⟨headNum payload 6 1, headNum payload 4 2, headNum payload 8 4⟩

/-- What a COLL packet brings (R361). -/
def packetPart (peer : Nat) : CollPart :=
  ⟨headNum payload 7 1 != 0, peer, packetSig payload, headNum payload 0 2, headNum payload 2 2,
    headNum payload 12 4 * (packetSig payload).item, payload.drop 16⟩

theorem headNum_eq {a n : Nat} (h : a + n ≤ 16) : headNum payload a n = leNat ((payload.drop a).take n) := by
  rw [headNum, List.drop_take, List.take_take, min_eq_left (by omega)]

theorem headNum_one {a : Nat} (h : a < 16) : headNum payload a 1 = (payload.getD a 0).toNat := by
  rw [headNum_eq payload h, List.getD_eq_getElem?_getD]
  cases hd : payload.drop a with
  | nil => rw [List.getElem?_eq_none (List.drop_eq_nil_iff.mp hd)]; rfl
  | cons b l =>
    have hb : payload[a]? = some b := by rw [← List.head?_drop, hd]; rfl
    rw [hb]; simp [leNat]

end

/-- The domain of a packet is that of a system group. -/
theorem isSystem_groupDomain (s : State) (peer lo : Nat) (blend : Bool) (tag : Word32) :
    isSystem (s.groupDomain peer lo blend tag) = true := by
  have hsmall : ∀ (l : List Nat) (q : Nat → Bool), (∀ k ∈ l, k < 8) → (l.find? q).getD (l.headD 0) < 8 := by
    intro l q hl
    cases hq : l.find? q with
    | some k => exact hl k (List.mem_of_find?_eq_some hq)
    | none =>
      cases l with
      | nil => decide
      | cons k l => exact hl k List.mem_cons_self
  have hgroup : ∀ q : Nat → Bool, ∀ k ∈ ((List.range 7).map (· + 1)).filter q, k < 8 := by
    intro q k hk
    obtain ⟨j, hj, rfl⟩ := List.mem_map.mp (List.mem_of_mem_filter hk)
    rw [List.mem_range] at hj
    omega
  rw [isSystem, beq_iff_eq]
  unfold State.groupDomain
  extract_lets gs own l
  have hl : ∀ k ∈ l, k < 8 := by
    intro k hk
    have hsub : k ∈ gs := by
      simp only [l] at hk
      split at hk
      · exact hk
      · exact List.mem_of_mem_filter hk
    exact hgroup _ k hsub
  have := hsmall l (fun k => s.dev.fabric.colls.any fun c => c.is (4 * 2 ^ 32 + k) blend tag) hl
  omega

theorem startNext_of_none {s : State} (h : s.dev.fabric.late = []) (domain : Nat) (tag : Word32) (peer : Nat) :
    s.startNext domain tag peer = s := by
  refine fabric_self ?_
  rw [h, List.filter_nil, ← h]

/-- Where no use is under way a new one begins (R203). -/
theorem useFor_of_none {s : State} (h : s.dev.fabric.colls = []) (domain : Nat) (tag : Word32) (g : CollSig) :
    s.useFor domain tag g =
      (⟨s.dev.fabric.nextUse, domain, tag, g, [], [], []⟩, s.fabric fun f => { f with nextUse := f.nextUse + 1 }) := by
  rw [State.useFor, h]; rfl

/-- A contribution for which no use is under way begins one (R203, R361). -/
theorem takeCollPacket_begins {s : State} (hcolls : s.dev.fabric.colls = []) (hlate : s.dev.fabric.late = [])
    (htasks : s.dev.sched.tasks = []) (peer : Nat) (tag : Word32) {payload : List Byte} (hdir : payload.getD 7 0 = 0)
    (halone : (payload.drop 2).take 2 = payload.take 2) (hseveral : 2 ≤ leNat ((payload.drop 4).take 2)) :
    ∃ u : Collective, s.takeCollPacket peer tag payload =
        s.fabric (fun f => { f with colls := [u], nextUse := f.nextUse + 1 }) ∧ u.tag = tag ∧ u.contribs = [] ∧
      u.sig = packetSig payload ∧ u.parts = [packetPart payload peer] := by
  have hfinal : (packetPart payload peer).final = false := by
    have h7 : headNum payload 7 1 = 0 := by rw [headNum_one payload (by omega), hdir]; rfl
    rw [packetPart, h7]; rfl
  have hranks : (packetPart payload peer).lo = (packetPart payload peer).hi := by
    simp only [packetPart]
    rw [headNum_eq payload (by omega), headNum_eq payload (by omega), halone]; rfl
  have hp : 2 ≤ (packetSig payload).p := by
    simp only [packetSig]
    rwa [headNum_eq payload (by omega)]
  have hbegun : begun ⟨s.dev.fabric.nextUse, s.groupDomain peer (packetPart payload peer).lo (packetSig payload).blend tag, tag,
      packetSig payload, [], [packetPart payload peer], []⟩ (packetPart payload peer) :=
    ⟨rfl, rfl, hfinal, hranks, rfl, hp, isSystem_groupDomain ..⟩
  refine ⟨⟨s.dev.fabric.nextUse, s.groupDomain peer (packetPart payload peer).lo (packetSig payload).blend tag, tag,
    packetSig payload, [], [packetPart payload peer], []⟩, ?_, rfl, rfl, rfl, rfl⟩
  unfold State.takeCollPacket
  extract_lets num g part dom
  have hnew : (part.final && !(s.dev.fabric.colls.any fun c => c.is dom g.blend tag)) = false := by
    rw [show part.final = false from hfinal, Bool.false_and]
  rw [if_neg (by rw [hlate]; exact Bool.false_ne_true), if_neg (by rw [hnew]; exact Bool.false_ne_true), startNext_of_none hlate,
    useFor_of_none hcolls]
  dsimp only
  refine (hbegun.advances (s := s.fabric fun f => { f with nextUse := f.nextUse + 1 }) htasks).trans ?_
  simp only [State.fabric, Fabric.setUse, hcolls]
  rfl

theorem exec_collPacket {s t : State} {p : Packet} {c : Conn} (h : inTurn s p c) (hlen : 16 ≤ p.len)
    (ht : (s.fabric fun f => { f with conns := [{ c with rxNext := c.rxNext + 1 }] }).takeCollPacket c.peer p.tag p.payload = t) :
    exec (.collPacket p) s = .next (t.reply c.id false p.ce) := by
  have hlegal : (p.len == p.payload.length && 16 ≤ p.len) = true := by
    obtain ⟨-, -, -, -, -, -, -, -, hpayload, -⟩ := h
    simp [← hpayload, hlen]
  subst ht
  exact congrArg Host.Outcome.next (receivePacket_inTurn h (can := fun _ _ => true)
    (fun c s => s.takeCollPacket c.peer p.tag p.payload) hlegal rfl)

/-! ### Event records (R355) -/

theorem signalSource_keeps (s : State) (n : Nat) :
    (s.signalSource n).dev.fabric = s.dev.fabric ∧ (s.signalSource n).dev.mgmt.evSeq = s.dev.mgmt.evSeq := by
  unfold State.signalSource State.signal
  split
  · exact ⟨rfl, rfl⟩
  · split <;> exact ⟨rfl, rfl⟩

/-- A record takes the next number of its source, and leaves the fabric alone. -/
theorem record_keeps (s : State) (src seqAt : Nat) (bytes : List Byte) :
    (s.record src seqAt bytes).dev.fabric = s.dev.fabric ∧ recorded s (s.record src seqAt bytes) src := by
  have hseq : Table.get 0 (s.dev.mgmt.evSeq.set 0 src (s.dev.mgmt.evSeq.get 0 src + 1)) src = s.dev.mgmt.evSeq.get 0 src + 1 :=
    Table.get_set_same _ _ _ _
  unfold recorded State.record
  dsimp only
  split
  · obtain ⟨hf, he⟩ := signalSource_keeps _ src
    exact ⟨hf, by rw [he]; exact hseq⟩
  · exact ⟨rfl, hseq⟩

theorem coreAt_record (s : State) (src seqAt : Nat) (bytes : List Byte) (k : Nat) : (s.record src seqAt bytes).coreAt k = s.coreAt k :=
  (sameCores_record s src seqAt bytes).coreAt k

/-! ### Uses that end (R203, R364) -/

theorem dev_foldl {α : Type} {f : State → α → State} (hf : ∀ s x, (f s x).dev = s.dev) (l : List α) (s : State) :
    (l.foldl f s).dev = s.dev := by
  induction l generalizing s with
  | nil => rfl
  | cons x l ih => rw [List.foldl_cons, ih, hf]

/-- A use that ends changes the package in nothing but that it is over. -/
theorem finishUse_dev (s : State) (c : Collective) (outcome : GEntry → Done) :
    (s.finishUse c outcome).dev = (s.fabric fun f => f.setUse c none).dev :=
  dev_foldl (fun u (x : Contribution) => modAt_dev u x.core _) _ _

theorem collectiveTimeout_ends {s : State} {tag : Word32} {u : Collective} (hu : s.dev.fabric.colls = [u])
    (hs : isSystem u.domain = true) (ht : u.tag = tag) : exec (.collectiveTimeout tag) s = .next (s.abortUse u) := by
  have hfind : (s.dev.fabric.colls.find? fun c => isSystem c.domain && c.tag == tag) = some u := by
    simp [hu, hs, ht]
  simp only [show exec (.collectiveTimeout tag) s = execCollectiveTimeout tag s from rfl, execCollectiveTimeout, hfind]

/-! ### Retransmission and failure of a connection (R359, R362) -/

section
variable {s : State} {c : Conn} {x : OutPacket} {id : Nat} (hconns : s.dev.fabric.conns = [c]) (hid : c.id = id) (hup : c.up = true)
  (hx : c.unacked = [x])
include hconns hid hup hx

/-- A timeout sends the oldest packet again, or has the connection fail. -/
theorem exec_retransmitTimeout : exec (.retransmitTimeout id) s =
    .next (if 8 ≤ x.sends then s.failConn c else s.resend c fun y => y.seq == x.seq) := by
  have hconn : s.dev.fabric.conn id = some c := conn_of_one hconns hid hup
  simp only [show exec (.retransmitTimeout id) s = execRetransmitTimeout id s from rfl, execRetransmitTimeout, hconn, hx]

end

/-- The oldest packet goes again as it was, sent once more often. -/
theorem resend_wire {s : State} {c : Conn} {x : OutPacket} (hx : c.unacked = [x]) (hs : x.sends < 8) :
    (s.resend c fun y => y.seq == x.seq).dev.fabric.wire = s.dev.fabric.wire ++ [{ x with sends := x.sends + 1 }] := by
  simp [State.resend, State.countMore, State.fabric, Fabric.resend, hx, hs, OutPacket.again]

/-- Where no write waits, none is dropped. -/
theorem dropEntries_of_none {s : State} (h : s.dev.sys.wbuf = []) (gone : WEntry → Bool) : s.dropEntries gone = s := by
  simp only [State.dropEntries, h, List.filter_nil, List.foldl_nil]
  exact sys_self (by rw [h, List.filter_nil, ← h])

/-- Where no address space is mapped, no mapping is withdrawn. -/
theorem withdraw_of_none {s : State} (h : s.dev.sys.asids = []) (a n : Nat) : s.withdraw a n = s := by
  have hnone : s.entriesAt a n = [] := by rw [State.entriesAt, h]; rfl
  rw [State.withdraw, hnone, List.foldl_nil, State.withdrawPages, h, List.foldl_nil]

theorem abortWhere_of_none {s : State} (h : s.dev.fabric.colls = []) (p : Collective → Bool) : s.abortWhere p = s := by
  rw [State.abortWhere, h]; rfl

/-- The fabric once a connection is closed (R362): it is down, what waited for room behind it is gone, and what it still had to read
arrives as an error. -/
def closedFabric (f : Fabric) (c : Conn) : Fabric :=
  { f.setConn { c with up := false, unacked := [], early := [], readsOut := [] } with
    outbox := f.outbox.filter (·.1 != c.peer)
    arrived := f.arrived ++ (c.readsOut.filter (·.2.1 < 512)).map fun r => ⟨r.2.1, r.2.2.1, r.2.2.2, [], true⟩ }

theorem closedFabric_conn {f : Fabric} {c : Conn} (h : f.conns = [c]) (id : Nat) : (closedFabric f c).conn id = none :=
  conn_of_closed (congrArg Fabric.conns
    (setConn_of_one (k := { c with up := false, unacked := [], early := [], readsOut := [] }) h rfl)) rfl

section
variable {s : State} (hw : s.dev.sys.wbuf = []) (hcolls : s.dev.fabric.colls = [])
include hw hcolls

/-- With no write and no use under way, a connection that closes changes its fabric alone. -/
theorem closeConn_of_idle (c : Conn) : s.closeConn c = s.fabric fun f => closedFabric f c := by
  rw [State.closeConn, dropEntries_of_none (by exact hw), abortWhere_of_none (by exact hcolls)]
  rfl

/-- With no mapping either, its failure is recorded, and no more. -/
theorem failConn_of_idle (hasids : s.dev.sys.asids = []) (c : Conn) :
    ∃ bytes, s.failConn c = (s.fabric fun f => closedFabric f c).record 7 0 bytes := by
  rw [State.failConn, closeConn_of_idle hw hcolls, withdraw_of_none (by exact hasids)]
  exact ⟨_, rfl⟩

end

/-! ### A connection that opens (R359, R384) -/

/-- A connection as it opens: nothing sent, nothing taken. -/
def freshConn (id peer : Nat) : Conn :=
  { id := id, peer := peer, up := true, txSeq := 0, rxNext := 0, window := 256, unacked := [], early := [], nextTag := 0, readsOut := [] }

/-- With a package of a shared group, where there is no connection yet, it opens, and is recorded. -/
theorem exec_connectionOpen {s : State} {peer : Nat} (hrun : s.dev.trust.running = true) (hpeer : peer < 512)
    (hgroup : ∃ g ∈ s.dev.fabric.groups, peer ∈ g.2) (hconns : s.dev.fabric.conns = []) (hout : s.dev.fabric.outbox = []) (id : Nat) :
    ∃ bytes, exec (.connectionOpen id peer) s =
      .next ((s.fabric fun f => { f with conns := [freshConn id peer] }).record 7 0 bytes) := by
  have hshared : (s.dev.fabric.groups.any fun g => decide (peer < 512) && g.2.contains peer) = true := by
    obtain ⟨g, hg, hmem⟩ := hgroup
    exact List.any_eq_true.mpr ⟨g, hg, by simp [hpeer, hmem]⟩
  have hto : s.dev.fabric.connTo peer = none := by simp [Fabric.connTo, hconns]
  have hid : s.dev.fabric.conn id = none := by simp [Fabric.conn, hconns]
  have hnew : (s.fabric fun f => Fabric.pump { f with conns := (f.conns.filter fun x => x.id != id) ++ [freshConn id peer] }) =
      s.fabric fun f => { f with conns := [freshConn id peer] } := by
    simp only [State.fabric, hconns, List.filter_nil, List.nil_append]
    rw [pump_of_empty (by exact hout)]
  simp only [show exec (.connectionOpen id peer) s = execConnectionOpen id peer s from rfl, execConnectionOpen, hrun, hshared, hto, hid,
    Bool.not_true, Option.isSome_none, Bool.or_false, Bool.false_eq_true, if_false]
  rw [← freshConn, hnew]
  exact ⟨_, rfl⟩

/-! ### Counts of a link (R374, R381, R384) -/

theorem countFor_get (s : State) (key k : Nat) :
    (s.countFor key).dev.health.corrected.get 0 k = s.dev.health.corrected.get 0 k + if k = key then 1 else 0 := by
  simp only [State.countFor, State.countMore, Table.get_set]
  split
  · next h => rw [h]
  · rfl

theorem sum_map_add_count (f : Nat → Nat) (a : Nat) (l : List Nat) :
    (l.map fun x => f x + if x = a then 1 else 0).sum = (l.map f).sum + l.count a := by
  induction l with
  | nil => rfl
  | cons x l ih =>
    simp only [List.map_cons, List.sum_cons, ih, List.count_cons, beq_iff_eq]
    omega

/-- A count of a link grows with that of the link itself and with those of its lanes. -/
theorem linkCount_countFor (s : State) (key kind unit : Nat) : (s.countFor key).linkCount kind unit = s.linkCount kind unit +
    (if (16 + kind) * 2 ^ 48 + unit = key then 1 else 0) + ((lanesOfLink kind unit).map (4 * 2 ^ 48 + ·)).count key := by
  have hlanes := sum_map_add_count (s.dev.health.corrected.get 0) key ((lanesOfLink kind unit).map (4 * 2 ^ 48 + ·))
  simp only [List.map_map, Function.comp_def] at hlanes
  simp only [State.linkCount, countFor_get]
  rw [hlanes]
  omega

theorem lt_of_mem_lanesOfLink {kind unit l : Nat} (hunit : unit < 2 ^ 16) (h : l ∈ lanesOfLink kind unit) : l < 2 ^ 48 := by
  unfold lanesOfLink at h
  split at h
  · obtain ⟨j, hj, rfl⟩ := List.mem_map.mp h
    rw [List.mem_range] at hj
    omega
  · split at h
    · obtain ⟨j, hj, rfl⟩ := List.mem_map.mp h
      rw [List.mem_range] at hj
      simp only [serdesBase]
      omega
    · cases h

/-- A replay of a link counts once for it, where its key is no lane's. -/
theorem linkCount_of_link (s : State) {kind unit : Nat} (hunit : unit < 2 ^ 16) :
    (s.countFor ((16 + kind) * 2 ^ 48 + unit)).linkCount kind unit = s.linkCount kind unit + 1 := by
  have hlanes : ((lanesOfLink kind unit).map (4 * 2 ^ 48 + ·)).count ((16 + kind) * 2 ^ 48 + unit) = 0 := by
    refine List.count_eq_zero.mpr fun hmem => ?_
    obtain ⟨l, hl, heq⟩ := List.mem_map.mp hmem
    have := lt_of_mem_lanesOfLink hunit hl
    omega
  rw [linkCount_countFor, if_pos rfl, hlanes]

/-- A replay of a lane counts once for its Phoulaip link. -/
theorem linkCount_of_lane (s : State) {lane : Nat} (h : lane < serdesBase) :
    (s.countFor (4 * 2 ^ 48 + lane)).linkCount 0 (lane / 16) = s.linkCount 0 (lane / 16) + 1 := by
  have hkey : (16 + 0) * 2 ^ 48 + lane / 16 ≠ 4 * 2 ^ 48 + lane := by
    unfold serdesBase at h
    omega
  have hmem : 4 * 2 ^ 48 + lane ∈ (lanesOfLink 0 (lane / 16)).map (4 * 2 ^ 48 + ·) :=
    List.mem_map.mpr ⟨lane, List.mem_map.mpr ⟨lane % 16, List.mem_range.mpr (Nat.mod_lt _ (by decide)), Nat.div_add_mod lane 16⟩, rfl⟩
  have hnodup : ((lanesOfLink 0 (lane / 16)).map (4 * 2 ^ 48 + ·)).Nodup :=
    (List.nodup_range.map (add_right_injective _)).map (add_right_injective _)
  rw [linkCount_countFor, if_neg hkey, List.count_eq_one_of_mem hnodup hmem]

theorem exec_perHopReplay (s : State) {port : Nat} (h : port < 24) : exec (.perHopReplay port) s =
    .next (if s.dev.fabric.announced.get false port = true then s.countFor (17 * 2 ^ 48 + port) else s) := by
  simp only [show exec (.perHopReplay port) s = execPerHopReplay port s from rfl, execPerHopReplay, h, decide_true, Bool.true_and]

/-- A replay beyond the lanes counts for the link of its kind, up or down (R374). -/
theorem exec_flitCrcReplay_link (s : State) {kind unit : Nat} (hkind : kind = 2 ∨ kind = 3) (hunit : unit < 2 ^ 16) :
    exec (.flitCrcReplay (kind * 2 ^ 16 + unit)) s = .next (s.countFor ((16 + kind) * 2 ^ 48 + unit)) := by
  have hlane : ¬ kind * 2 ^ 16 + unit < serdesBase := by
    unfold serdesBase
    omega
  have hdiv : (kind * 2 ^ 16 + unit) / 2 ^ 16 = kind := by omega
  have hmod : (kind * 2 ^ 16 + unit) % 2 ^ 16 = unit := by omega
  simp only [show exec (.flitCrcReplay (kind * 2 ^ 16 + unit)) s = execFlitCrcReplay (kind * 2 ^ 16 + unit) s from rfl, execFlitCrcReplay,
    if_neg hlane, hdiv, hmod, Bool.or_eq_true, decide_eq_true_eq, if_pos hkind]

/-! ### What a port's partner announces (R374) -/

section
variable (s : State) {port : Nat} (h : port < 24)
include h

theorem exec_lldp_announced : exec (.lldpAnnouncement port true) s =
    .next (s.fabric fun f => { f with announced := f.announced.set false port true }) := by
  simp only [show exec (.lldpAnnouncement port true) s = execLldpAnnouncement port true s from rfl, execLldpAnnouncement,
    if_neg (Nat.not_le.mpr h), if_true]

/-- An announcement that is withdrawn is recorded (R384). -/
theorem exec_lldp_withdrawn : ∃ bytes, exec (.lldpAnnouncement port false) s =
    .next ((s.fabric fun f => { f with announced := f.announced.set false port false }).record 7 0 bytes) := by
  simp only [show exec (.lldpAnnouncement port false) s = execLldpAnnouncement port false s from rfl, execLldpAnnouncement,
    if_neg (Nat.not_le.mpr h), Bool.false_eq_true, if_false]
  exact ⟨_, rfl⟩

end

end Sys2Proof.GlobalProofs

open Sys2Proof.GlobalProofs

/-- Settles O46: a packet in its turn has its effect and is acknowledged, a contribution begins its use, a timeout ends a use, sends again
or has the connection fail, and each replay is counted once. -/
theorem fabricSteps : Obligations.FabricSteps := by
  intro s
  refine ⟨fun p c hin hlen hcolls hlate htasks hdir halone hseveral => ?packet, fun tag u hu hs ht => ?timeout,
    fun id c x hconns hid hup hx => ⟨fun hsends => ?again, fun hsends hreads hasids hw hcolls hev => ?fails⟩,
    fun id peer hrun hpeer hgroup hconns hout hev => ?opens, fun port hport => ⟨fun ha => ?replayed, fun ha => ?dropped, ?announced,
      fun hev => ?withdrawn⟩, fun lane hlane => ?lane, fun kind unit hkind hunit => ?link⟩
  case packet =>
    have hup : c.up = true := by
      obtain ⟨-, -, hup, -⟩ := hin
      exact hup
    obtain ⟨u, htake, htag, hcontribs, hsig, hparts⟩ := takeCollPacket_begins
      (s := s.fabric fun f => { f with conns := [{ c with rxNext := c.rxNext + 1 }] }) hcolls hlate htasks c.peer p.tag hdir halone hseveral
    refine ⟨_, u, exec_collPacket hin hlen htake, colls_reply .., htag, hcontribs, ?_, ?_,
      acknowledged_reply (k := { c with rxNext := c.rxNext + 1 }) rfl rfl hup rfl rfl, fun k => coreAt_reply ..⟩
    · rw [hsig]; exact headNum_one p.payload (by decide)
    · rw [hparts]; rfl
  case timeout =>
    refine ⟨s.abortUse u, collectiveTimeout_ends hu hs ht, ?_, fun k => ?_, ?_⟩
    · rw [State.abortUse, finishUse_dev]
      simp [Fabric.setUse, hu]
    · obtain ⟨-, hregs, hvault⟩ := keepsCore_finishUse s u (doneWithout 8) k
      exact ⟨hregs, hvault⟩
    · rw [State.abortUse, finishUse_dev]; rfl
  case again =>
    refine ⟨s.resend c fun y => y.seq == x.seq, ?_, resend_wire hx hsends, rfl, fun _ => rfl⟩
    rw [exec_retransmitTimeout hconns hid hup hx, if_neg (Nat.not_le.mpr hsends)]
  case fails =>
    obtain ⟨bytes, hfail⟩ := failConn_of_idle hw hcolls hasids c
    obtain ⟨hfabric, hrec⟩ := record_keeps (s.fabric fun f => closedFabric f c) 7 0 bytes
    refine ⟨_, ?_, ?_, hrec, ?_, ?_⟩
    · rw [exec_retransmitTimeout hconns hid hup hx, if_pos hsends, hfail]
    · rw [hfabric]; exact closedFabric_conn hconns id
    · exact record_sys_of_disabled (s := s.fabric fun f => closedFabric f c) hev 0 bytes
    · exact fun k => coreAt_record _ 7 0 bytes k
  case opens =>
    obtain ⟨bytes, hopen⟩ := exec_connectionOpen hrun hpeer hgroup hconns hout id
    obtain ⟨hfabric, hrec⟩ := record_keeps (s.fabric fun f => { f with conns := [freshConn id peer] }) 7 0 bytes
    exact ⟨_, freshConn id peer, hopen, congrArg Fabric.conns hfabric, rfl, rfl, rfl, rfl, rfl, hrec, fun k => coreAt_record _ 7 0 bytes k⟩
  case replayed =>
    refine ⟨s.countFor (17 * 2 ^ 48 + port), ?_, linkCount_of_link s (kind := 1) (by omega), fun _ => rfl, rfl⟩
    rw [exec_perHopReplay s hport, if_pos ha]
  case dropped => rw [exec_perHopReplay s hport, ha, if_neg Bool.false_ne_true]
  case announced => exact ⟨_, exec_lldp_announced s hport, Table.get_set_same false s.dev.fabric.announced port true, rfl, fun _ => rfl⟩
  case withdrawn =>
    obtain ⟨bytes, hex⟩ := exec_lldp_withdrawn s hport
    obtain ⟨hfabric, hrec⟩ := record_keeps (s.fabric fun f => { f with announced := f.announced.set false port false }) 7 0 bytes
    refine ⟨_, hex, ?_, hrec, fun k => coreAt_record _ 7 0 bytes k⟩
    rw [hfabric]; exact Table.get_set_same false s.dev.fabric.announced port false
  case lane =>
    refine ⟨s.countFor (4 * 2 ^ 48 + lane), ?_, ?_, linkCount_of_lane s hlane, fun _ => rfl, rfl⟩
    · exact congrArg Host.Outcome.next (if_pos hlane)
    · rw [State.corrections, State.corrections, unitKey, countFor_get, if_pos rfl]
  case link =>
    exact ⟨_, exec_flitCrcReplay_link s hkind hunit, linkCount_of_link s hunit, fun _ => rfl, rfl⟩
end
